-- ==== Sys2Proof/Word.lean ====
section
/-!
DEFINITION. The machine's words: 64-bit register values, 32-bit instruction words, bytes, and the location
numbers by which the model names a slot, a core, a cluster and a die of the pod.
-/

namespace Sys2Proof

/-- A 64-bit register value or address (R1). -/
abbrev Word := BitVec 64

/-- A 32-bit instruction word (R39). -/
abbrev IWord := BitVec 32

/-- A byte of memory (R1). -/
abbrev Byte := BitVec 8

/-- A vector register's 1,024 bits (R133). -/
abbrev VWord := BitVec 1024

/-- A 256-bit tile command word (R52). -/
abbrev TWord := BitVec 256

/-- A cause number of the trap chapter (R220). -/
abbrev Cause := Nat

end Sys2Proof
end

