-- ==== Sys2Proof/Packet.lean ====
section
/-!
DEFINITION. What travels between the parts of the pod: wick records, wicks on their way to a slot, and the
messages that the events of the opcode table carry.
-/

namespace Sys2Proof

/-- A 64-byte wick record (R80, Tables 5.1 and 5.2): words 0 and 1 and the carried registers g1 to g6. -/
structure WickRec where
  w0 : Word
  w1 : Word
  g1 : Word
  g2 : Word
  g3 : Word
  g4 : Word
  g5 : Word
  g6 : Word
  deriving DecidableEq, Repr, Inhabited

/-- The launch a wick belongs to (R93, R96): the launch's number and its 64-byte shape record. -/
structure LaunchTag where
  id : Nat
  shape : BitVec 512
  deriving DecidableEq, Repr, Inhabited

/-- The Taper entry a wick was dispatched from (R386): I/O die (dieKey), table entry and sequence number. -/
structure TaperTag where
  die : Nat
  entry : Nat
  seq : Nat
  deriving DecidableEq, Repr, Inhabited

/-- A wick outside a slot: its record with what the hardware carries beside it: a core tag (R102), as the core's
location number, its launch (R93), its Taper entry (R386), whether it comes from a peer (R97), the asid under which
that peer's grant has admitted it while it waits for a die (R277, R410), the tick of the model at which it has reached
the dispenser that it was dispatched to (R87), and the numbers of the stores, not yet performed, that precede its first
instruction where it next runs (R97, R164). -/
structure Wick where
  rcd : WickRec
  tag : Option Nat := none
  launch : Option LaunchTag := none
  taper : Option TaperTag := none
  fromPeer : Bool := false
  granted : Option Nat := none
  due : Nat := 0
  seen : List Nat := []
  deriving DecidableEq, Repr, Inhabited

/-- What an access does at its home. -/
inductive AccKind where
  | load
  | store
  /-- an atomic, by the operation code of fn[5:2] (R167); 11 is the abort of a wick record (R107) -/
  | atomic (op : Nat)
  deriving DecidableEq, Repr, Inhabited

/-- Where a loaded value goes: nowhere; a register number with width in bytes and sign extension; lane `i` of `bytes`
bytes of a vector register; 32-bit lane `i` that two bytes of a tolerant page widen into; or FP4 block `b` of a pair of
vector registers; or the 64 bytes of a record that a wick instruction goes on with (R279). -/
inductive RegDst where
  | none
  | reg (n : Nat) (bytes : Nat) (sx : Bool)
  | lane (v i bytes : Nat)
  | widen (v i : Nat)
  | block (v b : Nat)
  | line (pa : Nat)
  deriving DecidableEq, Repr, Inhabited

/-- A peer access on its way (R275): who asks and for which instruction, the destination's physical address, the
width, the operation with its operands, the flight it belongs to when relaxed, where the value goes, and the model's
number of a thread's store (R164). -/
structure PeerReq where
  src : Nat
  pc : Word
  asid : Nat
  wick : Nat
  pa : Nat
  n : Nat
  kind : AccKind
  v : Nat
  v2 : Nat
  flight : Option Nat
  dst : RegDst
  num : Nat := 0
  deriving DecidableEq, Repr, Inhabited

/-- Arrivals held by a stage or on their way to the master (R205): the line, the epoch, the asid and group, and how
many. -/
structure Arrival where
  line : Nat
  epoch : Nat
  asid : Nat
  grp : Nat
  n : Nat
  deriving DecidableEq, Repr, Inhabited

/-- The stages an arrival passes (R205), each with its unit's key. -/
inductive VStage where
  | core (k : Nat)
  | cluster (k : Nat)
  | die (k : Nat)
  deriving DecidableEq, Repr, Inhabited

/-- A wick a steal gives (R91): the wick, its level, and for a launch entry the ranks given, with `count` 0 for a
single wick. -/
structure StolenWick where
  w : Wick
  level : Nat
  first : Nat
  count : Nat
  deriving DecidableEq, Repr, Inhabited

/-- A register named by a debugger's read (R121). -/
inductive SideReg where
  | g (n : Nat)
  | h (n : Nat)
  | pred
  | vec (n : Nat)
  /-- a cochain register: word 0 in the low half, then word 1 -/
  | coch (n : Nat)
  /-- a row of an accumulator tile -/
  | acc (n row : Nat)
  | sys (sel : Nat)
  /-- a tile-ring descriptor t0 to t7, and a sparsity register z0 or z1 -/
  | ring (n : Nat)
  | sparse (n : Nat)
  /-- a word of the module's status region, by its offset (R415) -/
  | status (off : Nat)
  deriving DecidableEq, Repr, Inhabited

/-- What the refresh of a vector row finds (R134). -/
inductive RowError where
  | none
  | corrected
  | uncorrectable
  deriving DecidableEq, Repr, Inhabited

/-- A request to a memory controller's Lantern (R358): the stream and the installation of it that is bound (R359), the
asid, the physical address, the kind, and the bytes written. -/
structure LanternReq where
  stream : Nat
  inst : Nat := 0
  asid : Nat
  pa : Nat
  n : Nat
  store : Bool
  fmt : Nat
  data : List Byte
  deriving DecidableEq, Repr, Inhabited

/-- An event with its operands: the rows of the opcode table that have no encoding, each a step of the machine with
the unit it acts on and the message it carries. -/
inductive Event where
  /-- A write of the scheduler control word sets the low-water mark and triggers an occupancy comparison (R123). -/
  | schedWrite (die : Nat) (v : Nat)
  /-- A waiting enq rechecks ranges and room once room appears, then registers and queues (R195). -/
  | enqRoomRetry (slot : Nat)
  /-- Copy engine strided copy of up to four dimensions (R182). -/
  | copy (cluster : Nat) (op : Nat)
  /-- Copy engine row gather by an index list (R183). -/
  | gather (cluster : Nat) (op : Nat)
  /-- Copy engine row scatter by an index list (R183). -/
  | scatter (cluster : Nat) (op : Nat)
  /-- Copy engine fill with a pattern (R184). -/
  | fill (cluster : Nat) (op : Nat)
  /-- Copy with padding written around the interior (R185). -/
  | paddedCopy (cluster : Nat) (op : Nat)
  /-- Moves a matrix between strided and blocked layouts (R186). -/
  | blockedTransform (cluster : Nat) (op : Nat)
  /-- Sets the per-core deficit quanta of the copy engine (R178). -/
  | quantum (cluster : Nat) (op : Nat)
  /-- Deficit round-robin visit of one core granting its requests (R177). -/
  | engineGrantVisit (cluster : Nat) (core : Nat)
  /-- An engine operation ends, frees ranges, advances a ring head and writes its token (R189). -/
  | engineOpComplete (cluster : Nat) (op : Nat) (code : Nat)
  /-- Fabric engine carries bytes to a peer's home (R285). -/
  | fabricSend (cluster : Nat) (op : Nat)
  /-- Sends bytes to every member of a multicast entry snapshot (R287). -/
  | multicastStore (cluster : Nat) (op : Nat)
  /-- Merged member acknowledgements write the reply word and token (R287). -/
  | multicastReply (cluster : Nat) (op : Nat) (failed : Nat)
  /-- Asynchronous pack of cochain elements to a buffer (R326). -/
  | haloPack (cluster : Nat) (op : Nat)
  /-- Asynchronous unpack of a buffer into cochain elements (R326). -/
  | haloUnpack (cluster : Nat) (op : Nat)
  /-- Queued install of a Lantern image (R377). -/
  | lanternInstallCmd (cluster : Nat) (op : Nat)
  /-- Queued drop of a stream slot (R377). -/
  | lanternDropCmd (cluster : Nat) (op : Nat)
  /-- Queued reset of all stream slots (R377). -/
  | lanternResetCmd (cluster : Nat) (op : Nat)
  /-- Queued Taper load (R398). -/
  | taperLoadCmd (cluster : Nat) (op : Nat)
  /-- Queued Taper go (R398). -/
  | taperGoCmd (cluster : Nat) (op : Nat)
  /-- Queued Taper halt (R398). -/
  | taperHaltCmd (cluster : Nat) (op : Nat)
  /-- The die scheduler dispatches a ready wick to a cluster dispenser (R87). -/
  | schedDispatch (die : Nat)
  /-- A neighbour die takes a steal request and gives up to half its lowest-level stealable wicks (R91). -/
  | stealRequest (thief : Nat) (victim : Nat) (room : Nat)
  /-- The thief appends stolen wicks to its reserved entries (R91). -/
  | stealReply (thief : Nat) (victim : Nat) (given : List StolenWick)
  /-- 4,096 scheduler cycles after an empty round, the die compares again (R91). -/
  | stealBackoffEnd (die : Nat)
  /-- A cluster dispenser passes its oldest placeable wick to a core (R92). -/
  | dispenserPass (cluster : Nat)
  /-- A wick enters a slot, loading registers and shadow formats (R83). -/
  | wickEntry (slot : Nat)
  /-- An arriving wick packet enters the dispenser or the reserved ready-queue entries (R103). -/
  | migrationArrival (cluster : Nat) (w : Wick) (srcDev : Nat) (srcDie : Nat)
  /-- A wick refused by a peer returns to the source failure list with cause 0x91 (R103). -/
  | wickRefusalReturn (die : Nat) (w : Wick) (cause : Nat)
  /-- A slot empty for 16,384 cycles is gated (R120). -/
  | slotGating (slot : Nat)
  /-- Refresh of one vector file row (R134). -/
  | vectorRefresh (slot : Nat) (row : Nat) (err : RowError)
  /-- A neighbour's word enters a core's receive queue (R116). -/
  | portWordArrival (core : Nat) (w : Word)
  /-- A plain access completes and its slot rejoins the rotation (R159). -/
  | accessComplete (slot : Nat) (dst : RegDst) (v : Nat)
  /-- A relaxed access lands and clears its pending register (R160): the answer from a home's address, or, with no
  value, its requests within the module. -/
  | relaxedAccessComplete (core : Nat) (flight : Nat) (pa : Nat) (dst : RegDst) (v : Option Nat)
  /-- A word reservation passes to the next queued requester with the current value (R168). -/
  | atomicReservationGrant (dev : Nat) (word : Nat)
  /-- A monitor wait's timeout expires (R171). -/
  | monWaitTimeout (slot : Nat)
  /-- A destination checks an arriving peer access against its grant table (R277). -/
  | peerAccess (q : PeerReq)
  /-- A peer acknowledges a store (R173). -/
  | peerAck (q : PeerReq)
  /-- A refusal message reaches the source and fills the deferred-fault latch or is logged (R278). -/
  | peerRefusal (q : PeerReq)
  /-- A fence marker reaches the destination and clears its fault fence (R278). -/
  | fenceMarker (dev : Nat) (src : Nat)
  /-- A peer leaves the pod, failing outstanding plain accesses with 0x92 (R279). -/
  | peerLeft (dev : Nat) (peer : Nat)
  /-- Static channels to a device train and it becomes a pod member (R273). -/
  | linkTrained (dev : Nat) (peer : Nat)
  /-- A Lantern takes a request into stage 0 and applies its stream (R358). -/
  | lanternRequest (dev : Nat) (stack : Nat) (ctl : Nat) (q : LanternReq)
  /-- The Lantern atomic unit executes a near-memory atomic (R371). -/
  | lanternAtomic (dev : Nat) (stack : Nat) (ctl : Nat) (q : PeerReq)
  /-- Every 2^24 controller cycles the hot-page list is written and the sketch cleared (R263). -/
  | beaconInterval (dev : Nat) (stack : Nat) (ctl : Nat)
  /-- The master applies an arrival count to a vigil (R204). -/
  | vigilArrivalMessage (die : Nat) (a : Arrival)
  /-- The master applies an engine byte decrement to a vigil (R206). -/
  | vigilByteDecrement (die : Nat) (line : Nat) (bytes : Nat) (cluster : Nat) (op : Nat)
  /-- Each die breaks armed vigils of a failed group (R208). -/
  | groupBreakNotice (die : Nat) (asid : Nat) (grp : Nat) (cause : Nat)
  /-- A notice of an opened or broken vigil wakes waiting slots (R204). -/
  | vigilNotice (die : Nat) (line : Nat)
  /-- A core, cluster or die stage forwards merged arrivals (R205). -/
  | arrivalForward (stage : VStage) (a : Arrival)
  /-- 4,096 cycles after a stage's first held arrival, it forwards them (R205). -/
  | arrivalForwardTimeout (stage : VStage) (a : Arrival)
  /-- A failed wick's record goes to its die's failure list (R231). -/
  | wickFailure (die : Nat) (w : Wick)
  /-- Software advances the tail and buffered records move into the ring (R233). -/
  | failureListTailAdvance (die : Nat) (tail : Nat)
  /-- An error in a core's logic fences the core and fails its wicks one by one (R235). -/
  | coreError (slot : Nat)
  /-- The service core marks one scratchpad bank as failed (R152). -/
  | bankFailMark (cluster : Nat) (bank : Nat)
  /-- Firmware re-admits a tested fenced core (R412). -/
  | coreReadmit (core : Nat)
  /-- The service core posts 0xC0 to every slot of a core (R239). -/
  | preemptionRequest (core : Nat) (line : Word)
  /-- The service core withdraws 0xC0 at the end of a pre-emption (R238). -/
  | preemptionWithdraw (core : Nat)
  /-- A host doorbell write posts 0xC1 to a service core (R408). -/
  | hostDoorbell (dev : Nat) (c : Nat) (v : Word)
  /-- The service core posts 0xC2 to a core (R236). -/
  | serviceSignal (core : Nat) (v : Word)
  /-- The management sideband posts a debug halt 0xC3 (R236). -/
  | debugHalt (core : Nat)
  /-- The sideband ends the halt and held slots rejoin the rotation (R238). -/
  | debugHaltEnd (core : Nat)
  /-- A slot takes a pending interrupt at its issue turn (R237). -/
  | interruptTake (slot : Nat)
  /-- A debugger read of a register over the I3C sideband (R121). -/
  | sidebandRead (slot : Nat) (reg : SideReg)
  /-- A head packet stalled 65,536 interposer cycles moves to the escape channel (R271). -/
  | escapeTimeout (die : Nat)
  /-- A slot entry's guard ends and enabled lasers start sending (R282). -/
  | slotGuardEnd (die : Nat)
  /-- A slot entry closes at dur and the next entry opens (R282). -/
  | slotDurationExpiry (die : Nat)
  /-- A slot entry closes early when its served queues are empty (R282). -/
  | slotQueuesEmpty (die : Nat)
  /-- The eligible head entry is dispatched as a wick, or a bubble is counted (R386). -/
  | taperDispatch (die : Nat)
  /-- A tagged wick's entry ends, updating stash and sending arrival and free-slot messages (R388). -/
  | taperEntryEnd (t : TaperTag)
  /-- An arrival message advances arr of an input ring (R384). -/
  | taperArrival (die : Nat) (src : Nat) (ring : Nat)
  /-- A free-slot count adds 1 to an output channel's credit (R388). -/
  | taperFreeSlotCount (die : Nat) (src : Nat) (ring : Nat)
  /-- A die's power demand changes, leading to borrowing, repayment, recall or throttling (R404). -/
  | demandChange (die : Nat) (demand : Nat)
  /-- A neighbour takes a borrow request and lends unused own units (R404). -/
  | powerBorrowRequest (borrower : Nat) (lender : Nat) (units : Nat)
  /-- Lent units reach the borrowing die (R404); the lender numbers the loan. -/
  | powerLend (borrower : Nat) (lender : Nat) (units : Nat) (loan : Nat)
  /-- Repaid units of a loan reach the lender, which may have recalled them (R405). -/
  | powerRepay (borrower : Nat) (lender : Nat) (units : Nat) (loan : Nat) (recalled : Bool)
  /-- A borrower receives a recall of units of a loan and reduces its draw (R405). -/
  | powerRecall (borrower : Nat) (lender : Nat) (units : Nat) (loan : Nat)
  /-- The host writes the launch queue tail (R409). -/
  | launchTailWrite (die : Nat) (tail : Nat)
  /-- The die takes, checks and places one launch queue entry and advances head (R409). -/
  | launchEntryTake (die : Nat)
  /-- The host writes the request word with go set (R413); or the management sideband asks, with a nonce of its own
  (R414). -/
  | attestationRequest (dev : Nat) (v : Word) (side : Option (List Byte))
  /-- A die's signed report arrives and is written to the status region, or goes to the sideband (R414). -/
  | attestationAnswer (dev : Nat) (die : Nat) (side : Option (List Byte))
  /-- A host write to a status or launch register with no behaviour of its own (R413). -/
  | hostRegisterWrite (dev : Nat) (off : Nat) (v : Word)
  /-- A die leaves reset, verifies its firmware image and sets its ready bits (R410): the image, whether its self-test
  passes, and whether each end of a stack's link finds the other's signature over its share good (R415). -/
  | dieReset (die : Nat) (image : List Byte) (tested : Bool) (signed : Bool)
  /-- A link flit fails authentication and is dropped and retried (R415). -/
  | flitAuthFail (die : Nat) (link : Nat)
  /-- An instruction word with an unassigned major opcode, unassigned function code or a non-zero required-zero field is issued and raises its decode cause (R48). -/
  | illegalInstruction (w : IWord) (l1 : IWord) (l2 : IWord)
  /-- An instruction fetch that missed the instruction cache, or a near-window fetch, returns its words, raising a fetch fault or error if any, and the slot rejoins the rotation (R85). -/
  | instructionCacheMissFill (slot : Nat)
  /-- A started matrix operation finishes after its cycles, writes the accumulator, frees its ranges, pops its rings as a release and lets the unit start the next ready instruction (R346). -/
  | matrixOperationRetire (core : Nat)
  /-- The PCI Express/CXL host link of X0 or X2 finishes training or drops, setting its ready bit and steering host-memory accesses between X0 and X2 (R407). -/
  | hostLinkTrained (die : Nat) (up : Bool)
  deriving DecidableEq, Repr, Inhabited

end Sys2Proof
end

