-- ==== Sys2Proof/Config.lean ====
section
/-!
DEFINITION. What the implementation fixes and the free values: values the spec leaves open or does not give, as
constants without a body, so that no proof can lean on a choice (notes/assumptions 5 and 6).
-/

namespace Sys2Proof.Config

/-- What is fused in a die (R410, R414): the public keys of Sahhorn's firmware; and by module and socket, the interposer's
being 24, the 57-byte secret of the identity key and the root key's signature of its public key. -/
opaque firmwareKeys : Nat → List (List Byte)
opaque identitySecret : Nat → Nat → List Byte
opaque certificate : Nat → Nat → List Byte
/-- The Sahhorn root public key (R414, R415). -/
opaque rootKey : List Byte
/-- The configuration of a module's interposer routers, as the interposer measures it (R415). -/
opaque routerConfig : Nat → List Byte
/-- Bits of a stack's random source, fresh for each number of `State.freeCtr` (R411, R415). -/
opaque randomBits : Nat → BitVec 512

/-- The values of Table 23.5 that firmware sets at bring-up: the failure list of a compute die, as its base div 64 and
its size as 2 to the power of 6 plus this number (at most 14); the walk template and the asid table base of a cluster;
the Beacon base of a module div 2 KiB. -/
opaque failBase : Nat → Nat
opaque failSize : Nat → Nat
opaque walkTemplate : Nat → WickRec
opaque asidBase : Nat → Nat
opaque beaconBase : Nat → Nat

/-- The bytes of the stream images that Sahhorn ships, by identifier, where Table 20.5 does not fix them: the stages, the
word of the side word and the lookup table (R372). -/
opaque shippedImage : Nat → List Byte

/-- Whether a compute die that throttles withholds the issue cycle of a number (R406). -/
opaque withheld : Nat → Nat → Bool

/-- A value the spec states no result for, fresh for each number of `State.freeCtr`. -/
opaque freeValue : Nat → BitVec 64

end Sys2Proof.Config
end

