-- ==== Sys2Proof/Syntax.lean ====
section
/-!
DEFINITION. The instructions and events of the opcode table, one constructor per row: the encoded instructions with
the fields of their format (R40, Table 3.1), and the machine's own steps, whose operands stand in
the state (`Event`, Sys2Proof/Packet.lean).
-/

namespace Sys2Proof

/-- A source field of formats A, I, S and E (R41, Table 3.2): a register number, or a literal that follows the word
(codes 30 and 31). -/
inductive Src where
  | reg (n : BitVec 5)
  | lit32 (v : BitVec 32)
  | lit64 (v : BitVec 64)
  deriving DecidableEq, Repr, Inhabited

/-- Format A without further options: dst, sa, sb and the guard. -/
structure FmtA where
  d : BitVec 5
  a : Src
  b : Src
  p : BitVec 4
  deriving DecidableEq, Repr, Inhabited

/-- Format A with a rounding code (fpu, fpd). -/
structure FmtF extends FmtA where
  rm : BitVec 2
  deriving DecidableEq, Repr, Inhabited

/-- Format A with a compare type (cmp). -/
structure FmtC extends FmtA where
  t : BitVec 3
  deriving DecidableEq, Repr, Inhabited

/-- Format A of ld and st: relaxed, sign-extending, and the width code. -/
structure FmtL extends FmtA where
  rel : Bool
  sx : Bool
  w : BitVec 2
  deriving DecidableEq, Repr, Inhabited

/-- Format A of acquire loads and release stores: width d or w, and the scope code. -/
structure FmtQ extends FmtA where
  dbl : Bool
  scope : BitVec 4
  deriving DecidableEq, Repr, Inhabited

/-- Format A of atomics: width d or w, and relaxed. -/
structure FmtN extends FmtA where
  dbl : Bool
  rel : Bool
  deriving DecidableEq, Repr, Inhabited

/-- Format A of fences: the scope code. -/
structure FmtZ extends FmtA where
  scope : BitVec 4
  deriving DecidableEq, Repr, Inhabited

/-- Format I: dst, sa and a 15-bit immediate; no guard. -/
structure FmtI where
  d : BitVec 5
  a : Src
  imm : BitVec 15
  deriving DecidableEq, Repr, Inhabited

/-- Format B: the guard and a 20-bit word offset. -/
structure FmtB where
  p : BitVec 4
  off : BitVec 20
  deriving DecidableEq, Repr, Inhabited

/-- Format S: dst, sa, an 11-bit selector and the guard. -/
structure FmtS where
  d : BitVec 5
  a : Src
  sel : BitVec 11
  p : BitVec 4
  deriving DecidableEq, Repr, Inhabited

/-- Format V: three 4-bit register fields, the guard and the element type. -/
structure FmtV where
  d : BitVec 4
  a : BitVec 4
  b : BitVec 4
  p : BitVec 4
  t : BitVec 3
  deriving DecidableEq, Repr, Inhabited

/-- Format K: three cochain fields, the guard and the md field. -/
structure FmtK where
  d : BitVec 3
  a : BitVec 3
  b : BitVec 3
  p : BitVec 4
  md : BitVec 4
  deriving DecidableEq, Repr, Inhabited

/-- Format M: the accumulator and two rings, the guard and the mx field. -/
structure FmtM where
  d : BitVec 2
  a : BitVec 3
  b : BitVec 3
  p : BitVec 4
  mx : BitVec 8
  deriving DecidableEq, Repr, Inhabited

/-- Format E: the token register, the command's offset, the engine queue and the guard. -/
structure FmtE where
  tok : BitVec 5
  a : Src
  eq : BitVec 5
  p : BitVec 4
  deriving DecidableEq, Repr, Inhabited

/-- Every row of the opcode table. -/
inductive Instr where
  /-- Integer add of two 64-bit operands modulo 2^64 (R125). -/
  | aluAdd (x : FmtA)
  /-- Integer subtract modulo 2^64 (R125). -/
  | aluSub (x : FmtA)
  /-- Low 64 bits of the product (R125). -/
  | aluMul (x : FmtA)
  /-- High 64 bits of the signed 128-bit product (R125). -/
  | aluMulh (x : FmtA)
  /-- High 64 bits of the unsigned 128-bit product (R125). -/
  | aluMulhz (x : FmtA)
  /-- Signed division truncated toward zero; divide by zero traps 0x63 (R126). -/
  | aluDiv (x : FmtA)
  /-- Unsigned division; divide by zero traps 0x63 (R126). -/
  | aluDivz (x : FmtA)
  /-- Signed remainder with the sign of the dividend; divide by zero traps 0x63 (R126). -/
  | aluRem (x : FmtA)
  /-- Unsigned remainder; divide by zero traps 0x63 (R126). -/
  | aluRemz (x : FmtA)
  /-- Bitwise AND (R125). -/
  | aluAnd (x : FmtA)
  /-- Bitwise OR (R125). -/
  | aluOr (x : FmtA)
  /-- Bitwise XOR (R125). -/
  | aluXor (x : FmtA)
  /-- a AND NOT b (R125). -/
  | aluAndn (x : FmtA)
  /-- Shift left by the low 6 bits of b (R125). -/
  | aluShl (x : FmtA)
  /-- Logical shift right by the low 6 bits of b (R125). -/
  | aluShr (x : FmtA)
  /-- Arithmetic shift right by the low 6 bits of b (R125). -/
  | aluSra (x : FmtA)
  /-- Signed minimum (R125). -/
  | aluMin (x : FmtA)
  /-- Signed maximum (R125). -/
  | aluMax (x : FmtA)
  /-- Unsigned minimum (R125). -/
  | aluMinz (x : FmtA)
  /-- Unsigned maximum (R125). -/
  | aluMaxz (x : FmtA)
  /-- Saturating signed add that sets sat when clamped (R125). -/
  | aluAdds (x : FmtA)
  /-- Saturating signed subtract that sets sat when clamped (R125). -/
  | aluSubs (x : FmtA)
  /-- Count of leading zero bits (R125). -/
  | aluClz (x : FmtA)
  /-- Count of trailing zero bits (R125). -/
  | aluCtz (x : FmtA)
  /-- Count of one bits (R125). -/
  | aluPopc (x : FmtA)
  /-- Add of a sign-extended 15-bit immediate (R127). -/
  | aluiAdd (x : FmtI)
  /-- AND with a sign-extended immediate (R127). -/
  | aluiAnd (x : FmtI)
  /-- OR with a sign-extended immediate (R127). -/
  | aluiOr (x : FmtI)
  /-- XOR with a sign-extended immediate (R127). -/
  | aluiXor (x : FmtI)
  /-- Shift left by a 6-bit immediate count (R127). -/
  | aluiShl (x : FmtI)
  /-- Logical shift right by a 6-bit immediate count (R127). -/
  | aluiShr (x : FmtI)
  /-- Arithmetic shift right by a 6-bit immediate count (R127). -/
  | aluiSra (x : FmtI)
  /-- Multiply by a sign-extended immediate (R127). -/
  | aluiMul (x : FmtI)
  /-- FP32 add, rounded under rm (R128). -/
  | fpuAdd (x : FmtF)
  /-- FP32 subtract (R128). -/
  | fpuSub (x : FmtF)
  /-- FP32 multiply (R128). -/
  | fpuMul (x : FmtF)
  /-- FP32 divide, setting dz or nv as given (R128). -/
  | fpuDiv (x : FmtF)
  /-- FP32 square root (R128). -/
  | fpuSqrt (x : FmtF)
  /-- FP32 fused z + x*y with one rounding (R128). -/
  | fpuFma (x : FmtF)
  /-- FP32 fused z - x*y with one rounding (R128). -/
  | fpuFms (x : FmtF)
  /-- FP32 minimum, setting no flag (R128). -/
  | fpuMin (x : FmtA)
  /-- FP32 maximum, setting no flag (R128). -/
  | fpuMax (x : FmtA)
  /-- FP32 absolute value (R128). -/
  | fpuAbs (x : FmtA)
  /-- FP32 negation (R128). -/
  | fpuNeg (x : FmtA)
  /-- FP32 to INT64 conversion under rm (R128). -/
  | fpuCvti (x : FmtF)
  /-- INT64 to FP32 conversion (R128). -/
  | fpuCvtf (x : FmtF)
  /-- FP64 to FP32 narrowing (R128). -/
  | fpuCvtw (x : FmtF)
  /-- FP32 to BF16 conversion (R128). -/
  | fpuCvtb (x : FmtF)
  /-- FP32 to FP8 E4M3 conversion, saturating (R128). -/
  | fpuCvt8 (x : FmtF)
  /-- FP64 add (R128). -/
  | fpdAdd (x : FmtF)
  /-- FP64 subtract (R128). -/
  | fpdSub (x : FmtF)
  /-- FP64 multiply (R128). -/
  | fpdMul (x : FmtF)
  /-- FP64 divide (R128). -/
  | fpdDiv (x : FmtF)
  /-- FP64 square root (R128). -/
  | fpdSqrt (x : FmtF)
  /-- FP64 fused multiply-add (R128). -/
  | fpdFma (x : FmtF)
  /-- FP64 fused multiply-subtract (R128). -/
  | fpdFms (x : FmtF)
  /-- FP64 minimum (R128). -/
  | fpdMin (x : FmtA)
  /-- FP64 maximum (R128). -/
  | fpdMax (x : FmtA)
  /-- FP64 absolute value (R128). -/
  | fpdAbs (x : FmtA)
  /-- FP64 negation (R128). -/
  | fpdNeg (x : FmtA)
  /-- FP64 to INT64 conversion (R128). -/
  | fpdCvti (x : FmtF)
  /-- INT64 to FP64 conversion (R128). -/
  | fpdCvtf (x : FmtF)
  /-- FP32 widened exactly to FP64 (R128). -/
  | fpdCvtw (x : FmtF)
  /-- FP64 to BF16 conversion (R128). -/
  | fpdCvtb (x : FmtF)
  /-- FP64 to FP8 E4M3 conversion (R128). -/
  | fpdCvt8 (x : FmtF)
  /-- Writes a predicate pair from an equality compare (R129). -/
  | cmpEq (x : FmtC)
  /-- Writes a predicate pair from an inequality compare (R129). -/
  | cmpNe (x : FmtC)
  /-- Writes a predicate pair from a less-than compare (R129). -/
  | cmpLt (x : FmtC)
  /-- Writes a predicate pair from a greater-or-equal compare (R129). -/
  | cmpGe (x : FmtC)
  /-- Unsigned less-than compare into a predicate pair (R129). -/
  | cmpLo (x : FmtC)
  /-- Unsigned higher-or-same compare into a predicate pair (R129). -/
  | cmpHs (x : FmtC)
  /-- Unordered floating compare into a predicate pair (R129). -/
  | cmpUn (x : FmtC)
  /-- Copies a register (R130). -/
  | movCp (x : FmtA)
  /-- Reads the predicate word (R130). -/
  | movRdp (x : FmtA)
  /-- Writes predicates under a mask (R130). -/
  | movWrp (x : FmtA)
  /-- Sign-extends a byte (R130). -/
  | movSxb (x : FmtA)
  /-- Sign-extends a halfword (R130). -/
  | movSxh (x : FmtA)
  /-- Sign-extends a word (R130). -/
  | movSxw (x : FmtA)
  /-- Zero-extends a byte (R130). -/
  | movZxb (x : FmtA)
  /-- Zero-extends a halfword (R130). -/
  | movZxh (x : FmtA)
  /-- Zero-extends a word (R130). -/
  | movZxw (x : FmtA)
  /-- Reads and optionally writes a system register selected by sel, as one exchange (R122). -/
  | sysRw (x : FmtS)
  /-- A write of the scheduler control word sets the low-water mark and triggers an occupancy comparison (R123). -/
  | schedWrite
  /-- Guarded PC-relative branch (R98). -/
  | br (x : FmtB)
  /-- Guarded PC-relative branch that writes the link into g15 and marks cvm registers dead (R98). -/
  | brLink (x : FmtB)
  /-- Register jump to g[sa]+g[sb]; a return when sa is 15 (R99). -/
  | jmpJr (x : FmtA)
  /-- Register jump that writes the link through dst (R99). -/
  | jmpJl (x : FmtA)
  /-- Reads a record atomically and makes it a ready wick if its state is 00 or 01 (R101). -/
  | wkSpawn (x : FmtA)
  /-- Moves the running wick to the core or cluster owning an address (R102). -/
  | wkMigr (x : FmtA)
  /-- Retires the wick and holds the slot for the next wick (R104). -/
  | wkWaitw (x : FmtA)
  /-- Writes the running wick's record in state 01 (or 10 when parked) and empties the slot (R105). -/
  | wkSusp (x : FmtA)
  /-- Passes the suspension point and retires the wick (R106). -/
  | wkDone (x : FmtA)
  /-- Aborts the running wick, sending its record to the failure list (R107). -/
  | wkSnuffSelf (x : FmtA)
  /-- Atomically marks a record in memory failed if it is ready or suspended (R107). -/
  | wkSnuff (x : FmtA)
  /-- Reads a launch descriptor and places its rank entries on the participating dies (R108). -/
  | wkLaunch (x : FmtA)
  /-- Sets the running wick's priority and returns the old one (R109). -/
  | wkPrio (x : FmtA)
  /-- Plain or relaxed load of 1, 2, 4 or 8 bytes, optionally sign-extended (R165). -/
  | ld (x : FmtL)
  /-- Acquire load of 4 or 8 bytes at a scope (R165). -/
  | ldAcq (x : FmtQ)
  /-- Plain or relaxed store of 1, 2, 4 or 8 bytes (R165). -/
  | st (x : FmtL)
  /-- Release store of 4 or 8 bytes at a scope, waiting for earlier accesses in reach (R163). -/
  | stRel (x : FmtQ)
  /-- Atomic integer add returning the old value (R167). -/
  | amoAdd (x : FmtN)
  /-- Atomic AND (R167). -/
  | amoAnd (x : FmtN)
  /-- Atomic OR (R167). -/
  | amoOr (x : FmtN)
  /-- Atomic XOR (R167). -/
  | amoXor (x : FmtN)
  /-- Atomic signed minimum (R167). -/
  | amoMin (x : FmtN)
  /-- Atomic signed maximum (R167). -/
  | amoMax (x : FmtN)
  /-- Atomic unsigned minimum (R167). -/
  | amoMinz (x : FmtN)
  /-- Atomic unsigned maximum (R167). -/
  | amoMaxz (x : FmtN)
  /-- Atomic swap (R167). -/
  | amoSwap (x : FmtN)
  /-- Atomic compare-and-swap using dst and dst+1 (R167). -/
  | amoCas (x : FmtN)
  /-- Atomic floating add rounded RNE (R167). -/
  | amoFadd (x : FmtN)
  /-- Every earlier access performed at the scope before any later access (R169). -/
  | fenceAll (x : FmtZ)
  /-- Earlier stores and atomics performed before later stores leave (R169). -/
  | fenceSt (x : FmtZ)
  /-- Earlier loads and atomics bound before any later access (R169). -/
  | fenceLd (x : FmtZ)
  /-- Arms a monitor on a line and returns its index (R170). -/
  | monArm (x : FmtA)
  /-- Frees a monitor (R170). -/
  | monDis (x : FmtA)
  /-- Waits until a fired bit is set or the timeout passes (R171). -/
  | monWait (x : FmtA)
  /-- Clears fired bits under a mask (R170). -/
  | monClr (x : FmtA)
  /-- Lane-wise add (R137). -/
  | vecAdd (x : FmtV)
  /-- Lane-wise subtract (R137). -/
  | vecSub (x : FmtV)
  /-- Lane-wise multiply (R137). -/
  | vecMul (x : FmtV)
  /-- Lane-wise fused multiply-add into vd (R137). -/
  | vecFma (x : FmtV)
  /-- Lane-wise minimum (R137). -/
  | vecMin (x : FmtV)
  /-- Lane-wise maximum (R137). -/
  | vecMax (x : FmtV)
  /-- Lane-wise absolute value (R137). -/
  | vecAbs (x : FmtV)
  /-- Lane-wise negation (R137). -/
  | vecNeg (x : FmtV)
  /-- Lane-wise AND on integer lanes (R137). -/
  | vecAnd (x : FmtV)
  /-- Lane-wise OR on integer lanes (R137). -/
  | vecOr (x : FmtV)
  /-- Lane-wise XOR on integer lanes (R137). -/
  | vecXor (x : FmtV)
  /-- Lane-wise shift left (R137). -/
  | vecShl (x : FmtV)
  /-- Lane-wise logical shift right (R137). -/
  | vecShr (x : FmtV)
  /-- Lane-wise arithmetic shift right (R137). -/
  | vecSra (x : FmtV)
  /-- Bitwise select under the mask in vd (R137). -/
  | vecSel (x : FmtV)
  /-- Lane shuffle by indices in vb (R138). -/
  | vecShuf (x : FmtV)
  /-- Broadcasts lane 0 to every lane (R137). -/
  | vecBcast (x : FmtV)
  /-- Pairwise-tree sum of all lanes (R139). -/
  | vecRsum (x : FmtV)
  /-- Tree maximum of all lanes (R139). -/
  | vecRmax (x : FmtV)
  /-- Tree minimum of all lanes (R139). -/
  | vecRmin (x : FmtV)
  /-- Converts lanes between types, widening or narrowing over register groups (R140). -/
  | vecCvt (x : FmtV)
  /-- Applies block scales while widening FP8 or FP4 lanes to FP32 (R141). -/
  | vecScale (x : FmtV)
  /-- Lane-wise equality mask (R142). -/
  | vecCeq (x : FmtV)
  /-- Lane-wise less-than mask (R142). -/
  | vecClt (x : FmtV)
  /-- Contiguous plain vector load (R143). -/
  | vldC (x : FmtV)
  /-- Strided plain vector load (R143). -/
  | vldS (x : FmtV)
  /-- Contiguous relaxed vector load (R146). -/
  | vldCR (x : FmtV)
  /-- Strided relaxed vector load (R146). -/
  | vldSR (x : FmtV)
  /-- Contiguous plain vector store (R143). -/
  | vstC (x : FmtV)
  /-- Strided plain vector store (R143). -/
  | vstS (x : FmtV)
  /-- Contiguous relaxed vector store (R146). -/
  | vstCR (x : FmtV)
  /-- Strided relaxed vector store (R146). -/
  | vstSR (x : FmtV)
  /-- Gathers 32 words by index, walking on misses (R197). -/
  | vgthG (x : FmtV)
  /-- Gathers lanes that hit the TLBs, starts fills for the rest and sets p14/p15 (R197). -/
  | vgthGt (x : FmtV)
  /-- Queues a TCW to an engine queue, waiting for room (R195). -/
  | enqWt (x : FmtE)
  /-- Queues a TCW or writes token code 0x01 when there is no room (R195). -/
  | enqTry (x : FmtE)
  /-- A waiting enq rechecks ranges and room once room appears, then registers and queues (R195). -/
  | enqRoomRetry
  /-- Arms a vigil line with arrival and byte counts (R211). -/
  | vgInit (x : FmtA)
  /-- Sets the wick's group (R212). -/
  | vgJoin (x : FmtA)
  /-- Clears the wick's group (R212). -/
  | vgLeave (x : FmtA)
  /-- Releases and hands one arrival to the core stage (R213). -/
  | vgArr (x : FmtA)
  /-- Waits until the vigil opens or breaks and acquires (R213). -/
  | vgWait (x : FmtA)
  /-- Arrives and then waits on the vigil (R213). -/
  | vgArrw (x : FmtA)
  /-- Sends a break for a named vigil to its master (R214). -/
  | vgBrk (x : FmtA)
  /-- With sa = g0, sends a group break notice for the wick's group (R214). -/
  | vgBrkGroup (x : FmtA)
  /-- Loads one word of a vigil line as an acquire (R215). -/
  | vgStat (x : FmtA)
  /-- Raises a software trap cause 0xE0 | code (R243). -/
  | trapSw (x : FmtA)
  /-- Returns from the system handler to tepc, restoring mode and ie (R244). -/
  | trapRet (x : FmtA)
  /-- Raises breakpoint cause 0x0F (R245). -/
  | trapBrk (x : FmtA)
  /-- Exchanges tmask under a mask (R246). -/
  | trapMsk (x : FmtA)
  /-- Writes or refuses a cluster TLB entry and answers the matching misses (R265). -/
  | tlbFill (x : FmtA)
  /-- Removes entries covering a range from every TLB and instruction cache of the module (R266). -/
  | tlbInvr (x : FmtA)
  /-- Removes every entry of an asid, or of all asids (R266). -/
  | tlbInva (x : FmtA)
  /-- Probes the cluster TLB or reads its counters (R267). -/
  | tlbPrb (x : FmtA)
  /-- Admits a reserved stream connection (R289). -/
  | fabConn (x : FmtA)
  /-- Frees a connection register after its packets are delivered (R289). -/
  | fabClose (x : FmtA)
  /-- Installs a new optical slot table on all I/O dies (R290). -/
  | fabSlot (x : FmtA)
  /-- Reads a fabric status value (R291). -/
  | fabStat (x : FmtA)
  /-- Writes a grant or multicast table entry (R292). -/
  | fabGnt (x : FmtA)
  /-- Checks and installs a Lantern configuration image in a slot module-wide (R374). -/
  | lanInst (x : FmtA)
  /-- Empties a stream slot module-wide (R375). -/
  | lanDrop (x : FmtA)
  /-- Reads a Lantern slot or counter (R376). -/
  | lanStat (x : FmtA)
  /-- Empties slots 1-15 and clears Lantern counters (R375). -/
  | lanDflt (x : FmtA)
  /-- Reads, checks and installs a Taper control block and table (R395). -/
  | tapLoad (x : FmtA)
  /-- Starts Taper dispatch under an asid (R396). -/
  | tapGo (x : FmtA)
  /-- Stops Taper dispatch (R396). -/
  | tapHalt (x : FmtA)
  /-- Reads a Taper counter (R397). -/
  | tapStat (x : FmtA)
  /-- Reads the Taper head status (R397). -/
  | tapHead (x : FmtA)
  /-- Validates and copies a complex image into a slot, advancing its generation (R311). -/
  | cxLoad (x : FmtK)
  /-- Writes a cochain register descriptor (R313). -/
  | cxBind (x : FmtK)
  /-- Copies a cochain register with the slot's current generation (R314). -/
  | cxRebind (x : FmtK)
  /-- Reads slot state or a cochain descriptor word (R315). -/
  | cxGen (x : FmtK)
  /-- Empties a complex slot and frees its region (R312). -/
  | cxDrop (x : FmtK)
  /-- Exterior derivative over boundary lists (R318). -/
  | ckDx (x : FmtK)
  /-- Metric star by simplex weights (R319). -/
  | ckStar (x : FmtK)
  /-- Inverse metric star (R319). -/
  | ckIstar (x : FmtK)
  /-- Codifferential over coboundary lists (R320). -/
  | ckCodif (x : FmtK)
  /-- Wedge product of two cochains (R321). -/
  | ckWedge (x : FmtK)
  /-- Whitney interpolation at points (R322). -/
  | ckInterp (x : FmtK)
  /-- Converts cochain elements between formats or anchors (R323). -/
  | ckCvt (x : FmtK)
  /-- Sets an AX64 register's anchor from a window's magnitude (R323). -/
  | ckAnch (x : FmtK)
  /-- Element-wise s*a + b (R324). -/
  | ckAxpy (x : FmtK)
  /-- Weighted inner product into an h register (R324). -/
  | ckDot (x : FmtK)
  /-- Packs listed elements into a scratchpad buffer (R325). -/
  | ckHpack (x : FmtK)
  /-- Unpacks a buffer into listed elements (R325). -/
  | ckHunp (x : FmtK)
  /-- Dense multiply-accumulate of ring tiles into an accumulator (R346). -/
  | mxMma (x : FmtM)
  /-- Sparse multiply-accumulate using skip stream z0 (R346). -/
  | mxMmaz0 (x : FmtM)
  /-- Sparse multiply-accumulate using skip stream z1 (R346). -/
  | mxMmaz1 (x : FmtM)
  /-- Zeroes an accumulator tile and tags it (R347). -/
  | mxClr (x : FmtM)
  /-- Converts an accumulator and pushes it into a ring (R348). -/
  | mxSt (x : FmtM)
  /-- Loads a ring tile into an accumulator (R349). -/
  | mxLd (x : FmtM)
  /-- Copy engine strided copy of up to four dimensions (R182). -/
  | copy
  /-- Copy engine row gather by an index list (R183). -/
  | gather
  /-- Copy engine row scatter by an index list (R183). -/
  | scatter
  /-- Copy engine fill with a pattern (R184). -/
  | fill
  /-- Copy with padding written around the interior (R185). -/
  | paddedCopy
  /-- Moves a matrix between strided and blocked layouts (R186). -/
  | blockedTransform
  /-- Sets the per-core deficit quanta of the copy engine (R178). -/
  | quantum
  /-- Deficit round-robin visit of one core granting its requests (R177). -/
  | engineGrantVisit
  /-- An engine operation ends, frees ranges, advances a ring head and writes its token (R189). -/
  | engineOpComplete
  /-- Fabric engine carries bytes to a peer's home (R285). -/
  | fabricSend
  /-- Sends bytes to every member of a multicast entry snapshot (R287). -/
  | multicastStore
  /-- Merged member acknowledgements write the reply word and token (R287). -/
  | multicastReply
  /-- Asynchronous pack of cochain elements to a buffer (R326). -/
  | haloPack
  /-- Asynchronous unpack of a buffer into cochain elements (R326). -/
  | haloUnpack
  /-- Queued install of a Lantern image (R377). -/
  | lanternInstallCmd
  /-- Queued drop of a stream slot (R377). -/
  | lanternDropCmd
  /-- Queued reset of all stream slots (R377). -/
  | lanternResetCmd
  /-- Queued Taper load (R398). -/
  | taperLoadCmd
  /-- Queued Taper go (R398). -/
  | taperGoCmd
  /-- Queued Taper halt (R398). -/
  | taperHaltCmd
  /-- The die scheduler dispatches a ready wick to a cluster dispenser (R87). -/
  | schedDispatch
  /-- A neighbour die takes a steal request and gives up to half its lowest-level stealable wicks (R91). -/
  | stealRequest
  /-- The thief appends stolen wicks to its reserved entries (R91). -/
  | stealReply
  /-- 4,096 scheduler cycles after an empty round, the die compares again (R91). -/
  | stealBackoffEnd
  /-- A cluster dispenser passes its oldest placeable wick to a core (R92). -/
  | dispenserPass
  /-- A wick enters a slot, loading registers and shadow formats (R83). -/
  | wickEntry
  /-- An arriving wick packet enters the dispenser or the reserved ready-queue entries (R103). -/
  | migrationArrival
  /-- A wick refused by a peer returns to the source failure list with cause 0x91 (R103). -/
  | wickRefusalReturn
  /-- A slot empty for 16,384 cycles is gated (R120). -/
  | slotGating
  /-- Refresh of one vector file row (R134). -/
  | vectorRefresh
  /-- A neighbour's word enters a core's receive queue (R116). -/
  | portWordArrival
  /-- A plain access completes and its slot rejoins the rotation (R159). -/
  | accessComplete
  /-- A relaxed access lands and clears its pending register (R160). -/
  | relaxedAccessComplete
  /-- A word reservation passes to the next queued requester with the current value (R168). -/
  | atomicReservationGrant
  /-- A monitor wait's timeout expires (R171). -/
  | monWaitTimeout
  /-- A destination checks an arriving peer access against its grant table (R277). -/
  | peerAccess
  /-- A peer acknowledges a store (R173). -/
  | peerAck
  /-- A refusal message reaches the source and fills the deferred-fault latch or is logged (R278). -/
  | peerRefusal
  /-- A fence marker reaches the destination and clears its fault fence (R278). -/
  | fenceMarker
  /-- A peer leaves the pod, failing outstanding plain accesses with 0x92 (R279). -/
  | peerLeft
  /-- Static channels to a device train and it becomes a pod member (R273). -/
  | linkTrained
  /-- A Lantern takes a request into stage 0 and applies its stream (R358). -/
  | lanternRequest
  /-- The Lantern atomic unit executes a near-memory atomic (R371). -/
  | lanternAtomic
  /-- Every 2^24 controller cycles the hot-page list is written and the sketch cleared (R263). -/
  | beaconInterval
  /-- The master applies an arrival count to a vigil (R204). -/
  | vigilArrivalMessage
  /-- The master applies an engine byte decrement to a vigil (R206). -/
  | vigilByteDecrement
  /-- Each die breaks armed vigils of a failed group (R208). -/
  | groupBreakNotice
  /-- A notice of an opened or broken vigil wakes waiting slots (R204). -/
  | vigilNotice
  /-- A core, cluster or die stage forwards merged arrivals (R205). -/
  | arrivalForward
  /-- 4,096 cycles after a stage's first held arrival, it forwards them (R205). -/
  | arrivalForwardTimeout
  /-- A failed wick's record goes to its die's failure list (R231). -/
  | wickFailure
  /-- Software advances the tail and buffered records move into the ring (R233). -/
  | failureListTailAdvance
  /-- An error in a core's logic fences the core and fails its wicks one by one (R235). -/
  | coreError
  /-- The service core marks one scratchpad bank as failed (R152). -/
  | bankFailMark
  /-- Firmware re-admits a tested fenced core (R412). -/
  | coreReadmit
  /-- The service core posts 0xC0 to every slot of a core (R239). -/
  | preemptionRequest
  /-- The service core withdraws 0xC0 at the end of a pre-emption (R238). -/
  | preemptionWithdraw
  /-- A host doorbell write posts 0xC1 to a service core (R408). -/
  | hostDoorbell
  /-- The service core posts 0xC2 to a core (R236). -/
  | serviceSignal
  /-- The management sideband posts a debug halt 0xC3 (R236). -/
  | debugHalt
  /-- The sideband ends the halt and held slots rejoin the rotation (R238). -/
  | debugHaltEnd
  /-- A slot takes a pending interrupt at its issue turn (R237). -/
  | interruptTake
  /-- A debugger read of a register over the I3C sideband (R121). -/
  | sidebandRead
  /-- A head packet stalled 65,536 interposer cycles moves to the escape channel (R271). -/
  | escapeTimeout
  /-- A slot entry's guard ends and enabled lasers start sending (R282). -/
  | slotGuardEnd
  /-- A slot entry closes at dur and the next entry opens (R282). -/
  | slotDurationExpiry
  /-- A slot entry closes early when its served queues are empty (R282). -/
  | slotQueuesEmpty
  /-- The eligible head entry is dispatched as a wick, or a bubble is counted (R386). -/
  | taperDispatch
  /-- A tagged wick's entry ends, updating stash and sending arrival and free-slot messages (R388). -/
  | taperEntryEnd
  /-- An arrival message advances arr of an input ring (R384). -/
  | taperArrival
  /-- A free-slot count adds 1 to an output channel's credit (R388). -/
  | taperFreeSlotCount
  /-- A die's power demand changes, leading to borrowing, repayment, recall or throttling (R404). -/
  | demandChange
  /-- A neighbour takes a borrow request and lends unused own units (R404). -/
  | powerBorrowRequest
  /-- Lent units reach the borrowing die (R404). -/
  | powerLend
  /-- Repaid units reach the lender (R405). -/
  | powerRepay
  /-- A borrower receives a recall and reduces its draw (R405). -/
  | powerRecall
  /-- The host writes the launch queue tail (R409). -/
  | launchTailWrite
  /-- The die takes, checks and places one launch queue entry and advances head (R409). -/
  | launchEntryTake
  /-- The host writes the request word with go set (R413). -/
  | attestationRequest
  /-- A die's signed report arrives and is written to the status region (R414). -/
  | attestationAnswer
  /-- A host write to a status or launch register with no behaviour of its own (R413). -/
  | hostRegisterWrite
  /-- A die leaves reset, verifies its firmware and sets its ready bits (R410). -/
  | dieReset
  /-- A link flit fails authentication and is dropped and retried (R415). -/
  | flitAuthFail
  /-- An instruction word with an unassigned major opcode, unassigned function code or a non-zero required-zero field is issued and raises its decode cause (R48). -/
  | illegalInstruction
  /-- An instruction fetch that missed the instruction cache, or a near-window fetch, returns its words, raising a fetch fault or error if any, and the slot rejoins the rotation (R85). -/
  | instructionCacheMissFill
  /-- A started matrix operation finishes after its cycles, writes the accumulator, frees its ranges, pops its rings as a release and lets the unit start the next ready instruction (R346). -/
  | matrixOperationRetire
  /-- The PCI Express/CXL host link of X0 or X2 finishes training or drops, setting its ready bit and steering host-memory accesses between X0 and X2 (R407). -/
  | hostLinkTrained
  deriving DecidableEq, Repr

/-- The row of the table that an event is. -/
def Event.instr : Event → Instr
  | .schedWrite .. => .schedWrite
  | .enqRoomRetry .. => .enqRoomRetry
  | .copy .. => .copy
  | .gather .. => .gather
  | .scatter .. => .scatter
  | .fill .. => .fill
  | .paddedCopy .. => .paddedCopy
  | .blockedTransform .. => .blockedTransform
  | .quantum .. => .quantum
  | .engineGrantVisit .. => .engineGrantVisit
  | .engineOpComplete .. => .engineOpComplete
  | .fabricSend .. => .fabricSend
  | .multicastStore .. => .multicastStore
  | .multicastReply .. => .multicastReply
  | .haloPack .. => .haloPack
  | .haloUnpack .. => .haloUnpack
  | .lanternInstallCmd .. => .lanternInstallCmd
  | .lanternDropCmd .. => .lanternDropCmd
  | .lanternResetCmd .. => .lanternResetCmd
  | .taperLoadCmd .. => .taperLoadCmd
  | .taperGoCmd .. => .taperGoCmd
  | .taperHaltCmd .. => .taperHaltCmd
  | .schedDispatch .. => .schedDispatch
  | .stealRequest .. => .stealRequest
  | .stealReply .. => .stealReply
  | .stealBackoffEnd .. => .stealBackoffEnd
  | .dispenserPass .. => .dispenserPass
  | .wickEntry .. => .wickEntry
  | .migrationArrival .. => .migrationArrival
  | .wickRefusalReturn .. => .wickRefusalReturn
  | .slotGating .. => .slotGating
  | .vectorRefresh .. => .vectorRefresh
  | .portWordArrival .. => .portWordArrival
  | .accessComplete .. => .accessComplete
  | .relaxedAccessComplete .. => .relaxedAccessComplete
  | .atomicReservationGrant .. => .atomicReservationGrant
  | .monWaitTimeout .. => .monWaitTimeout
  | .peerAccess .. => .peerAccess
  | .peerAck .. => .peerAck
  | .peerRefusal .. => .peerRefusal
  | .fenceMarker .. => .fenceMarker
  | .peerLeft .. => .peerLeft
  | .linkTrained .. => .linkTrained
  | .lanternRequest .. => .lanternRequest
  | .lanternAtomic .. => .lanternAtomic
  | .beaconInterval .. => .beaconInterval
  | .vigilArrivalMessage .. => .vigilArrivalMessage
  | .vigilByteDecrement .. => .vigilByteDecrement
  | .groupBreakNotice .. => .groupBreakNotice
  | .vigilNotice .. => .vigilNotice
  | .arrivalForward .. => .arrivalForward
  | .arrivalForwardTimeout .. => .arrivalForwardTimeout
  | .wickFailure .. => .wickFailure
  | .failureListTailAdvance .. => .failureListTailAdvance
  | .coreError .. => .coreError
  | .bankFailMark .. => .bankFailMark
  | .coreReadmit .. => .coreReadmit
  | .preemptionRequest .. => .preemptionRequest
  | .preemptionWithdraw .. => .preemptionWithdraw
  | .hostDoorbell .. => .hostDoorbell
  | .serviceSignal .. => .serviceSignal
  | .debugHalt .. => .debugHalt
  | .debugHaltEnd .. => .debugHaltEnd
  | .interruptTake .. => .interruptTake
  | .sidebandRead .. => .sidebandRead
  | .escapeTimeout .. => .escapeTimeout
  | .slotGuardEnd .. => .slotGuardEnd
  | .slotDurationExpiry .. => .slotDurationExpiry
  | .slotQueuesEmpty .. => .slotQueuesEmpty
  | .taperDispatch .. => .taperDispatch
  | .taperEntryEnd .. => .taperEntryEnd
  | .taperArrival .. => .taperArrival
  | .taperFreeSlotCount .. => .taperFreeSlotCount
  | .demandChange .. => .demandChange
  | .powerBorrowRequest .. => .powerBorrowRequest
  | .powerLend .. => .powerLend
  | .powerRepay .. => .powerRepay
  | .powerRecall .. => .powerRecall
  | .launchTailWrite .. => .launchTailWrite
  | .launchEntryTake .. => .launchEntryTake
  | .attestationRequest .. => .attestationRequest
  | .attestationAnswer .. => .attestationAnswer
  | .hostRegisterWrite .. => .hostRegisterWrite
  | .dieReset .. => .dieReset
  | .flitAuthFail .. => .flitAuthFail
  | .illegalInstruction .. => .illegalInstruction
  | .instructionCacheMissFill .. => .instructionCacheMissFill
  | .matrixOperationRetire .. => .matrixOperationRetire
  | .hostLinkTrained .. => .hostLinkTrained

end Sys2Proof
end

