-- ==== Sys2Proof/Machine/Encoding.lean ====
section
/-!
DEFINITION. The encoding tables of the spec (03_encoding.md, Tables 3.1 to 3.5): for every instruction its major
opcode, its function code, what each register field is for, and the decode causes that the word alone decides
(R45, R46, R49, R51 and the operand rules of the instruction chapters).
-/

namespace Sys2Proof

/-- What an instruction does with a 5-bit register field (R41, R42): not used, written, read, read and replaced
(fma), read as data to be stored, a predicate pair, or the operand of an atomic. -/
inductive Role where
  | no | wr | rd | rw | dat | pair | amoDst | casDst
  deriving DecidableEq, Repr

/-- An instruction by its format: opcode, function code, fields, roles, and further causes of its operand rules. -/
inductive Enc where
  | a (op fn : Nat) (x : FmtA) (dr ar br : Role) (more : List Cause)
  | i (op : Nat) (x : FmtI) (more : List Cause)
  | b (lk : Nat) (x : FmtB)
  | s (x : FmtS)
  | v (op fn : Nat) (x : FmtV) (more : List Cause)
  | k (op fn : Nat) (x : FmtK) (more : List Cause)
  | m (fn : Nat) (x : FmtM) (more : List Cause)
  | e (fn : Nat) (x : FmtE) (more : List Cause)
  | event

/-- The code a source field holds (Table 3.2). -/
def Src.code : Src → Nat
  | .reg n => n.toNat
  | .lit32 _ => 30
  | .lit64 _ => 31

/-- The bytes a source field's literal adds (R39). -/
def Src.len : Src → Nat
  | .reg _ => 0
  | .lit32 _ => 4
  | .lit64 _ => 8

/-- The literal words a source field adds, low half first (R39). -/
def Src.words : Src → List IWord
  | .reg _ => []
  | .lit32 v => [v]
  | .lit64 v => [v.truncate 32, (v >>> 32).truncate 32]

/-- A register code is not a literal code. -/
def Src.ok : Src → Bool
  | .reg n => decide (n.toNat < 30)
  | _ => true

/-- The causes a 5-bit field's code raises in its role (Table 3.2, R41, R42, R46, R129, R167). -/
def roleCauses (r : Role) (c : Nat) : List Cause :=
  match r with
  | .no => if c = 0 then [] else [0x09]
  | .wr => if 30 ≤ c then [0x02] else if c = 24 ∨ c = 25 then [0x04] else []
  | .rd => if 26 ≤ c ∧ c < 30 then [0x04] else []
  | .rw => if 30 ≤ c then [0x02] else if 26 ≤ c then [0x04] else []
  | .dat => if 30 ≤ c then [0x02] else if 26 ≤ c then [0x04] else []
  | .pair => if 30 ≤ c then [0x02] else if c % 2 = 1 ∨ 16 ≤ c then [0x04] else []
  | .amoDst => if 30 ≤ c then [0x02] else if c = 0 ∨ 16 ≤ c then [0x04] else []
  | .casDst => if 30 ≤ c then [0x02] else if c = 0 ∨ 15 ≤ c then [0x04] else []

/-- Literal codes in two register fields (R42). -/
def twoLiterals (cs : List Nat) : List Cause :=
  if 2 ≤ (cs.filter (fun c => decide (30 ≤ c))).length then [0x03] else []

/-- Compare types a condition does not take (Table 3.5). -/
def cmpBad (ok : List (BitVec 3)) (t : BitVec 3) : List Cause := if t ∈ ok then [] else [0x01]
/-- A sign-extending load of width d is unassigned (Table 3.5). -/
def ldBad (x : FmtL) : List Cause := if x.sx ∧ x.w = 3 then [0x01] else []
/-- A store has no sign-extending form (Table 3.5). -/
def stBad (x : FmtL) : List Cause := if x.sx then [0x01] else []
/-- Scope codes 12 to 15 are reserved (R51). -/
def scopeBad (c : BitVec 4) : List Cause := if 12 ≤ c.toNat then [0x09] else []
/-- imm[14:6] of a shift must be zero (R127). -/
def shiftBad (imm : BitVec 15) : List Cause := if 64 ≤ imm.toNat then [0x09] else []
/-- `enq.try` with tok 0 (R195). -/
def tryBad (x : FmtE) : List Cause := if x.tok = 0 then [0x04] else []
/-- Lane type 7 is reserved (R133). -/
def typeBad (x : FmtV) : List Cause := if x.t = 7 then [0x09] else []
/-- Integer lane types only (Table 3.5). -/
def intOnly (x : FmtV) : List Cause := if x.t.toNat < 4 then [0x01] else []
/-- A vb field the function does not use (R137). -/
def unusedV (n : BitVec 4) : List Cause := if n = 0 then [] else [0x09]
/-- A cochain, ring or register field that the function does not use (R310, R316, R345). -/
def unusedK (n : BitVec 3) : List Cause := if n = 0 then [] else [0x09]
/-- Lanes of a vector register by type (Table 7.1). -/
def laneCount (t : Nat) : Nat :=
  if t = 0 ∨ t = 4 then 32 else if t = 1 ∨ t = 5 then 64 else if t = 3 then 256 else 128
/-- Conversion codes and group bases of `vec.cvt` (R135, R140); a reserved type forms no group. -/
def cvtBad (x : FmtV) : List Cause :=
  let s := x.b.toNat
  let d := x.t.toNat
  if d = 7 then []
  else if 7 ≤ s ∨ s = d then [0x0E]
  else
    let ns := laneCount s
    let nd := laneCount d
    (if nd < ns ∧ x.d.toNat % (ns / nd) ≠ 0 then [0x04] else []) ++
    (if ns < nd ∧ x.a.toNat % (nd / ns) ≠ 0 then [0x04] else [])
/-- `vec.scale` takes fp8 and fp4 and a group of 4 or 8 (R135, R141, Table 3.5). -/
def scaleBad (x : FmtV) : List Cause :=
  if x.t = 2 then (if x.d.toNat % 4 ≠ 0 then [0x04] else [])
  else if x.t = 3 then (if x.d.toNat % 8 ≠ 0 then [0x04] else [])
  else [0x01]
/-- An FP4 load or store names an even register (R135). -/
def pairBad (x : FmtV) : List Cause := if x.t = 3 ∧ x.d.toNat % 2 = 1 then [0x04] else []
/-- `vgth` takes fp32 and i32 (R197). -/
def gatherBad (x : FmtV) : List Cause := if x.t = 0 ∨ x.t = 4 then [] else [0x09]
/-- md[3:2] must be zero (R310, R316). -/
def mdHigh (x : FmtK) : List Cause := if 4 ≤ x.md.toNat then [0x09] else []
/-- md must be zero (R310). -/
def mdAll (x : FmtK) : List Cause := if x.md = 0 then [] else [0x09]
/-- md[1:0] must be zero (R325). -/
def mdLow (x : FmtK) : List Cause := if x.md.toNat % 4 = 0 then [] else [0x09]
/-- `cx.gen`: m above 5 is reserved, and ka is used only for m 4 and 5 (R315). -/
def genBad (x : FmtK) : List Cause :=
  if 6 ≤ x.md.toNat then [0x09] else if x.md.toNat < 4 ∧ x.a ≠ 0 then [0x09] else []
/-- mx bits outside the ones a matrix function uses (R345). -/
def mxBad (used : BitVec 8) (x : FmtM) : List Cause := if x.mx &&& ~~~used = 0 then [] else [0x09]
/-- A multiply-accumulate with ta = tb (R345). -/
def ringsBad (x : FmtM) : List Cause := if x.a = x.b then [0x09] else []

/-- The selectors of Table 6.5: whether user mode may read, user mode may write, system mode may write. -/
def selAccess (sel : Nat) : Option (Bool × Bool × Bool) :=
  match sel with
  | 0x000 | 0x001 | 0x007 | 0x030 | 0x031 | 0x032 | 0x033 => some (true, false, false)
  | 0x002 | 0x003 | 0x005 | 0x006 | 0x008 | 0x009 | 0x00A | 0x00B | 0x018 | 0x01A => some (true, true, true)
  | 0x004 | 0x019 | 0x01B => some (true, false, true)
  | 0x010 | 0x011 | 0x012 | 0x013 | 0x014 | 0x015 | 0x020 => some (false, false, true)
  | _ => none

/-- The causes of `sys.rw` that its word decides (R122): an unlisted selector, and a write of a selector that is
read-only in every mode. -/
def selBad (x : FmtS) : List Cause :=
  match selAccess x.sel.toNat with
  | none => [0x09]
  | some (_, _, w) => if w = false ∧ x.a.code ≠ 0 then [0x0D] else []

/-- Every instruction by its format. -/
def Instr.enc : Instr → Enc
  | .aluAdd x => .a 1 0 x .wr .rd .rd []
  | .aluSub x => .a 1 1 x .wr .rd .rd []
  | .aluMul x => .a 1 2 x .wr .rd .rd []
  | .aluMulh x => .a 1 3 x .wr .rd .rd []
  | .aluMulhz x => .a 1 4 x .wr .rd .rd []
  | .aluDiv x => .a 1 5 x .wr .rd .rd []
  | .aluDivz x => .a 1 6 x .wr .rd .rd []
  | .aluRem x => .a 1 7 x .wr .rd .rd []
  | .aluRemz x => .a 1 8 x .wr .rd .rd []
  | .aluAnd x => .a 1 9 x .wr .rd .rd []
  | .aluOr x => .a 1 10 x .wr .rd .rd []
  | .aluXor x => .a 1 11 x .wr .rd .rd []
  | .aluAndn x => .a 1 12 x .wr .rd .rd []
  | .aluShl x => .a 1 13 x .wr .rd .rd []
  | .aluShr x => .a 1 14 x .wr .rd .rd []
  | .aluSra x => .a 1 15 x .wr .rd .rd []
  | .aluMin x => .a 1 16 x .wr .rd .rd []
  | .aluMax x => .a 1 17 x .wr .rd .rd []
  | .aluMinz x => .a 1 18 x .wr .rd .rd []
  | .aluMaxz x => .a 1 19 x .wr .rd .rd []
  | .aluAdds x => .a 1 20 x .wr .rd .rd []
  | .aluSubs x => .a 1 21 x .wr .rd .rd []
  | .aluClz x => .a 1 22 x .wr .rd .no []
  | .aluCtz x => .a 1 23 x .wr .rd .no []
  | .aluPopc x => .a 1 24 x .wr .rd .no []
  | .aluiAdd x => .i 8 x ([])
  | .aluiAnd x => .i 9 x ([])
  | .aluiOr x => .i 10 x ([])
  | .aluiXor x => .i 11 x ([])
  | .aluiShl x => .i 12 x (shiftBad x.imm)
  | .aluiShr x => .i 13 x (shiftBad x.imm)
  | .aluiSra x => .i 14 x (shiftBad x.imm)
  | .aluiMul x => .i 15 x ([])
  | .fpuAdd x => .a 2 (0 + x.rm.toNat) x.toFmtA .wr .rd .rd []
  | .fpuSub x => .a 2 (4 + x.rm.toNat) x.toFmtA .wr .rd .rd []
  | .fpuMul x => .a 2 (8 + x.rm.toNat) x.toFmtA .wr .rd .rd []
  | .fpuDiv x => .a 2 (12 + x.rm.toNat) x.toFmtA .wr .rd .rd []
  | .fpuSqrt x => .a 2 (16 + x.rm.toNat) x.toFmtA .wr .rd .no []
  | .fpuFma x => .a 2 (20 + x.rm.toNat) x.toFmtA .rw .rd .rd []
  | .fpuFms x => .a 2 (24 + x.rm.toNat) x.toFmtA .rw .rd .rd []
  | .fpuMin x => .a 2 28 x .wr .rd .rd []
  | .fpuMax x => .a 2 32 x .wr .rd .rd []
  | .fpuAbs x => .a 2 36 x .wr .rd .no []
  | .fpuNeg x => .a 2 40 x .wr .rd .no []
  | .fpuCvti x => .a 2 (44 + x.rm.toNat) x.toFmtA .wr .rd .no []
  | .fpuCvtf x => .a 2 (48 + x.rm.toNat) x.toFmtA .wr .rd .no []
  | .fpuCvtw x => .a 2 (52 + x.rm.toNat) x.toFmtA .wr .rd .no []
  | .fpuCvtb x => .a 2 (56 + x.rm.toNat) x.toFmtA .wr .rd .no []
  | .fpuCvt8 x => .a 2 (60 + x.rm.toNat) x.toFmtA .wr .rd .no []
  | .fpdAdd x => .a 6 (0 + x.rm.toNat) x.toFmtA .wr .rd .rd []
  | .fpdSub x => .a 6 (4 + x.rm.toNat) x.toFmtA .wr .rd .rd []
  | .fpdMul x => .a 6 (8 + x.rm.toNat) x.toFmtA .wr .rd .rd []
  | .fpdDiv x => .a 6 (12 + x.rm.toNat) x.toFmtA .wr .rd .rd []
  | .fpdSqrt x => .a 6 (16 + x.rm.toNat) x.toFmtA .wr .rd .no []
  | .fpdFma x => .a 6 (20 + x.rm.toNat) x.toFmtA .rw .rd .rd []
  | .fpdFms x => .a 6 (24 + x.rm.toNat) x.toFmtA .rw .rd .rd []
  | .fpdMin x => .a 6 28 x .wr .rd .rd []
  | .fpdMax x => .a 6 32 x .wr .rd .rd []
  | .fpdAbs x => .a 6 36 x .wr .rd .no []
  | .fpdNeg x => .a 6 40 x .wr .rd .no []
  | .fpdCvti x => .a 6 (44 + x.rm.toNat) x.toFmtA .wr .rd .no []
  | .fpdCvtf x => .a 6 (48 + x.rm.toNat) x.toFmtA .wr .rd .no []
  | .fpdCvtw x => .a 6 (52 + x.rm.toNat) x.toFmtA .wr .rd .no []
  | .fpdCvtb x => .a 6 (56 + x.rm.toNat) x.toFmtA .wr .rd .no []
  | .fpdCvt8 x => .a 6 (60 + x.rm.toNat) x.toFmtA .wr .rd .no []
  | .cmpEq x => .a 3 (0 + x.t.toNat) x.toFmtA .pair .rd .rd (cmpBad [0, 1, 2] x.t)
  | .cmpNe x => .a 3 (8 + x.t.toNat) x.toFmtA .pair .rd .rd (cmpBad [0, 1, 2] x.t)
  | .cmpLt x => .a 3 (16 + x.t.toNat) x.toFmtA .pair .rd .rd (cmpBad [0, 1, 2] x.t)
  | .cmpGe x => .a 3 (24 + x.t.toNat) x.toFmtA .pair .rd .rd (cmpBad [0, 1, 2] x.t)
  | .cmpLo x => .a 3 (32 + x.t.toNat) x.toFmtA .pair .rd .rd (cmpBad [0] x.t)
  | .cmpHs x => .a 3 (40 + x.t.toNat) x.toFmtA .pair .rd .rd (cmpBad [0] x.t)
  | .cmpUn x => .a 3 (48 + x.t.toNat) x.toFmtA .pair .rd .rd (cmpBad [1, 2] x.t)
  | .movCp x => .a 4 0 x .wr .rd .no []
  | .movRdp x => .a 4 1 x .wr .no .no []
  | .movWrp x => .a 4 2 x .no .rd .rd []
  | .movSxb x => .a 4 3 x .wr .rd .no []
  | .movSxh x => .a 4 4 x .wr .rd .no []
  | .movSxw x => .a 4 5 x .wr .rd .no []
  | .movZxb x => .a 4 6 x .wr .rd .no []
  | .movZxh x => .a 4 7 x .wr .rd .no []
  | .movZxw x => .a 4 8 x .wr .rd .no []
  | .sysRw x => .s x
  | .schedWrite => .event
  | .br x => .b 0 x
  | .brLink x => .b 1 x
  | .jmpJr x => .a 17 0 x .no .rd .rd []
  | .jmpJl x => .a 17 1 x .wr .rd .rd []
  | .wkSpawn x => .a 18 0 x .wr .rd .no []
  | .wkMigr x => .a 18 1 x .no .rd .no []
  | .wkWaitw x => .a 18 2 x .no .no .no []
  | .wkSusp x => .a 18 3 x .no .rd .no []
  | .wkDone x => .a 18 4 x .no .no .no []
  | .wkSnuffSelf x => .a 18 5 x .no .no .rd []
  | .wkSnuff x => .a 18 5 x .wr .rd .rd []
  | .wkLaunch x => .a 18 6 x .no .rd .no []
  | .wkPrio x => .a 18 7 x .wr .rd .no []
  | .ld x => .a 24 (16 * x.rel.toNat + 8 * x.sx.toNat + 2 * x.w.toNat) x.toFmtA .wr .rd .rd (ldBad x)
  | .ldAcq x => .a 24 (32 + 16 * x.dbl.toNat + x.scope.toNat) x.toFmtA .wr .rd .rd (scopeBad x.scope)
  | .st x => .a 25 (16 * x.rel.toNat + 8 * x.sx.toNat + 2 * x.w.toNat) x.toFmtA .dat .rd .rd (stBad x)
  | .stRel x => .a 25 (32 + 16 * x.dbl.toNat + x.scope.toNat) x.toFmtA .dat .rd .rd (scopeBad x.scope)
  | .amoAdd x => .a 26 (0 + 2 * x.dbl.toNat + x.rel.toNat) x.toFmtA .amoDst .rd .rd []
  | .amoAnd x => .a 26 (4 + 2 * x.dbl.toNat + x.rel.toNat) x.toFmtA .amoDst .rd .rd []
  | .amoOr x => .a 26 (8 + 2 * x.dbl.toNat + x.rel.toNat) x.toFmtA .amoDst .rd .rd []
  | .amoXor x => .a 26 (12 + 2 * x.dbl.toNat + x.rel.toNat) x.toFmtA .amoDst .rd .rd []
  | .amoMin x => .a 26 (16 + 2 * x.dbl.toNat + x.rel.toNat) x.toFmtA .amoDst .rd .rd []
  | .amoMax x => .a 26 (20 + 2 * x.dbl.toNat + x.rel.toNat) x.toFmtA .amoDst .rd .rd []
  | .amoMinz x => .a 26 (24 + 2 * x.dbl.toNat + x.rel.toNat) x.toFmtA .amoDst .rd .rd []
  | .amoMaxz x => .a 26 (28 + 2 * x.dbl.toNat + x.rel.toNat) x.toFmtA .amoDst .rd .rd []
  | .amoSwap x => .a 26 (32 + 2 * x.dbl.toNat + x.rel.toNat) x.toFmtA .amoDst .rd .rd []
  | .amoCas x => .a 26 (36 + 2 * x.dbl.toNat + x.rel.toNat) x.toFmtA .casDst .rd .rd []
  | .amoFadd x => .a 26 (40 + 2 * x.dbl.toNat + x.rel.toNat) x.toFmtA .amoDst .rd .rd []
  | .fenceAll x => .a 27 (0 + x.scope.toNat) x.toFmtA .no .no .no (scopeBad x.scope)
  | .fenceSt x => .a 27 (16 + x.scope.toNat) x.toFmtA .no .no .no (scopeBad x.scope)
  | .fenceLd x => .a 27 (32 + x.scope.toNat) x.toFmtA .no .no .no (scopeBad x.scope)
  | .monArm x => .a 28 0 x .wr .rd .no []
  | .monDis x => .a 28 1 x .no .rd .no []
  | .monWait x => .a 28 2 x .wr .rd .no []
  | .monClr x => .a 28 3 x .no .rd .no []
  | .vecAdd x => .v 32 0 x (typeBad x)
  | .vecSub x => .v 32 1 x (typeBad x)
  | .vecMul x => .v 32 2 x (typeBad x)
  | .vecFma x => .v 32 3 x (typeBad x)
  | .vecMin x => .v 32 4 x (typeBad x)
  | .vecMax x => .v 32 5 x (typeBad x)
  | .vecAbs x => .v 32 6 x (typeBad x ++ unusedV x.b)
  | .vecNeg x => .v 32 7 x (typeBad x ++ unusedV x.b)
  | .vecAnd x => .v 32 8 x (typeBad x ++ intOnly x)
  | .vecOr x => .v 32 9 x (typeBad x ++ intOnly x)
  | .vecXor x => .v 32 10 x (typeBad x ++ intOnly x)
  | .vecShl x => .v 32 11 x (typeBad x ++ intOnly x)
  | .vecShr x => .v 32 12 x (typeBad x ++ intOnly x)
  | .vecSra x => .v 32 13 x (typeBad x ++ intOnly x)
  | .vecSel x => .v 32 14 x (typeBad x)
  | .vecShuf x => .v 32 15 x (typeBad x)
  | .vecBcast x => .v 32 16 x (typeBad x ++ unusedV x.b)
  | .vecRsum x => .v 32 17 x (typeBad x ++ unusedV x.b)
  | .vecRmax x => .v 32 18 x (typeBad x ++ unusedV x.b)
  | .vecRmin x => .v 32 19 x (typeBad x ++ unusedV x.b)
  | .vecCvt x => .v 32 20 x (typeBad x ++ cvtBad x)
  | .vecScale x => .v 32 21 x (typeBad x ++ scaleBad x)
  | .vecCeq x => .v 32 22 x (typeBad x)
  | .vecClt x => .v 32 23 x (typeBad x)
  | .vldC x => .v 33 0 x (typeBad x ++ pairBad x)
  | .vldS x => .v 33 1 x (typeBad x ++ pairBad x)
  | .vldCR x => .v 33 2 x (typeBad x ++ pairBad x)
  | .vldSR x => .v 33 3 x (typeBad x ++ pairBad x)
  | .vstC x => .v 34 0 x (typeBad x ++ pairBad x)
  | .vstS x => .v 34 1 x (typeBad x ++ pairBad x)
  | .vstCR x => .v 34 2 x (typeBad x ++ pairBad x)
  | .vstSR x => .v 34 3 x (typeBad x ++ pairBad x)
  | .vgthG x => .v 35 0 x (gatherBad x)
  | .vgthGt x => .v 35 1 x (gatherBad x)
  | .enqWt x => .e 0 x ([])
  | .enqTry x => .e 1 x (tryBad x)
  | .enqRoomRetry => .event
  | .vgInit x => .a 49 0 x .dat .rd .rd []
  | .vgJoin x => .a 49 1 x .wr .rd .no []
  | .vgLeave x => .a 49 2 x .wr .no .no []
  | .vgArr x => .a 49 3 x .no .rd .no []
  | .vgWait x => .a 49 4 x .wr .rd .no []
  | .vgArrw x => .a 49 5 x .wr .rd .no []
  | .vgBrk x => .a 49 6 x .no .rd .rd []
  | .vgBrkGroup x => .a 49 6 x .no .no .rd []
  | .vgStat x => .a 49 7 x .wr .rd .rd []
  | .trapSw x => .a 50 0 x .no .rd .no []
  | .trapRet x => .a 50 1 x .no .no .no []
  | .trapBrk x => .a 50 2 x .no .no .no []
  | .trapMsk x => .a 50 3 x .wr .rd .rd []
  | .tlbFill x => .a 51 0 x .wr .rd .rd []
  | .tlbInvr x => .a 51 1 x .no .rd .rd []
  | .tlbInva x => .a 51 2 x .no .rd .no []
  | .tlbPrb x => .a 51 3 x .wr .rd .rd []
  | .fabConn x => .a 52 0 x .wr .rd .no []
  | .fabClose x => .a 52 1 x .no .rd .no []
  | .fabSlot x => .a 52 2 x .wr .rd .rd []
  | .fabStat x => .a 52 3 x .wr .rd .no []
  | .fabGnt x => .a 52 4 x .no .rd .rd []
  | .lanInst x => .a 53 0 x .wr .rd .rd []
  | .lanDrop x => .a 53 1 x .wr .rd .no []
  | .lanStat x => .a 53 2 x .wr .rd .rd []
  | .lanDflt x => .a 53 3 x .no .no .no []
  | .tapLoad x => .a 54 0 x .wr .rd .no []
  | .tapGo x => .a 54 1 x .no .rd .no []
  | .tapHalt x => .a 54 2 x .wr .no .no []
  | .tapStat x => .a 54 3 x .wr .rd .no []
  | .tapHead x => .a 54 4 x .wr .no .no []
  | .cxLoad x => .k 64 0 x (mdHigh x)
  | .cxBind x => .k 64 1 x (mdAll x)
  | .cxRebind x => .k 64 2 x (unusedK x.b ++ mdAll x)
  | .cxGen x => .k 64 3 x (unusedK x.b ++ genBad x)
  | .cxDrop x => .k 64 4 x (unusedK x.d ++ unusedK x.a ++ unusedK x.b ++ mdHigh x)
  | .ckDx x => .k 65 0 x (unusedK x.b ++ mdHigh x)
  | .ckStar x => .k 65 1 x (unusedK x.b ++ mdHigh x)
  | .ckIstar x => .k 65 2 x (unusedK x.b ++ mdHigh x)
  | .ckCodif x => .k 65 3 x (unusedK x.b ++ mdHigh x)
  | .ckWedge x => .k 65 4 x (mdHigh x)
  | .ckInterp x => .k 65 5 x (mdHigh x)
  | .ckCvt x => .k 65 6 x (unusedK x.b ++ mdHigh x)
  | .ckAnch x => .k 65 7 x (unusedK x.b ++ mdHigh x)
  | .ckAxpy x => .k 65 8 x ([])
  | .ckDot x => .k 65 9 x (unusedK x.d)
  | .ckHpack x => .k 65 10 x (unusedK x.d ++ unusedK x.b ++ mdLow x)
  | .ckHunp x => .k 65 11 x (unusedK x.a ++ unusedK x.b ++ mdLow x)
  | .mxMma x => .m 0 x (ringsBad x ++ mxBad 192 x)
  | .mxMmaz0 x => .m 1 x (ringsBad x ++ mxBad 192 x)
  | .mxMmaz1 x => .m 2 x (ringsBad x ++ mxBad 192 x)
  | .mxClr x => .m 3 x (unusedK x.a ++ unusedK x.b ++ mxBad 0 x)
  | .mxSt x => .m 4 x (unusedK x.b ++ mxBad 0 x)
  | .mxLd x => .m 5 x (unusedK x.b ++ mxBad 128 x)
  | .copy => .event
  | .gather => .event
  | .scatter => .event
  | .fill => .event
  | .paddedCopy => .event
  | .blockedTransform => .event
  | .quantum => .event
  | .engineGrantVisit => .event
  | .engineOpComplete => .event
  | .fabricSend => .event
  | .multicastStore => .event
  | .multicastReply => .event
  | .haloPack => .event
  | .haloUnpack => .event
  | .lanternInstallCmd => .event
  | .lanternDropCmd => .event
  | .lanternResetCmd => .event
  | .taperLoadCmd => .event
  | .taperGoCmd => .event
  | .taperHaltCmd => .event
  | .schedDispatch => .event
  | .stealRequest => .event
  | .stealReply => .event
  | .stealBackoffEnd => .event
  | .dispenserPass => .event
  | .wickEntry => .event
  | .migrationArrival => .event
  | .wickRefusalReturn => .event
  | .slotGating => .event
  | .vectorRefresh => .event
  | .portWordArrival => .event
  | .accessComplete => .event
  | .relaxedAccessComplete => .event
  | .atomicReservationGrant => .event
  | .monWaitTimeout => .event
  | .peerAccess => .event
  | .peerAck => .event
  | .peerRefusal => .event
  | .fenceMarker => .event
  | .peerLeft => .event
  | .linkTrained => .event
  | .lanternRequest => .event
  | .lanternAtomic => .event
  | .beaconInterval => .event
  | .vigilArrivalMessage => .event
  | .vigilByteDecrement => .event
  | .groupBreakNotice => .event
  | .vigilNotice => .event
  | .arrivalForward => .event
  | .arrivalForwardTimeout => .event
  | .wickFailure => .event
  | .failureListTailAdvance => .event
  | .coreError => .event
  | .bankFailMark => .event
  | .coreReadmit => .event
  | .preemptionRequest => .event
  | .preemptionWithdraw => .event
  | .hostDoorbell => .event
  | .serviceSignal => .event
  | .debugHalt => .event
  | .debugHaltEnd => .event
  | .interruptTake => .event
  | .sidebandRead => .event
  | .escapeTimeout => .event
  | .slotGuardEnd => .event
  | .slotDurationExpiry => .event
  | .slotQueuesEmpty => .event
  | .taperDispatch => .event
  | .taperEntryEnd => .event
  | .taperArrival => .event
  | .taperFreeSlotCount => .event
  | .demandChange => .event
  | .powerBorrowRequest => .event
  | .powerLend => .event
  | .powerRepay => .event
  | .powerRecall => .event
  | .launchTailWrite => .event
  | .launchEntryTake => .event
  | .attestationRequest => .event
  | .attestationAnswer => .event
  | .hostRegisterWrite => .event
  | .dieReset => .event
  | .flitAuthFail => .event
  | .illegalInstruction => .event
  | .instructionCacheMissFill => .event
  | .matrixOperationRetire => .event
  | .hostLinkTrained => .event

/-- Every cause the word of an instruction raises at decode, whatever the state (R45). -/
def Enc.causes : Enc → List Cause
  | .a _ _ x dr ar br more =>
    roleCauses dr x.d.toNat ++ roleCauses ar x.a.code ++ roleCauses br x.b.code ++
      twoLiterals [x.d.toNat, x.a.code, x.b.code] ++ more
  | .i _ x more =>
    roleCauses .wr x.d.toNat ++ roleCauses .rd x.a.code ++ twoLiterals [x.d.toNat, x.a.code] ++ more
  | .b _ _ => []
  | .s x =>
    roleCauses .wr x.d.toNat ++ roleCauses .rd x.a.code ++ twoLiterals [x.d.toNat, x.a.code] ++ selBad x
  | .v _ _ _ more => more
  | .k _ _ _ more => more
  | .m _ _ more => more
  | .e _ x more => (if 16 ≤ x.tok.toNat then [0x04] else []) ++ roleCauses .rd x.a.code ++ more
  | .event => []

/-- The lowest-numbered cause of a list (R45). -/
def lowest : List Cause → Option Cause
  | [] => none
  | c :: cs =>
    match lowest cs with
    | none => some c
    | some d => some (if c ≤ d then c else d)

/-- The lowest-numbered cause that an instruction's word raises at decode. -/
def Instr.wordCause (i : Instr) : Option Cause := lowest i.enc.causes

/-- Whether a row of the table is an encoded instruction. -/
def Enc.encoded : Enc → Bool
  | .event => false
  | _ => true

/-- Source fields hold register codes below the literal codes. -/
def Enc.srcOk : Enc → Bool
  | .a _ _ x _ _ _ _ => x.a.ok && x.b.ok
  | .i _ x _ => x.a.ok
  | .s x => x.a.ok
  | .e _ x _ => x.a.ok
  | _ => true

/-- The instruction word (R40, Table 3.1); an event has none and answers the unassigned zero word. -/
def Enc.word : Enc → Nat
  | .a op fn x _ _ _ _ =>
    op * 2 ^ 25 + x.d.toNat * 2 ^ 20 + x.a.code * 2 ^ 15 + x.b.code * 2 ^ 10 + x.p.toNat * 2 ^ 6 + fn
  | .i op x _ => op * 2 ^ 25 + x.d.toNat * 2 ^ 20 + x.a.code * 2 ^ 15 + x.imm.toNat
  | .b lk x => 0x10 * 2 ^ 25 + x.p.toNat * 2 ^ 21 + lk * 2 ^ 20 + x.off.toNat
  | .s x => 0x05 * 2 ^ 25 + x.d.toNat * 2 ^ 20 + x.a.code * 2 ^ 15 + x.sel.toNat * 2 ^ 4 + x.p.toNat
  | .v op fn x _ =>
    op * 2 ^ 25 + x.d.toNat * 2 ^ 21 + x.a.toNat * 2 ^ 17 + x.b.toNat * 2 ^ 13 + x.p.toNat * 2 ^ 9
      + x.t.toNat * 2 ^ 6 + fn
  | .k op fn x _ =>
    op * 2 ^ 25 + x.d.toNat * 2 ^ 22 + x.a.toNat * 2 ^ 19 + x.b.toNat * 2 ^ 16 + x.p.toNat * 2 ^ 12
      + x.md.toNat * 2 ^ 8 + fn
  | .m fn x _ =>
    0x50 * 2 ^ 25 + x.d.toNat * 2 ^ 23 + x.a.toNat * 2 ^ 20 + x.b.toNat * 2 ^ 17 + x.p.toNat * 2 ^ 13
      + fn * 2 ^ 8 + x.mx.toNat
  | .e fn x _ =>
    0x30 * 2 ^ 25 + x.tok.toNat * 2 ^ 20 + x.a.code * 2 ^ 15 + x.eq.toNat * 2 ^ 10 + x.p.toNat * 2 ^ 6 + fn
  | .event => 0

/-- The literal words that follow the instruction word (R39). -/
def Enc.literals : Enc → List IWord
  | .a _ _ x _ _ _ _ => x.a.words ++ x.b.words
  | .i _ x _ => x.a.words
  | .s x => x.a.words
  | .e _ x _ => x.a.words
  | _ => []

/-- The bytes of an instruction, 4, 8 or 12 (R39). -/
def Enc.len : Enc → Nat
  | .a _ _ x _ _ _ _ => 4 + x.a.len + x.b.len
  | .i _ x _ => 4 + x.a.len
  | .s x => 4 + x.a.len
  | .e _ x _ => 4 + x.a.len
  | _ => 4

/-- The guard predicate's number; format I and events always execute (R44). -/
def Enc.guard : Enc → Nat
  | .a _ _ x _ _ _ _ => x.p.toNat
  | .b _ x => x.p.toNat
  | .s x => x.p.toNat
  | .v _ _ x _ => x.p.toNat
  | .k _ _ x _ => x.p.toNat
  | .m _ x _ => x.p.toNat
  | .e _ x _ => x.p.toNat
  | _ => 0

end Sys2Proof
end

