-- ==== Sys2Proof/WellFormed.lean ====
section
/-!
DEFINITION. Well-formed instructions: those a word of the encoding stands for, with no decode cause that the word
alone decides (R39 to R53). What the running slot's place and mode decide (R43, R50) is checked at execution.
-/

namespace Sys2Proof

/-- Two rows of the table share their words with a row of their own for sa 0 (R107, R214): `wk.snuff` and `vg.brk` of
a line name another register. -/
def Instr.ownRow : Instr → Bool
  | .wkSnuff x => decide (x.a ≠ .reg 0)
  | .vgBrk x => decide (x.a ≠ .reg 0)
  | _ => true

/-- A well-formed instruction: an encoded row, its source fields hold registers or literals, its operands are its own
row's, and its word raises no decode cause. -/
def Instr.wellFormed (i : Instr) : Bool :=
  i.enc.encoded && i.enc.srcOk && i.ownRow && decide (i.wordCause = none)

/-- `Instr.wellFormed` as a proposition. -/
abbrev Instr.WellFormed (i : Instr) : Prop := i.wellFormed = true

end Sys2Proof
end

