-- ==== Sys2Proof/Decode.lean ====
section
/-!
DEFINITION. Decoding (R39 to R53): from an instruction word and the two words that follow it to an instruction, or
to the cause by which it is rejected; total on any words and any bytes. After it the encoder, from the same tables.
-/

namespace Sys2Proof

/-- Bits [lo + n − 1 : lo] of a word. -/
def fld (w : IWord) (lo n : Nat) : Nat := w.toNat / 2 ^ lo % 2 ^ n

/-- One bit of a word. -/
def bit (w : IWord) (i : Nat) : Bool := decide (fld w i 1 = 1)

/-- A source field with the literal that follows, if its code names one (Table 3.2). -/
def mkSrc (c : Nat) (l1 l2 : IWord) : Src :=
  if c = 30 then .lit32 l1
  else if c = 31 then .lit64 (BitVec.ofNat 64 (l1.toNat + l2.toNat * 2 ^ 32))
  else .reg (BitVec.ofNat 5 c)

/-- The fields of format A (Table 3.1). -/
def fieldsA (w l1 l2 : IWord) : FmtA :=
  ⟨BitVec.ofNat 5 (fld w 20 5), mkSrc (fld w 15 5) l1 l2, mkSrc (fld w 10 5) l1 l2, BitVec.ofNat 4 (fld w 6 4)⟩

/-- The fields of format I. -/
def fieldsI (w l1 l2 : IWord) : FmtI :=
  ⟨BitVec.ofNat 5 (fld w 20 5), mkSrc (fld w 15 5) l1 l2, BitVec.ofNat 15 (fld w 0 15)⟩

/-- The fields of format B. -/
def fieldsB (w : IWord) : FmtB := ⟨BitVec.ofNat 4 (fld w 21 4), BitVec.ofNat 20 (fld w 0 20)⟩

/-- The fields of format S. -/
def fieldsS (w l1 l2 : IWord) : FmtS :=
  ⟨BitVec.ofNat 5 (fld w 20 5), mkSrc (fld w 15 5) l1 l2, BitVec.ofNat 11 (fld w 4 11), BitVec.ofNat 4 (fld w 0 4)⟩

/-- The fields of format V. -/
def fieldsV (w : IWord) : FmtV :=
  ⟨BitVec.ofNat 4 (fld w 21 4), BitVec.ofNat 4 (fld w 17 4), BitVec.ofNat 4 (fld w 13 4),
    BitVec.ofNat 4 (fld w 9 4), BitVec.ofNat 3 (fld w 6 3)⟩

/-- The fields of format K. -/
def fieldsK (w : IWord) : FmtK :=
  ⟨BitVec.ofNat 3 (fld w 22 3), BitVec.ofNat 3 (fld w 19 3), BitVec.ofNat 3 (fld w 16 3),
    BitVec.ofNat 4 (fld w 12 4), BitVec.ofNat 4 (fld w 8 4)⟩

/-- The fields of format M. -/
def fieldsM (w : IWord) : FmtM :=
  ⟨BitVec.ofNat 2 (fld w 23 2), BitVec.ofNat 3 (fld w 20 3), BitVec.ofNat 3 (fld w 17 3),
    BitVec.ofNat 4 (fld w 13 4), BitVec.ofNat 8 (fld w 0 8)⟩

/-- The fields of format E. -/
def fieldsE (w l1 l2 : IWord) : FmtE :=
  ⟨BitVec.ofNat 5 (fld w 20 5), mkSrc (fld w 15 5) l1 l2, BitVec.ofNat 5 (fld w 10 5), BitVec.ofNat 4 (fld w 6 4)⟩

/-- The function codes of alu (Table 3.5). -/
def parseAlu (x : FmtA) (fn : Nat) : Except Cause Instr :=
  match fn with
  | 0 => .ok (.aluAdd x)
  | 1 => .ok (.aluSub x)
  | 2 => .ok (.aluMul x)
  | 3 => .ok (.aluMulh x)
  | 4 => .ok (.aluMulhz x)
  | 5 => .ok (.aluDiv x)
  | 6 => .ok (.aluDivz x)
  | 7 => .ok (.aluRem x)
  | 8 => .ok (.aluRemz x)
  | 9 => .ok (.aluAnd x)
  | 10 => .ok (.aluOr x)
  | 11 => .ok (.aluXor x)
  | 12 => .ok (.aluAndn x)
  | 13 => .ok (.aluShl x)
  | 14 => .ok (.aluShr x)
  | 15 => .ok (.aluSra x)
  | 16 => .ok (.aluMin x)
  | 17 => .ok (.aluMax x)
  | 18 => .ok (.aluMinz x)
  | 19 => .ok (.aluMaxz x)
  | 20 => .ok (.aluAdds x)
  | 21 => .ok (.aluSubs x)
  | 22 => .ok (.aluClz x)
  | 23 => .ok (.aluCtz x)
  | 24 => .ok (.aluPopc x)
  | _ => .error 0x01

/-- The function codes of fpu (Table 3.5): fn[5:2], with the rounding code in fn[1:0]. -/
def parseFpu (x : FmtA) (fn rm : Nat) : Except Cause Instr :=
  match fn with
  | 0 => .ok (.fpuAdd ⟨x, BitVec.ofNat 2 rm⟩)
  | 1 => .ok (.fpuSub ⟨x, BitVec.ofNat 2 rm⟩)
  | 2 => .ok (.fpuMul ⟨x, BitVec.ofNat 2 rm⟩)
  | 3 => .ok (.fpuDiv ⟨x, BitVec.ofNat 2 rm⟩)
  | 4 => .ok (.fpuSqrt ⟨x, BitVec.ofNat 2 rm⟩)
  | 5 => .ok (.fpuFma ⟨x, BitVec.ofNat 2 rm⟩)
  | 6 => .ok (.fpuFms ⟨x, BitVec.ofNat 2 rm⟩)
  | 7 => if rm = 0 then .ok (.fpuMin x) else .error 0x01
  | 8 => if rm = 0 then .ok (.fpuMax x) else .error 0x01
  | 9 => if rm = 0 then .ok (.fpuAbs x) else .error 0x01
  | 10 => if rm = 0 then .ok (.fpuNeg x) else .error 0x01
  | 11 => .ok (.fpuCvti ⟨x, BitVec.ofNat 2 rm⟩)
  | 12 => .ok (.fpuCvtf ⟨x, BitVec.ofNat 2 rm⟩)
  | 13 => .ok (.fpuCvtw ⟨x, BitVec.ofNat 2 rm⟩)
  | 14 => .ok (.fpuCvtb ⟨x, BitVec.ofNat 2 rm⟩)
  | 15 => .ok (.fpuCvt8 ⟨x, BitVec.ofNat 2 rm⟩)
  | _ => .error 0x01

/-- The function codes of fpd (Table 3.5): fn[5:2], with the rounding code in fn[1:0]. -/
def parseFpd (x : FmtA) (fn rm : Nat) : Except Cause Instr :=
  match fn with
  | 0 => .ok (.fpdAdd ⟨x, BitVec.ofNat 2 rm⟩)
  | 1 => .ok (.fpdSub ⟨x, BitVec.ofNat 2 rm⟩)
  | 2 => .ok (.fpdMul ⟨x, BitVec.ofNat 2 rm⟩)
  | 3 => .ok (.fpdDiv ⟨x, BitVec.ofNat 2 rm⟩)
  | 4 => .ok (.fpdSqrt ⟨x, BitVec.ofNat 2 rm⟩)
  | 5 => .ok (.fpdFma ⟨x, BitVec.ofNat 2 rm⟩)
  | 6 => .ok (.fpdFms ⟨x, BitVec.ofNat 2 rm⟩)
  | 7 => if rm = 0 then .ok (.fpdMin x) else .error 0x01
  | 8 => if rm = 0 then .ok (.fpdMax x) else .error 0x01
  | 9 => if rm = 0 then .ok (.fpdAbs x) else .error 0x01
  | 10 => if rm = 0 then .ok (.fpdNeg x) else .error 0x01
  | 11 => .ok (.fpdCvti ⟨x, BitVec.ofNat 2 rm⟩)
  | 12 => .ok (.fpdCvtf ⟨x, BitVec.ofNat 2 rm⟩)
  | 13 => .ok (.fpdCvtw ⟨x, BitVec.ofNat 2 rm⟩)
  | 14 => .ok (.fpdCvtb ⟨x, BitVec.ofNat 2 rm⟩)
  | 15 => .ok (.fpdCvt8 ⟨x, BitVec.ofNat 2 rm⟩)
  | _ => .error 0x01

/-- The conditions of cmp (Table 3.5): fn[5:3], with the type in fn[2:0]. -/
def parseCmp (x : FmtA) (cond t : Nat) : Except Cause Instr :=
  match cond with
  | 0 => .ok (.cmpEq ⟨x, BitVec.ofNat 3 t⟩)
  | 1 => .ok (.cmpNe ⟨x, BitVec.ofNat 3 t⟩)
  | 2 => .ok (.cmpLt ⟨x, BitVec.ofNat 3 t⟩)
  | 3 => .ok (.cmpGe ⟨x, BitVec.ofNat 3 t⟩)
  | 4 => .ok (.cmpLo ⟨x, BitVec.ofNat 3 t⟩)
  | 5 => .ok (.cmpHs ⟨x, BitVec.ofNat 3 t⟩)
  | 6 => .ok (.cmpUn ⟨x, BitVec.ofNat 3 t⟩)
  | _ => .error 0x01

/-- The function codes of mov (Table 3.5). -/
def parseMov (x : FmtA) (fn : Nat) : Except Cause Instr :=
  match fn with
  | 0 => .ok (.movCp x)
  | 1 => .ok (.movRdp x)
  | 2 => .ok (.movWrp x)
  | 3 => .ok (.movSxb x)
  | 4 => .ok (.movSxh x)
  | 5 => .ok (.movSxw x)
  | 6 => .ok (.movZxb x)
  | 7 => .ok (.movZxh x)
  | 8 => .ok (.movZxw x)
  | _ => .error 0x01

/-- The function codes of jmp (Table 3.5). -/
def parseJmp (x : FmtA) (fn : Nat) : Except Cause Instr :=
  match fn with
  | 0 => .ok (.jmpJr x)
  | 1 => .ok (.jmpJl x)
  | _ => .error 0x01

/-- The function codes of wk (Table 3.5). -/
def parseWk (x : FmtA) (fn : Nat) : Except Cause Instr :=
  match fn with
  | 0 => .ok (.wkSpawn x)
  | 1 => .ok (.wkMigr x)
  | 2 => .ok (.wkWaitw x)
  | 3 => .ok (.wkSusp x)
  | 4 => .ok (.wkDone x)
  | 5 => .ok (if x.a = .reg 0 then .wkSnuffSelf x else .wkSnuff x)
  | 6 => .ok (.wkLaunch x)
  | 7 => .ok (.wkPrio x)
  | _ => .error 0x01

/-- The function codes of ld (Table 8.6). -/
def parseLd (x : FmtA) (w : IWord) : Except Cause Instr :=
  if bit w 5 then .ok (.ldAcq ⟨x, bit w 4, BitVec.ofNat 4 (fld w 0 4)⟩)
  else if bit w 0 then .error 0x01
  else .ok (.ld ⟨x, bit w 4, bit w 3, BitVec.ofNat 2 (fld w 1 2)⟩)

/-- The function codes of st (Table 8.6). -/
def parseSt (x : FmtA) (w : IWord) : Except Cause Instr :=
  if bit w 5 then .ok (.stRel ⟨x, bit w 4, BitVec.ofNat 4 (fld w 0 4)⟩)
  else if bit w 0 then .error 0x01
  else .ok (.st ⟨x, bit w 4, bit w 3, BitVec.ofNat 2 (fld w 1 2)⟩)

/-- The operations of amo (Table 3.5): fn[5:2], with width in fn[1] and relaxed in fn[0]. -/
def parseAmo (x : FmtA) (op : Nat) (dbl rel : Bool) : Except Cause Instr :=
  match op with
  | 0 => .ok (.amoAdd ⟨x, dbl, rel⟩)
  | 1 => .ok (.amoAnd ⟨x, dbl, rel⟩)
  | 2 => .ok (.amoOr ⟨x, dbl, rel⟩)
  | 3 => .ok (.amoXor ⟨x, dbl, rel⟩)
  | 4 => .ok (.amoMin ⟨x, dbl, rel⟩)
  | 5 => .ok (.amoMax ⟨x, dbl, rel⟩)
  | 6 => .ok (.amoMinz ⟨x, dbl, rel⟩)
  | 7 => .ok (.amoMaxz ⟨x, dbl, rel⟩)
  | 8 => .ok (.amoSwap ⟨x, dbl, rel⟩)
  | 9 => .ok (.amoCas ⟨x, dbl, rel⟩)
  | 10 => .ok (.amoFadd ⟨x, dbl, rel⟩)
  | _ => .error 0x01

/-- The kinds of fence (Table 3.5): fn[5:4], with the scope code in fn[3:0]. -/
def parseFence (x : FmtA) (kind scope : Nat) : Except Cause Instr :=
  match kind with
  | 0 => .ok (.fenceAll ⟨x, BitVec.ofNat 4 scope⟩)
  | 1 => .ok (.fenceSt ⟨x, BitVec.ofNat 4 scope⟩)
  | 2 => .ok (.fenceLd ⟨x, BitVec.ofNat 4 scope⟩)
  | _ => .error 0x01

/-- The function codes of mon (Table 3.5). -/
def parseMon (x : FmtA) (fn : Nat) : Except Cause Instr :=
  match fn with
  | 0 => .ok (.monArm x)
  | 1 => .ok (.monDis x)
  | 2 => .ok (.monWait x)
  | 3 => .ok (.monClr x)
  | _ => .error 0x01

/-- The function codes of vec (Table 3.5). -/
def parseVec (x : FmtV) (fn : Nat) : Except Cause Instr :=
  match fn with
  | 0 => .ok (.vecAdd x)
  | 1 => .ok (.vecSub x)
  | 2 => .ok (.vecMul x)
  | 3 => .ok (.vecFma x)
  | 4 => .ok (.vecMin x)
  | 5 => .ok (.vecMax x)
  | 6 => .ok (.vecAbs x)
  | 7 => .ok (.vecNeg x)
  | 8 => .ok (.vecAnd x)
  | 9 => .ok (.vecOr x)
  | 10 => .ok (.vecXor x)
  | 11 => .ok (.vecShl x)
  | 12 => .ok (.vecShr x)
  | 13 => .ok (.vecSra x)
  | 14 => .ok (.vecSel x)
  | 15 => .ok (.vecShuf x)
  | 16 => .ok (.vecBcast x)
  | 17 => .ok (.vecRsum x)
  | 18 => .ok (.vecRmax x)
  | 19 => .ok (.vecRmin x)
  | 20 => .ok (.vecCvt x)
  | 21 => .ok (.vecScale x)
  | 22 => .ok (.vecCeq x)
  | 23 => .ok (.vecClt x)
  | _ => .error 0x01

/-- The function codes of vld (Table 3.5). -/
def parseVld (x : FmtV) (fn : Nat) : Except Cause Instr :=
  match fn with
  | 0 => .ok (.vldC x)
  | 1 => .ok (.vldS x)
  | 2 => .ok (.vldCR x)
  | 3 => .ok (.vldSR x)
  | _ => .error 0x01

/-- The function codes of vst (Table 3.5). -/
def parseVst (x : FmtV) (fn : Nat) : Except Cause Instr :=
  match fn with
  | 0 => .ok (.vstC x)
  | 1 => .ok (.vstS x)
  | 2 => .ok (.vstCR x)
  | 3 => .ok (.vstSR x)
  | _ => .error 0x01

/-- The function codes of vgth (Table 3.5). -/
def parseVgth (x : FmtV) (fn : Nat) : Except Cause Instr :=
  match fn with
  | 0 => .ok (.vgthG x)
  | 1 => .ok (.vgthGt x)
  | _ => .error 0x01

/-- The function codes of enq (Table 3.5). -/
def parseEnq (x : FmtE) (fn : Nat) : Except Cause Instr :=
  match fn with
  | 0 => .ok (.enqWt x)
  | 1 => .ok (.enqTry x)
  | _ => .error 0x01

/-- The function codes of vg (Table 3.5). -/
def parseVg (x : FmtA) (fn : Nat) : Except Cause Instr :=
  match fn with
  | 0 => .ok (.vgInit x)
  | 1 => .ok (.vgJoin x)
  | 2 => .ok (.vgLeave x)
  | 3 => .ok (.vgArr x)
  | 4 => .ok (.vgWait x)
  | 5 => .ok (.vgArrw x)
  | 6 => .ok (if x.a = .reg 0 then .vgBrkGroup x else .vgBrk x)
  | 7 => .ok (.vgStat x)
  | _ => .error 0x01

/-- The function codes of trap (Table 3.5). -/
def parseTrap (x : FmtA) (fn : Nat) : Except Cause Instr :=
  match fn with
  | 0 => .ok (.trapSw x)
  | 1 => .ok (.trapRet x)
  | 2 => .ok (.trapBrk x)
  | 3 => .ok (.trapMsk x)
  | _ => .error 0x01

/-- The function codes of tlb (Table 3.5). -/
def parseTlb (x : FmtA) (fn : Nat) : Except Cause Instr :=
  match fn with
  | 0 => .ok (.tlbFill x)
  | 1 => .ok (.tlbInvr x)
  | 2 => .ok (.tlbInva x)
  | 3 => .ok (.tlbPrb x)
  | _ => .error 0x01

/-- The function codes of fab (Table 3.5). -/
def parseFab (x : FmtA) (fn : Nat) : Except Cause Instr :=
  match fn with
  | 0 => .ok (.fabConn x)
  | 1 => .ok (.fabClose x)
  | 2 => .ok (.fabSlot x)
  | 3 => .ok (.fabStat x)
  | 4 => .ok (.fabGnt x)
  | _ => .error 0x01

/-- The function codes of lan (Table 3.5). -/
def parseLan (x : FmtA) (fn : Nat) : Except Cause Instr :=
  match fn with
  | 0 => .ok (.lanInst x)
  | 1 => .ok (.lanDrop x)
  | 2 => .ok (.lanStat x)
  | 3 => .ok (.lanDflt x)
  | _ => .error 0x01

/-- The function codes of tap (Table 3.5). -/
def parseTap (x : FmtA) (fn : Nat) : Except Cause Instr :=
  match fn with
  | 0 => .ok (.tapLoad x)
  | 1 => .ok (.tapGo x)
  | 2 => .ok (.tapHalt x)
  | 3 => .ok (.tapStat x)
  | 4 => .ok (.tapHead x)
  | _ => .error 0x01

/-- The function codes of cx (Table 3.5). -/
def parseCx (x : FmtK) (fn : Nat) : Except Cause Instr :=
  match fn with
  | 0 => .ok (.cxLoad x)
  | 1 => .ok (.cxBind x)
  | 2 => .ok (.cxRebind x)
  | 3 => .ok (.cxGen x)
  | 4 => .ok (.cxDrop x)
  | _ => .error 0x01

/-- The function codes of ck (Table 3.5). -/
def parseCk (x : FmtK) (fn : Nat) : Except Cause Instr :=
  match fn with
  | 0 => .ok (.ckDx x)
  | 1 => .ok (.ckStar x)
  | 2 => .ok (.ckIstar x)
  | 3 => .ok (.ckCodif x)
  | 4 => .ok (.ckWedge x)
  | 5 => .ok (.ckInterp x)
  | 6 => .ok (.ckCvt x)
  | 7 => .ok (.ckAnch x)
  | 8 => .ok (.ckAxpy x)
  | 9 => .ok (.ckDot x)
  | 10 => .ok (.ckHpack x)
  | 11 => .ok (.ckHunp x)
  | _ => .error 0x01

/-- The function codes of mx (Table 3.5). -/
def parseMx (x : FmtM) (fn : Nat) : Except Cause Instr :=
  match fn with
  | 0 => .ok (.mxMma x)
  | 1 => .ok (.mxMmaz0 x)
  | 2 => .ok (.mxMmaz1 x)
  | 3 => .ok (.mxClr x)
  | 4 => .ok (.mxSt x)
  | 5 => .ok (.mxLd x)
  | _ => .error 0x01

/-- The instruction of a word and the two words that follow it, by opcode and function code alone: cause 0x00 for an
unassigned opcode, 0x01 for an unassigned function code (R48, R49). -/
def parse (w l1 l2 : IWord) : Except Cause Instr :=
  match fld w 25 7 with
  | 1 => parseAlu (fieldsA w l1 l2) (fld w 0 6)
  | 8 => .ok (.aluiAdd (fieldsI w l1 l2))
  | 9 => .ok (.aluiAnd (fieldsI w l1 l2))
  | 10 => .ok (.aluiOr (fieldsI w l1 l2))
  | 11 => .ok (.aluiXor (fieldsI w l1 l2))
  | 12 => .ok (.aluiShl (fieldsI w l1 l2))
  | 13 => .ok (.aluiShr (fieldsI w l1 l2))
  | 14 => .ok (.aluiSra (fieldsI w l1 l2))
  | 15 => .ok (.aluiMul (fieldsI w l1 l2))
  | 2 => parseFpu (fieldsA w l1 l2) (fld w 2 4) (fld w 0 2)
  | 6 => parseFpd (fieldsA w l1 l2) (fld w 2 4) (fld w 0 2)
  | 3 => parseCmp (fieldsA w l1 l2) (fld w 3 3) (fld w 0 3)
  | 4 => parseMov (fieldsA w l1 l2) (fld w 0 6)
  | 5 => .ok (.sysRw (fieldsS w l1 l2))
  | 16 => .ok (if bit w 20 then .brLink (fieldsB w) else .br (fieldsB w))
  | 17 => parseJmp (fieldsA w l1 l2) (fld w 0 6)
  | 18 => parseWk (fieldsA w l1 l2) (fld w 0 6)
  | 24 => parseLd (fieldsA w l1 l2) w
  | 25 => parseSt (fieldsA w l1 l2) w
  | 26 => parseAmo (fieldsA w l1 l2) (fld w 2 4) (bit w 1) (bit w 0)
  | 27 => parseFence (fieldsA w l1 l2) (fld w 4 2) (fld w 0 4)
  | 28 => parseMon (fieldsA w l1 l2) (fld w 0 6)
  | 32 => parseVec (fieldsV w) (fld w 0 6)
  | 33 => parseVld (fieldsV w) (fld w 0 6)
  | 34 => parseVst (fieldsV w) (fld w 0 6)
  | 35 => parseVgth (fieldsV w) (fld w 0 6)
  | 48 => parseEnq (fieldsE w l1 l2) (fld w 0 6)
  | 49 => parseVg (fieldsA w l1 l2) (fld w 0 6)
  | 50 => parseTrap (fieldsA w l1 l2) (fld w 0 6)
  | 51 => parseTlb (fieldsA w l1 l2) (fld w 0 6)
  | 52 => parseFab (fieldsA w l1 l2) (fld w 0 6)
  | 53 => parseLan (fieldsA w l1 l2) (fld w 0 6)
  | 54 => parseTap (fieldsA w l1 l2) (fld w 0 6)
  | 64 => parseCx (fieldsK w) (fld w 0 8)
  | 65 => parseCk (fieldsK w) (fld w 0 8)
  | 80 => parseMx (fieldsM w) (fld w 8 5)
  | _ => .error 0x00

/-- The decoder: the instruction, or the lowest-numbered decode cause that the word raises (R45). -/
def decode (w l1 l2 : IWord) : Except Cause Instr :=
  match parse w l1 l2 with
  | .error c => .error c
  | .ok i =>
    match i.wordCause with
    | some c => .error c
    | none => .ok i

/-- Why a string of bytes is not an instruction: too few bytes, or a decode cause. -/
inductive Reject where
  | short
  | cause (c : Cause)
  deriving DecidableEq, Repr

/-- A little-endian word of four bytes (R3). -/
def word4 (a b c d : Byte) : IWord :=
  BitVec.ofNat 32 (a.toNat + b.toNat * 2 ^ 8 + c.toNat * 2 ^ 16 + d.toNat * 2 ^ 24)

/-- The words of a string of bytes. -/
def wordsOf : List Byte → List IWord
  | a :: b :: c :: d :: rest => word4 a b c d :: wordsOf rest
  | _ => []

/-- Decode the instruction at the head of a string of bytes: the instruction and the bytes after it. -/
def decodeBytes (bs : List Byte) : Except Reject (Instr × List Byte) :=
  match wordsOf bs with
  | [] => .error .short
  | w :: more =>
    match decode w (more.getD 0 0) (more.getD 1 0) with
    | .error c => .error (.cause c)
    | .ok i => if bs.length < i.enc.len then .error .short else .ok (i, bs.drop i.enc.len)

/-- The instruction decoded from a word numbered as the opcode table numbers its bits: the first word in bits 31
to 0, and every literal word zero. -/
def decodeTableWord (_nbits w : Nat) : Option Instr :=
  match decode (BitVec.ofNat 32 w) (BitVec.ofNat 32 (w / 2 ^ 32)) (BitVec.ofNat 32 (w / 2 ^ 64)) with
  | .ok i => some i
  | .error _ => none

/-- The words of an instruction: its instruction word, then its literal (R39). -/
def encode (i : Instr) : List IWord := BitVec.ofNat 32 i.enc.word :: i.enc.literals

/-- The instruction word of an instruction, which a decode trap reports (R226). -/
def Instr.firstWord (i : Instr) : IWord := BitVec.ofNat 32 i.enc.word

end Sys2Proof
end

