-- ==== Sys2Proof/Machine/Float.lean ====
section
/-!
DEFINITION. Number formats and rounding (spec 02_numbers.md, R18 to R37): exact values as fractions, one rounding
operation for every floating format, and the conversions between formats.
-/

namespace Sys2Proof.Machine

/-- The rounding codes of Table 2.2 (R19). -/
inductive Rm where
  | rne | rtz | rup | rdn
  deriving DecidableEq, Repr

/-- The mode a 2-bit rounding code names (Table 2.2). -/
def Rm.ofCode (c : BitVec 2) : Rm :=
  if c = 0 then .rne else if c = 1 then .rtz else if c = 2 then .rup else .rdn

/-- The exact value of a pattern or of an operation: NaN, an infinity, or a signed fraction. -/
inductive FV where
  | nan
  | inf (neg : Bool)
  | fin (neg : Bool) (num den : Nat)
  deriving DecidableEq, Repr

/-- Sticky flags of Table 2.5 as one byte. -/
abbrev Fl := BitVec 8

namespace Flag
def nv : Fl := 0x01
def dz : Fl := 0x02
def of : Fl := 0x04
def uf : Fl := 0x08
def nx : Fl := 0x10
def sat : Fl := 0x20
def rg : Fl := 0x40
end Flag

/-- A floating format with its precision (significand bits with the leading one), its smallest normal exponent,
its storage width, and whether its top exponent holds infinities and NaN as IEEE 754 has it. -/
structure FFmt where
  p : Nat
  emin : Int
  width : Nat
  ieee : Bool
  deriving DecidableEq, Repr

/-- binary32 (R25). -/
def fp32 : FFmt := ⟨24, -126, 32, true⟩
/-- binary64 (R25). -/
def fp64 : FFmt := ⟨53, -1022, 64, true⟩
/-- BF16: the upper half of a binary32 (R25). -/
def bf16 : FFmt := ⟨8, -126, 16, true⟩
/-- FP8 E4M3 (R20). -/
def fp8 : FFmt := ⟨4, -6, 8, false⟩
/-- FP4 E2M1 (R22). -/
def fp4 : FFmt := ⟨2, 0, 4, false⟩

/-- The largest biased exponent field of a format. -/
def FFmt.expMax (f : FFmt) : Nat := 2 ^ (f.width - f.p) - 1

/-- 2 to an integer power, as a fraction times `n / d`. -/
def scale2 (n d : Nat) (e : Int) : Nat × Nat :=
  if e < 0 then (n, d * 2 ^ e.natAbs) else (n * 2 ^ e.natAbs, d)

/-- The value of a pattern (R20, R22, R25). -/
def FFmt.decode (f : FFmt) (w : Nat) : FV :=
  let m := w % 2 ^ (f.p - 1)
  let e := w / 2 ^ (f.p - 1) % 2 ^ (f.width - f.p)
  let neg := w / 2 ^ (f.width - 1) % 2 = 1
  if f.ieee ∧ e = f.expMax then
    if m = 0 then .inf neg else .nan
  else if f.width = 8 ∧ e = f.expMax ∧ m = 2 ^ (f.p - 1) - 1 then .nan
  else if e = 0 then
    let q := scale2 m 1 (f.emin - ((f.p : Int) - 1))
    .fin neg q.1 q.2
  else
    let q := scale2 (2 ^ (f.p - 1) + m) 1 (f.emin - ((f.p : Int) - 1) + (e : Int) - 1)
    .fin neg q.1 q.2

/-- The canonical NaN pattern (R20, R25). -/
def FFmt.nan (f : FFmt) : Nat :=
  if f.ieee then (2 ^ (f.width - f.p + 1) - 1) * 2 ^ (f.p - 2) else 2 ^ (f.width - 1) - 1

/-- The sign bit of a format, where set. -/
def FFmt.signBit (f : FFmt) (neg : Bool) : Nat := if neg then 2 ^ (f.width - 1) else 0

/-- The infinity of a sign (IEEE formats). -/
def FFmt.inf (f : FFmt) (neg : Bool) : Nat := f.signBit neg + f.expMax * 2 ^ (f.p - 1)

/-- The largest finite magnitude's pattern: one below infinity in IEEE formats, 448 and 6 in FP8 and FP4. -/
def FFmt.maxFinite (f : FFmt) (neg : Bool) : Nat :=
  f.signBit neg +
    (if f.ieee then f.expMax * 2 ^ (f.p - 1) - 1
     else if f.width = 8 then 2 ^ (f.width - 1) - 2 else 2 ^ (f.width - 1) - 1)

/-- `n / d` in units of 2^`q`, rounded to an integer; and whether that was inexact (R19). -/
def roundTo (rm : Rm) (neg : Bool) (n d : Nat) (q : Int) : Nat × Bool :=
  let (n', d') := if q < 0 then (n * 2 ^ q.natAbs, d) else (n, d * 2 ^ q.natAbs)
  let fl := n' / d'
  let r := n' % d'
  let up : Bool :=
    match rm with
    | .rne => decide (2 * r > d') || (decide (2 * r = d') && decide (fl % 2 = 1))
    | .rtz => false
    | .rup => decide (r ≠ 0) && !neg
    | .rdn => decide (r ≠ 0) && neg
  (if up then fl + 1 else fl, decide (r ≠ 0))

/-- The exponent `e` with 2^e ≤ n/d < 2^(e+1), for n and d positive. -/
def expOf (n d : Nat) : Int :=
  let e : Int := (Nat.log2 n : Int) - (Nat.log2 d : Int)
  let q := scale2 1 1 e
  if n * q.2 < d * q.1 then e - 1 else e

/-- The overflow pattern of an IEEE format (R25). -/
def FFmt.overflow (f : FFmt) (rm : Rm) (neg : Bool) : Nat :=
  match rm with
  | .rne => f.inf neg
  | .rtz => f.maxFinite neg
  | .rup => if neg then f.maxFinite neg else f.inf neg
  | .rdn => if neg then f.inf neg else f.maxFinite neg

/-- Whether a rounded magnitude of `m` units of 2^`q` is above the format's largest finite value. -/
def FFmt.tooBig (f : FFmt) (m : Nat) (q : Int) : Bool :=
  match f.decode (f.maxFinite false) with
  | .fin _ a b =>
    let s := scale2 m 1 q
    decide (s.1 * b > a * s.2)
  | _ => false

/-- Round a finite value into a format, with flags (R19, R21, R24, R25). A rounding to zero keeps the sign. -/
def FFmt.roundFin (f : FFmt) (rm : Rm) (neg : Bool) (n d : Nat) : Nat × Fl :=
  if n = 0 then (f.signBit neg, 0)
  else
    let e := expOf n d
    let qmin := f.emin - ((f.p : Int) - 1)
    let qe := e - ((f.p : Int) - 1)
    let q := if qe < qmin then qmin else qe
    let r := roundTo rm neg n d q
    let u := roundTo rm neg n d qe
    let tiny : Bool := decide (e < f.emin) && !(decide (e = f.emin - 1) && decide (u.1 = 2 ^ f.p))
    let (m, q') := if r.1 = 2 ^ f.p then (2 ^ (f.p - 1), q + 1) else (r.1, q)
    if f.tooBig m q' then
      if f.ieee then (f.overflow rm neg, Flag.of ||| Flag.nx)
      else (f.maxFinite neg, Flag.sat ||| Flag.nx)
    else
      let fl : Fl := (if r.2 then Flag.nx else 0) ||| (if r.2 && tiny then Flag.uf else 0)
      let biased : Nat := if m < 2 ^ (f.p - 1) then 0 else (q' - qmin + 1).toNat
      let man := m % 2 ^ (f.p - 1)
      (f.signBit neg + biased * 2 ^ (f.p - 1) + man, fl)

/-- Round any exact value into a format, with flags. FP8 has no infinity (R21) and FP4 neither infinity nor NaN
(R24). -/
def FFmt.round (f : FFmt) (rm : Rm) (v : FV) : Nat × Fl :=
  match v with
  | .nan =>
    if f.ieee then (f.nan, 0) else if f.width = 8 then (f.nan, Flag.nv) else (0, Flag.nv)
  | .inf neg =>
    if f.ieee then (f.inf neg, 0)
    else if f.width = 8 then (f.signBit neg + f.nan, Flag.nv)
    else (f.maxFinite neg, Flag.sat)
  | .fin neg n d => f.roundFin rm neg n d

/-- The sign of a value; NaN has none. -/
def FV.isNeg : FV → Bool
  | .nan => false
  | .inf neg => neg
  | .fin neg _ _ => neg

/-- Whether a value is NaN. -/
def FV.isNan : FV → Bool
  | .nan => true
  | _ => false

/-- The value with its sign inverted. -/
def FV.negate : FV → FV
  | .nan => .nan
  | .inf neg => .inf (!neg)
  | .fin neg n d => .fin (!neg) n d

/-- The value with its sign cleared. -/
def FV.abs : FV → FV
  | .nan => .nan
  | .inf _ => .inf false
  | .fin _ n d => .fin false n d

/-- A signed numerator. -/
def signed (neg : Bool) (n : Nat) : Int := if neg then -(n : Int) else (n : Int)

/-- The exact sum; an exact zero of opposite signs is +0, or −0 under RDN (R19); ∞ − ∞ is invalid. -/
def FV.add (rm : Rm) : FV → FV → FV × Fl
  | .nan, _ => (.nan, 0)
  | _, .nan => (.nan, 0)
  | .inf a, .inf b => if a = b then (.inf a, 0) else (.nan, Flag.nv)
  | .inf a, .fin _ _ _ => (.inf a, 0)
  | .fin _ _ _, .inf b => (.inf b, 0)
  | .fin sa na da, .fin sb nb db =>
    let z : Int := signed sa na * (db : Int) + signed sb nb * (da : Int)
    if z = 0 then
      if sa = sb then (.fin sa 0 1, 0) else (.fin (decide (rm = .rdn)) 0 1, 0)
    else (.fin (decide (z < 0)) z.natAbs (da * db), 0)

/-- The exact product; 0 × ∞ is invalid. -/
def FV.mul : FV → FV → FV × Fl
  | .nan, _ => (.nan, 0)
  | _, .nan => (.nan, 0)
  | .inf a, .inf b => (.inf (a ^^ b), 0)
  | .inf a, .fin b n _ => if n = 0 then (.nan, Flag.nv) else (.inf (a ^^ b), 0)
  | .fin a n _, .inf b => if n = 0 then (.nan, Flag.nv) else (.inf (a ^^ b), 0)
  | .fin a na da, .fin b nb db => (.fin (a ^^ b) (na * nb) (da * db), 0)

/-- The exact quotient; 0/0 and ∞/∞ are invalid; a finite non-zero value over zero is an infinity and sets dz. -/
def FV.div : FV → FV → FV × Fl
  | .nan, _ => (.nan, 0)
  | _, .nan => (.nan, 0)
  | .inf _, .inf _ => (.nan, Flag.nv)
  | .inf a, .fin b _ _ => (.inf (a ^^ b), 0)
  | .fin a _ _, .inf b => (.fin (a ^^ b) 0 1, 0)
  | .fin a na da, .fin b nb db =>
    if nb = 0 then
      if na = 0 then (.nan, Flag.nv) else (.inf (a ^^ b), Flag.dz)
    else (.fin (a ^^ b) (na * db) (da * nb), 0)

/-- The integer square root by its bits, from bit `i − 1` down. -/
def isqrtBits (m : Nat) : Nat → Nat → Nat
  | 0, s => s
  | i + 1, s =>
    let t := s + 2 ^ i
    isqrtBits m i (if t * t ≤ m then t else s)

/-- The integer square root. -/
def isqrt (m : Nat) : Nat := isqrtBits m (Nat.log2 m / 2 + 1) 0

/-- A fraction on the same side of every rounding boundary of `p` bits as the square root of `n / 2^k`-style
fraction `n / d`, where `d` is a power of two: 2·⌊√⌋ at 64 or more bits, with a sticky unit. -/
def sqrtFrac (n d : Nat) : Nat × Nat :=
  let k := Nat.log2 d
  let k' := k + k % 2
  let n' := n * 2 ^ (k' - k) * 2 ^ 256
  let s := isqrt n'
  (2 * s + (if s * s = n' then 0 else 1), 2 ^ (k' / 2 + 129))

/-- The square root (R128): √−0 is −0, a negative operand is invalid. -/
def FV.sqrt : FV → FV × Fl
  | .nan => (.nan, 0)
  | .inf neg => if neg then (.nan, Flag.nv) else (.inf false, 0)
  | .fin neg n d =>
    if n = 0 then (.fin neg 0 1, 0)
    else if neg then (.nan, Flag.nv)
    else
      let q := sqrtFrac n d
      (.fin false q.1 q.2, 0)

/-- Comparison of two values that are not NaN: −0 equals +0. -/
def FV.lt : FV → FV → Bool
  | .nan, _ => false
  | _, .nan => false
  | .inf a, .inf b => a && !b
  | .inf a, .fin _ _ _ => a
  | .fin _ _ _, .inf b => !b
  | .fin sa na da, .fin sb nb db => decide (signed sa na * (db : Int) < signed sb nb * (da : Int))

/-- Equality of values; NaN equals nothing. -/
def FV.eqv : FV → FV → Bool
  | .nan, _ => false
  | _, .nan => false
  | a, b => !(FV.lt a b) && !(FV.lt b a)

/-- The lesser pattern, with −0 below +0; if one operand is NaN the other; if both, the canonical NaN (Table 6.8). -/
def FFmt.min (f : FFmt) (x y : Nat) : Nat :=
  let a := f.decode x
  let b := f.decode y
  if a.isNan then (if b.isNan then f.nan else y)
  else if b.isNan then x
  else if a.lt b then x
  else if b.lt a then y
  else if a.isNeg then x else y

/-- The greater pattern, by the same rules. -/
def FFmt.max (f : FFmt) (x y : Nat) : Nat :=
  let a := f.decode x
  let b := f.decode y
  if a.isNan then (if b.isNan then f.nan else y)
  else if b.isNan then x
  else if a.lt b then y
  else if b.lt a then x
  else if a.isNeg then y else x

/-- A pattern's value with the sign cleared (Table 6.8, abs). -/
def FFmt.absBits (f : FFmt) (x : Nat) : Nat :=
  if (f.decode x).isNan then f.nan else x % 2 ^ (f.width - 1)

/-- A pattern's value with the sign inverted (Table 6.8, neg). -/
def FFmt.negBits (f : FFmt) (x : Nat) : Nat :=
  if (f.decode x).isNan then f.nan
  else if x / 2 ^ (f.width - 1) % 2 = 1 then x % 2 ^ (f.width - 1) else x % 2 ^ (f.width - 1) + 2 ^ (f.width - 1)

/-- An operation of one rounding: the exact result, its flags, then the rounding and its flags. -/
def FFmt.finish (f : FFmt) (rm : Rm) (r : FV × Fl) : Nat × Fl :=
  let o := f.round rm r.1
  (o.1, r.2 ||| o.2)

/-- x + y, rounded once. -/
def FFmt.add (f : FFmt) (rm : Rm) (x y : Nat) : Nat × Fl :=
  f.finish rm ((f.decode x).add rm (f.decode y))

/-- x − y, rounded once. -/
def FFmt.sub (f : FFmt) (rm : Rm) (x y : Nat) : Nat × Fl :=
  f.finish rm ((f.decode x).add rm (f.decode y).negate)

/-- x × y, rounded once. -/
def FFmt.mul (f : FFmt) (rm : Rm) (x y : Nat) : Nat × Fl :=
  f.finish rm ((f.decode x).mul (f.decode y))

/-- x / y, rounded once. -/
def FFmt.div (f : FFmt) (rm : Rm) (x y : Nat) : Nat × Fl :=
  f.finish rm ((f.decode x).div (f.decode y))

/-- √x, rounded once. -/
def FFmt.sqrt (f : FFmt) (rm : Rm) (x : Nat) : Nat × Fl :=
  f.finish rm (f.decode x).sqrt

/-- z + x × y of exact values. -/
def FV.fma (rm : Rm) (z x y : FV) : FV × Fl :=
  let m := x.mul y
  let a := z.add rm m.1
  (a.1, m.2 ||| a.2)

/-- z + x × y, rounded once. -/
def FFmt.fma (f : FFmt) (rm : Rm) (z x y : Nat) : Nat × Fl :=
  f.finish rm (FV.fma rm (f.decode z) (f.decode x) (f.decode y))

/-- z − x × y, rounded once. -/
def FFmt.fms (f : FFmt) (rm : Rm) (z x y : Nat) : Nat × Fl :=
  f.finish rm (FV.fma rm (f.decode z) (f.decode x).negate (f.decode y))

/-- A value rounded to an integer and clamped to a range (R26): out of range and infinities set sat and nx, NaN
gives 0 and sets nv. -/
def FV.toInt (rm : Rm) (lo hi : Int) : FV → Int × Fl
  | .nan => (0, Flag.nv)
  | .inf neg => (if neg then lo else hi, Flag.sat ||| Flag.nx)
  | .fin neg n d =>
    let r := roundTo rm neg n d 0
    let z := signed neg r.1
    if z < lo then (lo, Flag.sat ||| Flag.nx)
    else if hi < z then (hi, Flag.sat ||| Flag.nx)
    else (z, if r.2 then Flag.nx else 0)

/-- An integer as an exact value; zero is +0. -/
def FV.ofInt (z : Int) : FV := .fin (decide (z < 0)) z.natAbs 1

/-- The largest AX64 mantissa, 2^59 − 1 (R32). -/
def axMax : Int := 2 ^ 59 - 1

/-- A value converted to an AX64 mantissa at anchor `A` (R33), RNE whatever the rounding code. -/
def axOfValue (anchor : Int) : FV → Int × Fl
  | .nan => (0, Flag.nv ||| Flag.rg)
  | .inf neg => (if neg then -axMax else axMax, Flag.rg)
  | .fin neg n d =>
    let r := roundTo .rne neg n d anchor
    let z := signed neg r.1
    if axMax < z then (axMax, Flag.rg ||| Flag.nx)
    else if z < -axMax then (-axMax, Flag.rg ||| Flag.nx)
    else (z, if r.2 then Flag.nx else 0)

/-- The exact value m × 2^A of an AX64 mantissa (R32). -/
def axValue (m anchor : Int) : FV :=
  let q := scale2 m.natAbs 1 anchor
  .fin (decide (m < 0)) q.1 q.2

/-- A valid block scale is a positive finite FP32 (R28). -/
def scaleValid (w : Nat) : Bool :=
  match fp32.decode w with
  | .fin false n _ => decide (n ≠ 0)
  | _ => false

/-- rne(a × b, FP32) (R28, R29): a pattern. -/
def rneMul32 (a b : Nat) : Nat := (fp32.mul .rne a b).1

/-- rne(a + b, FP32) (R29): a pattern. -/
def rneAdd32 (a b : Nat) : Nat := (fp32.add .rne a b).1

/-- A combined scale that rounded to +∞ or +0 is out of range (R28). -/
def combinedBad (w : Nat) : Bool := decide (w = fp32.inf false) || decide (w = 0)

/-- BF16 widened to FP32 appends 16 zero bits (R25). -/
def bfWiden (w : Nat) : Nat := w * 65536

end Sys2Proof.Machine
end

