-- ==== Sys2Proof/Machine/Tab.lean ====
section
/-!
DEFINITION. Finite tables keyed by numbers, as plain data: a list of key and value pairs in ascending key order.
Memory (`Host.Cell` pairs), register files, and the tables of slots, cores, clusters, dies and modules are all of
this one shape, so that each law is proved once (Sys2Proof/Laws/Tab.lean).
-/

namespace Sys2Proof.Machine

/-- A table from numbers to values; an unlisted key reads as the default its reader names. -/
abbrev Tab (α : Type) := List (Nat × α)

/-- The value listed for a key, if any. -/
def Tab.find? {α : Type} (k : Nat) : Tab α → Option α
  | [] => none
  | (k', v) :: t => if k = k' then some v else Tab.find? k t

/-- The value at a key, `d` where the key is not listed. -/
def Tab.get {α : Type} (d : α) (t : Tab α) (k : Nat) : α :=
  (Tab.find? k t).getD d

/-- List `v` at `k`, in its place in the order. -/
def Tab.put {α : Type} (k : Nat) (v : α) : Tab α → Tab α
  | [] => [(k, v)]
  | (k', v') :: t =>
    if k = k' then (k, v) :: t
    else if k < k' then (k, v) :: (k', v') :: t
    else (k', v') :: Tab.put k v t

/-- Unlist `k`. -/
def Tab.del {α : Type} (k : Nat) : Tab α → Tab α
  | [] => []
  | (k', v') :: t => if k = k' then Tab.del k t else (k', v') :: Tab.del k t

/-- Write `v` at `k` keeping the canonical form: writing the default unlists the key. -/
def Tab.set {α : Type} [DecidableEq α] (d : α) (t : Tab α) (k : Nat) (v : α) : Tab α :=
  if v = d then Tab.del k t else Tab.put k v t

/-- Change the value at `k` (read with default `d`) by `f`. -/
def Tab.upd {α : Type} (d : α) (t : Tab α) (k : Nat) (f : α → α) : Tab α :=
  Tab.put k (f (Tab.get d t k)) t

/-- Every key is at least `n` and the keys rise strictly. -/
def Tab.above {α : Type} (n : Nat) : Tab α → Bool
  | [] => true
  | (k, _) :: t => decide (n ≤ k) && Tab.above (k + 1) t

/-- No listed value is the default. -/
def Tab.noDefault {α : Type} [DecidableEq α] (d : α) : Tab α → Bool
  | [] => true
  | (_, v) :: t => decide (v ≠ d) && Tab.noDefault d t

/-- The canonical form: keys strictly rising, no entry equal to the default. -/
def Tab.wf {α : Type} [DecidableEq α] (d : α) (t : Tab α) : Bool :=
  Tab.above 0 t && Tab.noDefault d t

/-- The keys listed. -/
def Tab.keys {α : Type} (t : Tab α) : List Nat := t.map Prod.fst

end Sys2Proof.Machine
end

