-- ==== Sys2Proof/Machine/State.lean ====
section
/-!
DEFINITION. The machine's state, as plain data: every piece of state that the spec names, for every unit of every
module of the pod (INVENTORY.md, State). Units are found in tables by location number: a slot by dev * 2^18 +
socket * 2^13 + cluster * 2^7 + core * 2^3 + slot (the low bits of the location word, Table 1.3), a core by that
number div 8, a cluster by that div 16, a die by dev * 32 + socket, a module by dev. An unlisted unit is in its
reset state.
-/

namespace Sys2Proof.Machine

/-- Why a slot is out of the rotation (R85 and the waits that later chapters add). -/
inductive Wait where
  /-- in the rotation -/
  | none
  /-- a plain access whose reply is outstanding -/
  | reply
  /-- an instruction-cache miss or near-window fetch of the address -/
  | fetch (va : Word)
  /-- a TLB miss of the address -/
  | miss (va : Word)
  /-- a register pending on the scoreboard -/
  | reg (n : Nat)
  /-- the receive queue is empty -/
  | mq
  /-- the neighbour's queue is full -/
  | port
  /-- 32 relaxed accesses outstanding -/
  | flights
  /-- acknowledgements of peer stores -/
  | acks
  /-- a suspension point performing the slot's earlier stores: step 3 of R86, which no interrupt abandons (R110) -/
  | performing
  /-- a ready queue without room -/
  | ready
  /-- an engine ring, range-lock table or tile ring without room -/
  | room
  /-- a suspension point waiting for pending registers -/
  | suspend
  /-- `mon.wait`, with the cycle of its timeout if it has one -/
  | monitor (deadline : Option Nat)
  /-- a `mon.wait` whose timeout has ended its wait: in the rotation, to be executed again (R171) -/
  | expired
  /-- an access held at the router of a function that is not yet ready, by its physical address (R410) -/
  | router (pa : Nat)
  /-- such an access that the router has let go: in the rotation, to be executed again (R410) -/
  | released (pa : Nat)
  /-- an access whose home lies outside the cluster, until its turn in the rotation of the cluster's engine (R177) -/
  | turn
  /-- a vigil's line, at the epoch first read (R213) -/
  | vigil (line epoch : Nat)
  /-- a vigil wait on a line and an epoch that a notice has ended: in the rotation, to read the line again (R213) -/
  | noticed (line epoch : Nat)
  /-- a TLB miss of an instruction that no interrupt abandons (R329, R378, R399) -/
  | missHeld (va : Word)
  /-- a TLB miss of a fetch -/
  | fetchMiss (va : Word)
  /-- `tlb.invr` or `tlb.inva` waiting for walks and accesses (R266) -/
  | tlb
  /-- a `fab` instruction waiting for its unit (R293) -/
  | unit
  /-- `cx.load` or `cx.drop` waiting for the operations in flight on its slot (R311, R312) -/
  | busy
  /-- an atomic's reservation -/
  | reservation
  /-- tile rings' occupancy or range-lock entries of a matrix instruction -/
  | tiles
  /-- a ready matrix instruction: the unit serves others (R352) -/
  | unitReady
  /-- a matrix operation under way -/
  | matrix
  /-- held by 0xC0 or 0xC3 with tvec 0 (R238) -/
  | held (cause : Nat)
  /-- a failing wick whose record finds no room (R233), with its cause -/
  | failing (cause : Nat)
  deriving DecidableEq, Repr, Inhabited

/-- One of a slot's four monitors (R170): the line's physical address, whether it is a vigil's, and the fired bit. -/
structure Mon where
  line : Nat
  vigil : Bool
  fired : Bool
  deriving DecidableEq, Repr, Inhabited

/-- A store to a peer that is not yet acknowledged (R173): the device, and the model's number of the instruction. -/
structure PeerStore where
  dev : Nat
  num : Nat
  deriving DecidableEq, Repr, Inhabited

/-- What a release has left at its location (R163, R164): the word (address div 8), the releasing slot, the scope, and the
stores not yet performed that precede it. -/
structure Release where
  word : Nat
  slot : Nat
  scope : Nat
  nums : List Nat
  deriving DecidableEq, Repr, Inhabited

/-- A deferred-fault latch's contents (R227), with the devices whose refusals it stands for (R278). -/
structure Deferred where
  pc : Word
  dev : Nat
  more : Bool
  owed : List Nat
  deriving DecidableEq, Repr, Inhabited

/-- A register pending on the scoreboard: a general register number, or 32 + a vector register's, and the flight or
engine operation that will write it. -/
structure Pend where
  reg : Nat
  engine : Bool
  id : Nat
  deriving DecidableEq, Repr, Inhabited

/-- A ring push's place (R188): slot, ring, and the tile slot's near-window address. -/
structure RingPush where
  slot : Nat
  ring : Nat
  addr : Nat
  deriving DecidableEq, Repr, Inhabited

/-- An engine operation (R176, R195): who queued it, the command and the blocks copied at issue, and how far it has
run. -/
structure EngOp where
  id : Nat
  eq : Nat
  core : Nat
  slot : Nat
  wick : Nat
  asid : BitVec 9
  sys : Bool
  tok : Nat
  tcw : TWord
  blk : BitVec 512 := 0
  /-- the simplex list of a halo operation (R326), copied at issue -/
  idx : List Nat := []
  /-- the cochain descriptor of a halo operation -/
  c0 : Word := 0
  c1 : Word := 0
  vigil : Option Nat := none
  /-- the stores that precede its issue and are not yet performed (R164, R190) -/
  seen : List Nat := []
  push : Option RingPush := none
  /-- the stream's installation number and image bound at issue; none for the identity stream (R359) -/
  inst : Nat := 0
  image : Option (List Byte) := none
  /-- how many elements, units or chunks it has -/
  total : Nat := 0
  /-- the bytes of the `enq` instruction -/
  len : Nat := 4
  /-- linear indices whose requests the engine has granted, and performed (R176, R177) -/
  granted : Nat := 0
  next : Nat := 0
  bytes : Nat := 0
  oob : Bool := false
  /-- the failure code met, if any -/
  code : Option Nat := none
  ended : Bool := false
  /-- bytes not yet acknowledged by peers, the destination device of a fabric send, a multicast's snapshot and the
  mask of its failed members, and the devices of refusals not yet settled (R278, R285, R287) -/
  acks : Nat := 0
  dest : Option Nat := none
  snap : Option Nat := none
  failed : Nat := 0
  refused : List Nat := []
  /-- the 64 KiB page whose walk it waits for, the token code should the walk be refused (R257), and how many of its
  requests have their turn then -/
  miss : Option (Nat × Nat) := none
  owed : Nat := 0
  deriving DecidableEq, Repr, Inhabited

/-- What a plain access to a peer has changed of its slot before the reply, as it was: vector registers, with the dead
mask, the predicates and oob (R279). -/
structure Undo where
  regs : List (Nat × VWord)
  dead : Word
  pred : BitVec 16
  oob : Word
  deriving DecidableEq, Repr, Inhabited

/-- What the checks of an `mx` instruction found (R346, R348, R349): the format code, the blocks present of B, and fs
after the walk of a sparse form. -/
structure MxIssue where
  fmt : Nat
  present : List Bool := []
  fs : Option Word := none
  deriving DecidableEq, Repr, Inhabited

/-- A barrel slot: the registers of Table 6.1, the slot-held system registers of Table 6.5, and what R82 to R85,
R170, R198, R213 and R227 keep beside them. -/
structure Slot where
  /-- the slot holds a wick -/
  occ : Bool := false
  /-- it waits for a wick in `wk.waitw` after its wick has retired (R104) -/
  waitw : Bool := false
  wait : Wait := .none
  /-- the model's number of the wick in the slot -/
  wick : Nat := 0
  pc : Word := 0
  /-- the kind flags of Table 5.3: bit 0 sys, bit 1 hold -/
  kind : BitVec 5 := 0
  prio : BitVec 2 := 0
  asid : BitVec 9 := 0
  /-- the asid of the last wick that ran in the slot (R83) -/
  lastAsid : BitVec 9 := 0
  fmt : BitVec 7 := 0
  aff : BitVec 8 := 0
  grp : BitVec 16 := 0
  g : Tab Word := []
  pred : BitVec 16 := 1
  fflags : BitVec 8 := 0
  fa : Word := 0
  fb : Word := 0
  fc : Word := 0
  fs : Word := 0
  cvm : Word := 0xFF80
  dead : Word := 0
  /-- qctl.pp -/
  pp : BitVec 3 := 7
  oob : Word := 0
  v : Tab VWord := []
  /-- c0 to c7, words 0 and 1 of each descriptor -/
  c0 : Tab Word := []
  c1 : Tab Word := []
  tvec : Word := 0
  tcause : Word := 0
  tepc : Word := 0
  tval : Word := 0
  tsave : Word := 0
  tmask : Word := 0x100000000
  uvec : Word := 0
  ucause : Word := 0
  uepc : Word := 0
  uval : Word := 0
  pend : List Pend := []
  mons : Tab Mon := []
  latch : Option Deferred := none
  /-- stores to peers not yet acknowledged (R173) -/
  peerOut : List PeerStore := []
  /-- numbers of other slots' stores that the wick has observed before they are performed (R164) -/
  seen : List Nat := []
  /-- the vigil latch: line and epoch (R213) -/
  vlatch : Option (Nat × Nat) := none
  /-- the `vgth` fault latch: page and cause (R198) -/
  glatch : Option (Nat × Nat) := none
  /-- the system handler has been entered and not yet returned from (R209, R221, R244) -/
  handler : Bool := false
  /-- the fate-P cause whose upcall handler runs in the slot (R260) -/
  parkU : Option Nat := none
  /-- the fate-P cause whose system handler runs in the slot (R260) -/
  parkS : Option Nat := none
  launch : Option LaunchTag := none
  taper : Option TaperTag := none
  /-- all-slots sources this slot has yet to take: cause and tval (R236) -/
  irqAll : List (Nat × Word) := []
  /-- an `enq` that waits for room, as copied at its issue (R54, R195) -/
  held : Option EngOp := none
  /-- vigils (line, epoch) the wick has arrived at (R205) -/
  arrived : List (Nat × Nat) := []
  /-- replies a plain access still waits for -/
  replies : Nat := 0
  /-- the poll of mqp that an instruction which has not completed will write: the pair's first predicate and the
  result (R116) -/
  polled : Option (Nat × Bool) := none
  /-- the timeout or the notice that ended the wait of the instruction now executed again, should a further wait have
  followed it (R171, R213) -/
  met : Wait := .none
  /-- what the checks of an `mx` instruction found at issue, and whether a `cx.load` or `cx.drop` has advanced its
  generation: neither is done again after a wait (R311, R312, R346) -/
  mxIssue : Option MxIssue := none
  begun : Bool := false
  /-- the last wait of the instruction now to be executed again is one that no interrupt abandons: it goes on before an
  interrupt is taken (R174, R329, R378, R399) -/
  firm : Bool := false
  /-- the access of the instruction now to be executed again has had its turn (R177) -/
  turn : Bool := false
  /-- what a plain access to a peer undoes should the peer leave, and record lines that a wick instruction has read from
  peers (R279) -/
  undo : Option Undo := none
  lines : List (Nat × Nat) := []
  /-- the cycle of the last issue (R84) -/
  lastIssue : Option Nat := none
  /-- the cycle since which the slot has held no wick, and whether it is gated (R120) -/
  emptySince : Nat := 0
  gated : Bool := false
  deriving DecidableEq, Repr, Inhabited

/-- One write of an h register: the cycle, the writer's asid and the value (R115). -/
structure HWrite where
  cycle : Nat
  asid : BitVec 9
  v : Word
  deriving DecidableEq, Repr, Inhabited

/-- An accumulator tile (R339): its tag and the FP32 words that are not zero. -/
structure Acc where
  asid : BitVec 9 := 0
  w : Tab Nat := []
  deriving DecidableEq, Repr, Inhabited

/-- A TLB entry (R250 to R253): asid, page size, page number, way and the leaf entry. -/
structure TlbEntry where
  asid : BitVec 9
  size : Nat
  vpage : Nat
  way : Nat
  leaf : Word
  deriving DecidableEq, Repr, Inhabited

/-- A relaxed access that has issued (R160). -/
structure Flight where
  id : Nat
  slot : Nat
  wick : Nat
  /-- its first request -/
  req : PeerReq
  /-- the requests whose homes lie in the module -/
  near : List PeerReq
  /-- the physical addresses of the requests not yet answered -/
  homes : List Nat
  /-- the core's cycle at its issue (R115) -/
  cycle : Nat
  deriving DecidableEq, Repr, Inhabited

/-- A matrix operation whose ranges are registered (R346 to R352): the mfn's kind (0 multiply-accumulate, 3 clr, 4 st, 5
ld), the bytes and the combined scales as they stood then, what it pops and pushes, and its range-lock number. -/
structure MxOp where
  fn : Nat
  slot : Nat
  wick : Nat
  asid : BitVec 9
  ad : Nat
  fmt : Nat := 0
  present : List Bool := []
  abytes : List Byte := []
  bbytes : List Byte := []
  scales : List Nat := []
  rm : Nat := 0
  fs : Option Word := none
  pops : List Nat := []
  push : Option Nat := none
  dest : Nat := 0
  /-- addresses of its tile bytes that lie beyond the scratchpad (R156) -/
  oob : List Nat := []
  len : Nat := 4
  lock : Nat := 0
  cycles : Nat := 1
  deriving DecidableEq, Repr, Inhabited

/-- An instruction-cache line (R63): asid, line number (64 bytes), its bytes, and the user permission of the page it
was fetched from (R254). -/
structure ICLine where
  asid : BitVec 9
  line : Nat
  bytes : List Byte
  user : Bool
  deriving DecidableEq, Repr, Inhabited

/-- A word of a receive queue, and the slot whose instruction has reserved it (R116). -/
structure QWord where
  w : Word
  slot : Option Nat := none
  deriving DecidableEq, Repr, Inhabited

/-- A core: the shared registers, the queues and the units of Table 1.2. -/
structure Core where
  /-- writes of h0 to h7, newest first (R115) -/
  h : Tab (List HWrite) := []
  acc : Tab Acc := []
  /-- the receive queue, oldest first (R116) -/
  rq : List QWord := []
  /-- words held in the links of the neighbours while the receive queue is full, in arrival order -/
  link : List Word := []
  /-- slots waiting on mq, in the order in which they began to wait -/
  mqWait : List Nat := []
  cycle : Nat := 0
  lastSlot : Nat := 7
  runq : List Wick := []
  /-- the launch whose shape record the window holds (R96) -/
  window : Option Nat := none
  /-- one-slot interrupt sources pending: cause to tval (R236) -/
  irq : Tab Word := []
  fenced : Bool := false
  /-- the dispenser is stopped by a pre-emption of this core (R239) -/
  halted : Bool := false
  /-- a debug halt is posted (R104, R238) -/
  debug : Bool := false
  micro : List TlbEntry := []
  icache : List ICLine := []
  flights : List Flight := []
  /-- the matrix unit: the operation under way, then those that are ready, in order (R352) -/
  mx : List MxOp := []
  /-- outgoing vigil arrivals held (R205) -/
  arrivals : List Arrival := []
  deriving DecidableEq, Repr, Inhabited

/-- A registered range (R191): asid, first and last byte, whether a destination, and its operation. -/
structure RLock where
  asid : BitVec 9
  lo : Nat
  hi : Nat
  dest : Bool
  op : Nat
  deriving DecidableEq, Repr, Inhabited

/-- A miss-queue entry (R256): asid, 64 KiB page, kind, the slots that wait, and the slots whose `vgth.gt` started
it. -/
structure Miss where
  asid : BitVec 9
  page : Nat
  kind : Nat
  slots : List Nat
  gather : List Nat
  engine : Bool
  deriving DecidableEq, Repr, Inhabited

/-- A complex slot (R299): state (0 empty, 1 loading, 2 loaded), generation, region and the image's lines, none when it holds
no region; and the thread slot whose `cx.load` or `cx.drop` is under way (R311, R312). -/
structure CxSlot where
  st : Nat := 0
  gen : Nat := 0
  off : Nat := 0
  lines : Nat := 0
  user : Option Nat := none
  deriving DecidableEq, Repr, Inhabited

/-- A stream connection (R272, R289). -/
structure Conn where
  socket : Nat
  rate : Nat
  channel : Nat
  deriving DecidableEq, Repr, Inhabited

/-- A cluster: dispenser, TLB, copy engine, range locks, complex slots, connections. -/
structure Cluster where
  disp : List Wick := []
  /-- wicks that arrived by migration and found no room (R103) -/
  arriving : List Wick := []
  /-- the cluster TLB by set, most recently used first (R253) -/
  tlb : Tab (List TlbEntry) := []
  missq : List Miss := []
  misses : BitVec 32 := 0
  multi : BitVec 32 := 0
  walkTemplate : WickRec := default
  asidBase : Nat := 0
  /-- request rings by core, oldest first (R176) -/
  rings : Tab (List EngOp) := []
  /-- operations in flight, in the order in which they started -/
  ops : List EngOp := []
  deficit : Tab Nat := []
  /-- slots whose thread accesses to homes outside the cluster wait for their turn, by core, oldest first, one entry for
  each access (R177) -/
  thread : Tab (List Nat) := []
  /-- quanta by core, 16 where not listed (R178) -/
  quantum : Tab Nat := []
  locks : List RLock := []
  cx : Tab CxSlot := []
  conns : Tab Conn := []
  failedBanks : List Nat := []
  arrivals : List Arrival := []
  deriving DecidableEq, Repr, Inhabited

/-- An entry of a die's ready queue (R87, R88, R93): a wick or a launch's remaining ranks, its effective priority,
its count of higher dispatches, and whether it stands in a reserved entry. -/
structure RqEntry where
  w : Wick
  eff : Nat
  aged : Nat := 0
  reserved : Bool := false
  /-- ranks still to yield: first and how many; a plain wick yields itself once -/
  first : Nat := 0
  ranks : Option Nat := none
  deriving DecidableEq, Repr, Inhabited

/-- A steal series (R91): the neighbours still to ask after the one that holds the request, and whether anything was
received. -/
structure Steal where
  ask : List Nat
  got : Bool
  deriving DecidableEq, Repr, Inhabited

/-- A fault log entry (R234, R277, R229): a cause, and words that the rule names. -/
structure LogEntry where
  cause : Nat
  words : List Word
  deriving DecidableEq, Repr, Inhabited

/-- One table entry of an armed vigil at its master (R203). -/
structure Armed where
  line : Nat
  asid : BitVec 9
  grp : BitVec 16
  deriving DecidableEq, Repr, Inhabited

/-- A record that waits for room in a full failure list, or a slot whose wick has failed and stays (R233). -/
inductive FailWait where
  | record (r : WickRec)
  | slot (k : Nat)
  deriving DecidableEq, Repr, Inhabited

/-- A borrowing (R404), newest first: the model's number of the loan, the other die, the units, and how many of them the
lender has recalled and not yet been repaid (R405). -/
structure Loan where
  id : Nat := 0
  die : Nat
  units : Nat
  called : Nat := 0
  deriving DecidableEq, Repr, Inhabited

/-- Bytes in an I/O die's send queue for a device (R283), as the access that they become there. -/
structure SendItem where
  dst : Nat
  q : PeerReq
  deriving DecidableEq, Repr, Inhabited

/-- A launch queue of X0 or X2 (R408, Table 23.2). -/
structure LaunchQ where
  entries : Tab Byte := []
  qctl : Word := 0
  tail : Nat := 0
  head : Nat := 0
  stopped : Bool := false
  cause : Nat := 0
  results : Tab Nat := []
  deriving DecidableEq, Repr, Inhabited

/-- A die: scheduler, failure list, vigil unit, power, router, laser slots and send queues, launch queue, reset
state. Fields of functions that a die of a socket does not have stay in their reset state. -/
structure Die where
  ready : List RqEntry := []
  mark : Nat := 512
  steal : Option Steal := none
  backoff : Bool := false
  arriving : List RqEntry := []
  failBase : Nat := 0
  failSize : Nat := 0
  overflow : List WickRec := []
  /-- with ring and buffer full: records that wait for room, and slots whose wick has failed and stays, in the order of
  failure (R233) -/
  waitFails : List FailWait := []
  log : List LogEntry := []
  armed : List Armed := []
  arrivals : List Arrival := []
  demand : Nat := 0
  loans : List Loan := []
  lent : List Loan := []
  /-- a series of borrow requests is under way (R404) -/
  asking : Bool := false
  throttled : Bool := false
  throttle : Nat := 0
  escapes : Nat := 0
  entry : Nat := 0
  guard : Bool := true
  /-- the tick at which the open entry's guard ended, and the ticks until which its lasers for a device are sending
  (R282) -/
  opened : Nat := 0
  sending : Tab Nat := []
  /-- the die has yet to finish an entry of the slot table before the module's current one (R290) -/
  switch : Bool := false
  sendq : List SendItem := []
  /-- accesses held at the router until the die is ready (R410) -/
  router : List PeerReq := []
  lq : LaunchQ := {}
  readyWord : BitVec 8 := 0
  /-- corrected errors (R134, R234) -/
  corrected : Nat := 0
  /-- a base die's key of AES-256-XTS and its KMAC256 key, and the key of the session with its router (R357, R411,
  R415) -/
  stackKey : BitVec 512 := 0
  macKey : BitVec 256 := 0
  linkKey : BitVec 256 := 0
  /-- the SHAKE256 measurement of the firmware it runs (R410) -/
  measured : List Byte := []
  deriving DecidableEq, Repr, Inhabited

/-- A grant entry (R276): the eight words of its image, with rej and fence in word 0. -/
structure Grant where
  w : Tab Word := []
  deriving DecidableEq, Repr, Inhabited

/-- A Lantern stream slot (R359): its installation number and the image when filled. -/
structure Stream where
  inst : Nat := 0
  image : Option (List Byte) := none
  deriving DecidableEq, Repr, Inhabited

/-- A Lantern and its controller (R358, R376, R263): counters, sketch and candidate list. -/
structure Lantern where
  taken : Nat := 0
  failed : Nat := 0
  units : Nat := 0
  sketch : Tab Nat := []
  cand : Tab Nat := []
  seq : Nat := 0
  deriving DecidableEq, Repr, Inhabited

/-- A Taper's input ring counters (R384). -/
structure TapRing where
  arr : Nat := 0
  taken : Nat := 0
  done : Nat := 0
  deriving DecidableEq, Repr, Inhabited

/-- A Taper's output channel counters (R384). -/
structure TapChan where
  sent : Nat := 0
  cred : Nat := 0
  deriving DecidableEq, Repr, Inhabited

/-- A Taper's stash slot (Table 21.5): 0 free, 1 filling, 2 held, 3 draining, and its users. -/
structure Stash where
  st : Nat := 0
  users : Nat := 0
  deriving DecidableEq, Repr, Inhabited

/-- An entry dispatched and not yet settled (R388): sequence number, table entry, whether it has ended or failed, and
what it still owes. -/
structure TapOut where
  seq : Nat
  entry : Nat
  ended : Bool := false
  failed : Bool := false
  /-- its message for the input ring, and for the output channel, is still owed -/
  owesIn : Bool
  owesOut : Bool
  deriving DecidableEq, Repr, Inhabited

/-- The Taper engine of a module (R381 to R393). -/
structure Taper where
  loaded : Bool := false
  cb : List Byte := []
  tbl : List Byte := []
  run : Bool := false
  fin : Bool := false
  failed : Option Nat := none
  asid : BitVec 9 := 0
  head : Nat := 0
  pass : Nat := 0
  rings : Tab TapRing := []
  chans : Tab TapChan := []
  stash : Tab Stash := []
  bubbles : Tab Nat := []
  dispatched : Nat := 0
  ended : Nat := 0
  discarded : Nat := 0
  withheld : Nat := 0
  out : List TapOut := []
  /-- input rings and output channels on which an entry has failed (R390) -/
  badIn : List Nat := []
  badOut : List Nat := []
  /-- who loads: a slot, or an operation's number from 2^30 up (R395) -/
  loading : Option Nat := none
  deriving DecidableEq, Repr, Inhabited

/-- A module: pod membership, grants, multicast, slot table, streams, Lanterns, Taper, refusals, status region. -/
structure Module where
  members : List Nat := []
  grants : Tab Grant := []
  mcast : Tab Word := []
  slotTable : List Byte := []
  slotCount : Nat := 0
  /-- the slot table before it, while an I/O die still runs an entry of it, and the slot whose `fab.slot` waits for the
  dies to switch (R290) -/
  oldTable : List Byte := []
  oldCount : Nat := 0
  slotBy : Option Nat := none
  streams : Tab Stream := []
  lanterns : Tab Lantern := []
  taper : Taper := {}
  /-- refusals received and not yet settled, by destination (R278) -/
  refusals : Tab Nat := []
  beaconBase : Nat := 0
  attReq : Word := 0
  attStatus : Word := 0
  nonce : List Byte := []
  /-- the nonce of the request under way (R413) -/
  asked : List Byte := []
  report : List Byte := []
  /-- the last report that the management sideband asked for (R414) -/
  sideReport : List Byte := []
  deriving DecidableEq, Repr, Inhabited

/-- A queued requester of a reserved word (R168): the requesting slot's access. -/
structure Resv where
  word : Nat
  q : List PeerReq
  deriving DecidableEq, Repr, Inhabited

/-- How a word of a scratchpad row is wrong (R152): its own code corrects it, flags it, or does not see it. -/
inductive SymErr where
  | single | erased | silent
  deriving DecidableEq, Repr, Inhabited

/-- A wrong word of a scratchpad row: the row (address div 256), its bank (0 to 31 data, 32 and 33 check), and how. -/
structure RowSym where
  row : Nat
  bank : Nat
  err : SymErr
  deriving DecidableEq, Repr, Inhabited

/-- The state of the pod. `agenda` holds the events and messages that come next, in order: those the machine sends
itself, and inputs from outside; `timers` those that come when the model's tick reaches their number; `turn` the
cores that issue, the next one first (notes/assumptions 2). -/
structure State where
  mem : List Host.Cell := []
  cur : Nat
  slots : Tab Slot := []
  cores : Tab Core := []
  clusters : Tab Cluster := []
  dies : Tab Die := []
  mods : Tab Module := []
  /-- 8-byte words (by address div 8) of DRAM and local memory that read as uncorrectable (R234, R357) -/
  bad : List Nat := []
  /-- wrong words of scratchpad rows, and rows that read as uncorrectable until each of their words, listed here by
  address div 8, is rewritten (R152, R234) -/
  syms : List RowSym := []
  lost : List Nat := []
  resv : List Resv := []
  /-- releases that precede stores not yet performed, oldest first (R164) -/
  releases : List Release := []
  agenda : List Event := []
  timers : List (Nat × Event) := []
  /-- the event that is now being executed, with its operands -/
  ev : Option Event := none
  turn : List Nat := []
  tick : Nat := 0
  nextWick : Nat := 1
  nextOp : Nat := 1
  nextLaunch : Nat := 1
  /-- what a debugger's last read returned (R121) -/
  sideband : VWord := 0
  /-- the model's own counter of free values -/
  freeCtr : Nat := 0
  deriving DecidableEq, Repr, Inhabited

/-- Why the machine stops. -/
inductive Fault where
  /-- raised by the meaning of an event when the state does not hold that event's operands; safe: `step` never
  executes an event without them -/
  | noSuchEvent
  deriving DecidableEq, Repr

/-- Why an instruction has no meaning. -/
inductive Refusal where
  /-- an instruction that the model does not cover, by its mnemonic; safe -/
  | notModelled (mnemonic : String)
  deriving DecidableEq, Repr

/-- The slot that is current at reset: slot 0 of core 0 of cluster 36 on socket 7 of device 0. -/
def State.resetSlot : Nat := 7 * 2 ^ 13 + 36 * 2 ^ 7

/-- The machine right after reset: no wick anywhere, every unit in its reset state, memory with nothing listed. -/
def State.reset : State := { cur := State.resetSlot }

end Sys2Proof.Machine
end

