-- ==== Sys2Proof/Machine/Ops.lean ====
section
/-!
DEFINITION. The named operations over the state: locations, units, memory by physical address, translation, the
checks of an access, the scheduler's queues, failing a wick, taking an exception and returning from one.
-/

namespace Sys2Proof.Machine

/-! ### Locations (R8 to R12, Table 1.3, Table 12.1) -/

/-- The core of a slot. -/
def coreOf (slot : Nat) : Nat := slot / 8
/-- The cluster of a slot. -/
def clusterOf (slot : Nat) : Nat := slot / 128
/-- The die of a slot. -/
def dieOf (slot : Nat) : Nat := slot / 8192
/-- The device of a slot. -/
def devOf (slot : Nat) : Nat := slot / 262144
/-- The die of a cluster. -/
def dieOfCluster (ck : Nat) : Nat := ck / 64
/-- The die key of a socket of a module. -/
def dieKey (dev socket : Nat) : Nat := dev * 32 + socket
/-- The device of a cluster. -/
def devOfCluster (ck : Nat) : Nat := ck / 2048
/-- The core number within its cluster. -/
def coreNo (corek : Nat) : Nat := corek % 16
/-- A W-cluster is numbered 36 to 47 (R10). -/
def isW (ck : Nat) : Bool := decide (36 ≤ ck % 64)
/-- Core 15 is the service core (R10). -/
def isService (corek : Nat) : Bool := decide (corek % 16 = 15)
/-- A socket that carries a compute die (R8). -/
def isCompute (socket : Nat) : Bool := decide ((7 ≤ socket ∧ socket ≤ 10) ∨ (13 ≤ socket ∧ socket ≤ 16))
/-- A socket that carries a memory stack (R8). -/
def isStack (socket : Nat) : Bool := decide (socket ≤ 5 ∨ (18 ≤ socket ∧ socket ≤ 23))
/-- A socket that carries an I/O die (R8). -/
def isIo (socket : Nat) : Bool := decide (socket = 6 ∨ socket = 11 ∨ socket = 12 ∨ socket = 17)
/-- The eight compute sockets in ascending order (R93). -/
def computeSockets : List Nat := [7, 8, 9, 10, 13, 14, 15, 16]
/-- The interposer neighbours of a socket in the 4 × 6 grid, in ascending order (R8, R91). -/
def neighbours (socket : Nat) : List Nat :=
  (if 6 ≤ socket then [socket - 6] else []) ++ (if socket % 6 ≠ 0 then [socket - 1] else []) ++
  (if socket % 6 ≠ 5 then [socket + 1] else []) ++ (if socket + 6 < 24 then [socket + 6] else [])
/-- A cluster key that exists. -/
def clusterOk (ck : Nat) : Bool := decide (ck % 64 < 48) && isCompute (ck / 64 % 32) && decide (ck / 2048 < 64)

/-! ### Units -/

def State.slot (s : State) (k : Nat) : Slot := Tab.get {} s.slots k
def State.core (s : State) (k : Nat) : Core := Tab.get {} s.cores k
def State.cluster (s : State) (k : Nat) : Cluster := Tab.get {} s.clusters k
def State.die (s : State) (k : Nat) : Die := Tab.get {} s.dies k
def State.mod (s : State) (k : Nat) : Module := Tab.get {} s.mods k
def State.setSlot (s : State) (k : Nat) (x : Slot) : State := { s with slots := Tab.put k x s.slots }
def State.setCore (s : State) (k : Nat) (x : Core) : State := { s with cores := Tab.put k x s.cores }
def State.setCluster (s : State) (k : Nat) (x : Cluster) : State := { s with clusters := Tab.put k x s.clusters }
def State.setDie (s : State) (k : Nat) (x : Die) : State := { s with dies := Tab.put k x s.dies }
def State.setMod (s : State) (k : Nat) (x : Module) : State := { s with mods := Tab.put k x s.mods }
def State.onSlot (s : State) (k : Nat) (f : Slot → Slot) : State := s.setSlot k (f (s.slot k))
def State.onCore (s : State) (k : Nat) (f : Core → Core) : State := s.setCore k (f (s.core k))
def State.onCluster (s : State) (k : Nat) (f : Cluster → Cluster) : State := s.setCluster k (f (s.cluster k))
def State.onDie (s : State) (k : Nat) (f : Die → Die) : State := s.setDie k (f (s.die k))
def State.onMod (s : State) (k : Nat) (f : Module → Module) : State := s.setMod k (f (s.mod k))

/-- Put an event at the end of the agenda. -/
def State.post (s : State) (i : Event) : State := { s with agenda := s.agenda ++ [i] }
/-- Put an event at the front of the agenda. -/
def State.postNext (s : State) (i : Event) : State := { s with agenda := i :: s.agenda }
/-- Put events at the end of the agenda. -/
def State.postAll (s : State) (is : List Event) : State := { s with agenda := s.agenda ++ is }
/-- Let an event come `n` ticks from now. -/
def State.after (s : State) (n : Nat) (i : Event) : State := { s with timers := s.timers ++ [(s.tick + n, i)] }
/-- Log an event in a die's fault log. -/
def State.log (s : State) (die cause : Nat) (ws : List Word) : State :=
  s.onDie die (fun d => { d with log := d.log ++ [⟨cause, ws⟩] })

/-- Change the value at every key listed. -/
def Tab.mapVals {α : Type} (f : Nat → α → α) : Tab α → Tab α
  | [] => []
  | (k, v) :: t => (k, f k v) :: Tab.mapVals f t

/-- A slot in user mode: kind.sys is clear (R218). -/
def Slot.user (x : Slot) : Bool := !x.kind.getLsbD 0
/-- tmask.ie (Table 11.1). -/
def Slot.ie (x : Slot) : Bool := x.tmask.getLsbD 32

/-- The module membership bitmap's view: the module itself and the trained peers (R273). -/
def State.isMember (s : State) (dev peer : Nat) : Bool := decide (peer = dev) || (s.mod dev).members.elem peer

/-- `n` bits of a number from bit `lo` up. -/
def bits (w lo n : Nat) : Nat := w / 2 ^ lo % 2 ^ n

/-! ### Memory by physical address (R149, R150, R157) -/

/-- The physical address of an offset in a cluster's scratchpad (Table 8.1). -/
def scratchPa (ck off : Nat) : Nat :=
  ck / 2048 * 2 ^ 49 + ck / 64 % 32 * 2 ^ 44 + ck % 64 * 2 ^ 38 + off
/-- The physical address of an offset in a core's local memory (Table 8.1). -/
def localPa (corek off : Nat) : Nat := scratchPa (corek / 16) 0 + 2 ^ 36 + corek % 16 * 2 ^ 32 + off

/-- The home that a physical address names (Table 8.1, R9). -/
inductive Region where
  | scratch (ck off : Nat)
  | loc (corek off : Nat)
  | dram (dev socket off : Nat)
  | host
  | reserved
  | noSocket
  deriving DecidableEq, Repr

/-- The home of a physical address. -/
def region (pa : Nat) : Region :=
  if bits pa 55 1 = 1 then .host
  else
    let dev := bits pa 49 6
    let so := bits pa 44 5
    if 24 ≤ so then .noSocket
    else if isCompute so then
      let cl := bits pa 38 6
      let ck := dev * 2048 + so * 64 + cl
      if 48 ≤ cl then .reserved
      else if bits pa 36 2 = 0 ∧ bits pa 32 4 = 0 then .scratch ck (bits pa 0 32)
      else if bits pa 36 2 = 1 then .loc (ck * 16 + bits pa 32 4) (bits pa 0 32)
      else .reserved
    else if isStack so then
      if bits pa 36 8 = 0 then .dram dev so (bits pa 0 36) else .reserved
    else .reserved

/-- How many of `n` bytes from an address on lie within the in-range offsets of R149 and R150. -/
def Region.room (r : Region) (n : Nat) : Nat :=
  match r with
  | .scratch _ off => min n (0x400000 - off)
  | .loc _ off => min n (0x10000 - off)
  | .dram _ _ _ => n
  | .host => n
  | _ => 0
/-- The home holds the byte: within the in-range offsets of R149 and R150. -/
def Region.inRange : Region → Bool
  | .scratch _ off => decide (off < 0x400000)
  | .loc _ off => decide (off < 0x10000)
  | .dram _ _ _ => true
  | .host => true
  | _ => false

/-- What a byte of memory that nothing has written reads as (notes/assumptions 3). -/
def memDefault : Byte := 0

/-- One byte of memory. -/
def State.byte (s : State) (pa : Nat) : Byte := Tab.get memDefault s.mem pa
/-- `n` bytes as a little-endian number (R3). -/
def State.readN (s : State) (pa : Nat) : Nat → Nat
  | 0 => 0
  | n + 1 => (s.byte pa).toNat + 256 * State.readN s (pa + 1) n
/-- Memory with `n` bytes of `v` written little-endian at `pa`; the canonical form is kept. -/
def writeBytes (m : List Host.Cell) (pa v : Nat) : Nat → List Host.Cell
  | 0 => m
  | n + 1 => writeBytes (Tab.set memDefault m pa (BitVec.ofNat 8 v)) (pa + 1) (v / 256) n
/-- `Memory.wf`: the canonical form of memory holds. -/
abbrev Memory.wf (m : List Host.Cell) : Bool := Tab.wf memDefault m

/-- Fire the monitors on a line (R171): their fired bits, and a slot in `mon.wait` rejoins the rotation. -/
def Slot.fire (x : Slot) (line : Nat) (vigil : Bool) : Slot :=
  let hit := x.mons.any (fun m => decide (m.2.line = line) && decide (m.2.vigil = vigil))
  if hit then
    { x with
      mons := Tab.mapVals (fun _ m => if m.line = line ∧ m.vigil = vigil then { m with fired := true } else m) x.mons
      wait := (match x.wait with | .monitor _ => .none | w => w) }
  else x
/-- The first line of a slot's block of ring descriptors (R154). -/
def ringLine (slot : Nat) : Nat := localPa (slot / 8) (0x100 + 0x80 * (slot % 8)) / 64
/-- A slot that waits for its rings looks at them again when a line of their descriptors is written (R154). -/
def Slot.ringWake (x : Slot) (slot line : Nat) : Slot :=
  if x.wait = .tiles ∧ (line = ringLine slot ∨ line = ringLine slot + 1) then { x with wait := .none } else x
/-- Fire every monitor on a line. -/
def State.fireLine (s : State) (line : Nat) (vigil : Bool) : State :=
  { s with slots := Tab.mapVals (fun k x => (x.fire line vigil).ringWake k line) s.slots }
/-- Fire the monitors on `n` lines from a line on (R171). -/
def State.fireLines (s : State) (line : Nat) : Nat → State
  | 0 => s
  | n + 1 => State.fireLines (s.fireLine line false) (line + 1) n

/-- `m` aligned bytes that hold the 8-byte word `w` lie within `n` bytes at `pa`. -/
def covered (pa n w m : Nat) : Bool := decide (pa ≤ 8 * w / m * m) && decide (8 * w / m * m + m ≤ pa + n)
/-- A write of `n` bytes rewrites the unit of memory whose check a word belongs to: its line of DRAM, and elsewhere the
word (R234, R357). -/
def rewrites (pa n w : Nat) : Bool := covered pa n w (match region (8 * w) with | .dram _ _ _ => 64 | _ => 8)
/-- What a write of `n` bytes rewrites whole is no longer wrong (R152, R234, R357). -/
def State.rewrote (s : State) (pa n : Nat) : State :=
  { s with
    bad := s.bad.filter (fun w => !rewrites pa n w)
    syms := s.syms.filter (fun e => !(decide (e.bank < 32) && covered pa n (32 * e.row + e.bank) 8))
    lost := s.lost.filter (fun w => !covered pa n w 8) }

/-- Store `n` bytes at a home, with the monitors of every line it touches (R171) and the words no longer
uncorrectable (R234). -/
def State.storeN (s : State) (pa n v : Nat) : State :=
  (({ s with mem := writeBytes s.mem pa v n } : State).rewrote pa n).fireLines (pa / 64) ((pa + n - 1) / 64 + 1 - pa / 64)

/-- The bytes at an address as a list. -/
def State.readList (s : State) (pa : Nat) : Nat → List Byte
  | 0 => []
  | n + 1 => s.byte pa :: State.readList s (pa + 1) n
/-- A list of bytes as a little-endian number. -/
def leNat : List Byte → Nat
  | [] => 0
  | b :: bs => b.toNat + 256 * leNat bs
/-- Store a list of bytes. -/
def State.storeList (s : State) (pa : Nat) (bs : List Byte) : State := s.storeN pa bs.length (leNat bs)
/-- A number as `n` little-endian bytes. -/
def natLe (v : Nat) : Nat → List Byte
  | 0 => []
  | n + 1 => BitVec.ofNat 8 v :: natLe (v / 256) n

/-- The bank that a cluster's service core has marked as failed, for a row of its scratchpad (R152). -/
def State.failedBank (s : State) (row : Nat) : List Nat :=
  match region (256 * row) with
  | .scratch ck _ => (Tab.get {} s.clusters ck).failedBanks
  | _ => []
/-- The banks that are erasures on a read of a row (R152): flagged words, and the failed bank. -/
def State.erasures (s : State) (row : Nat) : List Nat :=
  (s.failedBank row ++ (s.syms.filter (fun e => decide (e.row = row) && decide (e.err = .erased))).map (fun e => e.bank)).eraseDups
/-- A row of a scratchpad is uncorrectable (R152): three or more erasures, a wrong word that is no erasure and that its
own code has not flagged, or a row found so whose words are not all rewritten (R234). -/
def State.rowUncorrectable (s : State) (row : Nat) : Bool :=
  let er := s.erasures row
  decide (3 ≤ er.length) ||
    s.syms.any (fun e => decide (e.row = row) && decide (e.err = .silent) && !er.elem e.bank) ||
    s.lost.any (fun w => decide (w / 32 = row))
/-- The machine error that a thread's read of an address meets, if any: in its scratchpad row of 256 bytes, its DRAM line
of 64, its local-memory word of 8 (R152, R234, R357). -/
def State.readError (s : State) (pa : Nat) : Option Nat :=
  match region pa with
  | .scratch _ _ => if s.rowUncorrectable (pa / 256) then some 0xB0 else none
  | .loc _ _ => if s.bad.elem (pa / 8) then some 0xB3 else none
  | _ => if s.bad.any (fun w => decide (w / 8 = pa / 64)) then some 0xB2 else none
/-- The machine error that a read of `n` bytes meets, and where: in the rows, lines and words of all of them. -/
def State.readFault (s : State) (pa n : Nat) : Option (Nat × Nat) :=
  (List.range n).findSome? (fun i => (s.readError (pa + i)).map (fun c => (c, pa + i)))
/-- The uncorrectable words of DRAM lines that a write of `n` bytes covers in part (R357). -/
def State.mergeFaults (s : State) (pa n : Nat) : List Nat :=
  match region pa with
  | .dram _ _ _ =>
    (s.bad.filter (fun w => decide (pa < 64 * (w / 8) + 64) && decide (64 * (w / 8) < pa + n) && !rewrites pa n w)).map (8 * ·)
  | _ => []
/-- The machine error that a write of `n` bytes meets (R357): a DRAM line that it covers in part is read and checked
first. The read inside a narrow store to a scratchpad row (R151) is no read of R234, so that a store to an uncorrectable
row meets none (DESIGN CHOICE, notes/assumptions 107). -/
def State.writeError (s : State) (pa n : Nat) : Option Nat := if s.mergeFaults pa n = [] then none else some 0xB2
/-- A row that can be corrected is read: its wrong words are repaired, and the events counted in its die (R152): one for
each single-bit error, and one for the erasures. -/
def State.repairRow (s : State) (pa : Nat) : State :=
  match region pa with
  | .scratch ck _ =>
    let l := s.syms.filter (fun e => decide (e.row = pa / 256))
    if l = [] ∨ s.rowUncorrectable (pa / 256) then s
    else
      let n := (l.filter (fun e => decide (e.err = .single))).length + (if l.any (fun e => decide (e.err = .erased)) then 1 else 0)
      { s with
        syms := s.syms.filter (fun e => decide (e.row ≠ pa / 256))
        dies := Tab.upd {} s.dies (ck / 64) (fun d => { d with corrected := d.corrected + n }) }
  | _ => s
/-- The rows of a scratchpad under `n` bytes are read (R152). -/
def State.repairRows (s : State) (pa n : Nat) : State :=
  if s.syms = [] then s
  else (List.range ((pa % 256 + n + 255) / 256)).foldl (fun s i => s.repairRow (pa / 256 * 256 + 256 * i)) s
/-- A row that a thread has found uncorrectable reads so until each of its words is rewritten (R234). -/
def State.loseRow (s : State) (pa : Nat) : State :=
  { s with lost := (s.lost.filter (fun w => decide (w / 32 ≠ pa / 256))) ++ (List.range 32).map (fun i => pa / 256 * 32 + i) }

/-! ### Near-window access by offset (R149) -/

/-- `n` bytes of a cluster's scratchpad; beyond the range they read zero (R156). -/
def State.scratchN (s : State) (ck off n : Nat) : Nat :=
  if off + n ≤ 0x400000 then s.readN (scratchPa ck off) n else 0
/-- `n` bytes of a core's local memory; beyond the range they read zero (R54, R156). -/
def State.localN (s : State) (corek off n : Nat) : Nat :=
  if off + n ≤ 0x10000 then s.readN (localPa corek off) n else 0
/-- Store in a cluster's scratchpad; beyond the range the store is dropped (R156). -/
def State.setScratchN (s : State) (ck off n v : Nat) : State :=
  if off + n ≤ 0x400000 then s.storeN (scratchPa ck off) n v else s
/-- Store in a core's local memory. -/
def State.setLocalN (s : State) (corek off n v : Nat) : State :=
  if off + n ≤ 0x10000 then s.storeN (localPa corek off) n v else s

end Sys2Proof.Machine

namespace Sys2Proof
open Sys2Proof.Machine

/-! ### Wick records (R80, Tables 5.1 to 5.3) -/

def WickRec.word (r : WickRec) (i : Nat) : Word :=
  match i with
  | 0 => r.w0 | 1 => r.w1 | 2 => r.g1 | 3 => r.g2 | 4 => r.g3 | 5 => r.g4 | 6 => r.g5 | _ => r.g6
/-- A record from 64 bytes read as a number. -/
def WickRec.ofNat (v : Nat) : WickRec :=
  let w := fun i => BitVec.ofNat 64 (v / 2 ^ (64 * i))
  ⟨w 0, w 1, w 2, w 3, w 4, w 5, w 6, w 7⟩
/-- A record as a 512-bit number. -/
def WickRec.toNat (r : WickRec) : Nat :=
  r.w0.toNat + 2 ^ 64 * r.w1.toNat + 2 ^ 128 * r.g1.toNat + 2 ^ 192 * r.g2.toNat + 2 ^ 256 * r.g3.toNat +
    2 ^ 320 * r.g4.toNat + 2 ^ 384 * r.g5.toNat + 2 ^ 448 * r.g6.toNat
def WickRec.state (r : WickRec) : Nat := bits r.w0.toNat 0 2
def WickRec.pc (r : WickRec) : Word := r.w0 &&& 0x01FFFFFFFFFFFFFC
def WickRec.prio (r : WickRec) : Nat := bits r.w0.toNat 57 2
def WickRec.kind (r : WickRec) : Nat := bits r.w0.toNat 59 5
def WickRec.sys (r : WickRec) : Bool := decide (bits r.w0.toNat 59 1 = 1)
def WickRec.hold (r : WickRec) : Bool := decide (bits r.w0.toNat 60 1 = 1)
def WickRec.asid (r : WickRec) : Nat := bits r.w1.toNat 0 9
def WickRec.pred (r : WickRec) : Nat := bits r.w1.toNat 9 16
def WickRec.fmt (r : WickRec) : Nat := bits r.w1.toNat 25 7
def WickRec.aff (r : WickRec) : Nat := bits r.w1.toNat 32 8
def WickRec.grp (r : WickRec) : Nat := bits r.w1.toNat 40 16
def WickRec.affKind (r : WickRec) : Nat := bits r.w1.toNat 38 2
def WickRec.pinned (r : WickRec) : Bool := decide (bits r.w1.toNat 37 1 = 1)
def WickRec.socket (r : WickRec) : Nat := bits r.w1.toNat 32 5
/-- A number with `n` bits from `lo` replaced. -/
def setBits (w lo n v : Nat) : Nat := w - bits w lo n * 2 ^ lo + v % 2 ^ n * 2 ^ lo
/-- A word with `n` bits from `lo` replaced. -/
def putBits (w : Word) (lo n v : Nat) : Word := BitVec.ofNat 64 (setBits w.toNat lo n v)
/-- A record with its state and status. -/
def WickRec.mark (r : WickRec) (st status : Nat) : WickRec :=
  { r with w0 := putBits r.w0 0 2 st, w1 := putBits r.w1 56 8 status }
/-- A user-mode record with prio 0 has prio 1 (R109). -/
def WickRec.demote (r : WickRec) : WickRec :=
  if r.sys = false ∧ r.prio = 0 then { r with w0 := putBits r.w0 57 2 1 } else r
/-- A malformed record: a reserved kind bit, or pinned to a socket without a compute die (R81, R90). -/
def WickRec.malformed (r : WickRec) : Bool :=
  decide (4 ≤ r.kind) || (r.pinned && !isCompute r.socket)
/-- Fields that user mode may not use (R109). -/
def WickRec.privileged (r : WickRec) : Bool := r.sys || decide (r.affKind = 3)

end Sys2Proof

namespace Sys2Proof.Machine

/-- The record of a slot's wick (R105, R231): state, status, pc, and the mode to record. -/
def Slot.record (x : Slot) (st status : Nat) (pc : Word) (sys : Bool) : WickRec :=
  let kind := setBits x.kind.toNat 0 1 (if sys then 1 else 0)
  { w0 := BitVec.ofNat 64 (kind * 2 ^ 59 + x.prio.toNat * 2 ^ 57 + bits pc.toNat 2 55 * 4 + st)
    w1 := BitVec.ofNat 64 (status % 256 * 2 ^ 56 + x.grp.toNat * 2 ^ 40 + x.aff.toNat * 2 ^ 32 +
      x.fmt.toNat * 2 ^ 25 + x.pred.toNat * 2 ^ 9 + x.asid.toNat)
    g1 := Tab.get 0 x.g 1, g2 := Tab.get 0 x.g 2, g3 := Tab.get 0 x.g 3
    g4 := Tab.get 0 x.g 4, g5 := Tab.get 0 x.g 5, g6 := Tab.get 0 x.g 6 }

/-! ### TLBs (R250 to R256) -/

/-- The page size of a leaf entry (Table 12.2). -/
def leafSize (e : Word) : Nat :=
  match bits e.toNat 6 2 with
  | 0 => 2 ^ 16
  | 1 => 2 ^ 21
  | 2 => 2 ^ 29
  | _ => 2 ^ 35
/-- The four page sizes (R250). -/
def pageSizes : List Nat := [2 ^ 16, 2 ^ 21, 2 ^ 29, 2 ^ 35]
/-- A malformed leaf entry with v = 1 (R251). -/
def leafMalformed (e : Word) : Bool :=
  let n := e.toNat
  let base := bits n 23 41 * 2 ^ 15
  let tol := bits n 8 1
  decide (bits n 1 3 = 0) || decide (bits n 21 2 ≠ 0) ||
    decide (base % (if tol = 1 then leafSize e / 2 else leafSize e) ≠ 0) ||
    (decide (tol = 1) && decide (bits n 3 1 = 1)) ||
    (decide (bits n 9 1 = 1) && decide (bits base 55 1 = 1)) ||
    (decide (bits n 9 1 = 1) && decide (bits base 49 6 ≠ 0))
/-- An entry matches an address under an asid (R254). -/
def TlbEntry.hits (e : TlbEntry) (asid : BitVec 9) (va : Nat) : Bool :=
  (e.leaf.getLsbD 5 || decide (e.asid = asid)) && decide (va / e.size = e.vpage)
/-- The matching entry of the smallest size (R255). -/
def smallest : List TlbEntry → Option TlbEntry
  | [] => none
  | e :: es =>
    match smallest es with
    | none => some e
    | some f => some (if e.size ≤ f.size then e else f)
/-- Entries of two or more sizes match (R255). -/
def multiSize : List TlbEntry → Bool
  | [] => false
  | e :: es => es.any (fun f => decide (f.size ≠ e.size)) || multiSize es
/-- Move an entry to the front, as most recently used. -/
def toFront (e : TlbEntry) (l : List TlbEntry) : List TlbEntry := e :: l.filter (fun f => decide (f ≠ e))
/-- The entries of a cluster's TLB that match an address. -/
def Cluster.hits (c : Cluster) (asid : BitVec 9) (va : Nat) : List TlbEntry :=
  (pageSizes.map (fun z =>
    (Tab.get [] c.tlb (va / z % 512)).filter (fun e => decide (e.size = z) && e.hits asid va))).flatten
/-- The entries of a core's micro-TLB, if a core is given, that match an address. -/
def State.microHits (s : State) (corek : Option Nat) (asid : BitVec 9) (va : Nat) : List TlbEntry :=
  match corek with
  | some k => (s.core k).micro.filter (fun e => e.hits asid va)
  | none => []
/-- Use an entry that a lookup found: it becomes the most recently used of its place, and one that the core's micro-TLB
does not hold is copied there (R253). -/
def State.useEntry (s : State) (ck : Nat) (corek : Option Nat) (e : TlbEntry) (inMicro : Bool) (va : Nat) : State :=
  let set := va / e.size % 512
  let s1 :=
    if inMicro then s
    else s.onCluster ck (fun c => { c with tlb := Tab.put set (toFront e (Tab.get [] c.tlb set)) c.tlb })
  match corek with
  | some k => s1.onCore k (fun c => { c with micro := (toFront e c.micro).take 32 })
  | none => s1
/-- Look an address up: the core's micro-TLB if a core is given, and the cluster TLB; the smallest page that matches in
either is used, and matches of two or more sizes are counted, as are misses (R253 to R255, R267). -/
def State.lookup (s : State) (ck : Nat) (corek : Option Nat) (asid : BitVec 9) (va : Nat) :
    Option TlbEntry × State :=
  let mh := s.microHits corek asid va
  let all := mh ++ (s.cluster ck).hits asid va
  match smallest all with
  | none => (none, s.onCluster ck (fun c => { c with misses := c.misses + 1 }))
  | some e =>
    let s1 := if multiSize all then s.onCluster ck (fun c => { c with multi := c.multi + 1 }) else s
    (some e, s1.useEntry ck corek e (mh.elem e) va)

/-- The kinds of access that translation distinguishes (R254). -/
inductive XKind where
  | load | store | atomic | fetch
  deriving DecidableEq, Repr

/-- A translated access: the address as formed, the physical address, whether the page is tolerant, whether the
near window was used. -/
structure Xlat where
  va : Word
  pa : Nat
  tol : Bool
  near : Bool
  deriving DecidableEq, Repr

/-- The outcome of a translation. -/
inductive XRes where
  | ok (x : Xlat)
  | fault (c : Cause)
  | miss
  deriving DecidableEq, Repr

/-- The near window (R149). -/
def isNear (va : Word) : Bool := decide (va.toNat / 2 ^ 32 = 0x01FFFFFF)

/-- The physical address of a near-window address for a core (R149). -/
def nearPa (corek : Nat) (va : Word) : Nat :=
  if bits va.toNat 31 1 = 0 then scratchPa (corek / 16) (bits va.toNat 0 31) else localPa corek (bits va.toNat 0 31)

/-- Apply a leaf entry to an address (R252). -/
def leafPa (dev : Nat) (e : Word) (va : Nat) : Nat :=
  let n := e.toNat
  let base := bits n 23 41 * 2 ^ 15
  let o := va % leafSize e
  let pa := if bits n 8 1 = 1 then base + o / 4 * 2 else base + o
  if bits n 9 1 = 1 then setBits pa 49 6 (bits n 10 6)
  else if bits pa 55 1 = 0 then setBits pa 49 6 dev else pa

/-- The checks of R254 on a matching entry. -/
def leafCheck (s : State) (dev : Nat) (user : Bool) (k : XKind) (e : Word) : Option Cause :=
  let n := e.toNat
  let b := fun i => decide (bits n i 1 = 1)
  let fetch := decide (k = .fetch)
  if !b 0 then some (if fetch then 0x43 else 0x40)
  else if user && !b 4 then some 0x44
  else if fetch && !b 3 then some 0x43
  else if (decide (k = .load) || decide (k = .atomic)) && !b 1 then some 0x41
  else if (decide (k = .store) || decide (k = .atomic)) && !b 2 then some 0x42
  else if b 9 && !s.isMember dev (bits n 10 6) then some 0x48
  else if decide (k = .atomic) && b 9 && decide (bits n 10 6 ≠ dev) && !b 16 then some 0x47
  else none

/-- Translate an access of a core, or of its cluster's engine when `micro` is false (R254). -/
def State.xlate (s : State) (corek : Nat) (micro user : Bool) (asid : BitVec 9) (k : XKind) (va : Word) :
    XRes × State :=
  if va.toNat / 2 ^ 57 ≠ 0 then (.fault (if k = .fetch then 0x43 else 0x45), s)
  else if isNear va then (.ok ⟨va, nearPa corek va, false, true⟩, s)
  else
    let r := s.lookup (corek / 16) (if micro then some corek else none) asid va.toNat
    match r.1 with
    | none => (.miss, r.2)
    | some e =>
      let dev := devOfCluster (corek / 16)
      match leafCheck r.2 dev user k e.leaf with
      | some c => (.fault c, r.2)
      | none => (.ok ⟨va, leafPa dev e.leaf va.toNat, e.leaf.getLsbD 8, false⟩, r.2)

/-- The address that a slot waits for a translation of, and whether it fetches. -/
def Wait.missed : Wait → Option (Word × Bool)
  | .miss va => some (va, false)
  | .missHeld va => some (va, false)
  | .fetchMiss va => some (va, true)
  | _ => Option.none
/-- A slot still waits on a miss-queue entry: an interrupt may have abandoned its wait (R257). -/
def Slot.awaits (x : Slot) (m : Miss) : Bool :=
  match x.wait.missed with
  | some (va, _) => decide (x.asid = m.asid) && decide (va.toNat / 2 ^ 16 = m.page)
  | none => false
/-- Slots of a cluster that found no entry free for their miss repeat their lookup (R256). -/
def State.missRetry (s : State) (ck : Nat) : State :=
  let q := (s.cluster ck).missq
  let f := fun (k : Nat) (x : Slot) =>
    if clusterOf k = ck ∧ x.wait.missed.isSome ∧ !q.any (fun m => x.awaits m) then { x with wait := .none } else x
  { s with slots := Tab.mapVals f s.slots }

/-- Enter a miss in the cluster's miss queue, with the walk wick that answers it (R256); false when the queue is full,
or the dispenser, which holds 64 wicks (R92), has no place for the walk wick: the access then waits
(notes/assumptions 62). -/
def State.enqMiss (s : State) (ck : Nat) (asid : BitVec 9) (va : Nat) (kind : Nat) (slot gather : Option Nat) :
    State × Bool :=
  let page := va / 2 ^ 16
  let c := s.cluster ck
  let add := fun (m : Miss) =>
    { m with
      slots := m.slots ++ slot.toList.filter (fun k => !m.slots.elem k)
      gather := m.gather ++ gather.toList.filter (fun k => !m.gather.elem k)
      engine := m.engine || decide (slot = none ∧ gather = none) }
  if c.missq.any (fun m => decide (m.asid = asid ∧ m.page = page)) then
    (s.setCluster ck { c with
      missq := c.missq.map (fun m => if m.asid = asid ∧ m.page = page then add m else m) }, true)
  else if 64 ≤ c.missq.length ∨ 64 ≤ c.disp.length then (s, false)
  else
    let r0 := c.walkTemplate
    let rcd : WickRec :=
      { r0 with
        w0 := putBits (putBits r0.w0 57 2 0) 0 2 0
        g1 := BitVec.ofNat 64 (page * 2 ^ 16 + asid.toNat), g2 := BitVec.ofNat 64 kind }
    let w : Wick := { rcd := rcd, tag := some (ck * 16 + 15) }
    let m : Miss := add ⟨asid, page, kind, [], [], false⟩
    ((s.setCluster ck { c with missq := c.missq ++ [m], disp := c.disp ++ [w] }).post (.dispenserPass ck), true)

/-! ### Range locks and slot regions (R193, R306) -/

/-- A thread access of `n` bytes conflicts with a registered range (R193): the first conflicting address. -/
def State.lockHit (s : State) (ck : Nat) (asid : BitVec 9) (va n : Nat) (write : Bool) : Bool :=
  (s.cluster ck).locks.any (fun l =>
    decide (l.asid = asid) && decide (va ≤ l.hi) && decide (l.lo < va + n) && (write || l.dest))

/-- An address in a complex slot's region of a cluster (R306): a slot that `cx.drop` has emptied keeps its region until the
operations in flight on it have ended (R312). -/
def Cluster.inRegion (c : Cluster) (off n : Nat) : Bool :=
  c.cx.any (fun e => decide (e.2.lines ≠ 0) && decide (off < e.2.off + 64 * e.2.lines) && decide (e.2.off < off + n))

/-- A write of `n` bytes at a physical address touches a slot region. -/
def State.regionHit (s : State) (pa n : Nat) : Bool :=
  match region pa with
  | .scratch ck off => (s.cluster ck).inRegion off n
  | _ => false

/-! ### The scheduler's queues (R87 to R92) -/

/-- Entries that count against the 15,360, or the 1,024 reserved. -/
def Die.count (d : Die) (reserved : Bool) : Nat := (d.ready.filter (fun e => decide (e.reserved = reserved))).length
/-- The ready queue has room for a wick of its own (R87). -/
def Die.room (d : Die) : Bool := decide (d.count false < 15360)
/-- The die whose ready queue a wick enters (R90): the compute die its socket names, otherwise `home`. -/
def targetDie (home : Nat) (r : WickRec) : Nat :=
  if isCompute r.socket then dieKey (home / 32) r.socket else home

/-- Compare the ready queue's occupancy with the low-water mark and start a steal series (R91). -/
def State.compareMark (s : State) (die : Nat) : State :=
  let d := s.die die
  if d.ready.length < d.mark ∧ d.steal = none ∧ d.backoff = false then
    match (neighbours (die % 32)).filter isCompute with
    | [] => s
    | n :: rest =>
      (s.setDie die { d with steal := some ⟨rest, false⟩ }).post
        (.stealRequest die (die / 32 * 32 + n) (1024 - d.count true))
  else s

/-- Put an entry at the end of a ready queue, with the comparison of R91. -/
def State.makeReady (s : State) (die : Nat) (e : RqEntry) : State :=
  ((s.onDie die (fun d => { d with ready := d.ready ++ [e] })).compareMark die).post (.schedDispatch die)

/-- Make a wick ready in its die's ready queue (R87, R90). -/
def State.readyWick (s : State) (home : Nat) (w : Wick) (reserved : Bool) : State :=
  s.makeReady (targetDie home w.rcd) { w := w, eff := w.rcd.prio, reserved := reserved }

/-- Let a core issue: it takes its turns from now on. -/
def State.activate (s : State) (corek : Nat) : State :=
  if s.turn.elem corek then s else { s with turn := s.turn ++ [corek] }

/-! ### Slots that rejoin the rotation -/

/-- Let slots of a cluster that wait in one way rejoin the rotation. -/
def State.wakeCluster (s : State) (ck : Nat) (w : Wait) : State :=
  { s with slots := Tab.mapVals (fun k x => if clusterOf k = ck ∧ x.wait = w then { x with wait := .none } else x) s.slots }
/-- Let slots of a core that wait in one way rejoin the rotation. -/
def State.wakeCore (s : State) (corek : Nat) (w : Wait) : State :=
  { s with slots := Tab.mapVals (fun k x => if coreOf k = corek ∧ x.wait = w then { x with wait := .none } else x) s.slots }
/-- Let slots of a device that wait in one way rejoin the rotation. -/
def State.wakeDev (s : State) (dev : Nat) (w : Wait) : State :=
  { s with slots := Tab.mapVals (fun k x => if devOf k = dev ∧ x.wait = w then { x with wait := .none } else x) s.slots }

/-! ### The receive queue (R116) -/

/-- The words that a slot's instruction has reserved, oldest first. -/
def Core.ownWords (k : Core) (slot : Nat) : List Word :=
  (k.rq.filter (fun e => decide (e.slot = some slot))).map (fun e => e.w)
/-- The words that no instruction has reserved, oldest first. -/
def Core.freeWords (k : Core) : List Word := (k.rq.filter (fun e => decide (e.slot = none))).map (fun e => e.w)
/-- The queue takes another word. -/
def Core.hasRoom (k : Core) : Bool := decide (k.rq.length < 32)
/-- Reserve the oldest `n` unreserved words of a queue for a slot. -/
def reserveWords (slot : Nat) : Nat → List QWord → List QWord
  | 0, l => l
  | _, [] => []
  | n + 1, e :: l =>
    if e.slot = none then { e with slot := some slot } :: reserveWords slot n l else e :: reserveWords slot (n + 1) l
/-- The waiters of a queue, in their order, that find an unreserved word, which becomes theirs: those who were served,
those who still wait, and the queue. -/
def serveWaiters : List Nat → List QWord → List Nat × List Nat × List QWord
  | [], l => ([], [], l)
  | j :: js, l =>
    if l.any (fun e => decide (e.slot = none)) then
      let r := serveWaiters js (reserveWords j 1 l)
      (j :: r.1, r.2)
    else ([], j :: js, l)
/-- Words held in the links enter the queue while it has room, and the slots that wait on mq are served. -/
def State.settleQueue (s : State) (corek : Nat) : State :=
  let k := s.core corek
  let n := 32 - k.rq.length
  let r := serveWaiters k.mqWait (k.rq ++ (k.link.take n).map (fun w => ⟨w, none⟩))
  r.1.foldl (fun s j => s.onSlot j (fun x => if x.wait = .mq then { x with wait := .none } else x))
    (s.setCore corek { k with rq := r.2.2, mqWait := r.2.1, link := k.link.drop n })
/-- Words that a slot has reserved: what becomes of them is `f`; the slot no longer waits on mq, and the queue goes
on. -/
def State.endReservation (s : State) (slot : Nat) (f : List QWord → List QWord) : State :=
  let ck := coreOf slot
  let k := s.core ck
  if k.rq.any (fun e => decide (e.slot = some slot)) || k.mqWait.elem slot then
    (s.setCore ck { k with rq := f k.rq, mqWait := k.mqWait.filter (fun w => decide (w ≠ slot)) }).settleQueue ck
  else s
/-- The socket of I/O die k (R13), and the four I/O dies of a module. -/
def ioSocket (k : Nat) : Nat := [6, 11, 12, 17].getD k 6
def ioDies (dev : Nat) : List Nat := (List.range 4).map (fun k => dieKey dev (ioSocket k))
/-- An I/O die of a module has yet to switch to its slot table (R290). -/
def State.switching (s : State) (dev : Nat) : Bool := (ioDies dev).any (fun d => (s.die d).switch)
/-- A `fab.slot` whose wait is abandoned has no effect (R293): the table before it is the module's again, and the dies that
had switched go back to it as dies go on to a new one, at the end of their entry (notes/assumptions 86). -/
def State.undoSlots (s : State) (slot : Nat) : State :=
  let dev := devOf slot
  let m := s.mod dev
  if m.slotBy = some slot then
    (ioDies dev).foldl (fun (s : State) d => s.onDie d (fun x => { x with switch := !x.switch }))
      (s.setMod dev { m with
        slotTable := m.oldTable, slotCount := m.oldCount
        oldTable := m.slotTable, oldCount := m.slotCount, slotBy := none })
  else s
/-- A load of a Taper table that a slot had begun is under way no more (R395). -/
def State.undoTaper (s : State) (slot : Nat) : State :=
  if (s.mod (devOf slot)).taper.loading = some slot then
    s.onMod (devOf slot) (fun m => { m with taper := { m.taper with loading := none } })
  else s
/-- A complex slot that a wick's `cx.load` was loading is empty, and one that its `cx.drop` has emptied holds no region (R299,
R311). -/
def State.undoCx (s : State) (slot : Nat) : State :=
  if (s.slot slot).begun then
    s.onCluster (clusterOf slot) (fun c => { c with
      cx := Tab.mapVals (fun _ q => if q.user = some slot then { gen := q.gen } else q) c.cx })
  else s
/-- An access of a slot that waits for its turn in the rotation of its cluster's engine waits no more (R177). -/
def State.dropTurns (s : State) (slot : Nat) : State :=
  if (s.slot slot).wait = .turn then
    s.onCluster (clusterOf slot) (fun c => { c with
      thread := Tab.mapVals (fun _ l => l.filter (fun k => decide (k ≠ slot))) c.thread })
  else s
/-- An instruction of a slot is given up: it traps, its wait is abandoned, or its wick leaves. The words it had
reserved stay for other readers (R116), a command that it had copied is not queued (R196), and what its waits have met
is forgotten. -/
def State.giveUp (s : State) (slot : Nat) : State :=
  (((((s.dropTurns slot).undoSlots slot).undoTaper slot).undoCx slot).endReservation slot (fun l =>
    l.map (fun e => if e.slot = some slot then { e with slot := none } else e))).onSlot slot
    (fun x => { x with
      polled := none, met := .none, undo := none, lines := [], mxIssue := none, begun := false, held := none
      firm := false, turn := false })

/-! ### Failing a wick (R231 to R233) -/

/-- The failure list of a die (R412): full when head − tail equals size. The three words stand before the base. -/
def State.failFull (s : State) (die : Nat) : Bool :=
  let d := s.die die
  decide (d.failSize = 0) ||
    decide (s.readN (d.failBase - 56) 8 - s.readN (d.failBase - 48) 8 = d.failSize)

/-- Every compute die of a module. -/
def diesOf (dev : Nat) : List Nat := computeSockets.map (dieKey dev)

/-- Break a group: a notice to every compute die of the module (R208). -/
def State.breakGroup (s : State) (dev asid grp cause : Nat) : State :=
  if grp = 0 then s else s.postAll ((diesOf dev).map (fun d => .groupBreakNotice d asid grp cause))

/-- The master die of a vigil line (R201). -/
def vigilMaster (pa : Nat) : Nat :=
  match region pa with
  | .scratch ck _ => dieOfCluster ck
  | _ => dieKey (bits pa 49 6) (computeSockets.getD (bits pa 6 3) 7)

/-- What a slot keeps when its wick has left it (R82, R119, R172, R213, R219, R227). -/
def Slot.vacate (x : Slot) (cycle : Nat) : Slot :=
  { x with
    occ := false, wait := .none, mons := [], latch := none, vlatch := none, glatch := none, parkU := none, parkS := none
    handler := false, held := none, polled := none, met := .none, undo := none
    lines := []
    launch := none, taper := none, pend := [], arrived := [], irqAll := [], replies := 0
    lastAsid := x.asid, emptySince := cycle }

/-- Post a one-slot interrupt source to a core; a second post of a pending source merges with the first (R236). -/
def State.postIrq (s : State) (corek cause : Nat) (v : Word) : State :=
  s.onCore corek (fun c => if (Tab.find? cause c.irq).isSome then c else { c with irq := Tab.put cause v c.irq })

/-- The value of a recorded fault (R228): device, more, and the store's pc. -/
def Deferred.value (l : Deferred) : Word :=
  BitVec.ofNat 64 (l.dev % 64 * 2 ^ 58 + (if l.more then 2 ^ 57 else 0) + bits l.pc.toNat 0 57)

/-- The source's X0 counts a refusal from a destination (R278). -/
def State.countRefusal (s : State) (dev dst : Nat) : State :=
  s.onMod dev (fun m => { m with refusals := Tab.upd 0 m.refusals dst (· + 1) })
/-- A refusal is delivered, logged or reported; at zero the source sends a fence marker (R278). -/
def State.settleRefusal (s : State) (dev dst n : Nat) : State :=
  let c := Tab.get 0 (s.mod dev).refusals dst
  if n = 0 ∨ c = 0 then s
  else
    let s1 := s.onMod dev (fun m => { m with refusals := Tab.put dst (c - n) m.refusals })
    if c ≤ n then s1.post (.fenceMarker dst dev) else s1

/-- The refusals that a latch stands for are settled. -/
def State.settleAll (s : State) (dev : Nat) (owed : List Nat) : State :=
  owed.foldl (fun s d => s.settleRefusal dev d 1) s

/-- A deferred store fault whose wick leaves the slot undelivered is logged and posts 0xC5 (R107, R229). -/
def State.logLatch (s : State) (slot : Nat) : State :=
  let x := s.slot slot
  match x.latch with
  | none => s
  | some l =>
    let s1 := s.log (dieOf slot) 0xC5 [l.value, BitVec.ofNat 64 x.asid.toNat]
    (s1.postIrq (dieOf slot * 1024 + 15) 0xC5 l.value).settleAll (devOf slot) l.owed

/-- A slot's matrix operations that are ready but have not started go, with their ranges (R353). -/
def State.dropReady (s : State) (slot : Nat) : State :=
  match (s.core (coreOf slot)).mx with
  | [] => s
  | h :: t =>
    let gone := (t.filter (fun o => decide (o.slot = slot))).map (fun o => o.lock)
    (s.onCore (coreOf slot) (fun k => { k with mx := h :: t.filter (fun o => decide (o.slot ≠ slot)) })).onCluster
      (clusterOf slot) (fun c => { c with locks := c.locks.filter (fun l => !gone.elem l.op) })
/-- An answer that a slot still waits for room to take. -/
def isCompletion (slot : Nat) : Event → Bool
  | .accessComplete k _ _ => decide (k = slot)
  | _ => false
/-- Empty a slot whose wick leaves it: its core's run queue may fill it (R92), and an invalidation or a connection that
waits for its accesses looks again (R266, R289). -/
def State.leave (s : State) (slot : Nat) : State :=
  let s0 := { s.giveUp slot with timers := s.timers.filter (fun t => !isCompletion slot t.2) }
  let s1 := (s0.dropReady slot).onSlot slot (fun x => x.vacate (s.core (coreOf slot)).cycle)
  (((s1.wakeDev (devOf slot) .tlb).wakeCluster (clusterOf slot) .unit).post (.wickEntry slot)).post
    (.dispenserPass (clusterOf slot))

/-- A wick's atomic that waits for a word of its module, in the requesting core (R168, R232): it has not yet been
performed. Stores have left the core, as has an atomic at a peer. -/
def heldAtomic (slot wick : Nat) (q : PeerReq) : Bool :=
  decide (q.src = slot ∧ q.wick = wick) && decide (q.kind ≠ .store ∧ q.kind ≠ .load) &&
    decide (bits q.pa 49 6 = devOf slot)
/-- The reservations of a wick are released with their words unchanged (R232); a relaxed atomic's register is written by
nothing more. -/
def State.releaseWords (s : State) (slot wick : Nat) : State :=
  let gone := ((s.resv.map (fun r => r.q)).flatten).filter (heldAtomic slot wick)
  ({ s with resv := s.resv.map (fun (r : Resv) => { r with q := r.q.filter (fun q => !heldAtomic slot wick q) }) } : State).postAll
    (gone.filterMap (fun q => q.flight.map (fun id => Event.relaxedAccessComplete (coreOf slot) id q.pa .none (some 0))))

/-- The wick's work in flight ends (R232): ring entries of the wick are cancelled, their ranges freed and their
vigils broken, and its reservations are released. R194 keeps an operation's ranges until it completes; R107 and R232,
which name this case, free those of a cancelled one (DEDUCED, notes/assumptions 74). -/
def State.cancelWork (s : State) (slot cause : Nat) : State :=
  let x := s.slot slot
  let ck := clusterOf slot
  let c := s.cluster ck
  let ring := Tab.get [] c.rings (coreNo (coreOf slot))
  let gone := ring.filter (fun o => decide (o.slot = slot ∧ o.wick = x.wick))
  let keep := ring.filter (fun o => !decide (o.slot = slot ∧ o.wick = x.wick))
  let ids := gone.map (fun o => o.id)
  let s1 := s.setCluster ck { c with
    rings := Tab.put (coreNo (coreOf slot)) keep c.rings
    locks := c.locks.filter (fun l => !ids.elem l.op) }
  let s2 := s1.releaseWords slot x.wick
  s2.postAll (gone.filterMap (fun (o : EngOp) => o.vigil.map (fun l =>
    (Event.vigilByteDecrement (vigilMaster l) l (2 ^ 64 + cause) ck o.id))))

/-- The wick of a slot as it fails: its record, with the pc that it keeps (R231). -/
def Slot.failed (x : Slot) (cause : Nat) (pc : Word) : Wick :=
  { rcd := x.record 3 cause pc (!x.user), launch := x.launch, taper := x.taper }
/-- A failed wick leaves its slot, and its work in flight ends (R232). -/
def State.failLeave (s : State) (slot cause : Nat) : State := ((s.logLatch slot).cancelWork slot cause).leave slot
/-- A failed wick leaves its slot: its record goes to its die's failure list, and its work in flight ends (R231, R232).
`pc` is the record's pc. -/
def State.failOut (s : State) (slot cause : Nat) (pc : Word) : State :=
  let x := s.slot slot
  ((s.failLeave slot cause).post (.wickFailure (dieOf slot) (x.failed cause pc))).breakGroup (devOf slot) x.asid.toNat
    x.grp.toNat cause
/-- A wick in a slot fails with a cause (R231); with neither ring nor buffer free the wick stays in its slot, out of the
rotation, behind those that failed before it (R233). -/
def State.failWick (s : State) (slot cause : Nat) (pc : Word) : State :=
  let die := dieOf slot
  if s.failFull die ∧ 64 ≤ (s.die die).overflow.length then
    ((s.giveUp slot).onSlot slot (fun x => { x with wait := .failing cause, pc := pc })).onDie die (fun d =>
      if d.waitFails.elem (.slot slot) then d else { d with waitFails := d.waitFails ++ [.slot slot] })
  else s.failOut slot cause pc
/-- A machine error is logged in its die's fault log, with the location of the slot that met it, or whose operation did,
which names socket, cluster and core, and the address (R234). -/
def State.logError (s : State) (slot cause addr : Nat) : State :=
  s.log (dieOf slot) cause [BitVec.ofNat 64 slot, BitVec.ofNat 64 addr]
/-- A machine error that a thread access meets is logged, and a scratchpad row reads so from now on (R234). -/
def State.threadError (s : State) (slot cause addr : Nat) : State :=
  (if cause = 0xB0 then s.loseRow addr else s).logError slot cause addr
/-- A machine error of a wick (R234): it is logged, and the wick fails. -/
def State.machineError (s : State) (slot cause addr : Nat) (pc : Word) : State :=
  (s.threadError slot cause addr).failWick slot cause pc

/-! ### Taking an exception, and returning from one (R218 to R224, R244) -/

/-- The fates of Table 11.2 that a raised cause can have. -/
inductive Fate where
  | sys | up | park | fail
  deriving DecidableEq, Repr

/-- The fate of a cause (Table 11.3). -/
def fateOf (c : Cause) : Fate :=
  if c = 0x06 ∨ c = 0x0F ∨ c = 0x44 ∨ c = 0x49 then .sys
  else if c = 0x10 then .fail
  else if c = 0x40 ∨ c = 0x41 ∨ c = 0x42 ∨ c = 0x43 ∨ c = 0x47 then .park
  else if 0xC0 ≤ c ∧ c ≤ 0xC6 then .sys
  else .up

/-- Entry to the system handler (R221). -/
def Slot.enterSystem (x : Slot) (cause : Cause) (tval resume : Word) (dfr : Bool) : Slot :=
  { x with
    tepc := resume &&& 0x01FFFFFFFFFFFFFC
    tcause := BitVec.ofNat 64 ((if dfr then 2 ^ 10 else 0) + (if x.ie then 2 ^ 9 else 0) +
      (if x.user then 2 ^ 8 else 0) + cause % 256)
    tval := tval
    kind := x.kind ||| 1
    tmask := x.tmask &&& 0xFFFFFFFF
    handler := true, held := none
    pc := x.tvec
    wait := .none }

/-- An upcall (R222). -/
def Slot.enterUser (x : Slot) (cause : Cause) (tval resume : Word) (dfr : Bool) : Slot :=
  { x with
    uepc := (resume &&& 0x01FFFFFFFFFFFFFC) ||| 1
    ucause := BitVec.ofNat 64 ((if dfr then 2 ^ 8 else 0) + cause % 256)
    uval := tval
    pc := x.uvec
    wait := .none }

/-- An upcall is allowed (R223): user mode, uvec non-zero, no upcall being handled. -/
def Slot.upcallOk (x : Slot) : Bool := x.user && decide (x.uvec ≠ 0) && !x.uepc.getLsbD 0

/-- Take a synchronous exception in a slot (R221 to R224): an upcall, the system handler, or failure of the wick. A
deferred store fault's delivery clears the latch (R227); a cause of fate P parks the wick (R260). The instruction's
reservations of receive-queue words end (R116). -/
def State.takeTrap (s : State) (slot : Nat) (cause : Cause) (tval resume : Word) (dfr : Bool) : State :=
  let s0 :=
    if dfr then
      ((s.giveUp slot).onSlot slot (fun x => { x with latch := none })).settleAll (devOf slot)
        (match (s.slot slot).latch with | some l => l.owed | none => [])
    else s.giveUp slot
  let x := s0.slot slot
  let fate := fateOf cause
  if (fate = .up ∨ fate = .park) ∧ x.upcallOk then
    s0.setSlot slot
      { x.enterUser cause tval resume dfr with parkU := if fate = .park then some cause else none }
  else if fate = .fail then s0.failWick slot cause resume
  else if x.user = false ∧ x.ie = false then s0.failWick slot 0x10 resume
  else if x.tvec = 0 then s0.failWick slot cause resume
  else
    s0.setSlot slot
      { x.enterSystem cause tval resume dfr with parkS := if fate = .park then some cause else none }

/-- Take an interrupt in a slot with a handler (R221, R224, R237). -/
def State.takeInterrupt (s : State) (slot : Nat) (cause : Cause) (tval : Word) : State :=
  let s1 := s.dropReady slot
  let x := s1.slot slot
  s1.setSlot slot (x.enterSystem cause tval x.pc false)

/-- Return from the system handler (R244): pc, mode and tmask.ie; the situation of R260 ends. A wick that goes on in user
mode with the prio 0 that its handler wrote holds 1 (R109; DEDUCED, notes/assumptions 106). -/
def Slot.trapReturn (x : Slot) : Slot :=
  { x with
    pc := x.tepc
    kind := if x.tcause.getLsbD 8 then x.kind &&& 0x1E else x.kind ||| 1
    prio := if x.tcause.getLsbD 8 ∧ x.prio = 0 then 1 else x.prio
    tmask := if x.tcause.getLsbD 9 then x.tmask ||| 0x100000000 else x.tmask &&& 0xFFFFFFFF
    handler := false, parkS := none }

end Sys2Proof.Machine
end

