-- ==== Sys2Proof/Machine/Operands.lean ====
section
/-!
DEFINITION. Operand forms (R41 to R46, R112 to R121): reading and writing every register number of Table 3.2, the
decode causes that the slot's place and mode decide, and `runInstr`, which runs the body of an encoded instruction:
decode causes first, then the guard, then the body; a trap is taken and a wait leaves the slot out of the rotation.
-/

namespace Sys2Proof.Machine

/-- A trap that an instruction raises: its cause and value, whether it is a deferred store fault, and whether it
resumes past the instruction (R224). -/
structure Trap where
  cause : Cause
  tval : Word := 0
  dfr : Bool := false
  past : Bool := false
  deriving DecidableEq, Repr

/-- Why an instruction's body does not complete: it traps, waits, or its wick fails. -/
inductive Stop where
  | trap (t : Trap)
  | wait (w : Wait)
  | fail (cause addr : Nat)
  deriving DecidableEq, Repr

/-- Where a body's control goes: on, to a target, or the slot no longer holds the wick. -/
inductive Flow where
  | next
  | jump (t : Word)
  | gone
  deriving DecidableEq, Repr

/-- What a body works on: the slot, the state, how many receive-queue words its reads have taken, and what a poll will
write: the first predicate of the pair that qctl.pp names, and the result (R116). -/
structure Ctx where
  slot : Nat
  st : State
  taken : Nat := 0
  poll : Option (Nat × Bool) := none

/-- The bodies of instructions. -/
abbrev M := ExceptT Stop (StateM Ctx)

/-- The outcome of a step. -/
abbrev Out := Host.Outcome State Fault Refusal

def getS : M State := do return (← get).st
def setS (s : State) : M Unit := modify (fun c => { c with st := s })
def modS (f : State → State) : M Unit := modify (fun c => { c with st := f c.st })
def here : M Nat := do return (← get).slot
def slotM : M Slot := do return (← getS).slot (← here)
def coreM : M Core := do return (← getS).core (coreOf (← here))
def clusterM : M Cluster := do return (← getS).cluster (clusterOf (← here))
def onSlotM (f : Slot → Slot) : M Unit := do modS (fun s => s.onSlot s.cur f)
def trapM {α : Type} (cause : Cause) (tval : Word := 0) : M α := throw (.trap { cause := cause, tval := tval })
def waitM {α : Type} (w : Wait) : M α := throw (.wait w)
def failM {α : Type} (cause : Nat) (addr : Nat := 0) : M α := throw (.fail cause addr)
/-- Trap unless a condition holds. -/
def needM (ok : Bool) (cause : Cause) (tval : Word := 0) : M Unit := if ok then pure () else trapM cause tval

/-- The neighbour core that a port leads to (R43): 26 north, 27 east, 28 south, 29 west; none into or out of core
15. -/
def neighbour (corek code : Nat) : Option Nat :=
  let c := corek % 16
  let r :=
    if code = 26 then (if 4 ≤ c then some (corek - 4) else none)
    else if code = 27 then (if c % 4 ≠ 3 then some (corek + 1) else none)
    else if code = 28 then (if c < 12 then some (corek + 4) else none)
    else (if c % 4 ≠ 0 then some (corek - 1) else none)
  match r with
  | none => none
  | some n => if c = 15 ∨ n % 16 = 15 then none else some n

/-- The value of an h register for a reader (R115): the latest write of three or more cycles ago, zero across
asids. -/
def hValue (u : Nat) (asid : BitVec 9) : List HWrite → Word
  | [] => 0
  | w :: ws => if w.cycle + 3 ≤ u then (if w.asid = asid then w.v else 0) else hValue u asid ws
/-- Keep the writes of an h register that a later read can still see. -/
def hTrim (u : Nat) : List HWrite → List HWrite
  | [] => []
  | w :: ws => if w.cycle + 3 ≤ u then [w] else w :: hTrim u ws

/-- A register is pending on the scoreboard (R114). -/
def Slot.isPending (x : Slot) (n : Nat) : Bool := x.pend.any (fun p => decide (p.reg = n))

/-- The word that a slot's next read of mq takes, `t` words having been taken: one that its instruction has reserved, and
then the oldest unreserved word, unless earlier waiters are ahead (R116). -/
def Core.mqWord (k : Core) (slot t : Nat) : Option Word :=
  let own := k.ownWords slot
  if t < own.length then own[t]?
  else if k.mqWait = [] ∨ k.mqWait.head? = some slot then k.freeWords[t - own.length]?
  else none
/-- The word that a slot's next poll takes, if any. -/
def Core.pollWord (k : Core) (slot t : Nat) : Option Word := (k.ownWords slot ++ k.freeWords)[t]?

/-- Read a register by its source code (Table 3.2). A pending register is waited for (R114), mq blocks while no word is
there for the slot, mqp polls (R116). -/
def rdCode (c : Nat) : M Word := do
  let x ← slotM
  if x.isPending c then waitM (.reg c)
  else if c = 0 then return 0
  else if c < 16 then return Tab.get 0 x.g c
  else if c < 24 then
    let k ← coreM
    return hValue k.cycle x.asid (Tab.get [] k.h (c - 16))
  else if c = 24 then
    let t := (← get).taken
    match (← coreM).mqWord (← here) t with
    | none => waitM .mq
    | some w =>
      modify (fun z => { z with taken := t + 1 })
      return w
  else
    let t := (← get).taken
    match (← coreM).pollWord (← here) t with
    | none =>
      modify (fun z => { z with poll := some (2 * x.pp.toNat, false) })
      return 0
    | some w =>
      modify (fun z => { z with taken := t + 1, poll := some (2 * x.pp.toNat, true) })
      return w

/-- Read a source field: a register, or the literal that follows (R113). -/
def rd (a : Src) : M Word :=
  match a with
  | .reg n => rdCode n.toNat
  | .lit32 v => pure (v.signExtend 64)
  | .lit64 v => pure v

/-- Write a general register and clear its dead bit (R119); g0 ignores writes. -/
def Slot.setG (x : Slot) (n : Nat) (v : Word) : Slot :=
  if n = 0 then x
  else { x with g := Tab.set 0 x.g n v, dead := x.dead &&& ~~~(BitVec.ofNat 64 (if 7 ≤ n then 2 ^ n else 0)) }

/-- Write an h register, by an instruction issued at a cycle (R115). -/
def Core.setH (k : Core) (n : Nat) (asid : BitVec 9) (cycle : Nat) (v : Word) : Core :=
  { k with h := Tab.put n (⟨cycle, asid, v⟩ :: hTrim k.cycle (Tab.get [] k.h n)) k.h }

/-- Write a register by its destination code (Table 3.2), for an instruction issued at a cycle of the core. A result for
mq or mqp, which only the dst field of fma and fms can name, goes nowhere: R42 gives such a field the source column, and
the spec states no write (DESIGN CHOICE, notes/assumptions 75). -/
def State.writeRegAt (s : State) (cycle slot code : Nat) (v : Word) : State :=
  if code < 16 then s.onSlot slot (fun x => x.setG code v)
  else if code < 24 then s.onCore (coreOf slot) (fun k => k.setH (code - 16) (s.slot slot).asid cycle v)
  else if code < 26 then s
  else
    match neighbour (coreOf slot) code with
    | some n => s.post (.portWordArrival n v)
    | none => s
/-- Write a register in the instruction's own cycle. -/
def State.writeReg (s : State) (slot code : Nat) (v : Word) : State :=
  s.writeRegAt (s.core (coreOf slot)).cycle slot code v

/-- Wait until a destination can be written: its pending result first (R114), room in a neighbour's queue (R116). -/
def prepDst (code : Nat) : M Unit := do
  let x ← slotM
  if x.isPending code then waitM (.reg code)
  else if 26 ≤ code then
    match neighbour (coreOf (← here)) code with
    | some n =>
      let k := (← getS).core n
      if !k.hasRoom && !k.fenced then waitM .port else pure ()
    | none => pure ()
  else pure ()

/-- Write a destination that `prepDst` has found writable. -/
def wr (d : BitVec 5) (v : Word) : M Unit := do
  let k ← here
  modS (fun s => s.writeReg k d.toNat v)

/-- A predicate of the slot (R118). -/
def Slot.p (x : Slot) (n : Nat) : Bool := x.pred.getLsbD n
/-- Write the predicate word; p0 stays true and p1 false (R118). -/
def Slot.setPred (x : Slot) (v : BitVec 16) : Slot := { x with pred := (v ||| 1) &&& 0xFFFD }
/-- Write an even–odd pair: p[n] := c, p[n + 1] := NOT c. -/
def Slot.setPair (x : Slot) (n : Nat) (c : Bool) : Slot :=
  x.setPred ((x.pred &&& ~~~(BitVec.ofNat 16 (3 * 2 ^ n))) ||| BitVec.ofNat 16 ((if c then 1 else 2) * 2 ^ n))

/-- The mode that an instruction needs (R50): true for those that user mode may not issue, by opcode and function
code. -/
def encPrivileged : Enc → Bool
  | .a op fn _ _ _ _ _ =>
    (decide (op = 0x32) && (decide (fn = 1) || decide (fn = 3))) || decide (op = 0x33) || decide (op = 0x34) ||
      (decide (op = 0x35) && decide (fn ≠ 2)) || (decide (op = 0x36) && decide (fn < 3))
  | .e _ x _ => decide (x.eq = 3) || decide (x.eq = 4)
  | .s x =>
    match selAccess x.sel.toNat with
    | some (r, w, z) => !r || (!w && z && decide (x.a.code ≠ 0))
    | none => false
  | _ => false

/-- The unit an instruction needs is absent (R50, R53). -/
def encAbsent (e : Enc) (corek : Nat) : Bool :=
  let svc := isService corek
  let w := isW (corek / 16)
  match e with
  | .k _ _ _ _ => !w || svc
  | .m _ _ _ => svc
  | .e _ x _ => decide (x.eq = 5) && (!w || svc)
  | _ => false

/-- A port written with no neighbour behind it (R43). -/
def encNoPort (e : Enc) (corek : Nat) : Bool :=
  let bad := fun (d : BitVec 5) => decide (26 ≤ d.toNat ∧ d.toNat < 30) && decide (neighbour corek d.toNat = none)
  match e with
  | .a _ _ x .wr _ _ _ => bad x.d
  | .i _ x _ => bad x.d
  | .s x => bad x.d
  | _ => false

/-- A source's value without waiting, for a field that is not mq or mqp. -/
def srcPeek (a : Src) (x : Slot) (k : Core) : Option Word :=
  match a with
  | .lit32 v => some (v.signExtend 64)
  | .lit64 v => some v
  | .reg n =>
    if x.isPending n.toNat then none
    else if n.toNat = 0 then some 0
    else if n.toNat < 16 then some (Tab.get 0 x.g n.toNat)
    else if n.toNat < 24 then some (hValue k.cycle x.asid (Tab.get [] k.h (n.toNat - 16)))
    else none

/-- The pending register that a jump's target needs (R99): the target is formed whatever the guard, but not from mq or
mqp. -/
def encAwaits (e : Enc) (x : Slot) : Option Nat :=
  match e with
  | .a 0x11 _ f _ _ _ _ =>
    let cs := [f.a.code, f.b.code]
    if cs.any (fun c => decide (c = 24 ∨ c = 25)) then none else cs.find? (fun c => decide (c < 24) && x.isPending c)
  | _ => none

/-- A jump's target, formed from register and literal values, is not 4-byte aligned (R99). -/
def encBadTarget (e : Enc) (x : Slot) (k : Core) : Bool :=
  match e with
  | .a 0x11 _ f _ _ _ _ =>
    match srcPeek f.a x k, srcPeek f.b x k with
    | some a, some b => decide ((a + b).toNat % 4 ≠ 0)
    | _, _ => false
  | _ => false

/-- The decode causes that depend on the slot: 0x05, 0x06, 0x07 and 0x08 (R43, R50, R99). -/
def slotCauses (s : State) (slot : Nat) (e : Enc) : List Cause :=
  let x := s.slot slot
  let k := s.core (coreOf slot)
  (if encNoPort e (coreOf slot) then [0x05] else []) ++ (if x.user && encPrivileged e then [0x06] else []) ++
  (if encAbsent e (coreOf slot) then [0x07] else []) ++ (if encBadTarget e x k then [0x08] else [])

/-- The decode cause of an instruction in a slot, the lowest-numbered one (R45). -/
def decodeCause (s : State) (slot : Nat) (e : Enc) : Option Cause := lowest (e.causes ++ slotCauses s slot e)

/-- Reserve the words that a slot's instruction has taken: those it has, and the oldest unreserved ones (R116). -/
def State.reserveTaken (s : State) (slot n : Nat) : State :=
  s.onCore (coreOf slot) (fun k => { k with rq := reserveWords slot (n - (k.ownWords slot).length) k.rq })
/-- Remove the words that a completed instruction has reserved, and write its poll's pair; the next waiter and the
senders go on (R116). -/
def State.takeWords (s : State) (slot : Nat) : State :=
  let s1 := (s.endReservation slot (fun l => l.filter (fun e => decide (e.slot ≠ some slot)))).onSlot slot (fun x =>
    { (match x.polled with | some p => x.setPair p.1 p.2 | none => x) with polled := none })
  s1.wakeCluster (clusterOf slot) .port
/-- An instruction that has read from the receive queue or polled it completes. -/
def State.readsDone (s : State) (slot : Nat) : State :=
  if (s.core (coreOf slot)).ownWords slot = [] ∧ (s.slot slot).polled = none then s else s.takeWords slot
/-- What an instruction has read from its core's receive queue stays with it until it completes. -/
def State.keepReads (s : State) (slot taken : Nat) (poll : Option (Nat × Bool)) : State :=
  let s1 := if taken = 0 then s else s.reserveTaken slot taken
  match poll with
  | none => s1
  | some p => s1.onSlot slot (fun x => { x with polled := some p })

/-- The state after a body that ended: unless a plain access of it is still to be answered, the words it read leave the
queue and the poll's pair is written (R116); and the pc moves on. -/
def finish (len : Nat) (c : Ctx) (f : Flow) : State :=
  let s0 := c.st.keepReads c.slot c.taken c.poll
  let s1 := if (s0.slot c.slot).replies ≠ 0 ∨ (c.taken = 0 ∧ c.poll = none) then s0 else s0.takeWords c.slot
  match f with
  | .next => s1.onSlot c.slot (fun x => { x with pc := x.pc + BitVec.ofNat 64 len })
  | .jump t => s1.onSlot c.slot (fun x => { x with pc := t })
  | .gone => s1

/-- The same for an instruction that ends its wick's stay in the slot: its words leave the queue and its pair is written
before a record of the wick is formed (R116). -/
def commitReadsM : M Unit :=
  modify (fun c =>
    if c.taken = 0 ∧ c.poll = none then c
    else { c with st := (c.st.keepReads c.slot c.taken c.poll).takeWords c.slot, taken := 0, poll := none })

/-- A timeout or notice that has ended a slot's wait: the instruction is executed again in its light (R171, R213). -/
def Slot.heard (x : Slot) : Wait :=
  match x.wait with
  | .expired => .expired
  | .noticed l e => .noticed l e
  | _ => x.met
/-- A wait in the middle of an instruction that no interrupt abandons: the instruction goes on from it. -/
def Wait.firm : Wait → Bool
  | .performing | .router _ | .turn | .tlb | .busy | .missHeld _ | .reply => true
  | _ => false
/-- Leave the rotation for a reason; a slot that waits on mq takes its place among the waiters. -/
def State.setWait (s : State) (slot : Nat) (w : Wait) : State :=
  let s1 := s.onSlot slot (fun x => { x with wait := w, met := x.heard, firm := w.firm })
  if w = .mq then
    s1.onCore (coreOf slot) (fun k => if k.mqWait.elem slot then k else { k with mqWait := k.mqWait ++ [slot] })
  else s1

/-- Run the body of an encoded instruction in the current slot (R44, R45, R224): a decode cause traps whatever the
guard, once the registers it depends on are written; a false guard only advances the pc; otherwise the body runs, and a
trap, wait or failure of it is taken. -/
def runInstr (i : Instr) (s : State) (body : M Flow) : Out :=
  let e := i.enc
  let k := s.cur
  let x := s.slot k
  match encAwaits e x, decodeCause s k e with
  | some n, none => .next (s.setWait k (.reg n))
  | some n, some c =>
    if 0x08 < c then .next (s.setWait k (.reg n)) else .next (s.takeTrap k c (i.firstWord.zeroExtend 64) x.pc false)
  | none, some c => .next (s.takeTrap k c (i.firstWord.zeroExtend 64) x.pc false)
  | none, none =>
    if x.p e.guard then
      match (body.run { slot := k, st := s }).run with
      | (.ok f, c) => .next (finish e.len c f)
      | (.error (.trap t), c) =>
        .next (c.st.takeTrap k t.cause t.tval (if t.past then x.pc + BitVec.ofNat 64 e.len else x.pc) t.dfr)
      | (.error (.wait w), c) => .next ((c.st.keepReads k c.taken c.poll).setWait k w)
      | (.error (.fail cause addr), c) =>
        .next (if 0xB0 ≤ cause ∧ cause ≤ 0xB6 then c.st.machineError k cause addr x.pc else c.st.failWick k cause x.pc)
    else .next (s.onSlot k (fun x => { x with pc := x.pc + BitVec.ofNat 64 e.len }))

end Sys2Proof.Machine
end

