-- ==== Sys2Proof/Machine/Flags.lean ====
section
/-!
DEFINITION. The sticky flags (R27, Table 2.5) and the scalar shapes that write one register: operands read, the
result and its flags formed, the destination waited for and written.
-/

namespace Sys2Proof.Machine

/-- Set flags in fflags; bit 7 reads zero. -/
def Slot.flag (x : Slot) (f : Fl) : Slot := { x with fflags := (x.fflags ||| f) &&& 0x7F }

/-- Set flags of the running slot. -/
def flagM (f : Fl) : M Unit := do
  let k ← here
  if f = 0 then pure () else modS (fun s => s.onSlot k (fun x => x.flag f))

/-- Write a result and its flags. -/
def result (d : BitVec 5) (v : Word) (f : Fl) : M Flow := do
  prepDst d.toNat
  wr d v
  flagM f
  return .next

/-- Two sources, one result with flags. -/
def binary (i : Instr) (x : FmtA) (f : Word → Word → Word × Fl) (s : State) : Out :=
  runInstr i s do
    let a ← rd x.a
    let b ← rd x.b
    let r := f a b
    result x.d r.1 r.2

/-- One source, one result with flags. -/
def unary (i : Instr) (x : FmtA) (f : Word → Word × Fl) (s : State) : Out :=
  runInstr i s do
    let a ← rd x.a
    let r := f a
    result x.d r.1 r.2

/-- Two sources and the destination's old value, one result with flags (fma; R43 reads dst last). -/
def ternary (i : Instr) (x : FmtA) (f : Word → Word → Word → Word × Fl) (s : State) : Out :=
  runInstr i s do
    let a ← rd x.a
    let b ← rd x.b
    let z ← rdCode x.d.toNat
    let r := f a b z
    result x.d r.1 r.2

/-- A source and an immediate (format I). -/
def immediate (i : Instr) (x : FmtI) (f : Word → BitVec 15 → Word) (s : State) : Out :=
  runInstr i s do
    let a ← rd x.a
    result x.d (f a x.imm) 0

end Sys2Proof.Machine
end

