-- ==== Sys2Proof/Machine/Alu.lean ====
section
/-!
DEFINITION. The alu and alui groups (spec 06_registers.md, R125 to R127, Table 6.7).
-/

namespace Sys2Proof.Machine

/-- The high 64 bits of a signed product. -/
def mulHigh (a b : Word) : Word := BitVec.ofInt 64 (a.toInt * b.toInt / 2 ^ 64)
/-- The high 64 bits of an unsigned product. -/
def mulHighU (a b : Word) : Word := BitVec.ofNat 64 (a.toNat * b.toNat / 2 ^ 64)
/-- as / bs truncated toward zero; −2^63 / −1 wraps to −2^63 (Table 6.7). -/
def divS (a b : Word) : Word := BitVec.ofInt 64 (a.toInt.tdiv b.toInt)
/-- as − bs × div(as, bs), with the sign of as. -/
def remS (a b : Word) : Word := BitVec.ofInt 64 (a.toInt.tmod b.toInt)
/-- au / bu truncated. -/
def divU (a b : Word) : Word := BitVec.ofNat 64 (a.toNat / b.toNat)
/-- au mod bu. -/
def remU (a b : Word) : Word := BitVec.ofNat 64 (a.toNat % b.toNat)
/-- The shift count zext(b, 6). -/
def count6 (b : Word) : Nat := b.toNat % 64
/-- A signed sum clamped to 64 bits, with sat when clamped (R26). -/
def clamp64 (z : Int) : Word × Fl :=
  if z < -(2 ^ 63) then (BitVec.ofInt 64 (-(2 ^ 63)), Flag.sat)
  else if 2 ^ 63 - 1 < z then (BitVec.ofInt 64 (2 ^ 63 - 1), Flag.sat)
  else (BitVec.ofInt 64 z, 0)
/-- Leading zero bits of `n` bits of a number. -/
def leadingZeros (v : Nat) : Nat → Nat
  | 0 => 0
  | n + 1 => if v / 2 ^ n % 2 = 1 then 0 else leadingZeros v n + 1
/-- Trailing zero bits among `n` bits of a number. -/
def trailingZeros (v : Nat) : Nat → Nat
  | 0 => 0
  | n + 1 => if v % 2 = 1 then 0 else trailingZeros (v / 2) n + 1
/-- One bits among `n` bits of a number. -/
def popCount (v : Nat) : Nat → Nat
  | 0 => 0
  | n + 1 => v % 2 + popCount (v / 2) n

/-- A division: a zero divisor raises 0x63 (R126). -/
def division (i : Instr) (x : FmtA) (f : Word → Word → Word) (s : State) : Out :=
  runInstr i s do
    let a ← rd x.a
    let b ← rd x.b
    needM (decide (b ≠ 0)) 0x63
    result x.d (f a b) 0

/-- `alu.add` (Table 6.7). -/
def execAluAdd (x : FmtA) (s : State) : Out := binary (.aluAdd x) x (fun a b => (a + b, 0)) s
/-- `alu.sub` (Table 6.7). -/
def execAluSub (x : FmtA) (s : State) : Out := binary (.aluSub x) x (fun a b => (a - b, 0)) s
/-- `alu.mul` (Table 6.7). -/
def execAluMul (x : FmtA) (s : State) : Out := binary (.aluMul x) x (fun a b => (a * b, 0)) s
/-- `alu.mulh` (Table 6.7). -/
def execAluMulh (x : FmtA) (s : State) : Out := binary (.aluMulh x) x (fun a b => (mulHigh a b, 0)) s
/-- `alu.mulhz` (Table 6.7). -/
def execAluMulhz (x : FmtA) (s : State) : Out := binary (.aluMulhz x) x (fun a b => (mulHighU a b, 0)) s
/-- `alu.div` (Table 6.7). -/
def execAluDiv (x : FmtA) (s : State) : Out := division (.aluDiv x) x divS s
/-- `alu.divz` (Table 6.7). -/
def execAluDivz (x : FmtA) (s : State) : Out := division (.aluDivz x) x divU s
/-- `alu.rem` (Table 6.7). -/
def execAluRem (x : FmtA) (s : State) : Out := division (.aluRem x) x remS s
/-- `alu.remz` (Table 6.7). -/
def execAluRemz (x : FmtA) (s : State) : Out := division (.aluRemz x) x remU s
/-- `alu.and` (Table 6.7). -/
def execAluAnd (x : FmtA) (s : State) : Out := binary (.aluAnd x) x (fun a b => (a &&& b, 0)) s
/-- `alu.or` (Table 6.7). -/
def execAluOr (x : FmtA) (s : State) : Out := binary (.aluOr x) x (fun a b => (a ||| b, 0)) s
/-- `alu.xor` (Table 6.7). -/
def execAluXor (x : FmtA) (s : State) : Out := binary (.aluXor x) x (fun a b => (a ^^^ b, 0)) s
/-- `alu.andn` (Table 6.7). -/
def execAluAndn (x : FmtA) (s : State) : Out := binary (.aluAndn x) x (fun a b => (a &&& ~~~b, 0)) s
/-- `alu.shl` (Table 6.7). -/
def execAluShl (x : FmtA) (s : State) : Out := binary (.aluShl x) x (fun a b => (a <<< count6 b, 0)) s
/-- `alu.shr` (Table 6.7). -/
def execAluShr (x : FmtA) (s : State) : Out := binary (.aluShr x) x (fun a b => (a >>> count6 b, 0)) s
/-- `alu.sra` (Table 6.7). -/
def execAluSra (x : FmtA) (s : State) : Out := binary (.aluSra x) x (fun a b => (a.sshiftRight (count6 b), 0)) s
/-- `alu.min` (Table 6.7). -/
def execAluMin (x : FmtA) (s : State) : Out := binary (.aluMin x) x (fun a b => (if a.slt b then a else b, 0)) s
/-- `alu.max` (Table 6.7). -/
def execAluMax (x : FmtA) (s : State) : Out := binary (.aluMax x) x (fun a b => (if a.slt b then b else a, 0)) s
/-- `alu.minz` (Table 6.7). -/
def execAluMinz (x : FmtA) (s : State) : Out := binary (.aluMinz x) x (fun a b => (if a.ult b then a else b, 0)) s
/-- `alu.maxz` (Table 6.7). -/
def execAluMaxz (x : FmtA) (s : State) : Out := binary (.aluMaxz x) x (fun a b => (if a.ult b then b else a, 0)) s
/-- `alu.adds` (Table 6.7). -/
def execAluAdds (x : FmtA) (s : State) : Out := binary (.aluAdds x) x (fun a b => clamp64 (a.toInt + b.toInt)) s
/-- `alu.subs` (Table 6.7). -/
def execAluSubs (x : FmtA) (s : State) : Out := binary (.aluSubs x) x (fun a b => clamp64 (a.toInt - b.toInt)) s
/-- `alu.clz` (Table 6.7). -/
def execAluClz (x : FmtA) (s : State) : Out := unary (.aluClz x) x (fun a => (BitVec.ofNat 64 (leadingZeros a.toNat 64), 0)) s
/-- `alu.ctz` (Table 6.7). -/
def execAluCtz (x : FmtA) (s : State) : Out := unary (.aluCtz x) x (fun a => (BitVec.ofNat 64 (trailingZeros a.toNat 64), 0)) s
/-- `alu.popc` (Table 6.7). -/
def execAluPopc (x : FmtA) (s : State) : Out := unary (.aluPopc x) x (fun a => (BitVec.ofNat 64 (popCount a.toNat 64), 0)) s
/-- `alui.add` (R127). -/
def execAluiAdd (x : FmtI) (s : State) : Out := immediate (.aluiAdd x) x (fun a b => a + b.signExtend 64) s
/-- `alui.and` (R127). -/
def execAluiAnd (x : FmtI) (s : State) : Out := immediate (.aluiAnd x) x (fun a b => a &&& b.signExtend 64) s
/-- `alui.or` (R127). -/
def execAluiOr (x : FmtI) (s : State) : Out := immediate (.aluiOr x) x (fun a b => a ||| b.signExtend 64) s
/-- `alui.xor` (R127). -/
def execAluiXor (x : FmtI) (s : State) : Out := immediate (.aluiXor x) x (fun a b => a ^^^ b.signExtend 64) s
/-- `alui.shl` (R127). -/
def execAluiShl (x : FmtI) (s : State) : Out := immediate (.aluiShl x) x (fun a b => a <<< (b.toNat % 64)) s
/-- `alui.shr` (R127). -/
def execAluiShr (x : FmtI) (s : State) : Out := immediate (.aluiShr x) x (fun a b => a >>> (b.toNat % 64)) s
/-- `alui.sra` (R127). -/
def execAluiSra (x : FmtI) (s : State) : Out := immediate (.aluiSra x) x (fun a b => a.sshiftRight (b.toNat % 64)) s
/-- `alui.mul` (R127). -/
def execAluiMul (x : FmtI) (s : State) : Out := immediate (.aluiMul x) x (fun a b => a * b.signExtend 64) s

end Sys2Proof.Machine
end

