-- ==== Sys2Proof/Machine/Branch.lean ====
section
/-!
DEFINITION. Branch and jump (spec 05_wicks.md, R98, R99; R47; calls and returns of R119).
-/

namespace Sys2Proof.Machine

/-- A call or a return sets the dead bits that cvm names (R119). -/
def Slot.deaden (x : Slot) : Slot := { x with dead := x.dead ||| x.cvm }

/-- A branch's target: pc + 4 × sext(off, 20), modulo 2^64. -/
def brTarget (pc : Word) (off : BitVec 20) : Word := pc + 4 * off.signExtend 64

/-- `br` (R98). -/
def execBr (x : FmtB) (s : State) : Out :=
  runInstr (.br x) s do
    let y ← slotM
    return .jump (brTarget y.pc x.off)

/-- `br` with lk = 1 (R98): a call, whose link goes to g15. -/
def execBrLink (x : FmtB) (s : State) : Out :=
  runInstr (.brLink x) s do
    prepDst 15
    let y ← slotM
    onSlotM (fun z => z.deaden.setG 15 (y.pc + 4))
    return .jump (brTarget y.pc x.off)

/-- The target of a jump from its two sources; a misaligned one traps with the instruction word (R99). -/
def jmpTarget (i : Instr) (x : FmtA) : M Word := do
  let a ← rd x.a
  let b ← rd x.b
  needM (decide ((a + b).toNat % 4 = 0)) 0x08 (i.firstWord.zeroExtend 64)
  return a + b

/-- `jmp.jr` (R99); with sa 15 and sb 0 a return (R119). -/
def execJmpJr (x : FmtA) (s : State) : Out :=
  runInstr (.jmpJr x) s do
    let t ← jmpTarget (.jmpJr x) x
    if x.a = .reg 15 ∧ x.b = .reg 0 then onSlotM Slot.deaden
    return .jump t

/-- `jmp.jl` (R99); with dst 15 a call (R119). -/
def execJmpJl (x : FmtA) (s : State) : Out :=
  runInstr (.jmpJl x) s do
    let t ← jmpTarget (.jmpJl x) x
    prepDst x.d.toNat
    let y ← slotM
    if x.d = 15 then onSlotM Slot.deaden
    wr x.d (y.pc + BitVec.ofNat 64 (Instr.jmpJl x).enc.len)
    return .jump t

end Sys2Proof.Machine
end

