-- ==== Sys2Proof/Machine/Access.lean ====
section
/-!
DEFINITION. Accesses to memory (spec 08_scratchpad.md, 12_translation.md, 13_links.md R275 to R279, 20_lanterns.md
R356 to R358): the checks of an access in their order, what a home does with it, peer accesses and their answers,
relaxed accesses, and the waits of releases and fences.
-/

namespace Sys2Proof.Machine

/-! ### Memory controllers (R356, R263) -/

/-- The Lantern number of a DRAM address: 8m + c for stack Mm and controller c (R356). -/
def lanternOf (socket off : Nat) : Nat := (if socket < 6 then socket else socket - 12) * 8 + bits off 9 3

/-- The constants of the count-min sketch (R263). -/
def sketchK : List Nat := [0x9E3779B1, 0x85EBCA77, 0xC2B2AE3D, 0x27D4EB2F]
/-- The counters of a frame: row i's counter stands at 1024 i + h_i(f). -/
def sketchKeys (f : Nat) : List Nat :=
  (List.range 4).map (fun i => 1024 * i + f * sketchK.getD i 0 % 2 ^ 32 / 2 ^ 22)
/-- The least estimate of a candidate list. -/
def leastOf : Tab Nat → Option (Nat × Nat)
  | [] => none
  | (f, e) :: t =>
    match leastOf t with
    | none => some (f, e)
    | some (g, e') => some (if e ≤ e' then (f, e) else (g, e'))
/-- Count a request for a frame in a controller's sketch and candidate list (R263). -/
def Lantern.count (l : Lantern) (f : Nat) : Lantern :=
  let sk := (sketchKeys f).foldl (fun t k => Tab.put k (min (Tab.get 0 t k + 1) (2 ^ 32 - 1)) t) l.sketch
  let est := (sketchKeys f).foldl (fun m k => min m (Tab.get 0 sk k)) (2 ^ 32)
  let cand :=
    if (Tab.find? f l.cand).isSome ∨ l.cand.length < 64 then Tab.put f est l.cand
    else
      match leastOf l.cand with
      | some (g, e) => if e < est then Tab.put f est (Tab.del g l.cand) else l.cand
      | none => l.cand
  { l with sketch := sk, cand := cand }
/-- A home serves one request. A memory controller's identity stream or atomic unit counts it, and a granule when a stage
has processed it (R356, R376); a scratchpad row with errors that can be corrected is repaired, by a read and also by a
write, which keeps the row's check words current (R152; DESIGN CHOICE for a write, notes/assumptions 79). -/
def State.serve (s : State) (pa : Nat) (granule : Bool) : State :=
  match region pa with
  | .dram dev so off =>
    s.onMod dev (fun m =>
      let k := lanternOf so off
      let l := (Tab.get {} m.lanterns k).count (bits pa 16 32)
      { m with lanterns := Tab.put k { l with taken := l.taken + 1, units := if granule then l.units + 1 else l.units } m.lanterns })
  | .scratch _ _ => s.repairRow pa
  | _ => s

/-- How many bytes a home takes in one request: a granule of DRAM, a row of a scratchpad. -/
def homeUnit (pa : Nat) : Nat := match region pa with | .dram _ _ _ => 512 | _ => 256
/-- A home serves an access of `n` bytes: two requests where an FP4 block runs into a second granule or row (R144, R263). -/
def State.serveSpan (s : State) (pa n : Nat) : State :=
  let s1 := s.serve pa true
  if (pa + n - 1) / homeUnit pa ≤ pa / homeUnit pa then s1 else s1.serve (pa + n - 1) true

/-! ### What a home does -/

/-- The home takes no access yet, never will, or takes it (R410). -/
inductive Home where
  | ok | held | failed
  deriving DecidableEq, Repr

/-- A function's state from its die's ready word and the bit that the function needs (R410). -/
def homeOfWord (w : BitVec 8) (bit : Nat) : Home :=
  if w.getLsbD 7 then .failed else if w.getLsbD bit then .ok else .held
/-- The readiness of an address's home, for a requester on a die (R407, R410). -/
def State.home (s : State) (die : Nat) (pa : Nat) : Home :=
  match region pa with
  | .dram dev so _ =>
    let w := (s.die (dieKey dev so)).readyWord
    if homeOfWord w 1 = .ok then homeOfWord w 2 else homeOfWord w 1
  | .scratch ck _ => if dieOfCluster ck = die then .ok else homeOfWord (s.die (dieOfCluster ck)).readyWord 0
  | .loc k _ => if dieOfCluster (k / 16) = die then .ok else homeOfWord (s.die (dieOfCluster (k / 16))).readyWord 0
  | .host =>
    let a := homeOfWord (s.die (dieKey (die / 32) 6)).readyWord 2
    let b := homeOfWord (s.die (dieKey (die / 32) 12)).readyWord 2
    if a = .ok ∨ b = .ok then .ok else if a = .failed ∧ b = .failed then .failed else .held
  | _ => .ok

/-- Load `n` bytes at a home; beyond the range they read zero (R145, R156). -/
def State.loadHome (s : State) (pa n : Nat) : Nat := s.readN pa ((region pa).room n)
/-- The failure lists whose tail word an access of `n` bytes touches (R412). -/
def State.tailsAt (s : State) (pa n : Nat) : List Nat :=
  (s.dies.filter (fun e => decide (e.2.failSize ≠ 0 ∧ e.2.failBase < pa + n + 48 ∧ pa + 40 < e.2.failBase))).map Prod.fst
/-- Store `n` bytes; software that so advances a failure list's tail lets the list's die know (R233). -/
def State.storeTail (s : State) (pa n v : Nat) : State :=
  let s1 := s.storeN pa n v
  s1.postAll ((s.tailsAt pa n).map (fun d => .failureListTailAdvance d (s1.readN ((s.die d).failBase - 48) 8)))
/-- Store `n` bytes at a home on behalf of a cluster: beyond the range they are dropped (R156), and so are writes from
outside a cluster into one of its slot regions, which the die's fault log counts (R306). -/
def State.storeHome (s : State) (ck pa n v : Nat) : State :=
  let m := (region pa).room n
  if m = 0 then s
  else
    match region pa with
    | .scratch c off =>
      if c ≠ ck ∧ (s.cluster c).inRegion off m then s.log (dieOfCluster c) 0x77 [BitVec.ofNat 64 pa]
      else s.storeN pa m v
    | .dram _ _ _ => s.storeTail pa m v
    | _ => s.storeN pa m v

/-- The sign- or zero-extended value of the low `n` bytes (R165). -/
def extend (v n : Nat) (sx : Bool) : Word :=
  let w := v % 2 ^ (8 * n)
  if sx ∧ bits v (8 * n - 1) 1 = 1 then BitVec.ofNat 64 (2 ^ 64 + w - 2 ^ (8 * n)) else BitVec.ofNat 64 w
/-- The two bytes that a tolerant page holds for an FP32 word (R36). -/
def bfNarrow (w : Nat) : Nat := (bf16.round .rne (fp32.decode (w % 2 ^ 32))).1

/-- The operation of an atomic (R167): the new value from the old one, the operand and the second operand of cas. -/
def amoNew (op n old v v2 : Nat) : Nat :=
  let m := 2 ^ (8 * n)
  let sgn := fun (z : Nat) => if z < m / 2 then (z : Int) else (z : Int) - (m : Int)
  match op with
  | 0 => (old + v) % m
  | 1 => old &&& v
  | 2 => old ||| v
  | 3 => old ^^^ v
  | 4 => if sgn old < sgn v then old else v
  | 5 => if sgn old < sgn v then v else old
  | 6 => if old < v then old else v
  | 7 => if old < v then v else old
  | 8 => v
  | 9 => if old = v then v2 else old
  | 11 => let r := WickRec.ofNat old; if r.state < 2 then (r.mark 3 v).toNat else old
  | _ => if n = 4 then rneAdd32 old v else (fp64.add .rne old v).1
/-- cas writes nothing when the compare fails (R167), nor does the abort of a record that is not ready or suspended
(R107). -/
def amoWrites (op old v : Nat) : Bool :=
  !(decide (op = 9) && decide (old ≠ v)) && !(decide (op = 11) && decide (2 ≤ (WickRec.ofNat old).state))
/-- Perform an atomic at a home: the old value and the state. -/
def State.atomicHome (s : State) (ck pa n op v v2 : Nat) : Nat × State :=
  if (region pa).inRange = false then (0, s)
  else
    let old := s.readN pa n
    (old, if amoWrites op old v then s.storeHome ck pa n (amoNew op n old v v2) else s)

/-! ### Vector lanes and loaded values -/

/-- `n` bits of a vector register from bit `lo`. -/
def vget (x : VWord) (lo n : Nat) : Nat := bits x.toNat lo n
/-- A vector register with `n` bits from `lo` replaced. -/
def vput (x : VWord) (lo n v : Nat) : VWord := BitVec.ofNat 1024 (setBits x.toNat lo n v)
/-- Write a vector register and clear its dead bit (R119). -/
def Slot.setV (x : Slot) (n : Nat) (v : VWord) : Slot :=
  { x with v := Tab.set 0 x.v n v, dead := x.dead &&& ~~~(BitVec.ofNat 64 (2 ^ (16 + n))) }
/-- Read a vector register. -/
def Slot.vreg (x : Slot) (n : Nat) : VWord := Tab.get 0 x.v n

/-- A value as its destination takes it: two bytes of a tolerant page widen to an FP32 word (R259). -/
def landValue (d : RegDst) (n raw : Nat) : Nat :=
  match d with
  | .reg _ bytes _ => if bytes = 2 * n then bfWiden raw else raw
  | .widen _ _ => bfWiden raw
  | _ => raw
/-- Write a loaded value to its destination in a slot, for an instruction issued at a cycle of the core (R115). -/
def State.land (s : State) (cycle slot : Nat) (d : RegDst) (v : Nat) : State :=
  match d with
  | .none => s
  | .reg n bytes sx => s.writeRegAt cycle slot n (extend v bytes sx)
  | .lane r i bytes => s.onSlot slot (fun x => x.setV r (vput (x.vreg r) (8 * bytes * i) (8 * bytes) v))
  | .widen r i => s.onSlot slot (fun x => x.setV r (vput (x.vreg r) (32 * i) 32 v))
  | .line pa => s.onSlot slot (fun x => { x with lines := x.lines ++ [(pa, v)] })
  | .block r b => s.onSlot slot (fun x =>
      (x.setV r (vput (x.vreg r) (128 * b) 128 (v / 2 ^ 32))).setV (r + 1) (vput (x.vreg (r + 1)) (32 * b) 32 v))
/-- A destination can be written: a port's neighbour has room in its queue (R116). -/
def State.canLand (s : State) (slot : Nat) (d : RegDst) : Bool :=
  match d with
  | .reg n _ _ =>
    if 26 ≤ n then
      match neighbour (coreOf slot) n with
      | some k => (s.core k).hasRoom || (s.core k).fenced
      | none => true
    else true
  | _ => true

/-! ### Grants and refusals (R276 to R279) -/

/-- A module's grant table admits an access of a kind to `n` bytes (R277). -/
def Grant.admits (g : Grant) (pa n : Nat) (k : AccKind) : Bool :=
  let w := fun i => (Tab.get 0 g.w i).toNat
  let lo := pa % 2 ^ 49
  let bit := match k with | .load => 63 | .store => 62 | .atomic _ => 61
  decide (bits (w 0) 0 1 = 1) && decide (bits (w 0) 13 1 = 0) &&
    (List.range 3).any (fun j =>
      let b := bits (w (1 + 2 * j)) 0 49
      let l := bits (w (2 + 2 * j)) 0 49
      decide (b ≤ l) && decide (b ≤ lo) && decide (lo + n ≤ l + 1) && decide (bits (w (1 + 2 * j)) bit 1 = 1))
/-- Add 1 to a grant entry's count of refusals, modulo 2^32. -/
def Grant.reject (g : Grant) : Grant :=
  let w0 := Tab.get 0 g.w 0
  { g with w := Tab.put 0 (putBits w0 32 32 (bits w0.toNat 32 32 + 1)) g.w }
/-- Set or clear an entry's fault fence (R278). -/
def Grant.setFence (g : Grant) (b : Bool) : Grant :=
  { g with w := Tab.put 0 (putBits (Tab.get 0 g.w 0) 13 1 (if b then 1 else 0)) g.w }
/-- The grant entry of a module for a source. -/
def State.grant (s : State) (dev src : Nat) : Grant := Tab.get {} (s.mod dev).grants src
/-- Change a grant entry. -/
def State.onGrant (s : State) (dev src : Nat) (f : Grant → Grant) : State :=
  s.onMod dev (fun m => { m with grants := Tab.upd {} m.grants src f })
/-- A destination refuses an access (R277, R278): it counts, and the first refusal sets the fence and is logged. -/
def State.refuse (s : State) (dev src pa : Nat) : State :=
  let fenced := decide (bits (Tab.get 0 (s.grant dev src).w 0).toNat 13 1 = 1)
  let s1 := s.onGrant dev src Grant.reject
  if fenced then s1
  else
    (s1.onGrant dev src (fun g => g.setFence true)).log (dieKey dev (bits pa 44 5)) 0x90
      [BitVec.ofNat 64 src, BitVec.ofNat 64 pa]
/-- Record a rejected access in a slot's deferred-fault latch (R227, R279). -/
def Slot.latchFault (x : Slot) (pc : Word) (dev : Nat) : Slot :=
  match x.latch with
  | none => { x with latch := some ⟨pc, dev, false, [dev]⟩ }
  | some l => { x with latch := some { l with more := true, owed := l.owed ++ [dev] } }

/-! ### The checks of an access (R165, R254) -/

/-- The device that a physical address names for a slot: none for host memory. -/
def peerOf (slot pa : Nat) : Option Nat :=
  if bits pa 55 1 = 1 ∨ bits pa 49 6 = devOf slot then none else some (bits pa 49 6)

/-- The kind code of a miss (R256). -/
def missKind : XKind → Nat
  | .load => 0
  | .store => 1
  | .atomic => 1
  | .fetch => 2

/-- Wait for a translation (R256): the miss enters the queue, or waits for an entry. -/
def missM {α : Type} (k : XKind) (va : Word) : M α := do
  let me ← here
  let x ← slotM
  modS (fun s => (s.enqMiss (clusterOf me) x.asid va.toNat (missKind k) (some me) none).1)
  waitM (.miss va)

/-- Translate a slot's access (R254): its causes are raised on the address. -/
def xlateM (k : XKind) (va : Word) : M Xlat := do
  let me ← here
  let x ← slotM
  let s ← getS
  let r := s.xlate (coreOf me) true x.user x.asid k va
  setS r.2
  match r.1 with
  | .ok t => return t
  | .fault c => trapM c va
  | .miss => missM k va

/-- The cause that a target raises (R9, R150, R168, R306). -/
def State.targetCause (s : State) (slot : Nat) (k : XKind) (n : Nat) (t : Xlat) : Option Cause :=
  let wr := decide (k = .store) || decide (k = .atomic)
  match region t.pa with
  | .noSocket => some 0x24
  | .reserved => some 0x21
  | .host => if k = .atomic then some 0x22 else none
  | .scratch ck off =>
    if wr && decide (ck = clusterOf slot) && (s.cluster ck).inRegion off (if t.tol then n / 2 else n) then some 0x77
    else none
  | _ => none

/-- The checks after translation, in the order of R165: alignment, range locks, tolerant page, target. -/
def checkM (k : XKind) (n : Nat) (tolOk : Bool) (t : Xlat) : M Unit := do
  let me ← here
  let x ← slotM
  let s ← getS
  let wr := decide (k = .store) || decide (k = .atomic)
  needM (decide (t.va.toNat % n = 0)) 0x20 t.va
  needM (!s.lockHit (clusterOf me) x.asid t.va.toNat n wr) 0x82 t.va
  needM (!t.tol || tolOk) 0x46 t.va
  match s.targetCause me k n t with
  | some c => trapM c t.va
  | none => pure ()

/-- Wait until the home takes accesses; a failed home fails the wick (R410). A peer's home is looked at where the
access arrives (R275). -/
def readyM (pa : Nat) : M Unit := do
  let me ← here
  match peerOf me pa, (← getS).home (dieOf me) pa with
  | some _, _ | none, .ok => pure ()
  | none, .held => waitM (.router pa)
  | none, .failed => failM 0xB2 pa

/-- A write that a memory controller merges into a line first reads it: an error there fails the writing wick (R357). -/
def mergeErrorM (pa n : Nat) : M Unit := do
  let s ← getS
  match s.writeError pa n with
  | some c => failM c ((s.mergeFaults pa n).headD pa)
  | none => pure ()

/-- An uncorrectable error at a home fails the reading wick (R234). -/
def errorM (pa : Nat) : M Unit := do
  match (← getS).readError pa with
  | some c => failM c pa
  | none => pure ()
/-- An uncorrectable error under any of `n` bytes fails the reading wick (R234). -/
def errorsM (pa n : Nat) : M Unit := do
  match (← getS).readFault pa n with
  | some e => failM e.1 e.2
  | none => pure ()

/-- Translate and check an access of `n` bytes. -/
def accessM (k : XKind) (n : Nat) (tolOk : Bool) (va : Word) : M Xlat := do
  let t ← xlateM k va
  checkM k n tolOk t
  return t

/-- Keep the first out-of-range address in oob (R156, Table 8.4). -/
def Slot.noteOob (x : Slot) (va : Word) (wr : Bool) : Slot :=
  if x.oob.getLsbD 63 then x
  else { x with oob := BitVec.ofNat 64 (2 ^ 63 + (if wr then 2 ^ 62 else 0) + bits va.toNat 0 57) }
/-- Ticks of the model between two visits of an engine, so that the cores issue while it works; the spec gives no
figure. -/
def visitPeriod : Nat := 16
/-- A visit of the engine is already on its way. -/
def State.visiting (s : State) (ck : Nat) : Bool :=
  let isVisit := fun (e : Event) => match e with | .engineGrantVisit k _ => decide (k = ck) | _ => false
  s.agenda.any isVisit || s.timers.any (fun t => isVisit t.2)
/-- Let the engine visit a core. -/
def State.visit (s : State) (ck core : Nat) : State :=
  if s.visiting ck then s else s.after visitPeriod (.engineGrantVisit ck core)
/-- A home lies outside a cluster: a thread access to it passes through the cluster's engine (R176). -/
def outside (ck pa : Nat) : Bool :=
  match region pa with
  | .scratch c _ => decide (c ≠ ck)
  | .loc k _ => decide (k / 16 ≠ ck)
  | _ => true
/-- Operations of the copy engine in flight. -/
def Cluster.flying (c : Cluster) : Nat := (c.ops.filter (fun o => decide (o.eq = 0))).length
/-- The operation whose requests a core issues now: the first started that has not issued all (R176). -/
def Cluster.issuing (c : Cluster) (core : Nat) : Option EngOp :=
  c.ops.find? (fun o => decide (o.eq = 0 ∧ o.core = core) && o.code.isNone && decide (o.granted < o.total))
/-- A core has a thread access or a request waiting (R177). -/
def Cluster.waiting (c : Cluster) (core : Nat) : Bool :=
  !(Tab.get [] c.thread core).isEmpty || (c.issuing core).isSome
/-- A core has something waiting, or an operation to start. -/
def Cluster.busy (c : Cluster) (core : Nat) : Bool :=
  c.waiting core || (!(Tab.get [] c.rings core).isEmpty && decide (c.flying < 32))
/-- No core of a cluster has anything waiting: the rotation rests, and would visit a core with an access at once, with a
whole quantum for it (R177, R178). -/
def Cluster.atRest (c : Cluster) : Bool := (List.range 16).all (fun k => !c.busy k)

/-- The homes of an instruction's accesses that lie outside its slot's cluster. -/
def outsides (slot : Nat) (pas : List Nat) : List Nat := pas.filter (outside (clusterOf slot))
/-- The accesses of an instruction that has not yet accessed memory may go on their way: none leaves the cluster, the
slot has had its turn, or nothing else of the cluster waits (R177). -/
def State.mayGo (s : State) (slot : Nat) (pas : List Nat) : Bool :=
  (outsides slot pas).isEmpty || (s.slot slot).turn || (s.cluster (clusterOf slot)).atRest
/-- Accesses that go use up their slot's turn. -/
def State.turnUsed (s : State) (slot : Nat) (pas : List Nat) : State :=
  if (outsides slot pas).isEmpty || !(s.slot slot).turn then s else s.onSlot slot (fun x => { x with turn := false })
/-- Accesses of a slot stand in the rotation behind those of its core's earlier ones (R177). -/
def State.askTurn (s : State) (slot n : Nat) : State :=
  let ck := clusterOf slot
  let core := coreNo (coreOf slot)
  (s.onCluster ck (fun c => { c with thread := Tab.upd [] c.thread core (· ++ List.replicate n slot) })).visit ck core
/-- Accesses of an instruction to homes outside the cluster are sent when their core's turn covers them (R177): until then
their slot is out of the rotation, and no interrupt abandons them, which have left the core (R174; notes/assumptions
53). -/
def turnM (pas : List Nat) : M Unit := do
  let me ← here
  if (← getS).mayGo me pas then modS (fun s => s.turnUsed me pas)
  else do
    modS (fun s => s.askTurn me (outsides me pas).length)
    waitM .turn
/-- An access goes on its way when it has its turn, and is noted when its home lies out of range. -/
def oobM (t : Xlat) (wr : Bool) : M Unit := do
  turnM [t.pa]
  if (region t.pa).inRange then pure () else onSlotM (fun x => x.noteOob t.va wr)

/-- Before a plain access to a peer changes its slot, what it may change is kept (R279): the vector registers named, the
predicates and oob. -/
def keepM (regs : List Nat) : M Unit :=
  onSlotM (fun x => { x with undo := some ⟨regs.map (fun r => (r, x.vreg r)), x.dead, x.pred, x.oob⟩ })
/-- Put it back. -/
def Slot.undone (x : Slot) : Slot :=
  match x.undo with
  | none => x
  | some u =>
    let bit := fun (r : Nat) => BitVec.ofNat 64 (2 ^ (16 + r))
    { u.regs.foldl (fun (y : Slot) p =>
        { y with v := Tab.set 0 y.v p.1 p.2, dead := (y.dead &&& ~~~(bit p.1)) ||| (u.dead &&& bit p.1) }) x with
      pred := u.pred, oob := u.oob, undo := none }

/-- The bytes that an access of `n` bytes touches at the home. -/
def Xlat.width (t : Xlat) (n : Nat) : Nat := if t.tol then n / 2 else n

/-- An access of the running slot as a request. -/
def requestM (k : AccKind) (t : Xlat) (n v v2 : Nat) (flight : Option Nat) (dst : RegDst) : M PeerReq := do
  let me ← here
  let x ← slotM
  return { src := me, pc := x.pc, asid := x.asid.toNat, wick := x.wick, pa := t.pa, n := t.width n, kind := k,
           v := v, v2 := v2, flight := flight, dst := dst }

/-! ### Answers -/

/-- The slot still holds the wick that made a request. -/
def State.holds (s : State) (q : PeerReq) : Bool :=
  let x := s.slot q.src
  x.occ && decide (x.wick = q.wick)

/-- Answer a request with a value: the event that completes a plain access, or that lands a relaxed one. -/
def State.answer (s : State) (q : PeerReq) (v : Nat) : State :=
  match q.flight with
  | some id => s.post (.relaxedAccessComplete (coreOf q.src) id q.pa q.dst (some (landValue q.dst q.n v)))
  | none => if s.holds q then s.post (.accessComplete q.src q.dst (landValue q.dst q.n v)) else s

/-- A request meets a machine error at an address: it is logged, and the wick that made it fails if its slot still holds it
(R234). -/
def State.accessError (s : State) (q : PeerReq) (cause addr : Nat) : State :=
  if s.holds q then s.machineError q.src cause addr q.pc else s.threadError q.src cause addr
/-- A request meets an uncorrectable error or a failed home: the wick that made it fails, and a relaxed access is over
(R234, R371, R410). -/
def State.failRequest (s : State) (q : PeerReq) (cause addr : Nat) : State :=
  let s1 := s.accessError q cause addr
  if q.flight.isSome then s1.answer { q with dst := .none } 0 else s1

/-- Store a request's bytes at its home on behalf of a cluster; an error in a line that it merges into fails the wick that
made it, and nothing is stored (R357). -/
def State.storeReq (s : State) (ck : Nat) (q : PeerReq) : State :=
  match s.writeError q.pa q.n with
  | some c => s.accessError q c ((s.mergeFaults q.pa q.n).headD q.pa)
  | none => (s.serveSpan q.pa q.n).storeHome ck q.pa q.n q.v

/-- Perform a request at its home on behalf of a cluster, and answer it. A store needs no value in its answer. -/
def State.perform (s : State) (ck : Nat) (q : PeerReq) : State :=
  match q.kind with
  | .store => s.storeReq ck q
  | .load =>
    match s.readFault q.pa q.n with
    | some e => s.failRequest q e.1 e.2
    | none => (s.serveSpan q.pa q.n).answer q (s.loadHome q.pa q.n)
  | .atomic op =>
    match s.readFault q.pa q.n with
    | some e => s.failRequest q e.1 e.2
    | none =>
      let r := (s.serve q.pa false).atomicHome ck q.pa q.n op q.v q.v2
      r.2.answer q r.1

/-- The word of memory that a request reserves or waits for (R168). -/
def resvWord (pa : Nat) : Nat := pa / 8
/-- The first reserved word under `n` bytes. -/
def State.reservedWord (s : State) (pa n : Nat) : Option Nat :=
  (s.resv.map (fun r => r.word)).find? (fun w => decide (resvWord pa ≤ w ∧ w ≤ resvWord (pa + n - 1)))
/-- A word under `n` bytes is reserved. -/
def State.reserved (s : State) (pa : Nat) (n : Nat := 1) : Bool := (s.reservedWord pa n).isSome
/-- Put a requester at the end of a word's queue (R168); the first one's grant follows. -/
def State.reserve (s : State) (dev : Nat) (q : PeerReq) : State :=
  match s.reservedWord q.pa q.n with
  | some w => { s with resv := s.resv.map (fun r => if r.word = w then { r with q := r.q ++ [q] } else r) }
  | none => ({ s with resv := s.resv ++ [⟨resvWord q.pa, [q]⟩] } : State).post (.atomicReservationGrant dev (resvWord q.pa))

/-! ### Relaxed accesses (R160) -/

/-- Wait for room under the outstanding-request counter. -/
def flightRoomM : M Unit := do
  let k ← coreM
  if 32 ≤ k.flights.length then waitM .flights

/-- Let a relaxed access of some requests leave the core: the flight, and its pending registers. -/
def flyM (id : Nat) (qs : List PeerReq) (regs : List Nat) : M Unit := do
  let me ← here
  match qs with
  | [] => pure ()
  | q :: _ => do
    onSlotM (fun x => { x with pend := x.pend ++ regs.map (fun r => ⟨r, false, id⟩) })
    modS (fun s => s.onCore (coreOf me) (fun k =>
      { k with flights := k.flights ++ [{
          id := id, slot := me, wick := q.wick, req := q
          near := qs.filter (fun q => decide (peerOf me q.pa = none)), homes := qs.map (fun q => q.pa), cycle := k.cycle }] }))

/-- A number for a new relaxed access or engine operation. -/
def freshM : M Nat := do
  let n := (← getS).nextOp
  modS (fun s => { s with nextOp := n + 1 })
  return n

/-! ### Releases and fences (R158, R163, R164, R169, R173, R228) -/

/-- Scopes whose reach holds peers: peer, pod, host and sys (Table 8.5). -/
def peerScope (sc : Nat) : Bool := decide (5 ≤ sc ∧ sc ≤ 8)
/-- A home lies in the reach of a scope for a slot (Table 8.5). At peer scope `only` is the device of a release's
location; a fence, without one, reaches each device that an earlier access of the slot addressed. -/
def inReach (slot sc : Nat) (only : Option Nat) (pa : Nat) : Bool :=
  let own := decide (bits pa 55 1 = 0) && decide (bits pa 49 6 = devOf slot)
  if sc = 0 ∨ sc = 7 ∨ sc = 8 then true
  else if sc = 6 then decide (bits pa 55 1 = 0)
  else if sc = 5 then
    decide (bits pa 55 1 = 0) && (own || (match only with | some d => decide (bits pa 49 6 = d) | none => true))
  else own

/-- A kind of access is among the kinds named: loads, stores, and atomics always (R163, R169). -/
def amongKinds (loads stores : Bool) : AccKind → Bool
  | .load => loads
  | .store => stores
  | .atomic _ => true
/-- A relaxed access holds a release (`only` given) or a fence of a scope up (R158, R163, R169): it is of the kinds
named and has an answer outstanding from a home in the reach. A release waits for every earlier load, wherever its home
is: R163 names a reach for stores and atomics only (DEDUCED, notes/assumptions 77). -/
def Flight.holdsUp (f : Flight) (sc : Nat) (only : Option Nat) (loads stores : Bool) : Bool :=
  amongKinds loads stores f.req.kind &&
    ((decide (f.req.kind = .load) && only.isSome) || f.homes.any (inReach f.slot sc only))
/-- The slot's relaxed accesses that a release or fence waits for are performed or bound. -/
def State.drained (s : State) (slot sc : Nat) (only : Option Nat) (loads stores : Bool) : Bool :=
  !(s.core (coreOf slot)).flights.any (fun f => decide (f.slot = slot) && f.holdsUp sc only loads stores)

/-- One slot of a module lies within a scope of another (Table 8.5). -/
def within (sc a b : Nat) : Bool :=
  if sc = 0 then decide (a = b)
  else if sc = 1 then decide (coreOf a = coreOf b)
  else if sc = 2 ∨ sc = 11 then decide (clusterOf a = clusterOf b)
  else if sc = 3 then decide (dieOf a = dieOf b)
  else if 5 ≤ sc ∧ sc ≤ 8 then true
  else decide (devOf a = devOf b)
/-- Numbers added to a list, each once. -/
def joinNums (l m : List Nat) : List Nat := m.foldl (fun l n => if l.contains n then l else l ++ [n]) l
/-- The numbers of the stores to peers that are not yet acknowledged. -/
def State.unacked (s : State) : List Nat := (s.slots.map (fun e => e.2.peerOut.map PeerStore.num)).flatten
/-- The stores not yet performed that a cumulative release of a slot carries: its own, and those it has observed (R164). -/
def State.carriedBy (s : State) (slot : Nat) : List Nat :=
  joinNums ((s.slot slot).peerOut.map PeerStore.num) ((s.slot slot).seen.filter (fun n => s.unacked.contains n))
/-- A release has written its location: who acquires from it observes what it carries. One at self or peer scope carries
only accesses that are performed (R163, R164, R417). -/
def State.releasedAt (s : State) (slot sc pa : Nat) (nums : List Nat) : State :=
  if sc = 0 ∨ sc = 5 ∨ nums = [] then s
  else
    let u := s.unacked
    { s with
      releases := s.releases.filter (fun r => r.nums.any (fun n => u.contains n)) ++
        [{ word := pa / 8, slot := slot, scope := sc, nums := nums }] }
/-- An acquire of a slot at a location: it observes what precedes the releases that have written there, where each slot lies
within the other's scope (R158, R163, R164). -/
def State.acquiredAt (s : State) (slot sc pa : Nat) : State :=
  match s.releases.filter (fun r => decide (r.word = pa / 8) && within r.scope r.slot slot && within sc slot r.slot) with
  | [] => s
  | l => s.onSlot slot (fun x => { x with seen := joinNums x.seen (l.map (fun r => r.nums)).flatten })

/-- Acknowledgements that a release or fence of a scope still waits for: those of the slot's own peer stores in its
reach at peer scope. The cumulative scopes also wait for the stores that the slot has observed (R164): those that precede
a release with which an acquire of its wick has synchronised. A store that it has read has reached its home, and is
performed (R157; DEDUCED, notes/assumptions 78). A store of another module that is not yet performed is never among them: a
release that carries it to this module has waited for it (R163, R417). -/
def State.awaitsAcks (s : State) (slot sc : Nat) (only : Option Nat) : Bool :=
  let x := s.slot slot
  if sc = 5 then x.peerOut.any (fun d => match only with | some p => decide (d.dev = p) | none => true)
  else !x.peerOut.isEmpty || x.seen.any (fun n => s.unacked.contains n)

/-- Deliver a recorded fault (R228). -/
def latchM : M Unit := do
  let x ← slotM
  match x.latch with
  | some l => throw (.trap { cause := 0x90, tval := l.value, dfr := true })
  | none => pure ()

/-- A release or fence of a scope: relaxed accesses first, then acknowledgements, then a recorded fault. `held` makes
its waits those of a suspension point's third step, which no interrupt abandons (R86, R110). -/
def releaseM (sc : Nat) (only : Option Nat) (loads stores : Bool) (held : Bool := false) : M Unit := do
  let me ← here
  if !(← getS).drained me sc only loads stores then waitM (if held then .performing else .flights)
  if peerScope sc then do
    if (← getS).awaitsAcks me sc only then waitM (if held then .performing else .acks)
    latchM

/-- A release of an instruction that names no location of its own to release to, at dev scope: its location is the module's
(R97, R207, R214). -/
def releaseDevM (held : Bool := false) : M Unit := do
  releaseM 4 (some (devOf (← here))) true true held

/-- The device that a release's location names: D of Table 8.5. -/
def homeDev (slot pa : Nat) : Nat := (peerOf slot pa).getD (devOf slot)

end Sys2Proof.Machine
end

