-- ==== Sys2Proof/Machine/Memory.lean ====
section
/-!
DEFINITION. Loads, stores, acquires, releases, atomics, fences and monitors (spec 08_scratchpad.md, R155 to R175).
-/

namespace Sys2Proof.Machine

/-- The bytes of a width code. -/
def widthOf (w : BitVec 2) : Nat := 2 ^ w.toNat
/-- The bytes of the d or w width. -/
def dblWidth (dbl : Bool) : Nat := if dbl then 8 else 4

/-- The address of a scalar access (R165). -/
def addressM (a b : Src) : M Word := do
  let x ← rd a
  let y ← rd b
  return x + y

/-- Read a home in the module (R165, R259). -/
def homeValue (s : State) (t : Xlat) (n : Nat) : Nat :=
  if t.tol then bfWiden (s.loadHome t.pa 2) else s.loadHome t.pa n

/-- Leave the rotation with `n` answers of the access under way; the pc moves on with the issue (R159, R174). -/
def underWayM (w : Wait) (n : Nat) : M Unit := onSlotM (fun x => { x with wait := w, replies := n })

/-- A plain load (R159, R165): its home in the module answers at once, a peer by an event; `acq` is an acquire's scope
(R163). -/
def loadM (d : BitVec 5) (n : Nat) (sx : Bool) (va : Word) (acq : Option Nat := none) : M Unit := do
  let me ← here
  let t ← accessM .load n (decide (n = 4)) va
  prepDst d.toNat
  readyM t.pa
  if (peerOf me t.pa).isSome then keepM []
  oobM t false
  match peerOf me t.pa with
  | some _ =>
    let q ← requestM .load t n 0 0 none (.reg d.toNat n sx)
    modS (fun s => s.post (.peerAccess q))
    underWayM .reply 1
  | none =>
    errorM t.pa
    let s ← getS
    modS (fun s => s.serve t.pa true)
    match acq with
    | some c => modS (fun s => s.acquiredAt me c t.pa)
    | none => pure ()
    wr d (extend (homeValue s t n) n sx)

/-- A relaxed load (R160); one into a port executes as the plain load. -/
def loadRelaxedM (d : BitVec 5) (n : Nat) (sx : Bool) (va : Word) : M Unit := do
  if 26 ≤ d.toNat then loadM d n sx va
  else do
    let me ← here
    let t ← accessM .load n (decide (n = 4)) va
    prepDst d.toNat
    readyM t.pa
    flightRoomM
    oobM t false
    let id ← freshM
    let q ← requestM .load t n 0 0 (some id) (.reg d.toNat n sx)
    flyM id [q] (if d = 0 then [] else [d.toNat])
    match peerOf me t.pa with
    | some _ => modS (fun s => s.post (.peerAccess q))
    | none => modS (fun s => s.post (.relaxedAccessComplete (coreOf me) id q.pa q.dst none))

/-- The bytes that a store writes: on a tolerant page two per FP32 word (R36, R259). -/
def storeBits (t : Xlat) (n : Nat) (v : Word) : Nat := if t.tol then bfNarrow v.toNat else v.toNat % 2 ^ (8 * n)

/-- A plain or release store (R159, R163, R165); `sc` is a release's scope. A store to a reserved word waits behind
the reservation (R168). -/
def storeM (n : Nat) (v : Word) (sc : Option Nat) (va : Word) : M Unit := do
  let me ← here
  let t ← accessM .store n (decide (n = 4)) va
  match sc with
  | some c => releaseM c (some (homeDev me t.pa)) true true
  | none => pure ()
  readyM t.pa
  oobM t true
  match peerOf me t.pa with
  | some d =>
    let id ← freshM
    let q ← requestM .store t n (storeBits t n v) (if sc.isSome then 1 else 0) none .none
    let q := { q with num := id }
    onSlotM (fun x => { x with peerOut := x.peerOut ++ [⟨d, id⟩] })
    modS (fun s => s.post (.peerAccess q))
    if sc.isSome then underWayM .reply 1
  | none =>
    match sc with
    | some c => modS (fun s => s.releasedAt me c t.pa (s.carriedBy me))
    | none => pure ()
    if (← getS).reserved t.pa then do
      let q ← requestM .store t n (storeBits t n v) 0 none .none
      modS (fun s => s.reserve (devOf me) q)
      underWayM .reservation 1
    else do
      mergeErrorM t.pa (t.width n)
      modS (fun s => (s.serve t.pa true).storeHome (clusterOf me) t.pa (t.width n) (storeBits t n v))

/-- A relaxed store (R160). -/
def storeRelaxedM (n : Nat) (v : Word) (va : Word) : M Unit := do
  let me ← here
  let t ← accessM .store n (decide (n = 4)) va
  readyM t.pa
  flightRoomM
  oobM t true
  let id ← freshM
  let q ← requestM .store t n (storeBits t n v) 0 (some id) .none
  let q := { q with num := id }
  flyM id [q] []
  match peerOf me t.pa with
  | some d =>
    onSlotM (fun x => { x with peerOut := x.peerOut ++ [⟨d, id⟩] })
    modS (fun s => s.post (.peerAccess q))
  | none =>
    if (← getS).reserved t.pa then modS (fun s => s.reserve (devOf me) q)
    else modS (fun s => s.post (.relaxedAccessComplete (coreOf me) id q.pa .none none))

/-- `ld` (R165, Table 8.6). -/
def execLd (x : FmtL) (s : State) : Out :=
  runInstr (.ld x) s do
    let va ← addressM x.a x.b
    if x.rel then loadRelaxedM x.d (widthOf x.w) x.sx va else loadM x.d (widthOf x.w) x.sx va
    return .next

/-- `ld.acq` (R163, R165): a plain load, after which alone the slot goes on. -/
def execLdAcq (x : FmtQ) (s : State) : Out :=
  runInstr (.ldAcq x) s do
    let va ← addressM x.a x.b
    loadM x.d (dblWidth x.dbl) false va (some x.scope.toNat)
    return .next

/-- `st` (R165, Table 8.6): the data register stands in the dst field. -/
def execSt (x : FmtL) (s : State) : Out :=
  runInstr (.st x) s do
    let va ← addressM x.a x.b
    let v ← rdCode x.d.toNat
    if x.rel then storeRelaxedM (widthOf x.w) v va else storeM (widthOf x.w) v none va
    return .next

/-- `st.rel` (R163, R165, R173). -/
def execStRel (x : FmtQ) (s : State) : Out :=
  runInstr (.stRel x) s do
    let va ← addressM x.a x.b
    let v ← rdCode x.d.toNat
    storeM (dblWidth x.dbl) v (some x.scope.toNat) va
    return .next

/-- An atomic where its home is (R168): a reserved word's queue, a Lantern's atomic unit, a peer. -/
def atomicAwayM (q : PeerReq) : M Unit := do
  let me ← here
  match peerOf me q.pa with
  | some _ => modS (fun s => s.post (.peerAccess q))
  | none =>
    match region q.pa with
    | .dram dev so off => modS (fun s => s.post (.lanternAtomic dev so (bits off 9 3) q))
    | _ => modS (fun s => s.reserve (devOf me) q)

/-- A plain atomic with its home in the module's scratchpads or local memories, and no reservation ahead of it, is
performed at once (R168). -/
def atomicNear (s : State) (slot pa : Nat) : Bool :=
  decide (peerOf slot pa = none) && !s.reserved pa && (match region pa with | .dram _ _ _ => false | _ => true)

/-- `amo` (R167, R168): dst is both operand and destination. -/
def atomicM (x : FmtN) (op : Nat) : M Flow := do
  let me ← here
  let n := dblWidth x.dbl
  let va ← addressM x.a x.b
  let v ← rdCode x.d.toNat
  let v2 ← if op = 9 then rdCode (x.d.toNat + 1) else pure 0
  let t ← accessM .atomic n false va
  readyM t.pa
  let a := v.toNat % 2 ^ (8 * n)
  let b := v2.toNat % 2 ^ (8 * n)
  if x.rel then do
    flightRoomM
    oobM t true
    let id ← freshM
    let q ← requestM (.atomic op) t n a b (some id) (.reg x.d.toNat n false)
    flyM id [q] [x.d.toNat]
    atomicAwayM q
  else if atomicNear (← getS) me t.pa then do
    errorM t.pa
    oobM t true
    let r := ((← getS).serve t.pa false).atomicHome (clusterOf me) t.pa n op a b
    setS r.2
    wr x.d (BitVec.ofNat 64 r.1)
  else do
    if (peerOf me t.pa).isSome then keepM []
    oobM t true
    let q ← requestM (.atomic op) t n a b none (.reg x.d.toNat n false)
    let queued := (← getS).reserved t.pa
    atomicAwayM q
    underWayM (if queued then .reservation else .reply) 1
  return .next

/-- `amo.add` (R167). -/
def execAmoAdd (x : FmtN) (s : State) : Out := runInstr (.amoAdd x) s (atomicM x 0)
/-- `amo.and` (R167). -/
def execAmoAnd (x : FmtN) (s : State) : Out := runInstr (.amoAnd x) s (atomicM x 1)
/-- `amo.or` (R167). -/
def execAmoOr (x : FmtN) (s : State) : Out := runInstr (.amoOr x) s (atomicM x 2)
/-- `amo.xor` (R167). -/
def execAmoXor (x : FmtN) (s : State) : Out := runInstr (.amoXor x) s (atomicM x 3)
/-- `amo.min` (R167). -/
def execAmoMin (x : FmtN) (s : State) : Out := runInstr (.amoMin x) s (atomicM x 4)
/-- `amo.max` (R167). -/
def execAmoMax (x : FmtN) (s : State) : Out := runInstr (.amoMax x) s (atomicM x 5)
/-- `amo.minz` (R167). -/
def execAmoMinz (x : FmtN) (s : State) : Out := runInstr (.amoMinz x) s (atomicM x 6)
/-- `amo.maxz` (R167). -/
def execAmoMaxz (x : FmtN) (s : State) : Out := runInstr (.amoMaxz x) s (atomicM x 7)
/-- `amo.swap` (R167). -/
def execAmoSwap (x : FmtN) (s : State) : Out := runInstr (.amoSwap x) s (atomicM x 8)
/-- `amo.cas` (R167). -/
def execAmoCas (x : FmtN) (s : State) : Out := runInstr (.amoCas x) s (atomicM x 9)
/-- `amo.fadd` (R167). -/
def execAmoFadd (x : FmtN) (s : State) : Out := runInstr (.amoFadd x) s (atomicM x 10)

/-- A fence (R169). -/
def fenceM (sc : Nat) (loads stores : Bool) : M Flow := do
  releaseM sc none loads stores
  return .next

/-- `fence.all` (R169). -/
def execFenceAll (x : FmtZ) (s : State) : Out := runInstr (.fenceAll x) s (fenceM x.scope.toNat true true)
/-- `fence.st` (R169). -/
def execFenceSt (x : FmtZ) (s : State) : Out := runInstr (.fenceSt x) s (fenceM x.scope.toNat false true)
/-- `fence.ld` (R169). -/
def execFenceLd (x : FmtZ) (s : State) : Out := runInstr (.fenceLd x) s (fenceM x.scope.toNat true false)

/-! ### Monitors (R170 to R172) -/

/-- A line of memory is a vigil (R202): magic and a state of 1 to 3 in word 0. -/
def State.isVigil (s : State) (line : Nat) : Bool :=
  let w := s.readN line 8
  decide (bits w 48 16 = 0x5647) && decide (1 ≤ bits w 0 8 ∧ bits w 0 8 ≤ 3)

/-- A line of a cluster's scratchpad or a module's DRAM can be a vigil's (R201). -/
def vigilHome (dev pa : Nat) : Bool :=
  match region pa with
  | .scratch ck off => decide (devOfCluster ck = dev) && decide (off < 0x400000)
  | .dram d _ _ => decide (d = dev)
  | _ => false

/-- Whether a line may be armed by a slot (R170), and whether as a vigil. -/
def State.armable (s : State) (slot line : Nat) : Option Bool :=
  if vigilHome (devOf slot) line && s.isVigil line then some true
  else
    match region line with
    | .scratch ck off => if ck = clusterOf slot ∧ off < 0x400000 then some false else none
    | .loc k off => if k = coreOf slot ∧ off < 0x10000 then some false else none
    | _ => none

/-- The lowest free monitor. -/
def Slot.freeMon (x : Slot) : Option Nat := (List.range 4).find? (fun i => (Tab.find? i x.mons).isNone)
/-- The monitor that holds a line. -/
def Slot.monOf (x : Slot) (line : Nat) : Option Nat :=
  (List.range 4).find? (fun i => match Tab.find? i x.mons with | some m => decide (m.line * 64 = line) | none => false)
/-- The fired bits of the four monitors. -/
def Slot.fired (x : Slot) : Nat :=
  ((List.range 4).map (fun i => match Tab.find? i x.mons with | some m => if m.fired then 2 ^ i else 0 | none => 0)).sum

/-- `mon.arm` (R170). -/
def execMonArm (x : FmtA) (s : State) : Out :=
  runInstr (.monArm x) s do
    let me ← here
    let va ← rd x.a
    let t ← xlateM .load va
    let line := t.pa / 64 * 64
    match (← getS).armable me line with
    | none => trapM 0x23 va
    | some v =>
      prepDst x.d.toNat
      let y ← slotM
      match y.monOf line, y.freeMon with
      | some i, _ | none, some i =>
        onSlotM (fun z => { z with mons := Tab.put i ⟨line / 64, v, false⟩ z.mons })
        wr x.d (BitVec.ofNat 64 i)
        return .next
      | none, none => trapM 0x25 va

/-- `mon.dis` (R170). -/
def execMonDis (x : FmtA) (s : State) : Out :=
  runInstr (.monDis x) s do
    let v ← rd x.a
    onSlotM (fun z => { z with mons := Tab.del (v.toNat % 4) z.mons })
    return .next

/-- `mon.wait` (R171): it returns with a fired bit, or when its timeout has ended the wait; otherwise it waits. -/
def execMonWait (x : FmtA) (s : State) : Out :=
  runInstr (.monWait x) s do
    let v ← rd x.a
    prepDst x.d.toNat
    let y ← slotM
    let k ← coreM
    let timeout := v.toNat % 2 ^ 32
    let ended := decide (y.heard = .expired)
    if y.mons = [] ∧ timeout = 0 ∧ ended = false then trapM 0x25
    else if y.fired ≠ 0 ∨ ended then do
      onSlotM (fun z => { z with wait := .none, met := .none })
      wr x.d (BitVec.ofNat 64 (y.fired + (if ended then 16 else 0)))
      return .next
    else waitM (.monitor (if timeout = 0 then none else some (k.cycle + timeout)))

/-- `mon.clr` (R170). -/
def execMonClr (x : FmtA) (s : State) : Out :=
  runInstr (.monClr x) s do
    let v ← rd x.a
    onSlotM (fun z => { z with
      mons := Tab.mapVals (fun i m => if v.getLsbD i then { m with fired := false } else m) z.mons })
    return .next

end Sys2Proof.Machine
end

