-- ==== Sys2Proof/Machine/Wick.lean ====
section
/-!
DEFINITION. The wick instructions (spec 05_wicks.md, R86, R93 to R111): spawning, launching, migrating, suspending,
retiring and aborting wicks.
-/

namespace Sys2Proof.Machine

/-- The instruction word as the trap value of a decode-group cause (R226). -/
def Instr.trapWord (i : Instr) : Word := i.firstWord.zeroExtend 64

/-! ### Record accesses (R100) -/

/-- A record access of a kind to a peer's home (R277, R279): whether it is admitted; a refusal is recorded in the
slot's deferred-fault latch. -/
def peerTakeM (k : AccKind) (pa n : Nat) : M Bool := do
  let me ← here
  let y ← slotM
  match peerOf me pa with
  | none => return true
  | some d =>
    let s ← getS
    if (s.grant d (devOf me)).admits pa n k then return true
    else do
      modS (fun s => (s.refuse d (devOf me) pa).countRefusal (devOf me) d)
      onSlotM (fun x => x.latchFault y.pc d)
      return false

/-- A line that the slot's instruction has read already: a peer has answered it (R279), or the instruction went on after the
line's turn (R177). -/
def Slot.lineOf (x : Slot) (pa : Nat) : Option Nat := (x.lines.find? (fun e => decide (e.1 = pa))).map Prod.snd
/-- A record access to a peer sets out, and the slot waits for its reply; the instruction then goes on with the line
(R279). -/
def peerLineM {α : Type} (k : AccKind) (t : Xlat) (v : Nat) : M α := do
  if (← slotM).undo.isNone then keepM []
  oobM t (decide (k ≠ .load))
  let q ← requestM k t 64 v 0 none (.line t.pa)
  modS (fun s => s.post (.peerAccess q))
  onSlotM (fun x => { x with replies := 1 })
  waitM .reply
/-- Accesses that go have had a turn, so that their instruction was executed before. -/
def State.turned (s : State) (slot : Nat) (pas : List Nat) : Bool := !(outsides slot pas).isEmpty && (s.slot slot).turn
/-- A line of the module as it is read at its home, an acquire at dev scope (R108); one that had its turn is kept, for an
instruction that reads more. -/
def State.lineHere (s : State) (slot pa : Nat) (turned : Bool) : State :=
  let s1 := (s.serve pa true).acquiredAt slot 4 pa
  if turned then s1.onSlot slot (fun x => { x with lines := x.lines ++ [(pa, s1.loadHome pa 64)] }) else s1
/-- Read 64 bytes as one atomic read (R101, R108): beyond the range, and from a peer that refuses, they read zero. -/
def readLineM (va : Word) : M Nat := do
  let me ← here
  let t ← accessM .load 64 false va
  match (← slotM).lineOf t.pa with
  | some v => return v
  | none => do
    readyM t.pa
    if (peerOf me t.pa).isSome then peerLineM .load t 0
    let b := (← getS).turned me [t.pa]
    oobM t false
    errorsM t.pa 64
    let v := (← getS).loadHome t.pa 64
    modS (fun s => s.lineHere me t.pa b)
    return v
/-- The instruction completes: it has no more use for lines that it has read. -/
def linesDoneM : M Unit := onSlotM (fun x => { x with lines := [], undo := none })

/-! ### Launches (R93 to R96, R108) -/

/-- The compute dies that take part in a launch (R93): by the socket field of its affinity. -/
def launchDies (dev socket : Nat) : List Nat :=
  if isCompute socket then [dieKey dev socket] else diesOf dev
/-- The ranks of each participating die whose range is not empty (R93): die, first rank, how many. -/
def launchParts (dev socket count : Nat) : List (Nat × Nat × Nat) :=
  let ds := launchDies dev socket
  let m := ds.length
  ((List.range m).map (fun i =>
    let lo := i * count / m
    (ds.getD i 0, lo, (i + 1) * count / m - lo))).filter (fun p => decide (p.2.2 ≠ 0))

/-- Word `i` of a launch descriptor read as a number. -/
def descWord (v i : Nat) : Nat := bits v (64 * i) 64
/-- The record whose fields a descriptor's first 64 bytes give (Table 5.5). -/
def descRecord (v : Nat) (asid grp : Nat) : WickRec :=
  let w := fun i => BitVec.ofNat 64 (descWord v i)
  { w0 := w 0, w1 := putBits (putBits (putBits (w 1) 56 8 0) 40 16 grp) 0 9 asid
    g1 := 0, g2 := w 3, g3 := w 4, g4 := w 5, g5 := w 6, g6 := w 7 }
/-- The cause that a descriptor raises (R93, R109), in a mode. -/
def descCause (v : Nat) (user : Bool) : Option Cause :=
  let r := descRecord v 0 0
  let count := bits (descWord v 2) 0 32
  if bits (descWord v 2) 32 32 ≠ 0 ∨ r.state ≠ 0 ∨ count = 0 ∨ 2 ^ 24 < count ∨ r.malformed then some 0x0A
  else if user && r.privileged then some 0x0B
  else none
/-- A descriptor's count. -/
def descCount (v : Nat) : Nat := bits (descWord v 2) 0 32
/-- The shape record that a launch delivers (R94): count in bytes 4 to 7. -/
def descShape (v : Nat) : BitVec 512 := BitVec.ofNat 512 (setBits (bits v 512 512) 32 32 (descCount v))
/-- Every die that receives ranks has room for the launch's entry (R108). -/
def State.launchRoom (s : State) (dev v : Nat) : Bool :=
  (launchParts dev (descRecord v 0 0).socket (descCount v)).all (fun p => (s.die p.1).room)
/-- Place a launch (R93): one ready-queue entry on each die that receives ranks. -/
def State.launch (s : State) (dev v asid grp : Nat) (seen : List Nat := []) : State :=
  let r := (descRecord v asid grp).demote
  let tag : LaunchTag := ⟨s.nextLaunch, descShape v⟩
  let w : Wick := { rcd := r, launch := some tag, seen := seen }
  (launchParts dev r.socket (descCount v)).foldl
    (fun s p => s.makeReady p.1 { w := w, eff := r.prio, first := p.2.1, ranks := some p.2.2 })
    { s with nextLaunch := s.nextLaunch + 1 }

/-! ### Suspension points (R86) -/

/-- A suspension point: a recorded fault is delivered, pending registers are waited for, and every earlier store is
performed at dev scope, or at pod scope (R86, R388). An interrupt abandons the second wait only (R110). -/
def suspendM (pod : Bool) : M Unit := do
  latchM
  let y ← slotM
  if y.pend ≠ [] then waitM .suspend
  releaseM (if pod then 6 else 4) none true true true

/-- A tagged wick's Taper entry ends (R387). -/
def taperEndM : M Unit := do
  let y ← slotM
  match y.taper with
  | some t => modS (fun s => s.post (.taperEntryEnd t))
  | none => pure ()

/-- The Taper entry of a tagged wick writes an output tile: its retirement is at pod scope (R388). -/
def taperOutputM : M Bool := do
  let y ← slotM
  match y.taper with
  | some t =>
    let tp := ((← getS).mod (t.die / 32)).taper
    return decide (bits (leNat ((tp.tbl.drop (32 * t.entry)).take 8)) 30 1 = 1)
  | none => return false

/-- The wick leaves its slot. -/
def leaveM : M Flow := do
  let me ← here
  modS (fun s => s.leave me)
  return .gone

/-- `wk.spawn` (R101). -/
def execWkSpawn (x : FmtA) (s : State) : Out :=
  runInstr (.wkSpawn x) s do
    let me ← here
    let y ← slotM
    let va ← rd x.a
    prepDst x.d.toNat
    let v ← readLineM va
    let r := WickRec.ofNat v
    if r.state < 2 then do
      needM (!r.malformed) 0x0A (Instr.trapWord (.wkSpawn x))
      needM (!(y.user && r.privileged)) 0x0B (Instr.trapWord (.wkSpawn x))
      let r1 := (r.mark 0 0).demote
      let r2 := if y.user then { r1 with w1 := putBits r1.w1 0 9 y.asid.toNat } else r1
      releaseDevM
      if !((← getS).die (targetDie (dieOf me) r2)).room then waitM .ready
      modS (fun s => s.readyWick (dieOf me) { rcd := r2, seen := s.carriedBy me } false)
    linesDoneM
    wr x.d (BitVec.ofNat 64 r.state)
    return .next

/-- The owner that a migration's address names (R102): the cluster, and the core for a local memory. -/
def migrOwner (pa : Nat) : Option (Nat × Option Nat) :=
  match region pa with
  | .scratch ck _ => some (ck, none)
  | .loc k _ => some (k / 16, some (k % 16))
  | _ => none
/-- A migration to an owner is allowed (R102). -/
def migrOk (x : Slot) (slot : Nat) (o : Nat × Option Nat) : Bool :=
  let kind := bits x.aff.toNat 6 2
  !(decide (o.2 = some 15) && x.user) &&
  !(decide (kind = 1) && isW o.1) && !(decide (kind = 2) && !isW o.1) &&
  !(decide (kind = 3) && (match o.2 with | some c => decide (c ≠ 15) | none => false)) &&
  !(x.aff.getLsbD 5 && decide (dieOfCluster o.1 ≠ dieOf slot))

/-- `wk.migr` (R102): the record is sent and the slot is empty. A wick that migrates to a peer is no longer one of its
launch's wicks for the shape windows there: R96 speaks of one module's launches only (DESIGN CHOICE,
notes/assumptions 80). -/
def execWkMigr (x : FmtA) (s : State) : Out :=
  runInstr (.wkMigr x) s do
    let me ← here
    let va ← rd x.a
    let t ← xlateM .load va
    needM (decide (va.toNat % 64 = 0)) 0x20 va
    let y ← slotM
    let len := (Instr.wkMigr x).enc.len
    match migrOwner t.pa with
    | none => trapM 0x0C (Instr.trapWord (.wkMigr x))
    | some o =>
      needM (migrOk y me o) 0x0C (Instr.trapWord (.wkMigr x))
      let far := decide (devOfCluster o.1 ≠ devOf me)
      suspendM far
      commitReadsM
      let y ← slotM
      let w : Wick :=
        { rcd := y.record 0 0 (y.pc + BitVec.ofNat 64 len) (!y.user), tag := o.2.map (fun c => o.1 * 16 + c)
          launch := if far then none else y.launch, taper := y.taper, fromPeer := far, seen := (← getS).carriedBy me }
      modS (fun s => s.post (.migrationArrival o.1 w (devOf me) (dieOf me)))
      leaveM

/-- `wk.waitw` (R104): the wick retires and the slot waits for another. -/
def execWkWaitw (x : FmtA) (s : State) : Out :=
  runInstr (.wkWaitw x) s do
    suspendM (← taperOutputM)
    taperEndM
    onSlotM (fun y => { y with waitw := true })
    leaveM

/-- The situation of R260 in which a slot is: the cause, the resumption pc and the mode before the trap. -/
def Slot.parked (x : Slot) : Option (Nat × Word × Bool) :=
  if x.user then
    if x.parkU.isSome ∧ x.uepc.getLsbD 0 ∧ fateOf (x.ucause.toNat % 256) = .park then
      some (x.ucause.toNat % 256, x.uepc &&& 0x01FFFFFFFFFFFFFC, false)
    else none
  else if x.parkS.isSome ∧ fateOf (x.tcause.toNat % 256) = .park then
    some (x.tcause.toNat % 256, x.tepc, !x.tcause.getLsbD 8)
  else none
/-- The record that `wk.susp` writes (R105, R260). -/
def Slot.suspRecord (x : Slot) (next : Word) : WickRec :=
  match x.parked with
  | some p => x.record 2 p.1 p.2.1 p.2.2
  | none => x.record 1 0 next (!x.user)

/-- `wk.susp` (R105): the record is written as one atomic write, and the slot is empty. -/
def execWkSusp (x : FmtA) (s : State) : Out :=
  runInstr (.wkSusp x) s do
    let me ← here
    let va ← rd x.a
    suspendM (← taperOutputM)
    let t ← accessM .store 64 false va
    readyM t.pa
    oobM t true
    commitReadsM
    let y ← slotM
    let r := y.suspRecord (y.pc + BitVec.ofNat 64 (Instr.wkSusp x).enc.len)
    if y.parked.isSome ∧ y.user then onSlotM (fun z => { z with uepc := 0 })
    if ← peerTakeM .store t.pa 64 then
      modS (fun s => ((s.serve t.pa true).storeHome (clusterOf me) t.pa 64 r.toNat).releasedAt me 4 t.pa (s.carriedBy me))
    taperEndM
    modS (fun s => s.logLatch me)
    leaveM

/-- `wk.done` (R106). -/
def execWkDone (x : FmtA) (s : State) : Out :=
  runInstr (.wkDone x) s do
    suspendM (← taperOutputM)
    taperEndM
    leaveM

/-- The status that `wk.snuff` gives: 0xE0 | zext(v, 4). -/
def snuffStatus (v : Word) : Nat := 0xE0 + v.toNat % 16

/-- `wk.snuff` with sa = g0 (R107): the running wick fails; its record's pc is the instruction's own. -/
def execWkSnuffSelf (x : FmtA) (s : State) : Out :=
  runInstr (.wkSnuffSelf x) s do
    let c ← rd x.b
    commitReadsM
    failM (snuffStatus c)

/-- `wk.snuff` of a record (R107): one atomic read-modify-write of its line. -/
def execWkSnuff (x : FmtA) (s : State) : Out :=
  runInstr (.wkSnuff x) s do
    let me ← here
    let va ← rd x.a
    let c ← rd x.b
    prepDst x.d.toNat
    let t ← accessM .atomic 64 false va
    match (← slotM).lineOf t.pa with
    | some v =>
      let r := WickRec.ofNat v
      if r.state < 2 then modS (fun s => s.breakGroup (devOf me) r.asid r.grp (snuffStatus c))
      linesDoneM
      wr x.d (BitVec.ofNat 64 r.state)
    | none => do
      readyM t.pa
      if (peerOf me t.pa).isSome then peerLineM (.atomic 11) t (snuffStatus c)
      oobM t true
      errorsM t.pa 64
      modS (fun s => s.serve t.pa false)
      let r := WickRec.ofNat ((← getS).loadHome t.pa 64)
      if r.state < 2 ∧ (region t.pa).inRange then do
        modS (fun s => s.storeHome (clusterOf me) t.pa 64 (r.mark 3 (snuffStatus c)).toNat)
        modS (fun s => s.breakGroup (devOf me) r.asid r.grp (snuffStatus c))
      wr x.d (BitVec.ofNat 64 r.state)
    return .next

/-- `wk.launch` (R108). -/
def execWkLaunch (x : FmtA) (s : State) : Out :=
  runInstr (.wkLaunch x) s do
    let me ← here
    let y ← slotM
    let va ← rd x.a
    let lo ← readLineM va
    let hi ← readLineM (va + 64)
    let v := lo + 2 ^ 512 * hi
    match descCause v y.user with
    | some c => trapM c (Instr.trapWord (.wkLaunch x))
    | none =>
      releaseDevM
      if !(← getS).launchRoom (devOf me) v then waitM .ready
      modS (fun s => s.launch (devOf me) v y.asid.toNat y.grp.toNat (s.carriedBy me))
      linesDoneM
      return .next

/-- `wk.prio` (R109). -/
def execWkPrio (x : FmtA) (s : State) : Out :=
  runInstr (.wkPrio x) s do
    let v ← rd x.a
    prepDst x.d.toNat
    let y ← slotM
    let n := v.toNat % 4
    let n1 := if y.user && decide (n = 0) then 1 else n
    onSlotM (fun z => { z with prio := BitVec.ofNat 2 n1 })
    wr x.d (y.prio.zeroExtend 64)
    return .next

end Sys2Proof.Machine
end

