-- ==== Sys2Proof/Machine/Complex.lean ====
section
/-!
DEFINITION. Complex slots, images and the cx instructions (spec 16_cochains.md, R299 to R315).
-/

namespace Sys2Proof.Machine

/-! ### Images (R301 to R305) -/

/-- An image as its 32-bit words by byte offset. -/
abbrev Img := Nat → Nat

/-- The image in a complex slot's region. -/
def State.image (s : State) (ck : Nat) (off : Nat) : Img := fun b => s.scratchN ck (off + b) 4

/-- Header fields (Table 16.2). -/
def imgDim (w : Img) : Nat := bits (w 4) 0 8
def imgNpart (w : Img) : Nat := bits (w 4) 8 8
def imgN (w : Img) (k : Nat) : Nat := w (8 + 4 * k)
def imgToff (w : Img) (k : Nat) : Nat := w (24 + 4 * k)
def imgIoff (w : Img) : Nat := w 40
def imgIcnt (w : Img) : Nat := w 44
def imgCoff (w : Img) : Nat := w 48
def imgLines (w : Img) : Nat := w 52

/-- Every header field lies within Table 16.2. -/
def headerOk (w : Img) : Bool :=
  let dim := imgDim w
  decide (w 0 = 0x31584343) && decide (1 ≤ dim ∧ dim ≤ 3) && decide (1 ≤ imgNpart w) && decide (bits (w 4) 16 16 = 0) &&
    (List.range 4).all (fun k =>
      if k ≤ dim then decide (1 ≤ imgN w k ∧ imgN w k < 2 ^ 20) else decide (imgN w k = 0 ∧ imgToff w k = 0)) &&
    (decide (dim ≠ 1) || decide (imgCoff w = 0)) && decide (1 ≤ imgLines w) && decide (w 56 = 0 ∧ w 60 = 0)

/-- Simplex table entry fields (Table 16.3). -/
def simplexAt (w : Img) (k i : Nat) : Nat := 64 * imgToff w k + 16 * i
def simplexWeight (w : Img) (k i : Nat) : Nat := w (simplexAt w k i)
def simplexOwner (w : Img) (k i : Nat) : Nat := bits (w (simplexAt w k i + 4)) 0 8
def simplexNb (w : Img) (k i : Nat) : Nat := bits (w (simplexAt w k i + 4)) 8 8
def simplexNc (w : Img) (k i : Nat) : Nat := bits (w (simplexAt w k i + 4)) 16 8

/-- Entries of the incidence array: raw words, then index and whether the sign is −1 (R303). -/
def incWords (w : Img) (first n : Nat) : List Nat := (List.range n).map (fun j => w (64 * imgIoff w + 4 * (first + j)))
def incOf (e : Nat) : Nat × Bool := (bits e 0 20, decide (bits e 31 1 = 1))
/-- The boundary list of a simplex. -/
def bndWords (w : Img) (k i : Nat) : List Nat := incWords w (w (simplexAt w k i + 8)) (simplexNb w k i)
def bnd (w : Img) (k i : Nat) : List (Nat × Bool) := (bndWords w k i).map incOf
/-- The coboundary list of a simplex. -/
def cobndWords (w : Img) (k i : Nat) : List Nat := incWords w (w (simplexAt w k i + 12)) (simplexNc w k i)
def cobnd (w : Img) (k i : Nat) : List (Nat × Bool) := (cobndWords w k i).map incOf

/-- Strictly ascending. -/
def ascending : List Nat → Bool
  | a :: b :: t => decide (a < b) && ascending (b :: t)
  | _ => true

/-- A list of entries with clear reserved bits, strictly ascending indices and indices below a count (R303, R305). -/
def listOk (ws : List Nat) (n : Nat) : Bool :=
  ws.all (fun e => decide (bits e 20 11 = 0) && decide (bits e 0 20 < n)) && ascending (ws.map (fun e => bits e 0 20))

/-- A simplex table entry keeps Table 16.3, and its lists R303. -/
def simplexOk (w : Img) (k i : Nat) : Bool :=
  let e := simplexAt w k i
  let nb := simplexNb w k i
  let nc := simplexNc w k i
  scaleValid (w e) && decide (simplexOwner w k i < imgNpart w) && decide (bits (w (e + 4)) 24 8 = 0) &&
    (if k = 0 then decide (nb = 0) else if k = 1 then decide (nb = 2) else decide (3 ≤ nb ∧ nb ≤ 16)) &&
    decide (nc ≤ 32) && (decide (k ≠ imgDim w) || decide (nc = 0)) &&
    (decide (nb ≠ 0) || decide (w (e + 8) = 0)) && (decide (nc ≠ 0) || decide (w (e + 12) = 0)) &&
    decide (w (e + 8) + nb ≤ imgIcnt w) && decide (w (e + 12) + nc ≤ imgIcnt w) &&
    listOk (bndWords w k i) (imgN w (k - 1)) && listOk (cobndWords w k i) (imgN w (k + 1)) &&
    (decide (k ≠ 1) || decide ((bnd w k i).map Prod.snd = [true, false]))

/-- The coboundary lists are the transpose of the boundary lists, with signs, at one simplex (R305). -/
def transposeOk (w : Img) (k i : Nat) : Bool :=
  (bnd w k i).all (fun e => (cobnd w (k - 1) e.1).elem (i, e.2)) &&
    (cobnd w k i).all (fun e => (bnd w (k + 1) e.1).elem (i, e.2))

/-- The signed count of a list of entries at one index. -/
def signSum (l : List (Nat × Bool)) (r : Nat) : Int :=
  (l.map (fun e => if e.1 = r then (if e.2 then -1 else 1) else (0 : Int))).sum
/-- The boundary of a boundary is zero (R305). -/
def bndBndOk (w : Img) (k i : Nat) : Bool :=
  let l := ((bnd w k i).map (fun e => (bnd w (k - 1) e.1).map (fun f => (f.1, e.2 ^^ f.2)))).flatten
  l.all (fun e => decide (signSum l e.1 = 0))

/-- The vertices reached from a simplex through boundary lists (R321). -/
def vertsOf (w : Img) : Nat → Nat → List Nat
  | 0, i => [i]
  | k + 1, i => (((bnd w (k + 1) i).map (fun e => vertsOf w k e.1)).flatten).eraseDups

/-- A simplex is simplicial (R304). -/
def simplicial (w : Img) (k i : Nat) : Bool := decide (simplexNb w k i = k + 1)
/-- The byte offset of a corner record. -/
def cornerAt (w : Img) (k i : Nat) : Nat := 64 * imgCoff w + 64 * (if k = 2 then i else imgN w 2 + i)
/-- The listed vertices of a simplicial simplex. -/
def cornerVerts (w : Img) (k i : Nat) : List Nat := (List.range (k + 1)).map (fun j => w (cornerAt w k i + 4 * j))
/-- The number of the local edge of corners `a` and `b`, a below b: e01, e02, e03, e12, e13, e23. -/
def localEdge (a b : Nat) : Nat := if a = 0 then b - 1 else if a = 1 then b + 1 else 5
/-- The entry of a local edge. -/
def cornerEdge (w : Img) (k i a b : Nat) : Nat := w (cornerAt w k i + 16 + 4 * localEdge a b)
/-- The pairs of local corners. -/
def cornerPairs (k : Nat) : List (Nat × Nat) :=
  ((List.range (k + 1)).map (fun b => (List.range b).map (fun a => (a, b)))).flatten

/-- The sign, true for −1, of a permutation of three vertices onto another order; none when they differ. -/
def permSign (a b : List Nat) : Option Bool :=
  match a with
  | [x, y, z] =>
    if b = [x, y, z] ∨ b = [y, z, x] ∨ b = [z, x, y] then some false
    else if b = [y, x, z] ∨ b = [x, z, y] ∨ b = [z, y, x] then some true
    else none
  | _ => none
/-- A list without its entry `n`. -/
def dropAt (l : List Nat) (n : Nat) : List Nat := l.take n ++ l.drop (n + 1)

/-- The sign, true for −1, of an oriented face of a simplicial simplex against the boundary entry that it names: an
edge runs from its lower vertex, a triangle takes its corner record's order. -/
def faceSign (w : Img) (k tau : Nat) (vs : List Nat) : Option Bool :=
  if k = 1 then
    match vs with
    | [a, b] => if (bnd w 1 tau).map Prod.fst = [min a b, max a b] ∧ a ≠ b then some (decide (b < a)) else none
    | _ => none
  else if simplicial w 2 tau then permSign vs (cornerVerts w 2 tau) else none

/-- The boundary list of a simplicial simplex is that of its listed order, by the alternating rule (R305). -/
def alternating (w : Img) (k i : Nat) : Bool :=
  let vs := cornerVerts w k i
  (List.range (k + 1)).all (fun j =>
    (bnd w k i).any (fun e =>
      match faceSign w (k - 1) e.1 (dropAt vs j) with
      | some sg => decide (e.2 = (sg ^^ decide (j % 2 = 1)))
      | none => false))

/-- The edges of a simplex of degree 2 or 3: of its boundary, and of its faces' boundaries. -/
def edgesOf (w : Img) (k i : Nat) : List Nat :=
  let e := (bnd w k i).map Prod.fst
  if k = 2 then e else (e.map (fun f => (bnd w 2 f).map Prod.fst)).flatten
/-- A corner record agrees with R304: its local edges are the simplex's own. -/
def cornerOk (w : Img) (k i : Nat) : Bool :=
  let r := cornerAt w k i
  if simplicial w k i then
    let vs := cornerVerts w k i
    (List.range 4).all (fun j => decide (j ≤ k) || decide (w (r + 4 * j) = 0xFFFFFFFF)) &&
      vs.all (fun v => decide (v < imgN w 0)) &&
      (cornerPairs 3).all (fun p =>
        let e := cornerEdge w k i p.1 p.2
        if p.2 ≤ k then
          let a := vs.getD p.1 0
          let b := vs.getD p.2 0
          decide (bits e 20 11 = 0) && (edgesOf w k i).elem (bits e 0 20) &&
            decide ((bnd w 1 (bits e 0 20)).map Prod.fst = [min a b, max a b]) && decide (a ≠ b) &&
            decide (decide (bits e 31 1 = 1) = decide (b < a))
        else decide (e = 0xFFFFFFFF)) &&
      (List.range 6).all (fun j => decide (w (r + 40 + 4 * j) = 0)) && alternating w k i
  else (List.range 16).all (fun j => decide (w (r + 4 * j) = 0xFFFFFFFF))

/-- Owners of a degree do not decrease (R302). -/
def ownersSorted (w : Img) (k : Nat) : Bool :=
  (List.range (imgN w k - 1)).all (fun i => decide (simplexOwner w k i ≤ simplexOwner w k (i + 1)))

/-- Tables, array and records end within the image. -/
def extentsOk (w : Img) : Bool :=
  let z := 64 * imgLines w
  (List.range (imgDim w + 1)).all (fun k => decide (64 * imgToff w k + 16 * imgN w k ≤ z)) &&
    decide (64 * imgIoff w + 4 * imgIcnt w ≤ z) &&
    (decide (imgDim w = 1) || decide (64 * imgCoff w + 64 * (imgN w 2 + imgN w 3) ≤ z))

/-- Every simplex of every degree passes a check. -/
def allSimplices (w : Img) (lo : Nat) (p : Nat → Nat → Bool) : Bool :=
  (List.range (imgDim w + 1)).all (fun k => decide (k < lo) || (List.range (imgN w k)).all (p k))

/-- An image that `cx.load` accepts (R305). -/
def imageOk (w : Img) : Bool :=
  headerOk w && extentsOk w && allSimplices w 0 (simplexOk w) && allSimplices w 0 (transposeOk w) &&
    allSimplices w 2 (bndBndOk w) && (List.range (imgDim w + 1)).all (ownersSorted w) && allSimplices w 2 (cornerOk w)

/-! ### Complex slots (R299, R300, R306, R327) -/

/-- Advance a generation (R300). -/
def nextGen (g : Nat) : Nat := if g = 16383 then 1 else g + 1
/-- The complex slot of a cluster. -/
def Cluster.cxSlot (c : Cluster) (n : Nat) : CxSlot := Tab.get {} c.cx n
/-- Change a complex slot. -/
def State.onCx (s : State) (ck n : Nat) (f : CxSlot → CxSlot) : State :=
  s.onCluster ck (fun c => { c with cx := Tab.upd {} c.cx n f })
/-- A halo operation is in flight on a slot (R327). -/
def Cluster.cxBusy (c : Cluster) (n : Nat) : Bool :=
  c.ops.any (fun o => decide (o.eq = 5) && decide (bits o.c0.toNat 58 2 = n))
/-- A region of another slot overlaps. -/
def Cluster.cxOverlap (c : Cluster) (n off len : Nat) : Bool :=
  c.cx.any (fun e => decide (e.1 ≠ n) && decide (e.2.lines ≠ 0) && decide (off < e.2.off + 64 * e.2.lines) &&
    decide (e.2.off < off + len))

/-- Write a general register that a K-format field names. -/
def wrK (d : BitVec 3) (v : Word) : M Unit := wr (d.zeroExtend 5) v
/-- Read a general register that a K-format field names. -/
def rdK (a : BitVec 3) : M Word := rdCode a.toNat

/-- Read the 64-byte lines of an image as plain loads: the first failure ends it. -/
def readLines (a : Word) : Nat → Nat → M (List Nat)
  | _, 0 => return []
  | i, n + 1 => do
    let v ← readLineM (a + BitVec.ofNat 64 (64 * i))
    let t ← readLines a (i + 1) n
    return v :: t

/-- Store lines in a region. -/
def State.storeLines (s : State) (ck off : Nat) : List Nat → State
  | [] => s
  | v :: t => State.storeLines (s.setScratchN ck off 64 v) ck (off + 64) t

/-- The wait on a miss of an instruction that no interrupt abandons. -/
def firmM {α : Type} (body : M α) : M α :=
  tryCatch body (fun e => match e with | .wait (.miss va) => waitM (.missHeld va) | e => throw e)

/-- The start of a `cx.load` (R311): its checks, and then the generation advances, the slot is loading and owns the
region. -/
def cxBeginM (n : Nat) (a : Word) (off : Nat) : M Unit := do
  let me ← here
  needM (decide (a.toNat % 64 = 0 ∧ off % 64 = 0)) 0x20
  let v ← readLineM a
  let hdr : Img := fun b => bits v (8 * b) 32
  let c ← clusterM
  needM (decide ((c.cxSlot n).st ≠ 1)) 0x77
  needM (decide (off + 64 * imgLines hdr ≤ 0x400000) && headerOk hdr) 0x76
  needM (!c.cxOverlap n off (64 * imgLines hdr)) 0x77
  modS (fun s => s.onCx (clusterOf me) n (fun q =>
    { st := 1, gen := nextGen q.gen, off := off, lines := imgLines hdr, user := some me }))
  onSlotM (fun x => { x with begun := true })

/-- `cx.load` (R311, R329): once the slot is loading it waits for the operations in flight on the old image, and then reads
the lines: every line before it stores the first, so that a read that fails leaves the region as it was, and an image that the
region overlaps is read as it was (R5; DESIGN CHOICE, notes/assumptions 108). A header that has since grown past the region
fails the verdict (R305). A trap, a failure of the wick or a refused walk leaves the slot empty (`State.undoCx`). -/
def execCxLoad (x : FmtK) (s : State) : Out :=
  runInstr (.cxLoad x) s <| firmM do
    let me ← here
    let a ← rdK x.a
    let o ← rdK x.b
    prepDst x.d.toNat
    let ck := clusterOf me
    let n := x.md.toNat % 4
    if !(← slotM).begun then cxBeginM n a o.toNat
    let c ← clusterM
    let q := c.cxSlot n
    if c.cxBusy n then waitM .busy
    let ls ← readLines a 0 q.lines
    modS (fun s => s.storeLines ck q.off ls)
    let w := (← getS).image ck q.off
    needM (decide (imgLines w ≤ q.lines) && imageOk w) 0x76
    modS (fun s => s.onCx ck n (fun q => { q with st := 2, user := none }))
    onSlotM (fun x => { x with begun := false })
    linesDoneM
    wrK x.d (BitVec.ofNat 64 q.gen)
    return .next

/-- `cx.drop` (R312): the generation advances and the slot is empty; it then waits for the operations in flight, and frees
the region unless a `cx.load` has since taken the slot. -/
def execCxDrop (x : FmtK) (s : State) : Out :=
  runInstr (.cxDrop x) s do
    let me ← here
    let n := x.md.toNat % 4
    let ck := clusterOf me
    if !(← slotM).begun then do
      needM (decide (((← clusterM).cxSlot n).st ≠ 1)) 0x77
      modS (fun s => s.onCx ck n (fun q => { q with st := 0, gen := nextGen q.gen, user := some me }))
      onSlotM (fun x => { x with begun := true })
    if (← clusterM).cxBusy n then waitM .busy
    modS (fun s => s.undoCx me)
    onSlotM (fun x => { x with begun := false })
    return .next

/-! ### Cochain registers (R307, R308, R313 to R315) -/

/-- A cochain register's fields (Table 16.4). -/
structure Coch where
  v : Bool
  sat : Bool
  own : Bool
  dual : Bool
  slot : Nat
  gen : Nat
  deg : Nat
  fmt : Nat
  anch : Int
  part : Nat
  row0 : Nat
  count : Nat
  base : Nat
  deriving DecidableEq, Repr

/-- Decode a descriptor. -/
def cochOf (w0 w1 : Word) : Coch :=
  let a := w0.toNat
  let b := w1.toNat
  let f := fun i => decide (bits a i 1 = 1)
  { v := f 63, sat := f 62, own := f 61, dual := f 60, slot := bits a 58 2, gen := bits a 44 14, deg := bits a 42 2
    fmt := bits a 38 4, anch := (BitVec.ofNat 16 (bits a 22 16)).toInt, part := bits a 14 8
    row0 := bits b 40 24, count := bits b 20 20, base := bits b 0 19 }
/-- A slot's cochain register. -/
def Slot.coch (x : Slot) (n : Nat) : Coch := cochOf (Tab.get 0 x.c0 n) (Tab.get 0 x.c1 n)
/-- The bytes of an element. -/
def Coch.esize (c : Coch) : Nat := if c.fmt = 3 then 4 else 8
/-- The window is valid for an image (R308). -/
def Coch.windowOk (c : Coch) (w : Img) : Bool :=
  decide (1 ≤ c.count) && decide (c.row0 + c.count ≤ imgN w c.deg) && decide (8 * c.base + c.esize * c.count ≤ 0x400000)

/-- Word 0 and word 1 with their reserved bits zero. -/
def cochMask0 (v : Word) : Word := v &&& 0xFFFFFFFFFFFFC000
def cochMask1 (v : Word) : Word := v &&& 0xFFFFFFFFFFF7FFFF
/-- Write a cochain register. -/
def Slot.setCoch (x : Slot) (n : Nat) (a b : Word) : Slot := { x with c0 := Tab.set 0 x.c0 n a, c1 := Tab.set 0 x.c1 n b }

/-- `cx.bind` (R313). -/
def execCxBind (x : FmtK) (s : State) : Out :=
  runInstr (.cxBind x) s do
    let a ← rdK x.a
    let b ← rdK x.b
    let f := bits a.toNat 38 4
    needM (!a.getLsbD 63 || decide (f = 3 ∨ f = 4 ∨ f = 9)) 0x62
    onSlotM (fun z => z.setCoch x.d.toNat (cochMask0 a) (cochMask1 b))
    return .next

/-- `cx.rebind` (R314). -/
def execCxRebind (x : FmtK) (s : State) : Out :=
  runInstr (.cxRebind x) s do
    let me ← here
    let y ← slotM
    let c ← clusterM
    let r := y.coch x.a.toNat
    let q := c.cxSlot r.slot
    needM r.v 0x72
    needM (decide (q.st ≠ 1)) 0x77
    needM (decide (q.st ≠ 0)) 0x70
    needM (r.windowOk ((← getS).image (clusterOf me) q.off)) 0x74
    onSlotM (fun z => z.setCoch x.d.toNat (putBits (Tab.get 0 z.c0 x.a.toNat) 44 14 q.gen) (Tab.get 0 z.c1 x.a.toNat))
    return .next

/-- `cx.gen` (R315). -/
def execCxGen (x : FmtK) (s : State) : Out :=
  runInstr (.cxGen x) s do
    let y ← slotM
    let c ← clusterM
    prepDst x.d.toNat
    let m := x.md.toNat
    let q := c.cxSlot m
    wrK x.d (if m < 4 then BitVec.ofNat 64 (q.st * 2 ^ 14 + q.gen)
      else if m = 4 then Tab.get 0 y.c0 x.a.toNat else Tab.get 0 y.c1 x.a.toNat)
    return .next

end Sys2Proof.Machine
end

