-- ==== Sys2Proof/Machine/Cochain.lean ====
section
/-!
DEFINITION. The ck instructions (spec 16_cochains.md, R316 to R325): the checks in the order of R317, every result
from the old values, then the writes.
-/

namespace Sys2Proof.Machine

/-! ### Values and results -/

/-- An exact value with the flags of forming it; `rg` asks for the cochain range fault (R32, R34). -/
structure CVal where
  v : FV
  fl : Fl := 0
  bad : Bool := false

/-- The raw bits of an element (R308). -/
def Coch.off (c : Coch) (i : Nat) : Nat := 8 * c.base + c.esize * (i - c.row0)
def State.elemBits (s : State) (ck : Nat) (c : Coch) (i : Nat) : Nat := s.scratchN ck (c.off i) c.esize

/-- A mantissa within ±(2^59 − 1): a saturate register clamps it with rg and nx, another faults (R32, R34). -/
def clampAx (sat : Bool) (m : Int) : Int × Fl × Bool :=
  if m.natAbs ≤ axMax.natAbs then (m, 0, false)
  else if sat then (if m < 0 then -axMax else axMax, Flag.rg ||| Flag.nx, false)
  else (m, 0, true)
/-- 64 bits as a two's-complement integer. -/
def sext64 (v : Nat) : Int := (BitVec.ofNat 64 v).toInt

/-- The mantissa of an AX64 element as read (R32). -/
def State.axElem (s : State) (ck : Nat) (c : Coch) (i : Nat) : Int × Fl × Bool := clampAx c.sat (sext64 (s.elemBits ck c i))
/-- The value of an element. -/
def State.cval (s : State) (ck : Nat) (c : Coch) (i : Nat) : CVal :=
  if c.fmt = 9 then
    let r := s.axElem ck c i
    ⟨axValue r.1 c.anch, r.2.1, r.2.2⟩
  else ⟨(if c.fmt = 3 then fp32 else fp64).decode (s.elemBits ck c i), 0, false⟩

/-- A value that needs no rounding. -/
def CVal.pure (v : FV) : CVal := ⟨v, 0, false⟩
/-- A value negated. -/
def CVal.neg (a : CVal) (n : Bool) : CVal := if n then { a with v := a.v.negate } else a
/-- Sums, products and quotients, with the flags of invalid operations. -/
def CVal.add (rm : Rm) (a b : CVal) : CVal :=
  let r := a.v.add rm b.v
  ⟨r.1, a.fl ||| b.fl ||| r.2, a.bad || b.bad⟩
def CVal.mul (a b : CVal) : CVal :=
  let r := a.v.mul b.v
  ⟨r.1, a.fl ||| b.fl ||| r.2, a.bad || b.bad⟩
def CVal.div (a b : CVal) : CVal :=
  let r := a.v.div b.v
  ⟨r.1, a.fl ||| b.fl ||| r.2, a.bad || b.bad⟩
/-- The exact sum of a list; an empty sum is +0. -/
def CVal.sum (rm : Rm) : List CVal → CVal
  | [] => ⟨.fin false 0 1, 0, false⟩
  | a :: t => t.foldl (CVal.add rm) a

/-- A simplex's metric weight. -/
def weightOf (w : Img) (k i : Nat) : CVal := CVal.pure (fp32.decode (simplexWeight w k i))

/-- A result rounded once to a register's format: its bits, flags, and whether it faults (R33, R35). -/
def Coch.round (c : Coch) (rm : Rm) (a : CVal) : Nat × Fl × Bool :=
  if c.fmt = 9 then
    let r := axOfValue c.anch a.v
    ((BitVec.ofInt 64 r.1).toNat, a.fl ||| r.2, a.bad)
  else
    let r := (if c.fmt = 3 then fp32 else fp64).round rm a.v
    (r.1, a.fl ||| r.2, a.bad)

/-! ### The checks (R317) -/

/-- The simplices of a window. -/
def Coch.range (c : Coch) : List Nat := (List.range c.count).map (fun j => c.row0 + j)
/-- A simplex lies in a window. -/
def Coch.has (c : Coch) (i : Nat) : Bool := decide (c.row0 ≤ i ∧ i < c.row0 + c.count)
/-- An element of the scratchpad that an instruction touches: offset and bytes. -/
abbrev CElem := Nat × Nat
/-- The elements of simplices in a register's window. -/
def Coch.elems (c : Coch) (is : List Nat) : List CElem := is.map (fun i => (c.off i, c.esize))
/-- The near-window scratchpad address of an offset (R149). -/
def nearVa (off : Nat) : Word := 0x01FFFFFF00000000 + BitVec.ofNat 64 off

/-- Bound, and bound to the current loaded image (0x72, 0x70), then one slot (0x71): the image. -/
def imageM (cs : List Coch) : M Img := do
  let me ← here
  let c ← clusterM
  needM (cs.all (fun r => r.v)) 0x72
  needM (cs.all (fun r => decide ((c.cxSlot r.slot).gen = r.gen) && decide ((c.cxSlot r.slot).st = 2))) 0x70
  let n := match cs with | r :: _ => r.slot | [] => 0
  needM (cs.all (fun r => decide (r.slot = n))) 0x71
  return (← getS).image (clusterOf me) (c.cxSlot n).off

/-- An offset in each scratchpad row that an element has bytes in. -/
def elemRows (e : CElem) : List Nat :=
  if e.1 / 256 = (e.1 + e.2 - 1) / 256 then [e.1] else [e.1, e.1 + e.2 - 1]
/-- The elements that an instruction reads are read: their rows are repaired. -/
def State.readElems (s : State) (ck : Nat) (reads : List CElem) : State :=
  (reads.map elemRows).flatten.foldl (fun s o => s.serve (scratchPa ck o) false) s
/-- Range locks, then regions, for each element read or written (0x82, 0x77); then the elements are read: an uncorrectable
row fails the wick, another is repaired (R152, R234). The image's own rows are taken as good (DESIGN CHOICE,
notes/assumptions 90). -/
def elemsM (reads writes : List CElem) : M Unit := do
  let me ← here
  let y ← slotM
  let s ← getS
  let ck := clusterOf me
  let va := fun (e : CElem) => nearVa e.1
  match (reads.map (fun e => (e, false)) ++ writes.map (fun e => (e, true))).find? (fun p =>
      s.lockHit ck y.asid (va p.1).toNat p.1.2 p.2 || (p.2 && (s.cluster ck).inRegion p.1.1 p.1.2)) with
  | some p => trapM (if s.lockHit ck y.asid (va p.1).toNat p.1.2 p.2 then 0x82 else 0x77) (va p.1)
  | none =>
    match (reads.map elemRows).flatten.findSome? (fun o => (s.readError (scratchPa ck o)).map (fun c => (c, scratchPa ck o))) with
    | some c => failM c.1 c.2
    | none => modS (fun s => s.readElems ck reads)

/-- Store results. -/
def State.putElems (s : State) (ck : Nat) : List (CElem × Nat) → State
  | [] => s
  | (e, v) :: t => State.putElems (s.setScratchN ck e.1 e.2 v) ck t

/-- Write the results of a register's simplices, or take the range fault (0x73). -/
def writeM (d : Coch) (rs : List (Nat × Nat × Fl × Bool)) : M Flow := do
  let me ← here
  needM (!rs.any (fun r => r.2.2.2)) 0x73
  modS (fun s => s.putElems (clusterOf me) (rs.map (fun r => ((d.off r.1, d.esize), r.2.1))))
  flagM (rs.foldl (fun f r => f ||| r.2.2.1) 0)
  return .next

/-- A register that writes only owned simplices does so (0x75, R309). -/
def ownM (w : Img) (d : Coch) (is : List Nat) : M Unit :=
  needM (!d.own || is.all (fun i => decide (simplexOwner w d.deg i = d.part))) 0x75

/-- Windows are valid, and every simplex read lies in its window (0x74). -/
def windowsM (w : Img) (cs : List Coch) (reads : List (Coch × List Nat)) : M Unit :=
  needM (cs.all (fun c => c.windowOk w) && reads.all (fun p => p.2.all p.1.has)) 0x74

/-- The rounding code of md. -/
def FmtK.rm (x : FmtK) : Rm := Rm.ofCode (x.md.truncate 2)
/-- The h register of md: register code 16 to 19. -/
def FmtK.h (x : FmtK) : Nat := 16 + x.md.toNat / 4

/-- The shape of the functions with one source: relation, the simplices read for each target, and each result. -/
def ckMap (i : Instr) (x : FmtK) (rel : Img → Coch → Coch → Bool) (need : Img → Coch → Coch → Nat → List Nat)
    (f : Img → (Nat → CVal) → Coch → Coch → Nat → CVal) (s : State) : Out :=
  runInstr i s do
    let me ← here
    let y ← slotM
    let d := y.coch x.d.toNat
    let a := y.coch x.a.toNat
    let w ← imageM [d, a]
    needM (rel w d a) 0x71
    let ts := d.range
    let rs := (ts.map (need w d a)).flatten
    windowsM w [d, a] [(a, rs)]
    ownM w d ts
    elemsM (a.elems rs) (d.elems ts)
    let s ← getS
    writeM d (ts.map (fun t => (t, d.round (FmtK.rm x) (f w (s.cval (clusterOf me) a) d a t))))

/-! ### dx, star, istar, codif (R318 to R320) -/

/-- The exact integer sum of R34 for a target of `ck.dx`. -/
def dxAx (s : State) (ck : Nat) (w : Img) (d a : Coch) (t : Nat) : Nat × Fl × Bool :=
  let es := (bnd w d.deg t).map (fun e =>
    let r := s.axElem ck a e.1
    (if e.2 then -r.1 else r.1, r.2))
  let z := clampAx d.sat (es.map (fun e => e.1)).sum
  ((BitVec.ofInt 64 z.1).toNat, es.foldl (fun f e => f ||| e.2.1) z.2.1, z.2.2 || es.any (fun e => e.2.2))

/-- `ck.dx` (R318). -/
def execCkDx (x : FmtK) (s : State) : Out :=
  runInstr (.ckDx x) s do
    let me ← here
    let y ← slotM
    let d := y.coch x.d.toNat
    let a := y.coch x.a.toNat
    let w ← imageM [d, a]
    needM (!a.dual && !d.dual && decide (a.deg < imgDim w) && decide (d.deg = a.deg + 1) &&
      (decide (a.fmt ≠ 9) || decide (d.fmt = 9 ∧ d.anch = a.anch))) 0x71
    let ts := d.range
    let rs := (ts.map (fun t => (bnd w d.deg t).map Prod.fst)).flatten
    windowsM w [d, a] [(a, rs)]
    ownM w d ts
    elemsM (a.elems rs) (d.elems ts)
    let s ← getS
    let ck := clusterOf me
    let rm := FmtK.rm x
    writeM d (ts.map (fun t => (t,
      if a.fmt = 9 then dxAx s ck w d a t
      else d.round rm (CVal.sum rm ((bnd w d.deg t).map (fun e => (s.cval ck a e.1).neg e.2))))))

/-- The relation of star and inverse star (R319). -/
def starRel (dual : Bool) (d a : Coch) : Bool :=
  decide (d.deg = a.deg ∧ d.dual = dual ∧ a.dual = !dual ∧ d.row0 = a.row0 ∧ d.count = a.count)

/-- `ck.star` (R319). -/
def execCkStar (x : FmtK) (s : State) : Out :=
  ckMap (.ckStar x) x (fun _ d a => starRel true d a) (fun _ _ _ t => [t])
    (fun w v d _ t => (v t).mul (weightOf w d.deg t)) s

/-- `ck.istar` (R319). -/
def execCkIstar (x : FmtK) (s : State) : Out :=
  ckMap (.ckIstar x) x (fun _ d a => starRel false d a) (fun _ _ _ t => [t])
    (fun w v d _ t => (v t).div (weightOf w d.deg t)) s

/-- `ck.codif` (R320). -/
def execCkCodif (x : FmtK) (s : State) : Out :=
  ckMap (.ckCodif x) x
    (fun _ d a => decide (1 ≤ a.deg ∧ d.deg + 1 = a.deg) && !a.dual && !d.dual)
    (fun w d _ t => (cobnd w d.deg t).map Prod.fst)
    (fun w v d a t =>
      (CVal.sum (FmtK.rm x) ((cobnd w d.deg t).map (fun e => ((v e.1).mul (weightOf w a.deg e.1)).neg e.2))).div
        (weightOf w d.deg t)) s

/-! ### wedge (R321) -/

/-- The value on the local edge from corner `i` to corner `j` of a simplicial simplex: by its sign bit, and negated
the other way. -/
def edgeValue (w : Img) (v : Nat → CVal) (k t i j : Nat) : CVal :=
  let e := cornerEdge w k t (min i j) (max i j)
  (v (bits e 0 20)).neg (decide (bits e 31 1 = 1) ^^ decide (j < i))
/-- The edges of a simplicial simplex. -/
def cornerEdges (w : Img) (k t : Nat) : List Nat := (cornerPairs k).map (fun p => bits (cornerEdge w k t p.1 p.2) 0 20)
/-- The six permutations of (0, 1, 2), with their signs, true for −1. -/
def perms3 : List (Nat × Nat × Nat × Bool) :=
  [(0, 1, 2, false), (1, 2, 0, false), (2, 0, 1, false), (1, 0, 2, true), (0, 2, 1, true), (2, 1, 0, true)]

/-- One result of `ck.wedge`. -/
def wedgeValue (rm : Rm) (w : Img) (va vb : Nat → CVal) (a d : Coch) (t : Nat) : CVal :=
  if a.deg = 0 then
    let vs := vertsOf w d.deg t
    (vb t).mul ((CVal.sum rm (vs.map va)).div (CVal.pure (.fin false vs.length 1)))
  else
    (CVal.sum rm (perms3.map (fun p =>
      ((edgeValue w va 2 t p.1 p.2.1).mul (edgeValue w vb 2 t p.2.1 p.2.2.1)).neg p.2.2.2))).mul (CVal.pure (.fin false 1 6))

/-- `ck.wedge` (R321). -/
def execCkWedge (x : FmtK) (s : State) : Out :=
  runInstr (.ckWedge x) s do
    let me ← here
    let y ← slotM
    let d := y.coch x.d.toNat
    let a := y.coch x.a.toNat
    let b := y.coch x.b.toNat
    let w ← imageM [d, a, b]
    let vertexPair := decide (a.deg = 0 ∧ d.deg = b.deg)
    let edgePair := decide (a.deg = 1 ∧ b.deg = 1 ∧ d.deg = 2)
    let ts := d.range
    needM (!a.dual && !b.dual && !d.dual && (vertexPair || edgePair)) 0x71
    needM (!edgePair || ts.all (fun t => decide (imgN w 2 ≤ t) || simplicial w 2 t)) 0x71
    needM (d.windowOk w) 0x74
    let ra := (ts.map (fun t => if a.deg = 0 then vertsOf w d.deg t else cornerEdges w 2 t)).flatten
    let rb := (ts.map (fun t => if a.deg = 0 then [t] else cornerEdges w 2 t)).flatten
    windowsM w [d, a, b] [(a, ra), (b, rb)]
    ownM w d ts
    elemsM (a.elems ra ++ b.elems rb) (d.elems ts)
    let s ← getS
    let ck := clusterOf me
    writeM d (ts.map (fun t => (t, d.round (FmtK.rm x) (wedgeValue (FmtK.rm x) w (s.cval ck a) (s.cval ck b) a d t))))

/-! ### interp (R322) -/

/-- A point record: the cell word and λ1 to λ3. -/
structure Point where
  cell : Nat
  l : List FV

/-- Point `p` of a list. -/
def State.point (s : State) (ck : Nat) (b : Coch) (p : Nat) : Point :=
  let o := 8 * b.base + 16 * p
  { cell := s.scratchN ck o 4, l := (List.range 3).map (fun j => fp32.decode (s.scratchN ck (o + 4 + 4 * j) 4)) }
/-- λ0 to λm. -/
def Point.lams (p : Point) (m : Nat) : List CVal :=
  let ls := (p.l.take m).map CVal.pure
  (CVal.sum .rne (CVal.pure (.fin false 1 1) :: ls.map (fun a => a.neg true))) :: ls
/-- A λ is not finite. -/
def Point.wild (p : Point) (m : Nat) : Bool :=
  (p.l.take m).any (fun v => match v with | .fin _ _ _ => false | _ => true)
/-- The local vertices of a cell. -/
def cellVerts (w : Img) (m t : Nat) : List Nat := if m = 1 then (bnd w 1 t).map Prod.fst else cornerVerts w m t
/-- The value on local edge (i, j) of a cell, i below j. -/
def cellEdge (w : Img) (v : Nat → CVal) (m t i j : Nat) : CVal := if m = 1 then v t else edgeValue w v m t i j
/-- The simplices that a point reads. -/
def pointReads (w : Img) (deg m t : Nat) : List Nat :=
  if deg = 0 then cellVerts w m t else if m = 1 then [t] else cornerEdges w m t

/-- The outputs of a point: NaN where a λ is not finite, with its sources read all the same (R32, R317). -/
def pointValues (rm : Rm) (w : Img) (v : Nat → CVal) (deg m : Nat) (p : Point) : List CVal :=
  let n := if deg = 0 then 1 else m + 1
  if p.wild m then
    let rs := (pointReads w deg m p.cell).map v
    List.replicate n ⟨.nan, rs.foldl (fun f r => f ||| r.fl) 0, rs.any (fun r => r.bad)⟩
  else
    let ls := p.lams m
    let lam := fun i => ls.getD i (CVal.pure (.fin false 0 1))
    if deg = 0 then
      [CVal.sum rm ((List.range (m + 1)).map (fun i => (lam i).mul (v ((cellVerts w m p.cell).getD i 0))))]
    else
      (List.range (m + 1)).map (fun j =>
        CVal.sum rm ((List.range j).map (fun i => (lam i).mul (cellEdge w v m p.cell i j)) ++
          (List.range (m - j)).map (fun l => ((lam (j + 1 + l)).mul (cellEdge w v m p.cell j (j + 1 + l))).neg true)))

/-- `ck.interp` (R322). -/
def execCkInterp (x : FmtK) (s : State) : Out :=
  runInstr (.ckInterp x) s do
    let me ← here
    let y ← slotM
    let ck := clusterOf me
    let d := y.coch x.d.toNat
    let a := y.coch x.a.toNat
    let b := y.coch x.b.toNat
    let w ← imageM [d, a, b]
    let m := b.deg
    let n := if a.deg = 0 then 1 else m + 1
    let s ← getS
    let ps := (List.range b.count).map (s.point ck b)
    needM (decide (a.deg ≤ 1) && !a.dual && decide (1 ≤ m ∧ m ≤ imgDim w) && decide (b.fmt = 3) &&
      decide (d.count = b.count * n)) 0x71
    needM (decide (m = 1) || ps.all (fun p => decide (imgN w m ≤ p.cell) || simplicial w m p.cell)) 0x71
    needM (ps.all (fun p => decide (p.cell < imgN w m)) && decide (1 ≤ b.count) &&
      decide (8 * b.base + 16 * b.count ≤ 0x400000) && decide (8 * d.base + d.esize * d.count ≤ 0x400000)) 0x74
    let rs := (ps.map (fun p => pointReads w a.deg m p.cell)).flatten
    windowsM w [a] [(a, rs)]
    let out := { d with row0 := 0 }
    let pts := (List.range b.count).map (fun p => (8 * b.base + 16 * p, 16))
    elemsM (pts ++ a.elems rs) (out.elems out.range)
    let vs := (ps.map (pointValues (FmtK.rm x) w (s.cval ck a) a.deg m)).flatten
    writeM out (vs.zipIdx.map (fun p => (p.2, out.round (FmtK.rm x) p.1)))

/-! ### cvt, anch, axpy, dot (R323, R324) -/

/-- `ck.cvt` (R323): element by element, whatever the rows. -/
def execCkCvt (x : FmtK) (s : State) : Out :=
  ckMap (.ckCvt x) x
    (fun _ d a => decide (d.deg = a.deg ∧ d.dual = a.dual ∧ d.count = a.count))
    (fun _ d a t => [a.row0 + (t - d.row0)])
    (fun _ v d a t => v (a.row0 + (t - d.row0))) s

/-- The least anchor A at or above a number with n / d ≤ (2^59 − 1) × 2^A; `k` bounds the search. -/
def leastAnchor (n d : Nat) (lo : Int) : Nat → Int
  | 0 => lo
  | k + 1 =>
    let q := scale2 axMax.natAbs 1 lo
    if n * q.2 ≤ d * q.1 then lo else leastAnchor n d (lo + 1) k
/-- The anchor of R323 for the largest magnitude n / d, times 2^h. -/
def anchorFor (n d h : Nat) : Int :=
  if n = 0 then -32768
  else
    let a := leastAnchor (n * 2 ^ h) d (expOf (n * 2 ^ h) d - 60) 4
    if a < -32768 then -32768 else if 32767 < a then 32767 else a
/-- The larger of two magnitudes. -/
def maxMag (a : Nat × Nat) (v : FV) : Nat × Nat :=
  match v with
  | .fin _ n d => if a.1 * d < n * a.2 then (n, d) else a
  | _ => a

/-- `ck.anch` (R323). -/
def execCkAnch (x : FmtK) (s : State) : Out :=
  runInstr (.ckAnch x) s do
    let me ← here
    let y ← slotM
    let d := y.coch x.d.toNat
    let a := y.coch x.a.toNat
    let w ← imageM [d, a]
    needM (decide (d.fmt = 9)) 0x71
    windowsM w [d, a] []
    elemsM (a.elems a.range) []
    let s ← getS
    let vs := a.range.map (s.cval (clusterOf me) a)
    needM (!vs.any (fun v => v.bad)) 0x73
    let m := vs.foldl (fun b v => maxMag b v.v) (0, 1)
    let an := anchorFor m.1 m.2 (4 * (x.md.toNat % 4))
    onSlotM (fun z => z.setCoch x.d.toNat (putBits (Tab.get 0 z.c0 x.d.toNat) 22 16 (BitVec.ofInt 16 an).toNat)
      (Tab.get 0 z.c1 x.d.toNat))
    flagM (vs.foldl (fun f v => f ||| v.fl) 0)
    return .next

/-- `ck.axpy` (R324). -/
def execCkAxpy (x : FmtK) (s : State) : Out :=
  runInstr (.ckAxpy x) s do
    let me ← here
    let y ← slotM
    let h ← rdCode (FmtK.h x)
    let d := y.coch x.d.toNat
    let a := y.coch x.a.toNat
    let b := y.coch x.b.toNat
    let w ← imageM [d, a, b]
    needM (decide (d.deg = a.deg ∧ a.deg = b.deg ∧ d.dual = a.dual ∧ a.dual = b.dual ∧ d.count = a.count ∧ a.count = b.count)) 0x71
    windowsM w [d, a, b] []
    ownM w d d.range
    elemsM (a.elems a.range ++ b.elems b.range) (d.elems d.range)
    let s ← getS
    let ck := clusterOf me
    let rm := FmtK.rm x
    let k := CVal.pure (fp64.decode h.toNat)
    writeM d (d.range.map (fun t =>
      (t, d.round rm ((k.mul (s.cval ck a (a.row0 + (t - d.row0)))).add rm (s.cval ck b (b.row0 + (t - d.row0)))))))

/-- `ck.dot` (R324): the elements of the two windows match by their place in the window. -/
def execCkDot (x : FmtK) (s : State) : Out :=
  runInstr (.ckDot x) s do
    let me ← here
    let y ← slotM
    let a := y.coch x.a.toNat
    let b := y.coch x.b.toNat
    let w ← imageM [a, b]
    needM (decide (a.deg = b.deg ∧ a.dual = b.dual ∧ a.count = b.count)) 0x71
    windowsM w [a, b] []
    let js := (List.range a.count).filter (fun j => !a.own || decide (simplexOwner w a.deg (a.row0 + j) = a.part))
    elemsM (a.elems (js.map (fun j => a.row0 + j)) ++ b.elems (js.map (fun j => b.row0 + j))) []
    let s ← getS
    let ck := clusterOf me
    let rm := FmtK.rm x
    let term := fun j =>
      let p := (s.cval ck a (a.row0 + j)).mul (s.cval ck b (b.row0 + j))
      let q := weightOf w a.deg (a.row0 + j)
      if a.dual then p.div q else p.mul q
    let t := CVal.sum rm (js.map term)
    needM (!t.bad) 0x73
    let r := fp64.round rm t.v
    wr (BitVec.ofNat 5 (FmtK.h x)) (BitVec.ofNat 64 r.1)
    flagM (t.fl ||| r.2)
    return .next

/-! ### Packing (R325) -/

/-- A control word of `ck.hpack` and `ck.hunp`. -/
def hBuf (v : Word) : Nat := bits v.toNat 0 22
def hList (v : Word) : Nat := bits v.toNat 22 14
def hCount (v : Word) : Nat := bits v.toNat 36 20
/-- It keeps the rules of R325 for an element size. -/
def hWordOk (v : Word) (es : Nat) : Bool :=
  decide (hBuf v % es = 0) && decide (1 ≤ hCount v) && decide (bits v.toNat 56 8 = 0) &&
    decide (4 * hList v + 4 * hCount v ≤ 0x10000) && decide (hBuf v + es * hCount v ≤ 0x400000)
/-- The entries of a simplex list in a core's local memory. -/
def State.simplexList (s : State) (corek first n : Nat) : List Nat :=
  (List.range n).map (fun j => s.localN corek (4 * (first + j)) 4)

/-- Buffer elements. -/
def bufElems (v : Word) (es : Nat) : List CElem := (List.range (hCount v)).map (fun j => (hBuf v + es * j, es))

/-- An element as `ck.hpack` copies it: its bits, but an AX64 element is read under R32 (DEDUCED, notes/assumptions 89). -/
def State.packed (s : State) (ck : Nat) (c : Coch) (i : Nat) : Nat × Fl × Bool :=
  if c.fmt = 9 then
    let r := s.axElem ck c i
    ((BitVec.ofInt 64 r.1).toNat, r.2)
  else (s.elemBits ck c i, 0, false)

/-- The checks of R325, and the list. -/
def packM (c : Coch) (h : Word) : M (Img × List Nat) := do
  let me ← here
  let w ← imageM [c]
  needM (c.windowOk w && hWordOk h c.esize) 0x74
  (List.range (hCount h)).forM (fun j => errorM (localPa (coreOf me) (4 * (hList h + j))))
  let ls := (← getS).simplexList (coreOf me) (hList h) (hCount h)
  needM (ls.all (fun i => decide (i < 2 ^ 20) && c.has i)) 0x74
  return (w, ls)

/-- `ck.hpack` (R325). -/
def execCkHpack (x : FmtK) (s : State) : Out :=
  runInstr (.ckHpack x) s do
    let me ← here
    let y ← slotM
    let h ← rdCode (FmtK.h x)
    let c := y.coch x.a.toNat
    let r ← packM c h
    elemsM (c.elems r.2) (bufElems h c.esize)
    let s ← getS
    let vs := r.2.map (fun i => s.packed (clusterOf me) c i)
    needM (!vs.any (fun v => v.2.2)) 0x73
    modS (fun s => s.putElems (clusterOf me) ((bufElems h c.esize).zip (vs.map (fun v => v.1))))
    flagM (vs.foldl (fun f v => f ||| v.2.1) 0)
    return .next

/-- `ck.hunp` (R325): of two entries that name one simplex the later stays. -/
def execCkHunp (x : FmtK) (s : State) : Out :=
  runInstr (.ckHunp x) s do
    let me ← here
    let y ← slotM
    let h ← rdCode (FmtK.h x)
    let c := y.coch x.d.toNat
    let r ← packM c h
    ownM r.1 c r.2
    elemsM (bufElems h c.esize) (c.elems r.2)
    let s ← getS
    let vs := (bufElems h c.esize).map (fun e => s.scratchN (clusterOf me) e.1 e.2)
    modS (fun s => s.putElems (clusterOf me) ((c.elems r.2).zip vs))
    return .next

end Sys2Proof.Machine
end

