-- ==== Sys2Proof/Machine/Vector.lean ====
section
/-!
DEFINITION. The vec group (spec 07_vectors.md, R133 to R142): lane arithmetic, moves, reductions, conversions, block
scales and comparisons.
-/

namespace Sys2Proof.Machine

/-- The bits of a lane by type (Table 7.1). -/
def laneBits (t : Nat) : Nat :=
  match t with
  | 0 | 4 => 32
  | 1 | 5 => 16
  | 3 => 4
  | _ => 8
/-- The floating format of a lane type below 4. -/
def laneFmt (t : Nat) : FFmt :=
  match t with
  | 0 => fp32
  | 1 => bf16
  | 2 => fp8
  | _ => fp4
/-- The lanes of a register under a type. -/
def lanesOf (t : Nat) (x : VWord) : List Nat :=
  (List.range (laneCount t)).map (fun i => vget x (laneBits t * i) (laneBits t))
/-- Lanes of `w` bits side by side, lane 0 lowest. -/
def joinLanes (w : Nat) : List Nat → Nat
  | [] => 0
  | x :: xs => x % 2 ^ w + 2 ^ w * joinLanes w xs
/-- A register from lanes of `w` bits; the rest is zero. -/
def vecOfLanes (w : Nat) (ls : List Nat) : VWord := BitVec.ofNat 1024 (joinLanes w ls)
/-- A two's-complement lane of `w` bits as an integer. -/
def laneInt (w x : Nat) : Int := if x % 2 ^ w < 2 ^ (w - 1) then ((x % 2 ^ w : Nat) : Int) else ((x % 2 ^ w : Nat) : Int) - 2 ^ w
/-- An integer modulo 2^w. -/
def wrapTo (w : Nat) (z : Int) : Nat := (z % 2 ^ w).toNat

/-- Read a vector register; a pending one is waited for (R114, R146). -/
def rdV (n : Nat) : M VWord := do
  let x ← slotM
  if x.isPending (32 + n) then waitM (.reg (32 + n)) else return x.vreg n
/-- Wait until a vector register can be written (R114). -/
def prepV (n : Nat) : M Unit := do
  let x ← slotM
  if x.isPending (32 + n) then waitM (.reg (32 + n)) else pure ()
/-- Write a vector register. -/
def wrV (n : Nat) (v : VWord) : M Unit := onSlotM (fun x => x.setV n v)
/-- The registers of a group of `r` starting at `n`, lowest first. -/
def groupOf (n r : Nat) : List Nat := (List.range r).map (fun k => n + k)

/-- The OR of lane flags. -/
def orFlags (ls : List (Nat × Fl)) : Fl := ls.foldl (fun f r => f ||| r.2) 0

/-- A function of two lanes and the destination's old lane. -/
abbrev LaneFn := Nat → Nat → Nat → Nat → Nat × Fl

/-- Apply a lane function under a type: lanes of v[va], v[vb] and the old v[vd]. -/
def lanewise (f : LaneFn) (t : Nat) (a b c : VWord) : List (Nat × Fl) :=
  (List.range (laneCount t)).map (fun i =>
    let w := laneBits t
    f t (vget a (w * i) w) (vget b (w * i) w) (vget c (w * i) w))

/-- A lane-by-lane instruction (R136, R137). -/
def vecLanes (i : Instr) (x : FmtV) (f : LaneFn) (s : State) : Out :=
  runInstr i s do
    let a ← rdV x.a.toNat
    let b ← rdV x.b.toNat
    let c ← rdV x.d.toNat
    let r := lanewise f x.t.toNat a b c
    wrV x.d.toNat (vecOfLanes (laneBits x.t.toNat) (r.map Prod.fst))
    flagM (orFlags r)
    return .next

/-- A lane-by-lane instruction of one source. -/
def vecLanes1 (i : Instr) (x : FmtV) (f : LaneFn) (s : State) : Out :=
  runInstr i s do
    let a ← rdV x.a.toNat
    prepV x.d.toNat
    let r := lanewise f x.t.toNat a 0 0
    wrV x.d.toNat (vecOfLanes (laneBits x.t.toNat) (r.map Prod.fst))
    flagM (orFlags r)
    return .next

/-- Floating lanes by one function, integer lanes by another. An FP8 lane whose result is NaN receives the canonical NaN
of R136 and no flag: FP8 has no infinity, and a NaN operand is no conversion under R21. -/
def byType (ff : FFmt → Nat → Nat → Nat → Nat × Fl) (fi : Nat → Int → Int → Int → Int) : LaneFn :=
  fun t a b c =>
    if t = 2 then ((ff fp8 a b c).1, (ff fp8 a b c).2 &&& ~~~Flag.nv)
    else if t < 4 then ff (laneFmt t) a b c
    else
      let w := laneBits t
      (wrapTo w (fi w (laneInt w a) (laneInt w b) (laneInt w c)), 0)

/-- `vec.add`. -/
def execVecAdd (x : FmtV) (s : State) : Out :=
  vecLanes (.vecAdd x) x (byType (fun f a b _ => f.add .rne a b) (fun _ a b _ => a + b)) s
/-- `vec.sub`. -/
def execVecSub (x : FmtV) (s : State) : Out :=
  vecLanes (.vecSub x) x (byType (fun f a b _ => f.sub .rne a b) (fun _ a b _ => a - b)) s
/-- `vec.mul`. -/
def execVecMul (x : FmtV) (s : State) : Out :=
  vecLanes (.vecMul x) x (byType (fun f a b _ => f.mul .rne a b) (fun _ a b _ => a * b)) s
/-- `vec.fma`: r := c + a × b. -/
def execVecFma (x : FmtV) (s : State) : Out :=
  vecLanes (.vecFma x) x (byType (fun f a b c => f.fma .rne c a b) (fun _ a b c => c + a * b)) s
/-- `vec.min`. -/
def execVecMin (x : FmtV) (s : State) : Out :=
  vecLanes (.vecMin x) x (byType (fun f a b _ => (f.min a b, 0)) (fun _ a b _ => min a b)) s
/-- `vec.max`. -/
def execVecMax (x : FmtV) (s : State) : Out :=
  vecLanes (.vecMax x) x (byType (fun f a b _ => (f.max a b, 0)) (fun _ a b _ => max a b)) s
/-- `vec.abs`. -/
def execVecAbs (x : FmtV) (s : State) : Out :=
  vecLanes1 (.vecAbs x) x (byType (fun f a _ _ => (f.absBits a, 0)) (fun _ a _ _ => (a.natAbs : Int))) s
/-- `vec.neg`. -/
def execVecNeg (x : FmtV) (s : State) : Out :=
  vecLanes1 (.vecNeg x) x (byType (fun f a _ _ => (f.negBits a, 0)) (fun _ a _ _ => 0 - a)) s
/-- `vec.and`. -/
def execVecAnd (x : FmtV) (s : State) : Out := vecLanes (.vecAnd x) x (fun _ a b _ => (a &&& b, 0)) s
/-- `vec.or`. -/
def execVecOr (x : FmtV) (s : State) : Out := vecLanes (.vecOr x) x (fun _ a b _ => (a ||| b, 0)) s
/-- `vec.xor`. -/
def execVecXor (x : FmtV) (s : State) : Out := vecLanes (.vecXor x) x (fun _ a b _ => (a ^^^ b, 0)) s
/-- `vec.shl`: by zext(b, log2 w). -/
def execVecShl (x : FmtV) (s : State) : Out :=
  vecLanes (.vecShl x) x (fun t a b _ => (a * 2 ^ (b % laneBits t) % 2 ^ laneBits t, 0)) s
/-- `vec.shr`. -/
def execVecShr (x : FmtV) (s : State) : Out :=
  vecLanes (.vecShr x) x (fun t a b _ => (a / 2 ^ (b % laneBits t), 0)) s
/-- `vec.sra`. -/
def execVecSra (x : FmtV) (s : State) : Out :=
  vecLanes (.vecSra x) x (fun t a b _ =>
    (wrapTo (laneBits t) (laneInt (laneBits t) a / 2 ^ (b % laneBits t)), 0)) s
/-- All ones of a lane when a condition holds, else zero (R142). -/
def maskLane (t : Nat) (c : Bool) : Nat × Fl := (if c then 2 ^ laneBits t - 1 else 0, 0)
/-- `vec.ceq` (R142). -/
def execVecCeq (x : FmtV) (s : State) : Out :=
  vecLanes (.vecCeq x) x (fun t a b _ => maskLane t
    (if t < 4 then ((laneFmt t).decode a).eqv ((laneFmt t).decode b) else decide (a = b))) s
/-- `vec.clt` (R142). -/
def execVecClt (x : FmtV) (s : State) : Out :=
  vecLanes (.vecClt x) x (fun t a b _ => maskLane t
    (if t < 4 then ((laneFmt t).decode a).lt ((laneFmt t).decode b)
     else decide (laneInt (laneBits t) a < laneInt (laneBits t) b))) s

/-- `vec.sel`: bitwise over all bits (Table 7.2). -/
def execVecSel (x : FmtV) (s : State) : Out :=
  runInstr (.vecSel x) s do
    let a ← rdV x.a.toNat
    let b ← rdV x.b.toNat
    let c ← rdV x.d.toNat
    wrV x.d.toNat ((a &&& c) ||| (b &&& ~~~c))
    return .next

/-- The source lane of a shuffle (R138). -/
def shufLane (t i k : Nat) : Nat := if t = 3 then 16 * (i / 16) + k else k % laneCount t
/-- `vec.shuf` (R138). -/
def execVecShuf (x : FmtV) (s : State) : Out :=
  runInstr (.vecShuf x) s do
    let a ← rdV x.a.toNat
    let b ← rdV x.b.toNat
    prepV x.d.toNat
    let t := x.t.toNat
    let w := laneBits t
    wrV x.d.toNat (vecOfLanes w ((List.range (laneCount t)).map (fun i =>
      vget a (w * shufLane t i (vget b (w * i) w)) w)))
    return .next

/-- `vec.bcast`: lane 0 in every lane. -/
def execVecBcast (x : FmtV) (s : State) : Out :=
  runInstr (.vecBcast x) s do
    let a ← rdV x.a.toNat
    prepV x.d.toNat
    let t := x.t.toNat
    wrV x.d.toNat (vecOfLanes (laneBits t) (List.replicate (laneCount t) (vget a 0 (laneBits t))))
    return .next

/-! ### Reductions (R37, R139) -/

/-- One level of the pairwise tree. -/
def pairUp {α : Type} (f : α → α → α) : List α → List α
  | a :: b :: r => f a b :: pairUp f r
  | l => l
/-- The tree of R37 with at most `n` levels. -/
def treeFold {α : Type} (f : α → α → α) : Nat → List α → List α
  | 0, l => l
  | n + 1, l => treeFold f n (pairUp f l)
/-- A lane widened exactly to FP32: the pattern; NaN widens to the canonical NaN. -/
def widenLane (t x : Nat) : Nat := if t = 0 then x else (fp32.round .rne ((laneFmt t).decode x)).1

/-- A reduction: floating lanes as FP32 with flags, integer lanes as INT32 (R139). -/
def reduceLanes (ff : Nat → Nat → Nat × Fl) (fi : Int → Int → Int) (t : Nat) (a : VWord) : Nat × Fl :=
  if t < 4 then
    let ls := (lanesOf t a).map (fun x => (widenLane t x, (0 : Fl)))
    ((treeFold (fun p q => let r := ff p.1 q.1; (r.1, p.2 ||| q.2 ||| r.2)) 8 ls).headD (0, 0))
  else
    let ls := (lanesOf t a).map (laneInt (laneBits t))
    (wrapTo 32 ((treeFold (fun p q => laneInt 32 (wrapTo 32 (fi p q))) 8 ls).headD 0), 0)

/-- A reduction instruction: bits [31:0], the rest zero. -/
def vecReduce (i : Instr) (x : FmtV) (ff : Nat → Nat → Nat × Fl) (fi : Int → Int → Int) (s : State) : Out :=
  runInstr i s do
    let a ← rdV x.a.toNat
    prepV x.d.toNat
    let r := reduceLanes ff fi x.t.toNat a
    wrV x.d.toNat (BitVec.ofNat 1024 r.1)
    flagM r.2
    return .next

/-- `vec.rsum`. -/
def execVecRsum (x : FmtV) (s : State) : Out := vecReduce (.vecRsum x) x (fp32.add .rne) (fun a b => a + b) s
/-- `vec.rmax`. -/
def execVecRmax (x : FmtV) (s : State) : Out :=
  vecReduce (.vecRmax x) x (fun a b => (fp32.max a b, 0)) (fun a b => max a b) s
/-- `vec.rmin`. -/
def execVecRmin (x : FmtV) (s : State) : Out :=
  vecReduce (.vecRmin x) x (fun a b => (fp32.min a b, 0)) (fun a b => min a b) s

/-! ### Conversions and scales (R140, R141) -/

/-- Convert one lane value from type `st` to type `dt` (R140). -/
def cvtLane (st dt x : Nat) : Nat × Fl :=
  if st < 4 then
    let v := (laneFmt st).decode x
    if dt < 4 then (laneFmt dt).round .rne v
    else
      let w := laneBits dt
      let r := v.toInt .rne (-(2 ^ (w - 1))) (2 ^ (w - 1) - 1)
      (wrapTo w r.1, r.2)
  else
    let z := laneInt (laneBits st) x
    if dt < 4 then (laneFmt dt).round .rne (FV.ofInt z)
    else
      let w := laneBits dt
      let lo : Int := -(2 ^ (w - 1))
      let hi : Int := 2 ^ (w - 1) - 1
      if z < lo then (wrapTo w lo, Flag.sat ||| Flag.nx)
      else if hi < z then (wrapTo w hi, Flag.sat ||| Flag.nx)
      else (wrapTo w z, 0)

/-- Cut a list into pieces of `n`, at most `k` of them. -/
def chunks {α : Type} (n : Nat) : Nat → List α → List (List α)
  | 0, _ => []
  | k + 1, l => l.take n :: chunks n k (l.drop n)

/-- Write a group of registers from its lanes in order. -/
def wrGroup (w base : Nat) (ls : List Nat) (n r : Nat) : M Unit :=
  (List.zip (groupOf base r) (chunks n r ls)).forM (fun p => wrV p.1 (vecOfLanes w p.2))

/-- `vec.cvt` (R140): every source register is read before a destination is written (R135). -/
def execVecCvt (x : FmtV) (s : State) : Out :=
  runInstr (.vecCvt x) s do
    let st := x.b.toNat
    let dt := x.t.toNat
    let ns := laneCount st
    let nd := laneCount dt
    let srcs ← (groupOf x.a.toNat (max 1 (nd / ns))).mapM rdV
    let rd := max 1 (ns / nd)
    (groupOf x.d.toNat rd).forM prepV
    let r := ((srcs.map (lanesOf st)).flatten).map (cvtLane st dt)
    wrGroup (laneBits dt) x.d.toNat (r.map Prod.fst) nd rd
    flagM (orFlags r)
    return .next

/-- `vec.scale` (R141): an invalid scale traps 0x60 before anything is written. -/
def execVecScale (x : FmtV) (s : State) : Out :=
  runInstr (.vecScale x) s do
    let t := x.t.toNat
    let a ← rdV x.a.toNat
    let b ← rdV x.b.toNat
    let r := laneCount t / 32
    (groupOf x.d.toNat r).forM prepV
    let scales := (List.range (if t = 2 then 1 else 8)).map (fun i => vget b (32 * i) 32)
    needM (scales.all scaleValid) 0x60
    let ls := (List.range (laneCount t)).map (fun j =>
      fp32.mul .rne (widenLane t (vget a (laneBits t * j) (laneBits t))) (vget b (if t = 2 then 0 else 32 * (j / 32)) 32))
    wrGroup 32 x.d.toNat (ls.map Prod.fst) 32 r
    flagM (orFlags ls)
    return .next

end Sys2Proof.Machine
end

