-- ==== Sys2Proof/Machine/Lamp.lean ====
section
/-!
DEFINITION. Lantern configuration images and the lamps that run them (spec 20_lanterns.md, R360 to R369): the check of
an image, the stages, the granule of a plain stream and the unit of a converting one.
-/

namespace Sys2Proof.Machine

/-! ### Image fields (Tables 20.1 to 20.3) -/

/-- `n` bytes of an image at an offset, as a number. -/
def imgField (img : List Byte) (o n : Nat) : Nat := leNat ((img.drop o).take n)
/-- How many bytes an image has (R360). -/
def lampImageBytes : Nat := 3008

/-- An image's header. -/
structure LHead where
  magic : Nat
  dir : Nat
  nst : Nat
  efmt : Nat
  mfmt : Nat
  merge : Nat
  eu : Nat
  mu : Nat
  side : Nat
  sword : Nat
  soff : Int
  id : Nat
  deriving DecidableEq, Repr

/-- The header of a shipped image (Table 20.5); the side word of 0x101 is named word 127. -/
def shippedHead (i : Nat) : LHead :=
  match i with
  | 0x101 => ⟨0x31544E4C, 2, 6, 3, 0, 0, 512, 128, 1, 127, 128, i⟩
  | 0x102 => ⟨0x31544E4C, 2, 6, 3, 1, 0, 128, 20, 0, 0, 0, i⟩
  | 0x103 => ⟨0x31544E4C, 1, 1, 3, 3, 1, 512, 512, 0, 0, 0, i⟩
  | _ => ⟨0x31544E4C, 2, 1, 3, 3, 1, 512, 512, 0, 0, 0, i⟩
/-- Put bytes in a list at an offset. -/
def splice (l : List Byte) (o : Nat) (bs : List Byte) : List Byte := l.take o ++ bs ++ l.drop (o + bs.length)
/-- A shipped image (R372): the header bytes that Table 20.5 fixes (magic, dir, fmts, merge, eu, mu, side, the reserved
ones, soff and id); nst and sword, the stages and the lookup table are the configuration's. -/
def shippedImage (i : Nat) : List Byte :=
  let h := shippedHead i
  let raw := (Config.shippedImage i ++ List.replicate lampImageBytes 0).take lampImageBytes
  let fixed := natLe h.magic 4 ++ natLe h.dir 1
  let shape := natLe (h.efmt + 16 * h.mfmt) 1 ++ natLe h.merge 1 ++ natLe h.eu 2 ++ natLe h.mu 2 ++ natLe h.side 1
  splice (splice (splice raw 0 fixed) 6 shape) 14 (natLe 0 2 ++ natLe h.soff.toNat 8 ++ natLe h.id 4 ++ natLe 0 36)
/-- The shipped image that an image is, if any: the one of its identifier (R372). -/
def shippedId (img : List Byte) : Option Nat :=
  let i := imgField img 24 4
  if i ∈ [0x101, 0x102, 0x103, 0x104] ∧ img = shippedImage i then some i else none
/-- Decode a header (Table 20.2). -/
def parseHead (img : List Byte) : LHead :=
  let b := fun o => imgField img o 1
  { magic := imgField img 0 4, dir := b 4, nst := b 5, efmt := b 6 % 16, mfmt := b 6 / 16, merge := b 7
    eu := imgField img 8 2, mu := imgField img 10 2, side := b 12, sword := b 13
    soff := (BitVec.ofNat 64 (imgField img 16 8)).toInt, id := imgField img 24 4 }

/-- The header of an image: the table's of a shipped one, otherwise its own. -/
def lheadOf (img : List Byte) : LHead :=
  match shippedId img with
  | some i => shippedHead i
  | none => parseHead img

/-- The header of the identity stream (R359). -/
def identityHead : LHead := ⟨0, 3, 1, 3, 3, 0, 512, 512, 0, 0, 0, 0⟩
/-- The stream converts (R367). -/
def LHead.conv (h : LHead) : Bool := decide (h.efmt ≠ h.mfmt)
/-- It applies to a direction (Table 20.2). -/
def LHead.applies (h : LHead) (write : Bool) : Bool := decide (bits h.dir (if write then 1 else 0) 1 = 1)

/-- A lamp word (Table 20.3). -/
structure LampW where
  op : Nat
  fmt : Nat
  ofmt : Nat
  bk : Bool
  sat : Bool
  prm : Nat
  k0 : Nat
  k1 : Nat
  rsv : Bool
  deriving DecidableEq, Repr

/-- Lamp `l` of stage `s`. -/
def lampAt (img : List Byte) (s l : Nat) : LampW :=
  let w0 := imgField img (64 + 16 * (4 * s + l)) 8
  let w1 := imgField img (72 + 16 * (4 * s + l)) 8
  { op := bits w0 0 6, fmt := bits w0 8 4, ofmt := bits w0 12 4, bk := decide (bits w0 16 1 = 1)
    sat := decide (bits w0 17 1 = 1), prm := bits w0 24 8, k0 := bits w0 32 32, k1 := bits w1 0 32
    rsv := decide (bits w0 6 2 ≠ 0 ∨ bits w0 18 6 ≠ 0 ∨ bits w1 32 32 ≠ 0) }
/-- Crossbar bytes of a stage: inputs a and b of lane `i`. -/
def xbarA (img : List Byte) (s i : Nat) : Nat := imgField img (448 + 256 * s + 2 * i) 1
def xbarB (img : List Byte) (s i : Nat) : Nat := imgField img (449 + 256 * s + 2 * i) 1
/-- The lookup table. -/
def lutAt (img : List Byte) (t : Nat) : Nat := imgField img (1984 + 4 * t) 4

/-! ### The check of an image (R365) -/

/-- Sub-elements per lane of a lamp format (R362); 0 for another format. -/
def subCount (f : Nat) : Nat :=
  match f with
  | 3 | 7 => 1
  | 2 => 2
  | 0 => 4
  | 1 => 8
  | _ => 0
/-- The element size of Table 2.1, 0 for a reserved code. -/
def elemSize (f : Nat) : Nat :=
  match f with
  | 0 | 5 => 1
  | 1 => 20
  | 2 | 6 => 2
  | 3 | 7 => 4
  | 4 | 8 | 9 => 8
  | _ => 0

/-- A lamp in a used stage keeps Tables 20.3 and 20.4. -/
def LampW.ok (l : LampW) : Bool :=
  let a := subCount l.fmt
  let b := subCount l.ofmt
  !l.rsv && decide (l.op ≤ 0x16) && decide (a ≠ 0 ∧ b ≠ 0) &&
    (decide (l.op ≠ 9) || (decide (l.fmt = 3) && decide (l.ofmt = 0 ∨ l.ofmt = 1))) &&
    (decide (l.op ≠ 10) || decide (l.fmt = 3)) &&
    (decide (l.op < 0x0D ∨ 0x0F < l.op) || decide (l.fmt = 7)) &&
    (decide (l.op ≠ 8) || decide (a ≤ b) || decide (l.prm % 8 < a / b))

/-- The lamps of the used stages. -/
def usedLamps (img : List Byte) : List LampW :=
  ((List.range (min (lheadOf img).nst 6)).map (fun s => (List.range 4).map (lampAt img s))).flatten

/-- A reserved format code in an image (R18, R365): cause 0x62. -/
def imageReserved (img : List Byte) : Bool :=
  let h := lheadOf img
  decide (10 ≤ h.efmt ∨ 10 ≤ h.mfmt) || (usedLamps img).any (fun l => decide (10 ≤ l.fmt ∨ 10 ≤ l.ofmt))

/-- The header's own conditions. -/
def headOk (img : List Byte) : Bool :=
  let h := lheadOf img
  let e := elemSize h.mfmt
  decide (h.magic = 0x31544E4C) && decide (1 ≤ h.dir ∧ h.dir ≤ 3) && decide (1 ≤ h.nst ∧ h.nst ≤ 6) && decide (h.merge ≤ 2) &&
    decide (4 ≤ h.eu ∧ h.eu ≤ 512 ∧ h.eu % 4 = 0) && decide (4 ≤ h.mu ∧ h.mu ≤ 512 ∧ h.mu % 4 = 0) &&
    decide (h.side ≤ 1) && decide (h.sword ≤ 127) && decide (imgField img 14 2 = 0) && decide (imgField img 28 36 = 0) &&
    decide (subCount h.efmt ≠ 0 ∧ subCount h.mfmt ≠ 0) &&
    (h.conv || decide (h.eu = 512 ∧ h.mu = 512)) &&
    (decide (h.dir ≠ 3) || (!h.conv && decide (h.eu = h.mu))) &&
    (!h.conv || (decide (h.mu % e = 0) && decide (h.eu % (h.mu / e) = 0))) &&
    (decide (h.merge = 0) || (!h.conv && decide (h.efmt = (if h.merge = 1 then 3 else 7)))) &&
    (decide (h.side = 0) || (decide (h.dir = 2) && h.conv)) && decide (h.soff % 4 = 0) && decide (h.soff.natAbs < 2 ^ 40)

/-- Stages at or beyond nst are zero; crossbar bytes of used stages name a word or zero. -/
def stagesOk (img : List Byte) : Bool :=
  let n := (lheadOf img).nst
  (List.range 6).all (fun s =>
    if s < n then (List.range 256).all (fun i => let x := imgField img (448 + 256 * s + i) 1; decide (x < 128 ∨ x = 255))
    else decide (imgField img (64 + 64 * s) 64 = 0) && decide (imgField img (448 + 256 * s) 256 = 0))

/-- The cause that an image raises (R365); a shipped one raises none. -/
def imageCause (img : List Byte) : Option Cause :=
  if (shippedId img).isSome then none
  else if imageReserved img then some 0x62
  else if headOk img && (usedLamps img).all LampW.ok && stagesOk img then none
  else some 0x86

/-! ### Lamps (R362 to R364) -/

/-- The floating format of a lamp format other than INT32. -/
def lampFmt (f : Nat) : FFmt :=
  match f with
  | 3 => fp32
  | 2 => bf16
  | 0 => fp8
  | _ => fp4
/-- The sub-elements of a lane word. -/
def subsOf (f w : Nat) : List Nat :=
  let n := subCount f
  (List.range n).map (fun j => bits w (32 / n * j) (32 / n))
/-- A lane word from its sub-elements. -/
def packSubs (f : Nat) (l : List Nat) : Nat := joinLanes (32 / subCount f) l

/-- An INT32 result, wrapped or clamped. -/
def lampInt (sat : Bool) (z : Int) : Nat :=
  wrapTo 32 (if sat then (if z < -(2 ^ 31) then -(2 ^ 31) else if 2 ^ 31 - 1 < z then 2 ^ 31 - 1 else z) else z)
/-- The condition of cmp on an ordering: 0 eq, 1 ne, 2 lt, 3 ge. -/
def lampCond (c : Nat) (lt eq : Bool) : Bool :=
  match c with
  | 0 => eq
  | 1 => !eq
  | 2 => lt
  | _ => !lt

/-- An operation on the sub-elements of an INT32 lane. -/
def lampIntOp (l : LampW) (x y : Nat) : Nat :=
  let a := laneInt 32 x
  let b := laneInt 32 y
  match l.op with
  | 1 => lampInt l.sat (a + b)
  | 2 => lampInt l.sat (a - b)
  | 3 => lampInt l.sat (a * b)
  | 4 => lampInt false (a * b + laneInt 32 l.k1)
  | 5 => lampInt false (min a b)
  | 6 => lampInt false (max a b)
  | 7 => lampInt false a.natAbs
  | _ => if lampCond (l.prm % 4) (decide (a < b)) (decide (a = b)) then 2 ^ 32 - 1 else 0

/-- An operation on floating sub-elements; `z` is k1's sub-element. -/
def lampFloatOp (l : LampW) (x y z : Nat) : Nat :=
  let f := lampFmt l.fmt
  match l.op with
  | 1 => (f.add .rne x y).1
  | 2 => (f.sub .rne x y).1
  | 3 => (f.mul .rne x y).1
  | 4 => (f.fma .rne z x y).1
  | 5 => f.min x y
  | 6 => f.max x y
  | 7 => f.absBits x
  | _ =>
    let a := f.decode x
    let b := f.decode y
    let hit := if a.isNan || b.isNan then decide (l.prm % 4 = 1) else lampCond (l.prm % 4) (a.lt b) (a.eqv b)
    if hit then 2 ^ f.width - 1 else 0

/-- A lane of an operation by sub-elements. -/
def lampLane (l : LampW) (a b : Nat) : Nat :=
  if l.fmt = 7 then lampIntOp l a b
  else
    packSubs l.fmt ((List.zip (subsOf l.fmt a) (List.zip (subsOf l.fmt b) (subsOf l.fmt l.k1))).map
      (fun p => lampFloatOp l p.1 p.2.1 p.2.2))

/-- A sub-element's value. -/
def lampVal (f x : Nat) : FV := if f = 7 then FV.ofInt (laneInt 32 x) else (lampFmt f).decode x
/-- A value rounded to a lamp format. -/
def lampRound (f : Nat) (v : FV) : Nat :=
  if f = 7 then wrapTo 32 (v.toInt .rne (-(2 ^ 31)) (2 ^ 31 - 1)).1 else ((lampFmt f).round .rne v).1

/-- cvt and qnt over a lamp's lanes as one sequence (R364); none when a scale is invalid (R28). -/
def lampCvt (l : LampW) (a b : List Nat) : Option (List Nat) :=
  let ni := subCount l.fmt
  let no := subCount l.ofmt
  let xs := (a.map (subsOf l.fmt)).flatten
  let first := if no < ni then 32 * no * (l.prm % 8) else 0
  let used := (xs.drop first).take (32 * min ni no)
  if l.op = 9 ∧ !b.all scaleValid then none
  else
    let vs := used.zipIdx.map (fun p =>
      let v := lampVal l.fmt p.1
      lampRound l.ofmt (if l.op = 9 then (v.div (fp32.decode (b.getD p.2 0))).1 else v))
    let full := vs ++ List.replicate (32 * no - vs.length) 0
    some ((chunks no 32 full).map (packSubs l.ofmt))

/-- smul (Table 20.4): none for an invalid scale or a product out of range. -/
def lampSmul (a b : Nat) : Option Nat :=
  let r := rneMul32 a b
  if scaleValid a && scaleValid b && !combinedBad r then some r else none

/-- Reductions over a lamp (Table 20.4). -/
def lampReduce (l : LampW) (a : List Nat) : List Nat :=
  let xs := (a.map (subsOf l.fmt)).flatten
  let r :=
    if l.fmt = 7 then
      let f := fun (p q : Nat) =>
        match l.op with
        | 0x14 => (p + q) % 2 ^ 32
        | 0x15 => if laneInt 32 p < laneInt 32 q then q else p
        | _ => if laneInt 32 q < laneInt 32 p then q else p
      (treeFold f 8 xs).headD 0
    else
      let f := fun (p q : Nat) =>
        match l.op with
        | 0x14 => rneAdd32 p q
        | 0x15 => fp32.max p q
        | _ => fp32.min p q
      (treeFold f 8 (xs.map (fun x => (fp32.round .rne ((lampFmt l.fmt).decode x)).1))).headD 0
  r :: List.replicate 31 0

/-- One lamp on its 32 lanes (Table 20.4); none fails the request (R370). -/
def runLamp (img : List Byte) (l : LampW) (a b : List Nat) : Option (List Nat) :=
  let pairs := List.zip a b
  match l.op with
  | 0 => some a
  | 8 | 9 => lampCvt l a b
  | 0x0A => pairs.mapM (fun p => lampSmul p.1 p.2)
  | 0x0C => some (pairs.map (fun p => if p.1 ≠ 0 then p.2 else l.k1))
  | 0x0D => some (a.map (fun x => x * 2 ^ (l.prm % 32) % 2 ^ 32))
  | 0x0E => some (a.map (fun x => x / 2 ^ (l.prm % 32)))
  | 0x0F => some (a.map (fun x => wrapTo 32 (laneInt 32 x / 2 ^ (l.prm % 32))))
  | 0x10 => some (pairs.map (fun p => p.1 &&& p.2))
  | 0x11 => some (pairs.map (fun p => p.1 ||| p.2))
  | 0x12 => some (pairs.map (fun p => p.1 ^^^ p.2))
  | 0x13 => some (a.map (fun x => lutAt img (bits x (8 * (l.prm % 4)) 8)))
  | 0x14 | 0x15 | 0x16 => some (lampReduce l a)
  | _ => some (pairs.map (fun p => lampLane l p.1 p.2))

/-- One stage (R364): crossbar, then four lamps. -/
def runStage (img : List Byte) (s : Nat) (x : List Nat) : Option (List Nat) :=
  let pick := fun (b : Nat) => if b = 255 then 0 else x.getD b 0
  let ls := (List.range 4).map (fun l =>
    let w := lampAt img s l
    let a := (List.range 32).map (fun i => pick (xbarA img s (32 * l + i)))
    let b := (List.range 32).map (fun i => if w.bk then w.k0 else pick (xbarB img s (32 * l + i)))
    runLamp img w a b)
  (ls.mapM id).map List.flatten
/-- Stages `s` to `s + n − 1`. -/
def runStages (img : List Byte) : Nat → Nat → List Nat → Option (List Nat)
  | _, 0, x => some x
  | s, n + 1, x => (runStage img s x).bind (runStages img (s + 1) n)

/-- Bytes as 128 words, zero beyond their length. -/
def unitWords (bs : List Byte) : List Nat := (List.range 128).map (fun i => leNat ((bs.drop (4 * i)).take 4))
/-- The scale of a quantising unit (R372): the largest magnitude times a constant, with 0 replaced by 1.0. -/
def shippedScale (xs : List Nat) (k : Nat) : Nat :=
  let s := rneMul32 (xs.foldl (fun m x => max m (x % 2 ^ 31)) 0) k
  if s = 0 then 0x3F800000 else s
/-- The quantised elements of a unit, and its scale; none for a NaN or an infinity (R372). -/
def shippedQuant (f : FFmt) (k : Nat) (xs : List Nat) : Option (List Nat × Nat) :=
  if xs.any (fun x => decide (bits x 23 8 = 255)) then none
  else
    let s := shippedScale xs k
    some (xs.map (fun x => (f.round .rne ((fp32.decode x).div (fp32.decode s)).1).1), s)
/-- A shipped stream run on a unit (Table 20.5): bytes of FP8 with the scale as word 127; a block of FP4, its scale word
first (R23); identity lanes. -/
def shippedRun (i : Nat) (ws : List Nat) : Option (List Nat) :=
  match i with
  | 0x101 => (shippedQuant fp8 0x3B124925 ws).map (fun r => chunks 4 32 r.1 |>.map (joinLanes 8) |> (· ++ List.replicate 95 0 ++ [r.2]))
  | 0x102 => (shippedQuant fp4 0x3E2AAAAB (ws.take 32)).map (fun r => r.2 :: (chunks 8 4 r.1).map (joinLanes 4))
  | _ => some ws
/-- A stream run on a unit of bytes: the output words; none fails the request. -/
def runStream (img : List Byte) (bs : List Byte) : Option (List Nat) :=
  match shippedId img with
  | some i => shippedRun i (unitWords bs)
  | none => runStages img 0 (lheadOf img).nst (unitWords bs)
/-- Words as bytes. -/
def wordBytes (ws : List Nat) : List Byte := (ws.map (fun w => natLe w 4)).flatten

end Sys2Proof.Machine
end

