-- ==== Sys2Proof/Machine/EngOps.lean ====
section
/-!
DEFINITION. Engine operations (spec 09_copies.md, R179 to R191, R206; 13_links.md, R284 to R287; 20_lanterns.md, R366
to R370): the fields of a tile command word and its blocks, the elements an operation moves and the ranges it may
touch, failing and ending an operation, and one request of it.
-/

namespace Sys2Proof.Machine

/-! ### Fields (Tables 3.7, 9.1 to 9.4, 13.4, 13.5, 16.7) -/

/-- `n` bits of an operation's command word. -/
def EngOp.f (o : EngOp) (lo n : Nat) : Nat := bits o.tcw.toNat lo n
def EngOp.cmd (o : EngOp) : Nat := o.f 0 8
def EngOp.strm (o : EngOp) : Nat := o.f 8 4
def EngOp.scope (o : EngOp) : Nat := o.f 12 4
def EngOp.fmt (o : EngOp) : Nat := o.f 16 4
def EngOp.vg (o : EngOp) : Bool := decide (o.f 20 1 = 1)
def EngOp.vaddr (o : EngOp) : Nat := o.f 205 51
def EngOp.saddr (o : EngOp) : Nat := o.f 91 57
/-- The destination: the tile slot of a ring push, else daddr. -/
def EngOp.daddr (o : EngOp) : Nat := match o.push with | some p => p.addr | none => o.f 148 57
def EngOp.doff (o : EngOp) : Nat := o.f 81 10
def EngOp.dims (o : EngOp) : Nat := o.f 79 2
def EngOp.ringBit (o : EngOp) : Bool := decide (o.f 78 1 = 1)
def EngOp.rk (o : EngOp) : Nat := o.f 75 3
def EngOp.nopad (o : EngOp) : Bool := decide (o.f 74 1 = 1)
def EngOp.dir (o : EngOp) : Nat := o.f 73 1
def EngOp.lev (o : EngOp) : Nat := o.f 71 2
def EngOp.ioff (o : EngOp) : Nat := o.f 57 14
/-- The length of a fabric send or a multicast. -/
def EngOp.len32 (o : EngOp) : Nat := o.f 59 32
/-- The I/O die of a fabric send, and whether it uses the static channel. -/
def EngOp.iod (o : EngOp) : Nat := o.f 57 2
def EngOp.stc (o : EngOp) : Bool := decide (o.f 56 1 = 1)
def EngOp.mcix (o : EngOp) : Nat := o.f 53 6
def EngOp.roff (o : EngOp) : Nat := o.f 40 13
/-- The fields of a halo command. -/
def EngOp.hcount (o : EngOp) : Nat := o.f 128 20
def EngOp.hlist (o : EngOp) : Nat := o.f 114 14
def EngOp.hreg (o : EngOp) : Nat := o.f 111 3

/-- A signed 32-bit field. -/
def sext32 (v : Nat) : Int := (BitVec.ofNat 32 v).toInt
/-- Word `i` of the dimension block. -/
def EngOp.b32 (o : EngOp) (i : Nat) : Nat := bits o.blk.toNat (32 * i) 32
/-- The extent of dimension `d`: 1 beyond the used ones (R180). -/
def EngOp.ext (o : EngOp) (d : Nat) : Nat := if d ≤ o.dims then o.b32 d else 1
def EngOp.ss (o : EngOp) (d : Nat) : Int := sext32 (o.b32 (4 + d))
def EngOp.ds (o : EngOp) (d : Nat) : Int := sext32 (o.b32 (8 + d))
def EngOp.bound (o : EngOp) : Nat := o.b32 12
def EngOp.padlo (o : EngOp) (d : Nat) : Nat := bits o.blk.toNat (384 + 8 * d) 8
def EngOp.padhi (o : EngOp) (d : Nat) : Nat := bits o.blk.toNat (416 + 8 * d) 8
def EngOp.val (o : EngOp) : Nat := bits o.blk.toNat 448 64
/-- tr_l and tc_l for l = 1 to 3 (Table 9.4). -/
def EngOp.tr (o : EngOp) (l : Nat) : Nat := bits o.blk.toNat (384 + 32 * (l - 1)) 16
def EngOp.tc (o : EngOp) (l : Nat) : Nat := bits o.blk.toNat (400 + 32 * (l - 1)) 16
/-- The element size (R181). -/
def EngOp.e (o : EngOp) : Nat := elemSize o.fmt

/-- The header of the bound stream. -/
def EngOp.head (o : EngOp) : LHead := match o.image with | some i => lheadOf i | none => identityHead
/-- A converting stream (R367). -/
def EngOp.conv (o : EngOp) : Bool := decide (o.eq = 0) && o.head.conv

/-! ### Elements (R182 to R186) -/

/-- The extent of a dimension of the linear index: padded for a padded copy (R185). -/
def EngOp.lext (o : EngOp) (d : Nat) : Nat := if o.cmd = 5 then o.padlo d + o.ext d + o.padhi d else o.ext d
/-- Coordinate `d` of a linear index, dimension 0 fastest. -/
def EngOp.coord (o : EngOp) (l d : Nat) : Nat :=
  match d with
  | 0 => l % o.lext 0
  | 1 => l / o.lext 0 % o.lext 1
  | 2 => l / (o.lext 0 * o.lext 1) % o.lext 2
  | _ => l / (o.lext 0 * o.lext 1 * o.lext 2)
/-- How many elements the linear index runs over. -/
def EngOp.elements (o : EngOp) : Nat := o.lext 0 * o.lext 1 * o.lext 2 * o.lext 3

/-- An element's address: the base and e times the strides' sum. -/
def strideAddr (base e : Nat) (i : Nat → Int) (st : Nat → Int) : Nat :=
  ((base : Int) + (e : Int) * (i 0 * st 0 + i 1 * st 1 + i 2 * st 2 + i 3 * st 3)).toNat

/-- The pattern of fill and padding for an element (R184). -/
def EngOp.pattern (o : EngOp) : List Byte :=
  if o.fmt = 1 then natLe o.val 4 ++ List.replicate 16 (BitVec.ofNat 8 (o.val / 2 ^ 32)) else natLe o.val o.e

/-- The offset, in elements, of an element in a blocked layout of levels `m` down to 1 (R186): `r` and `c` are the tile
extents one level up. -/
def blockedOff (tr tc : Nat → Nat) : Nat → Nat → Nat → Nat → Nat
  | 0, cols, x, y => x * cols + y
  | l + 1, cols, x, y =>
    ((x / tr (l + 1)) * (cols / tc (l + 1)) + y / tc (l + 1)) * tr (l + 1) * tc (l + 1) +
      blockedOff tr tc l (tc (l + 1)) (x % tr (l + 1)) (y % tc (l + 1))

/-- What one linear index moves: from an address or a pattern, to an address if any; and whether its index is out of
bounds. -/
structure Elem where
  src : Option Nat
  pat : List Byte
  dst : Option Nat
  oob : Bool

/-- The element of a linear index; `idx` reads the index list. -/
def EngOp.elem (o : EngOp) (idx : Nat → Nat) (l : Nat) : Elem :=
  let i := fun d => (o.coord l d : Int)
  let e := o.e
  let s := strideAddr o.saddr e i o.ss
  let d := strideAddr o.daddr e i o.ds
  match o.cmd with
  | 2 =>
    let k := idx (o.coord l 1)
    if k < o.bound then ⟨some (strideAddr o.saddr e (fun n => if n = 1 then (k : Int) else i n) o.ss), [], some d, false⟩
    else ⟨none, List.replicate e 0, some d, true⟩
  | 3 =>
    let k := idx (o.coord l 1)
    if k < o.bound then ⟨some s, [], some (strideAddr o.daddr e (fun n => if n = 1 then (k : Int) else i n) o.ds), false⟩
    else ⟨none, [], none, true⟩
  | 4 => ⟨none, o.pattern, some d, false⟩
  | 5 =>
    let inside := (List.range 4).all (fun n => decide (o.padlo n ≤ o.coord l n ∧ o.coord l n < o.padlo n + o.ext n))
    if inside then ⟨some (strideAddr o.saddr e (fun n => i n - (o.padlo n : Int)) o.ss), [], some d, false⟩
    else if o.nopad then ⟨none, [], none, false⟩
    else ⟨none, o.pattern, some d, false⟩
  | 6 =>
    let off := blockedOff o.tr o.tc o.lev (o.ext 0) (l / o.ext 0) (l % o.ext 0)
    if o.dir = 0 then ⟨some s, [], some (o.daddr + e * off), false⟩
    else ⟨some (o.saddr + e * off), [], some d, false⟩
  | _ => ⟨some s, [], some d, false⟩

/-! ### Units of a converting stream (R367, R368) -/

/-- Memory elements per unit, and engine-side bytes per element. -/
def EngOp.unitP (o : EngOp) : Nat := o.head.mu / o.e
def EngOp.unitQ (o : EngOp) : Nat := o.head.eu / o.unitP
/-- Destination bytes of a unit, its side word included. -/
def EngOp.unitBytes (o : EngOp) : Nat :=
  if o.head.dir = 2 then o.head.mu + (if o.head.side = 1 then 4 else 0) else o.head.eu
/-- The memory-side and engine-side addresses of unit `u`: unit numbers run along dimension 0 first. -/
def EngOp.unitAt (o : EngOp) (u : Nat) : Nat × Nat :=
  let n0 := o.ext 0 / o.unitP
  let l := u % n0 * o.unitP + u / n0 * o.ext 0
  let i := fun d => (o.coord l d : Int)
  if o.head.dir = 2 then (strideAddr o.daddr o.e i o.ds, strideAddr o.saddr o.unitQ i o.ss)
  else (strideAddr o.saddr o.e i o.ss, strideAddr o.daddr o.unitQ i o.ds)

/-- Units, elements or 512-byte chunks of an operation. -/
def EngOp.count (o : EngOp) : Nat :=
  if o.eq = 2 ∨ o.eq = 6 then (o.len32 + 511) / 512
  else if o.eq = 5 then o.hcount
  else if o.eq ≠ 0 then 1
  else if o.cmd = 7 then 1
  else if o.conv then o.elements / o.unitP
  else o.elements
/-- The destination bytes of a whole copy-engine operation. -/
def EngOp.destBytes (o : EngOp) : Nat :=
  if o.conv then o.elements / o.unitP * o.unitBytes
  else if o.cmd = 5 ∧ o.nopad then o.ext 0 * o.ext 1 * o.ext 2 * o.ext 3 * o.e
  else o.elements * o.e

/-! ### Ranges (R191, R368) -/

/-- The hull of the addresses of a strided side. -/
def hullOf (base : Int) (e : Nat) (n : Nat → Nat) (st : Nat → Int) : Int × Int :=
  let t := fun d => ((n d : Int) - 1) * st d
  (base + (e : Int) * ((List.range 4).map (fun d => min 0 (t d))).sum,
   base + (e : Int) * ((List.range 4).map (fun d => max 0 (t d))).sum + (e : Int) - 1)

/-- A range: first and last byte, and whether it is a destination. -/
abbrev Range := Int × Int × Bool
def srcRange (h : Int × Int) : Range := (h.1, h.2, false)
def dstRange (h : Int × Int) : Range := (h.1, h.2, true)
/-- The near-window address of an offset in the issuing core's local memory (R149). -/
def localVa : Nat := 0x01FFFFFF80000000

/-- The destination hull of a copy-engine operation, none when it registers none. -/
def EngOp.destHull (o : EngOp) : Option (Int × Int) :=
  let h := hullOf o.daddr o.e o.ext o.ds
  if o.conv then
    some (if o.head.dir = 2 then h else hullOf o.daddr o.unitQ o.ext o.ds)
  else
    match o.cmd with
    | 3 => if o.bound = 0 then none else some (hullOf o.daddr o.e (fun d => if d = 1 then o.bound else o.ext d) o.ds)
    | 5 =>
      if o.nopad then
        some (hullOf ((o.daddr : Int) + (o.e : Int) * ((List.range 4).map (fun d => (o.padlo d : Int) * o.ds d)).sum) o.e o.ext o.ds)
      else some (hullOf o.daddr o.e o.lext o.ds)
    | 6 => if o.dir = 0 then some ((o.daddr : Int), (o.daddr : Int) + (o.elements * o.e : Nat) - 1) else some h
    | _ => some h
/-- The source ranges of a copy-engine operation: the index list among them. -/
def EngOp.srcRanges (o : EngOp) : List Range :=
  let h := hullOf o.saddr o.e o.ext o.ss
  let list : Range := ((localVa + 4 * o.ioff : Nat), (localVa + 4 * o.ioff + 4 * o.ext 1 : Nat) - 1, false)
  if o.conv then [srcRange (if o.head.dir = 2 then hullOf o.saddr o.unitQ o.ext o.ss else h)]
  else
    match o.cmd with
    | 2 =>
      list :: (if o.bound = 0 then []
        else [srcRange (hullOf o.saddr o.e (fun d => if d = 1 then o.bound else o.ext d) o.ss)])
    | 3 => [list, srcRange h]
    | 4 => []
    | 6 => if o.dir = 0 then [srcRange h] else [((o.saddr : Int), (o.saddr : Int) + (o.elements * o.e : Nat) - 1, false)]
    | _ => [srcRange h]
/-- The side words' range of a converting stream (R368). -/
def EngOp.sideRanges (o : EngOp) : List Range :=
  if o.conv ∧ o.head.side = 1 then
    match o.destHull with
    | some h => [(h.1 + o.head.soff, h.2 + o.head.soff + 3, true)]
    | none => []
  else []

/-! ### Tile rings (R154, R188) -/

/-- A ring descriptor (Table 8.3). -/
structure Ring where
  depth : Nat
  size : Nat
  base : Nat
  tail : Nat
  head : Nat
  deriving DecidableEq, Repr

/-- The local-memory offset of a slot's ring descriptor. -/
def ringOff (slot k : Nat) : Nat := 0x100 + 0x80 * (slot % 8) + 16 * k
/-- Read a ring descriptor. -/
def State.ring (s : State) (slot k : Nat) : Ring :=
  let a := s.localN (coreOf slot) (ringOff slot k) 8
  let b := s.localN (coreOf slot) (ringOff slot k + 8) 8
  { depth := bits a 48 8, size := bits a 32 16, base := bits a 0 32, tail := bits b 16 16, head := bits b 0 16 }
/-- Tiles in a ring. -/
def Ring.occupancy (r : Ring) : Nat := (r.head + 2 ^ 16 - r.tail) % 2 ^ 16
/-- The scratchpad offset of tile slot `j` counted from a counter. The base is taken as it stands: Table 8.3 asks for a
multiple of 64 and names no consequence of another one, so that a tile of FP4 blocks may lie misaligned, with no cause 0x20
(DESIGN CHOICE, notes/assumptions 109). -/
def Ring.tileOff (r : Ring) (j : Nat) : Nat := r.base + j % r.depth * r.size * 64
/-- Write the head or the tail, as the hardware does. -/
def State.setRingHead (s : State) (slot k v : Nat) : State :=
  let a := ringOff slot k + 8
  s.setLocalN (coreOf slot) a 8 (setBits (s.localN (coreOf slot) a 8) 0 16 v)
def State.setRingTail (s : State) (slot k v : Nat) : State :=
  let a := ringOff slot k + 8
  s.setLocalN (coreOf slot) a 8 (setBits (s.localN (coreOf slot) a 8) 16 16 v)
/-- The address of a ring descriptor's word 1, of head and tail. -/
def ringWord (slot k : Nat) : Nat := localPa (coreOf slot) (ringOff slot k + 8)
/-- A push or a pop has written it: a release at clus scope (R188, R351). -/
def State.ringWritten (s : State) (slot k : Nat) (nums : List Nat) : State := s.releasedAt slot 2 (ringWord slot k) nums

/-! ### Operations in the cluster -/

/-- Every operation queued or in flight. -/
def Cluster.allOps (c : Cluster) : List EngOp := (c.rings.map Prod.snd).flatten ++ c.ops
/-- Change an operation wherever it stands. -/
def Cluster.mapOps (c : Cluster) (f : EngOp → EngOp) : Cluster :=
  { c with ops := c.ops.map f, rings := Tab.mapVals (fun _ l => l.map f) c.rings }
def Cluster.onOp (c : Cluster) (id : Nat) (f : EngOp → EngOp) : Cluster :=
  c.mapOps (fun o => if o.id = id then f o else o)
/-- An operation in flight by its number. -/
def Cluster.op (c : Cluster) (id : Nat) : Option EngOp := c.ops.find? (fun o => decide (o.id = id))
def State.onOp (s : State) (ck id : Nat) (f : EngOp → EngOp) : State := s.onCluster ck (fun c => c.onOp id f)

/-- The event that carries an operation's command on (R179, R284, R286, R326, R377, R398). -/
def EngOp.event (o : EngOp) (ck : Nat) : Event :=
  match o.eq, o.cmd with
  | 0, 1 => .copy ck o.id
  | 0, 2 => .gather ck o.id
  | 0, 3 => .scatter ck o.id
  | 0, 4 => .fill ck o.id
  | 0, 5 => .paddedCopy ck o.id
  | 0, 6 => .blockedTransform ck o.id
  | 0, _ => .quantum ck o.id
  | 2, _ => .fabricSend ck o.id
  | 3, 1 => .lanternInstallCmd ck o.id
  | 3, 2 => .lanternDropCmd ck o.id
  | 3, _ => .lanternResetCmd ck o.id
  | 4, 1 => .taperLoadCmd ck o.id
  | 4, 2 => .taperGoCmd ck o.id
  | 4, _ => .taperHaltCmd ck o.id
  | 5, 1 => .haloPack ck o.id
  | 5, _ => .haloUnpack ck o.id
  | _, _ => .multicastStore ck o.id

/-- An operation that has performed everything, or has failed and performed the requests that it had sent, ends once its
acknowledgements are in (R189). -/
def EngOp.over (o : EngOp) : Bool :=
  !o.ended && decide (o.acks = 0) && decide ((if o.code.isSome then o.granted else o.total) ≤ o.next)
/-- Two pushes into one ring. -/
def EngOp.sameRing (o p : EngOp) : Bool :=
  match o.push, p.push with
  | some a, some b => decide (a.slot = b.slot ∧ a.ring = b.ring)
  | _, _ => false
/-- A matrix store's push into an operation's ring, queued before it, is still in flight. -/
def Core.mxBefore (k : Core) (o : EngOp) : Bool :=
  match o.push with
  | some p => k.mx.any (fun m => decide (m.slot = p.slot ∧ m.push = some p.ring ∧ m.lock < o.id))
  | none => false
/-- An earlier push into an operation's ring is still in flight: pushes complete in issue order (R188). -/
def State.pushBefore (s : State) (ck : Nat) (o : EngOp) : Bool :=
  (s.cluster ck).allOps.any (fun p => p.sameRing o && decide (p.id < o.id)) || (s.core (coreOf o.slot)).mxBefore o
/-- Let an operation that is over end: a multicast by its merged reply (R287), another by its completion. -/
def State.opEnd (s : State) (ck id : Nat) : State :=
  match (s.cluster ck).op id with
  | none => s
  | some o =>
    if o.over && !s.pushBefore ck o then
      (s.onOp ck id (fun o => { o with ended := true })).post
        (if o.eq = 6 ∧ o.code = none then .multicastReply ck id o.failed else .engineOpComplete ck id (o.code.getD 0))
    else s

/-- A push into a ring has completed: those behind it end when they can (R188). -/
def State.nextPushes (s : State) (ck slot ring : Nat) : State :=
  let mine := fun (o : EngOp) =>
    match o.push with | some p => decide (p.slot = slot ∧ p.ring = ring) | none => false
  (((s.cluster ck).ops.filter mine).map (fun o => o.id)).foldl (fun s i => s.opEnd ck i) s
/-- An operation that has failed sends no more: a copy engine's has sent what it was granted, another's chunks and
elements go one by one. -/
def EngOp.halt (o : EngOp) (code : Nat) : EngOp :=
  { o with code := some code, granted := if o.eq = 0 then o.granted else o.next }
/-- An operation fails with a token code: it sends no more, and later pushes into its ring fail with 0x19 (R188,
R189). -/
def State.failOp (s : State) (ck id code : Nat) : State :=
  match (s.cluster ck).op id with
  | none => s
  | some o =>
    if o.code.isSome then s
    else
      let later := fun (p : EngOp) => o.sameRing p && decide (o.id < p.id) && p.code.isNone
      let hit := ((s.cluster ck).allOps.filter later).map (fun p => p.id)
      let s1 := s.onCluster ck (fun c => c.mapOps (fun p =>
        if p.id = id then p.halt code else if hit.elem p.id then p.halt 0x19 else p))
      (id :: hit).foldl (fun s i => s.opEnd ck i) s1

/-! ### One access of an engine (R187, R257, R259) -/

/-- Why a request does not go on: a failure with its token code, a walk of a page, or a home or queue that is not
ready. -/
inductive EStop where
  | fail (code : Nat)
  | miss (page code : Nat)
  | stall
  deriving DecidableEq, Repr

/-- The bodies of requests. -/
abbrev EM := ExceptT EStop (StateM State)

def EM.state : EM State := do return (← get)
def EM.upd (f : State → State) : EM Unit := modify f

/-- A run of bytes at a home: addresses, bytes as the operation counts them, and whether the page is tolerant. -/
structure Piece where
  va : Nat
  pa : Nat
  n : Nat
  tol : Bool
  aper : Bool
  deriving DecidableEq, Repr

/-- The bytes of a piece at the home. -/
def Piece.width (p : Piece) : Nat := if p.tol then p.n / 2 else p.n

/-- Translate an address for an operation of a cluster's core (R187), with the leaf's aperture bit. A multicast's
destination does not depend on the device that its page names (R286). -/
def engXlate (ck : Nat) (o : EngOp) (va : Nat) (wr : Bool) : EM (Xlat × Bool) := do
  let bad := if wr then 0x11 else 0x10
  let s ← EM.state
  let a : Word := BitVec.ofNat 64 va
  if va / 2 ^ 57 ≠ 0 then throw (.fail bad)
  else if isNear a then return (⟨a, nearPa (ck * 16 + o.core) a, false, true⟩, false)
  else do
    let r := s.lookup ck none o.asid va
    set r.2
    match r.1 with
    | none =>
      let q := r.2.enqMiss ck o.asid va (if wr then 4 else 3) none none
      set q.1
      if q.2 then throw (.miss (va / 2 ^ 16) bad) else throw .stall
    | some e =>
      let t : Xlat := ⟨a, leafPa (devOfCluster ck) e.leaf va, e.leaf.getLsbD 8, false⟩
      match leafCheck r.2 (devOfCluster ck) (!o.sys) (if wr then .store else .load) e.leaf with
      | some c => if c = 0x48 ∧ o.eq = 6 ∧ wr then return (t, e.leaf.getLsbD 9) else throw (.fail bad)
      | none => return (t, e.leaf.getLsbD 9)

/-- The checks of an address at its home: peers, tolerant pages, targets (R9, R187). A home that bytes reach by way of
X0 (`peerOk`) is looked at where they arrive; another one must be ready. -/
def engTarget (ck : Nat) (o : EngOp) (t : Xlat) (wr peerOk : Bool) : EM Unit := do
  let s ← EM.state
  if bits t.pa 55 1 = 0 ∧ bits t.pa 49 6 ≠ devOfCluster ck ∧ !peerOk then throw (.fail 0x15)
  if t.tol ∧ o.fmt ≠ 3 then throw (.fail 0x16)
  match region t.pa with
  | .noSocket | .reserved => throw (.fail (if wr then 0x11 else 0x10))
  | _ =>
    if peerOk then pure ()
    else
      match s.home (dieOfCluster ck) t.pa with
      | .ok => pure ()
      | .held => throw .stall
      | .failed => throw (.fail 0x12)

/-- A run of bytes cut at a 64 KiB page boundary. -/
def cutPage (va n : Nat) : List (Nat × Nat) :=
  let k := 2 ^ 16 - va % 2 ^ 16
  if n ≤ k then [(va, n)] else [(va, k), (va + k, n - k)]

/-- Translate and check a run of bytes. -/
def pieceM (ck : Nat) (o : EngOp) (wr peerOk : Bool) (r : Nat × Nat) : EM Piece := do
  let t ← engXlate ck o r.1 wr
  engTarget ck o t.1 wr peerOk
  if t.1.tol ∧ r.1 % 4 + r.2 % 4 ≠ 0 then throw (.fail 0x16)
  return ⟨r.1, t.1.pa, r.2, t.1.tol, t.2⟩
def piecesM (ck : Nat) (o : EngOp) (wr peerOk : Bool) (va n : Nat) : EM (List Piece) := (cutPage va n).mapM (pieceM ck o wr peerOk)

/-- Bytes of FP32 words narrowed to the two bytes that a tolerant page holds, and widened again (R36). -/
def narrowWords : List Byte → List Byte
  | a :: b :: c :: d :: t => natLe (bfNarrow (leNat [a, b, c, d])) 2 ++ narrowWords t
  | _ => []
def widenWords : List Byte → List Byte
  | a :: b :: t => natLe (bfWiden (leNat [a, b])) 4 ++ widenWords t
  | _ => []

/-- A home's controller serves an engine's request. -/
def State.engServe (s : State) (pa : Nat) : State := s.serve pa true
/-- A Lantern counts a failed request (R376). -/
def State.lanternFail (s : State) (pa : Nat) : State :=
  match region pa with
  | .dram dev so off =>
    s.onMod dev (fun m => { m with lanterns := Tab.upd {} m.lanterns (lanternOf so off) (fun l => { l with failed := l.failed + 1 }) })
  | _ => s
/-- The home is a memory controller. -/
def isDram (pa : Nat) : Bool := match region pa with | .dram _ _ _ => true | _ => false

/-- The bytes of a piece at its home, as they stand there; an out-of-range piece reads zero and sets oob. -/
def State.pieceBytes (s : State) (p : Piece) : List Byte :=
  if (region p.pa).inRange then s.readList p.pa p.width else List.replicate p.width 0
/-- The first error of each granule of 512 bytes in a list of causes and addresses: a request goes to each Lantern. -/
def perGranule : List (Nat × Nat) → List (Nat × Nat)
  | [] => []
  | e :: t => e :: (perGranule t).filter (fun f => decide (f.2 / 512 ≠ e.2 / 512))
/-- The uncorrectable errors under `n` bytes. -/
def State.errorsUnder (s : State) (pa n : Nat) : List (Nat × Nat) :=
  (List.range n).filterMap (fun i => (s.readError (pa + i)).map (fun c => (c, pa + i)))
/-- The errors that requests for pieces meet. -/
def State.pieceErrors (s : State) (ps : List Piece) : List (Nat × Nat) :=
  perGranule ((ps.map (fun p => s.errorsUnder p.pa p.width)).flatten)
/-- The granules of the memory controllers under pieces. -/
def dramGranules (ps : List Piece) : List Nat :=
  (((ps.filter (fun p => isDram p.pa)).map (fun p =>
    (List.range ((p.pa + p.width + 511) / 512 - p.pa / 512)).map (fun i => p.pa / 512 + i))).flatten).eraseDups
/-- An engine's requests meet errors: each is counted by its Lantern, and logged at the slot that queued the operation
(R234, R376). -/
def State.failErrors (s : State) (slot : Nat) (l : List (Nat × Nat)) : State :=
  l.foldl (fun (s : State) e => (s.lanternFail e.2).logError slot e.1 e.2) s
/-- The same for reads, which the controllers take, with those of other granules. -/
def State.readErrors (s : State) (slot : Nat) (gs : List Nat) (l : List (Nat × Nat)) : State :=
  let good := gs.filter (fun g => !l.any (fun e => decide (e.2 / 512 = g)))
  (l.foldl (fun (s : State) e => s.serve e.2 false) (good.foldl (fun (s : State) g => s.engServe (512 * g)) s)).failErrors slot l
/-- Errors that reads meet fail the operation (R234). -/
def errorsE (slot : Nat) (gs : List Nat) (l : List (Nat × Nat)) : EM Unit :=
  if l = [] then pure ()
  else do
    EM.upd (fun s => s.readErrors slot gs l)
    throw (.fail 0x12)
/-- The rows of scratchpads under pieces are repaired as they are read or written (R152; notes/assumptions 79). -/
def State.repairPieces (s : State) (ps : List Piece) : State :=
  if s.syms = [] then s else ps.foldl (fun (s : State) p => if isDram p.pa then s else s.repairRows p.pa p.width) s

/-- The stream slot that an operation names still holds the installation it bound (R359). -/
def State.streamLive (s : State) (ck : Nat) (o : EngOp) : Bool :=
  o.image.isNone ||
    (let t := Tab.get {} (s.mod (devOfCluster ck)).streams o.strm
     decide (t.inst = o.inst) && t.image.isSome)
/-- A request reaches a memory controller: it is counted, and fails when its stream has gone (R359, R370). -/
def takenM (ck : Nat) (o : EngOp) (pa : Nat) : EM Unit := do
  EM.upd (fun s => s.engServe pa)
  if (← EM.state).streamLive ck o then pure ()
  else do
    EM.upd (fun s => s.lanternFail pa)
    throw (.fail 0x13)

/-- The distinct granules of a table of bytes by physical address (R366). -/
def granules (t : Tab Byte) : List Nat := (t.map (fun e => e.1 / 512)).eraseDups
/-- A granule's input bytes: those of the request, zero elsewhere. -/
def granuleIn (t : Tab Byte) (g : Nat) : List Byte := (List.range 512).map (fun i => Tab.get 0 t (512 * g + i))
/-- Pass a request's bytes through the stages, granule by granule (R366). -/
def stagePass (img : List Byte) (t : Tab Byte) : List Nat → Tab Byte → Option (Tab Byte)
  | [], out => some out
  | g :: gs, out =>
    match runStream img (granuleIn t g) with
    | none => none
    | some ws =>
      let bs := wordBytes ws
      stagePass img t gs ((t.filter (fun e => decide (e.1 / 512 = g))).foldl (fun o e => Tab.put e.1 (bs.getD (e.1 % 512) 0) o) out)

/-- A plain stream applied to a table of bytes in a direction; every controller counts its granule. -/
def streamM (ck : Nat) (o : EngOp) (wr : Bool) (t : Tab Byte) : EM (Tab Byte) := do
  (granules t).forM (fun g => takenM ck o (512 * g))
  match o.image with
  | none => return t
  | some img =>
    if o.head.conv || !o.head.applies wr then return t
    else
      match stagePass img t (granules t) [] with
      | some r => return r
      | none => do
        ((granules t).filter (fun g => (runStream img (granuleIn t g)).isNone)).forM (fun g =>
          EM.upd (fun s => s.lanternFail (512 * g)))
        throw (.fail 0x13)

/-- Put a list of bytes in a table. -/
def putBytes (t : Tab Byte) (a : Nat) : List Byte → Tab Byte
  | [] => t
  | b :: bs => putBytes (Tab.put a b t) (a + 1) bs

/-- Mark that an operation touched an address out of range (R187). -/
def oobOp (ck id : Nat) (ps : List Piece) : EM Unit :=
  if ps.all (fun p => (region p.pa).inRange) then pure ()
  else EM.upd (fun s => s.onOp ck id (fun o => { o with oob := true }))

/-- Read the pieces of a request as one request to each home: their bytes as the operation counts them (R187, R366). -/
def readPieces (ck : Nat) (o : EngOp) (ps : List Piece) : EM (List (List Byte)) := do
  let s ← EM.state
  oobOp ck o.id ps
  errorsE o.slot (dramGranules ps) (s.pieceErrors ps)
  EM.upd (fun s => s.repairPieces ps)
  let t ← streamM ck o false ((ps.filter (fun p => isDram p.pa)).foldl (fun t p => putBytes t p.pa (s.pieceBytes p)) [])
  return ps.map (fun p =>
    let raw := if isDram p.pa then (List.range p.width).map (fun i => Tab.get 0 t (p.pa + i)) else s.pieceBytes p
    if p.tol then widenWords raw else raw)

/-- An engine's write of bytes at a home: a slot region takes none (R306). -/
def State.engStore (s : State) (pa : Nat) (bs : List Byte) : State := s.storeHome (2 ^ 30) pa bs.length (leNat bs)
/-- Two runs of bytes that one store covers: adjacent, in one line of 64 bytes, both within a home's range or both
beyond it. -/
def joins (a : Nat × List Byte) (b : Nat) : Bool :=
  decide (a.1 + a.2.length = b) && decide (a.1 / 64 = b / 64) && decide ((region a.1).inRange = (region b).inRange)
/-- Runs of bytes with the adjacent ones joined. -/
def runsOf : List (Nat × List Byte) → List (Nat × List Byte)
  | [] => []
  | a :: t =>
    match runsOf t with
    | [] => [a]
    | b :: r => if joins a b.1 then (a.1, a.2 ++ b.2) :: r else a :: b :: r
/-- Store runs of bytes in order. -/
def State.storeRuns (s : State) (l : List (Nat × List Byte)) : State :=
  (runsOf l).foldl (fun (s : State) r => s.engStore r.1 r.2) s

/-- The errors in lines that runs of bytes cover in part. -/
def State.runErrors (s : State) (l : List (Nat × List Byte)) : List (Nat × Nat) :=
  perGranule (((runsOf l).map (fun r => s.mergeFaults r.1 r.2.length)).flatten.map (fun a => (0xB2, a)))
/-- A line that runs of bytes cover in part is read and checked before they are written (R357). -/
def mergeCheckM (slot : Nat) (l : List (Nat × List Byte)) : EM Unit := do
  let e := (← EM.state).runErrors l
  if e = [] then pure ()
  else do
    EM.upd (fun s => s.failErrors slot e)
    throw (.fail 0x12)
/-- Write pieces, in order, as one request to each home (R182, R187, R366). -/
def writePieces (ck : Nat) (o : EngOp) (ps : List (Piece × List Byte)) : EM Unit := do
  oobOp ck o.id (ps.map Prod.fst)
  let at_ := fun (p : Piece × List Byte) => if p.1.tol then narrowWords p.2 else p.2
  let t ← streamM ck o true ((ps.filter (fun p => isDram p.1.pa)).foldl (fun t p => putBytes t p.1.pa (at_ p)) [])
  mergeCheckM o.slot (t.map (fun e => (e.1, [e.2])))
  EM.upd (fun s => s.repairPieces (ps.map Prod.fst))
  EM.upd (fun s => s.storeRuns ((ps.filter (fun p => !isDram p.1.pa)).map (fun p => (p.1.pa, at_ p))))
  EM.upd (fun s => s.storeRuns (t.map (fun e => (e.1, [e.2]))))

/-- Add a word into an element's home as one atomic (R369): FP32 for merge 1, INT32 for merge 2. -/
def State.mergeAdd (s : State) (p : Piece) (merge v : Nat) : State :=
  let add := fun (old : Nat) => if merge = 1 then rneAdd32 old v else (old + v) % 2 ^ 32
  if (region p.pa).inRange = false then s
  else if p.tol then s.engStore p.pa (natLe (bfNarrow (add (bfWiden (s.readN p.pa 2)))) 2)
  else s.engStore p.pa (natLe (add (s.readN p.pa 4)) 4)

/-- A merge into one element: a read merge at any home that takes atomics, a write merge at a controller (R369, R370). -/
def mergeM (ck : Nat) (o : EngOp) (write : Bool) (p : Piece) (bs : List Byte) : EM Unit := do
  oobOp ck o.id [p]
  if write then do
    if !isDram p.pa then throw (.fail 0x13)
    let raw := if p.tol then narrowWords bs else bs
    let t ← streamM ck o true (putBytes [] p.pa raw)
    let e := (← EM.state).pieceErrors [p]
    if e ≠ [] then do
      EM.upd (fun s => s.failErrors o.slot e)
      throw (.fail 0x12)
    let out := (List.range p.width).map (fun i => Tab.get 0 t (p.pa + i))
    EM.upd (fun s => s.mergeAdd p o.head.merge (leNat (if p.tol then widenWords out else out)))
  else do
    if bits p.pa 55 1 = 1 then throw (.fail 0x13)
    errorsE o.slot [] ((← EM.state).pieceErrors [p])
    EM.upd (fun s => (s.serve p.pa false).mergeAdd p o.head.merge (leNat bs))

/-! ### Requests (R176, R182, R367) -/

/-- The index list of a gather or scatter (R183). -/
def State.indexAt (s : State) (ck : Nat) (o : EngOp) (i : Nat) : Nat := s.localN (ck * 16 + o.core) (4 * (o.ioff + i)) 4

/-- Where a request that starts at a linear index ends, and its destination bytes: at most 512, in one 512-byte block;
one element under a merge. -/
def spanOf (o : EngOp) (el : Nat → Elem) : Nat → Nat → Nat → Option Nat → Nat × Nat
  | 0, l, n, _ => (l, n)
  | fuel + 1, l, n, blk =>
    if o.total ≤ l then (l, n)
    else
      match (el l).dst with
      | none => spanOf o el fuel (l + 1) n blk
      | some d =>
        let same := match blk with | none => true | some b => decide (d / 512 = b)
        let fits := decide (n = 0) || (decide (n + o.e ≤ 512) && same && decide (o.head.merge = 0))
        if fits then spanOf o el fuel (l + 1) (n + o.e) (some (d / 512)) else (l, n)
/-- The request that an operation issues next: where it ends, and the bytes it is charged (R177). -/
def State.request (s : State) (ck : Nat) (o : EngOp) (l : Nat) : Nat × Nat :=
  if o.cmd = 7 then (o.total, 0)
  else if o.conv then (l + 1, o.unitBytes)
  else spanOf o (o.elem (s.indexAt ck o)) 512 l 0 none

/-- Cut bytes over a run's pieces. -/
def overPieces : List Piece → List Byte → List (Piece × List Byte)
  | [], _ => []
  | p :: ps, bs => (p, bs.take p.n) :: overPieces ps (bs.drop p.n)

/-- The errors in the entries of the index list that a request of a gather or scatter reads. -/
def State.listErrors (s : State) (ck : Nat) (o : EngOp) (l hi : Nat) : List (Nat × Nat) :=
  if o.cmd = 2 ∨ o.cmd = 3 then
    let rows := ((List.range (hi - l)).map (fun i => o.coord (l + i) 1)).eraseDups
    perGranule ((rows.map (fun r => s.errorsUnder (localPa (ck * 16 + o.core) (4 * (o.ioff + r))) 4)).flatten)
  else []
/-- Move the elements `l` to `hi − 1` of a plain operation: the destination bytes. -/
def moveM (ck : Nat) (o : EngOp) (l hi : Nat) : EM Nat := do
  let s ← EM.state
  let els := (List.range (hi - l)).map (fun i => o.elem (s.indexAt ck o) (l + i))
  let live := els.filter (fun e => e.dst.isSome)
  if els.any (fun e => e.oob) then EM.upd (fun s => s.onOp ck o.id (fun o => { o with oob := true }))
  errorsE o.slot [] (s.listErrors ck o l hi)
  let src ← live.mapM (fun e => match e.src with | some a => piecesM ck o false false a o.e | none => pure [])
  let dst ← live.mapM (fun e => piecesM ck o true false (e.dst.getD 0) o.e)
  let got ← readPieces ck o src.flatten
  let datas := (live.zip src).foldl (fun (acc : List (List Byte) × List (List Byte)) p =>
    let n := p.2.length
    (acc.1 ++ [if p.1.src.isSome then (acc.2.take n).flatten else p.1.pat], acc.2.drop n)) ([], got)
  let outs := ((dst.zip datas.1).map (fun p => overPieces p.1 p.2)).flatten
  if o.head.merge = 0 then writePieces ck o outs
  else if o.head.applies true then outs.forM (fun p => mergeM ck o true p.1 p.2)
  else outs.forM (fun p => mergeM ck o false p.1 p.2)
  return live.length * o.e

/-- Run a converting stream on a unit's bytes at its controller: the output words (R367). -/
def unitWordsM (ck : Nat) (o : EngOp) (pa : Nat) (bs : List Byte) : EM (List Nat) := do
  takenM ck o pa
  match runStream (o.image.getD []) bs with
  | some ws => return ws
  | none => do
    EM.upd (fun s => s.lanternFail pa)
    throw (.fail 0x13)

/-- Errors under the memory side of a unit: the unit is one request, of the Lantern of its first byte (R367, R376). -/
def unitErrorsE (slot pa : Nat) (l : List (Nat × Nat)) : EM Unit :=
  if l = [] then pure ()
  else do
    EM.upd (fun s => l.foldl (fun (s : State) e => s.logError slot e.1 e.2) (s.lanternFail pa))
    throw (.fail 0x12)
/-- The memory side of a unit is read and written below its Lantern. -/
def readBelow (slot pa : Nat) (ps : List Piece) : EM (List Byte) := do
  let s ← EM.state
  unitErrorsE slot pa (s.pieceErrors ps)
  return (ps.map (fun p => if p.tol then widenWords (s.pieceBytes p) else s.pieceBytes p)).flatten
/-- A unit whose memory side no request can carry fails at the controller of its first byte (R367, R368, R376). -/
def unitFailM (ck : Nat) (o : EngOp) (va : Nat) (wr : Bool) : EM Unit := do
  let t ← engXlate ck o va wr
  EM.upd (fun s => s.lanternFail t.1.pa)
  throw (.fail 0x13)
/-- The address of a unit's side word (R368). -/
def sideOf (h : LHead) (va : Nat) : Nat := ((va : Int) + h.soff).toNat
/-- Move one unit of a converting stream (R367, R368, R370): the destination bytes. -/
def moveUnitM (ck : Nat) (o : EngOp) (u : Nat) : EM Nat := do
  let h := o.head
  let wr := decide (h.dir = 2)
  let at_ := o.unitAt u
  let plain : EngOp := { o with image := none }
  if 2 ^ 16 < at_.1 % 2 ^ 16 + h.mu then unitFailM ck o at_.1 wr
  let mem ← piecesM ck o wr false at_.1 h.mu
  let eng ← piecesM ck o (!wr) false at_.2 h.eu
  if !mem.all (fun p => isDram p.pa) then throw (.fail 0x13)
  let pa := (mem.map (fun p => p.pa)).headD 0
  if wr then do
    let side := sideOf h at_.1
    if h.side = 1 ∧ side % 4 ≠ 0 then unitFailM ck o at_.1 wr
    let sp ← if h.side = 1 then piecesM ck o true false side 4 else pure []
    let got ← readPieces ck plain eng
    let ws ← unitWordsM ck o pa got.flatten
    let out := (overPieces mem (wordBytes ws)).map (fun p => (p.1.pa, if p.1.tol then narrowWords p.2 else p.2))
    unitErrorsE o.slot pa ((← EM.state).runErrors out)
    EM.upd (fun s => out.foldl (fun (s : State) p => s.engStore p.1 p.2) s)
    writePieces ck plain (overPieces sp (natLe (ws.getD h.sword 0) 4))
    return o.unitBytes
  else do
    let got ← readBelow o.slot pa mem
    let ws ← unitWordsM ck o pa got
    writePieces ck plain (overPieces eng (wordBytes ws))
    return o.unitBytes

/-- The request that an operation carries on next fails with a code: it counts as over, and those sent before the failure
finish (R189). -/
def State.failStep (s : State) (ck : Nat) (o : EngOp) (code : Nat) : State :=
  let s1 := s.onOp ck o.id (fun p => { p with next := if o.eq = 0 then (s.request ck o o.next).1 else p.next })
  (s1.failOp ck o.id code).opEnd ck o.id
/-- What a stop leaves: a failure ends the operation, a walk lets its requests wait for their turn, and a stall tries again
after 64 ticks. The state before the request stays, but for the lookups, walks and counts it made. -/
def State.opStop (s : State) (ck : Nat) (o : EngOp) (e : EStop) : State :=
  match e with
  | .fail c => s.failStep ck o c
  | .miss p c => s.onOp ck o.id (fun o => { o with miss := some (p, c), owed := o.owed + 1 })
  | .stall => s.after 64 (o.event ck)

/-- The vigil that an operation names lies on a member of the pod (R279, R285). -/
def vigilMemberM (ck : Nat) (o : EngOp) : EM Unit := do
  match o.vigil with
  | some line =>
    if bits line 55 1 = 0 ∧ !(← EM.state).isMember (devOfCluster ck) (bits line 49 6) then throw (.fail 0x11)
  | none => pure ()

/-- Bytes performed: they count, and decrement the vigil that the operation names (R189, R206). -/
def State.performed (s : State) (ck : Nat) (o : EngOp) (b : Nat) : State :=
  let s1 := s.onOp ck o.id (fun o => { o with bytes := o.bytes + b })
  match o.vigil with
  | some line => if b = 0 then s1 else (s1.releasedAt o.slot 4 (line + 8) o.seen).post (.vigilByteDecrement (vigilMaster line) line b ck o.id)
  | none => s1

/-- A copy-engine command event: the next granted request of the operation. -/
def State.copyStep (s : State) (ck id : Nat) : State :=
  match (s.cluster ck).op id with
  | none => s
  | some o =>
    if o.granted ≤ o.next ∨ o.ended then s
    else if o.miss.isSome then s.onOp ck id (fun o => { o with owed := o.owed + 1 })
    else
      let r := s.request ck o o.next
      let body : EM Nat := do
        vigilMemberM ck o
        if o.conv then moveUnitM ck o o.next else moveM ck o o.next r.1
      match (body.run).run s with
      | (.ok b, s1) => (((s1.onOp ck id (fun o => { o with next := r.1 })).performed ck o b).opEnd ck id).wakeCluster ck .unit
      | (.error e, s1) => (s1.opStop ck o e).wakeCluster ck .unit

end Sys2Proof.Machine
end

