-- ==== Sys2Proof/Machine/Vigil.lean ====
section
/-!
DEFINITION. Groups and vigils (spec 10_vigils.md, R200 to R217): the vg instructions, the stages that merge arrivals,
and the events that the master of a vigil applies.
-/

namespace Sys2Proof.Machine

/-! ### The line (Tables 10.1, 10.2) and the master's table -/

/-- State, cause, epoch and group of word 0. -/
def vgState (w : Nat) : Nat := bits w 0 8
def vgEpoch (w : Nat) : Nat := bits w 16 8
def vgGrp (w : Nat) : Nat := bits w 32 16
/-- The asid of word 1. -/
def vgAsid (w1 : Nat) : Nat := bits w1 32 9

/-- Tell every compute die of the line's module that it has changed (R204). -/
def State.notifyVigil (s : State) (line : Nat) : State :=
  s.postAll ((diesOf (bits line 49 6)).map (fun d => .vigilNotice d line))

/-- What precedes the arrivals and the bytes of a vigil is kept at its word 1 until it opens; a reader of word 0 then observes
it (Table 24.2, R206, R207). -/
def State.vigilOpens (s : State) (line : Nat) : State :=
  { s with releases := s.releases.map (fun r => if r.word = line / 8 + 1 then { r with word := line / 8 } else r) }
/-- Open (2) or break (3) a vigil: word 0 is written at the home first, the monitors of the line fire, the table entry
is freed, and the notice follows (R171, R203, R204). -/
def State.endVigil (s : State) (line st cause : Nat) : State :=
  let w := s.readN line 8
  let s0 := if st = 2 then s.vigilOpens line else s
  let s1 := (s0.storeN line 8 (setBits (setBits w 0 8 st) 8 8 cause)).fireLine (line / 64) true
  (s1.onDie (vigilMaster line) (fun d => { d with armed := d.armed.filter (fun a => decide (a.line ≠ line)) })).notifyVigil line

/-- Break an armed vigil; an open or broken one does not change (Table 10.3). The home serves the master's request
(R202). -/
def State.breakVigil (s0 : State) (line cause : Nat) : State :=
  let s := s0.serve line false
  if s.isVigil line ∧ vgState (s.readN line 8) = 1 then s.endVigil line 3 cause else s

/-- Open an armed vigil whose counts are both zero. -/
def State.openIfZero (s : State) (line : Nat) : State :=
  if bits (s.readN (line + 8) 8) 0 32 = 0 ∧ s.readN (line + 16) 8 = 0 then s.endVigil line 2 0 else s

/-- An arrival message of `n` for an epoch (Table 10.3). -/
def State.arriveVigil (s0 : State) (line epoch n : Nat) : State :=
  let s := s0.serve line false
  let w := s.readN line 8
  if !s.isVigil line ∨ vgEpoch w ≠ epoch ∨ vgState w = 3 then s
  else if vgState w = 2 then s.endVigil line 3 0xA3
  else
    let w1 := s.readN (line + 8) 8
    let s1 := s.storeN (line + 8) 8 (setBits w1 0 32 (bits w1 0 32 + 2 ^ 32 - n % 2 ^ 32))
    if bits w1 0 32 < n then s1.endVigil line 3 0xA3 else s1.openIfZero line

/-- A byte decrement (Table 10.3). -/
def State.landVigil (s0 : State) (line b : Nat) : State :=
  let s := s0.serve line false
  let w := s.readN line 8
  if !s.isVigil line ∨ vgState w = 3 then s
  else if vgState w = 2 then s.endVigil line 3 0xA3
  else
    let w2 := s.readN (line + 16) 8
    let s1 := s.storeN (line + 16) 8 (w2 + 2 ^ 64 - b % 2 ^ 64)
    if w2 < b then s1.endVigil line 3 0xA3 else s1.openIfZero line

/-! ### Stages (R205) -/

/-- Arrivals of one line, epoch and asid. -/
def sameVigil (a b : Arrival) : Bool := decide (a.line = b.line ∧ a.epoch = b.epoch ∧ a.asid = b.asid)
/-- Merge arrivals into a stage's list. -/
def addArrival (a : Arrival) : List Arrival → List Arrival
  | [] => [a]
  | b :: bs => if sameVigil a b then { b with n := b.n + a.n } :: bs else b :: addArrival a bs
/-- The arrivals that a stage holds. -/
def State.held (s : State) : VStage → List Arrival
  | .core k => (s.core k).arrivals
  | .cluster k => (s.cluster k).arrivals
  | .die k => (s.die k).arrivals
/-- Change the arrivals that a stage holds. -/
def State.setHeld (s : State) (st : VStage) (l : List Arrival) : State :=
  match st with
  | .core k => s.onCore k (fun c => { c with arrivals := l })
  | .cluster k => s.onCluster k (fun c => { c with arrivals := l })
  | .die k => s.onDie k (fun d => { d with arrivals := l })
/-- The key of an arrival, as its events carry it. -/
def arrivalKey (a : Arrival) : Arrival := { a with n := 0 }
/-- A stage takes arrivals in; the first of a key starts its 4,096 cycles. -/
def State.hold (s : State) (st : VStage) (a : Arrival) : State :=
  let s1 := s.setHeld st (addArrival a (s.held st))
  if (s.held st).any (sameVigil a) then s1 else s1.after 4096 (.arrivalForwardTimeout st (arrivalKey a))
/-- No stage below still holds arrivals of the vigil (R205). -/
def State.belowClear (s : State) (st : VStage) (a : Arrival) : Bool :=
  match st with
  | .core _ => true
  | .cluster k => s.cores.all (fun e => decide (e.1 / 16 ≠ k) || !e.2.arrivals.any (sameVigil a))
  | .die k => s.clusters.all (fun e => decide (dieOfCluster e.1 ≠ k) || !e.2.arrivals.any (sameVigil a))
/-- The next stage; none after the die's. -/
def stageUp : VStage → Option VStage
  | .core k => some (.cluster (k / 16))
  | .cluster k => some (.die (dieOfCluster k))
  | .die _ => none
/-- A stage forwards the sum that it holds for a key: to the next stage, which forwards in its turn when nothing below
it holds more, or to the master. -/
def State.forward (s : State) (st : VStage) (key : Arrival) : State :=
  match (s.held st).find? (sameVigil key) with
  | none => s
  | some a =>
    let s0 := s.setHeld st ((s.held st).filter (fun b => !sameVigil key b))
    let s1 := { s0 with timers := s0.timers.filter (fun t =>
      match t.2 with | .arrivalForwardTimeout st' b => !(decide (st' = st) && sameVigil key b) | _ => true) }
    match stageUp st with
    | none => s1.post (.vigilArrivalMessage (vigilMaster a.line) a)
    | some up =>
      let s2 := s1.hold up a
      if s2.belowClear up a then s2.post (.arrivalForward up (arrivalKey a)) else s2

/-! ### The vg instructions (R210 to R216) -/

/-- The checks on a vigil address, in the order of R210: translation, alignment, placement, range locks. -/
def vigilCheckM (k : XKind) (va : Word) : M Nat := do
  let me ← here
  let x ← slotM
  let t ← xlateM k va
  needM (decide (va.toNat % 64 = 0)) 0x20 va
  match region t.pa with
  | .noSocket => trapM 0x24 va
  | .reserved => trapM 0x21 va
  | _ =>
    needM (vigilHome (devOf me) t.pa && !t.tol) 0xA5 va
    needM (!(← getS).lockHit (clusterOf me) x.asid va.toNat 8 true) 0x82 va
    return t.pa
/-- The line's home takes the access, which has its turn, and the line can be read. -/
def vigilReadyM (line : Nat) : M Unit := do
  readyM line
  turnM [line]
  errorM line
/-- The checks on a vigil address, and then the line's home. -/
def vigilM (k : XKind) (va : Word) : M Nat := do
  let line ← vigilCheckM k va
  vigilReadyM line
  return line
/-- An address of the master die of a line, at whose router a request for its vigil unit waits (R410). -/
def masterPa (line : Nat) : Nat := scratchPa (vigilMaster line * 64) 0

/-- Word 0 for a newly armed vigil (R211). -/
def vgWord0 (grp master epoch st : Nat) : Nat :=
  0x5647 * 2 ^ 48 + grp % 2 ^ 16 * 2 ^ 32 + master % 32 * 2 ^ 24 + epoch % 256 * 2 ^ 16 + st

/-- Epochs recur: wicks that arrived at a line's epoch long ago have not arrived at it now (R205). -/
def State.newEpoch (s : State) (line e : Nat) : State :=
  { s with slots := Tab.mapVals (fun _ x =>
      if x.arrived.elem (line, e) then { x with arrived := x.arrived.filter (fun p => decide (p ≠ (line, e))) } else x) s.slots }
/-- Arm a vigil at a line (R211). -/
def State.armVigil (s0 : State) (line asid grp n b : Nat) : State :=
  let s := s0.serve line false
  let w := s.readN line 8
  let e := if s.isVigil line then (vgEpoch w + 1) % 256 else 1
  let die := vigilMaster line
  let st := if n = 0 ∧ b = 0 then 2 else 1
  let v := vgWord0 grp (die % 32) e st + 2 ^ 64 * (asid * 2 ^ 32 + n) + 2 ^ 128 * b + 2 ^ 192 * n + 2 ^ 256 * b
  let s1 := (s.storeN line 64 v).onDie die (fun d =>
    let others := d.armed.filter (fun a => decide (a.line ≠ line))
    { d with armed := if st = 1 then others ++ [⟨line, BitVec.ofNat 9 asid, BitVec.ofNat 16 grp⟩] else others })
  ((if st = 2 then s1.fireLine (line / 64) true else s1).newEpoch line e).notifyVigil line

/-- `vg.init` (R211): the checks on the address and on the operands, then the master's table, which waits until its die is
ready (R410), and then the line. -/
def execVgInit (x : FmtA) (s : State) : Out :=
  runInstr (.vgInit x) s do
    let y ← slotM
    let va ← rd x.a
    let b ← rd x.b
    let v ← rdCode x.d.toNat
    let line ← vigilCheckM .store va
    needM (decide (v.toNat < 2 ^ 48) && decide (b.toNat < 2 ^ 63)) 0xA6
    readyM (masterPa line)
    let d := (← getS).die (vigilMaster line)
    needM (d.armed.any (fun a => decide (a.line = line)) || decide (d.armed.length < 4096)) 0xA4 va
    vigilReadyM line
    modS (fun s => s.armVigil line y.asid.toNat (bits v.toNat 32 16) (bits v.toNat 0 32) b.toNat)
    return .next

/-- `vg.join` (R212). -/
def execVgJoin (x : FmtA) (s : State) : Out :=
  runInstr (.vgJoin x) s do
    let v ← rd x.a
    prepDst x.d.toNat
    let y ← slotM
    needM (decide (v ≠ 0) && decide (v.toNat < 2 ^ 16) && decide (y.grp = 0)) 0xA1
    onSlotM (fun z => { z with grp := v.truncate 16 })
    wr x.d 0
    return .next

/-- `vg.leave` (R212). -/
def execVgLeave (x : FmtA) (s : State) : Out :=
  runInstr (.vgLeave x) s do
    prepDst x.d.toNat
    let y ← slotM
    needM (decide (y.grp ≠ 0)) 0xA1
    onSlotM (fun z => { z with grp := 0 })
    wr x.d (y.grp.zeroExtend 64)
    return .next

/-- The home serves a read of the line (R213, R215); an uncorrectable error fails the wick. -/
def readVigilM (line : Nat) : M Unit := do
  errorM line
  modS (fun s => s.serve line true)
/-- Arrive at a vigil (R213): a release at dev scope, the checks, and the arrival at the core stage unless the latch
says that it has been made. It answers the epoch. -/
def arriveM (va : Word) (line : Nat) : M Nat := do
  let me ← here
  releaseDevM
  readVigilM line
  let s ← getS
  let y ← slotM
  let w := s.readN line 8
  needM (s.isVigil line) 0xA0 va
  needM (decide (vgGrp w = y.grp.toNat) && decide (vgAsid (s.readN (line + 8) 8) = y.asid.toNat)) 0xA2 va
  if y.vlatch ≠ some (va.toNat, vgEpoch w) ∧ vgState w ≠ 3 then do
    modS (fun s => (s.releasedAt me 4 (line + 8) (s.carriedBy me)).hold (.core (coreOf me))
      ⟨line, vgEpoch w, y.asid.toNat, y.grp.toNat, 1⟩)
    onSlotM (fun z => { z with arrived := (line, vgEpoch w) :: z.arrived.filter (fun p => decide (p ≠ (line, vgEpoch w))) })
  return vgEpoch w

/-- The loop of a vigil wait (R213): while the line is armed at the epoch first read, the slot waits for a notice;
otherwise word 0 is the result and p12 says that the vigil is not open. An open one is an acquire at dev scope (R207). -/
def vigilLoopM (d : BitVec 5) (line e : Nat) : M Flow := do
  let w := (← getS).readN line 8
  if vgState w = 1 ∧ vgEpoch w = e then do
    onSlotM (fun z => { z with wait := .none, met := .none })
    waitM (.vigil line e)
  else do
    let me ← here
    if vgState w = 2 then modS (fun s => s.acquiredAt me 4 line)
    onSlotM (fun z => { z with wait := .none, met := .none, vlatch := none }.setPair 12 (decide (vgState w ≠ 2)))
    wr d (BitVec.ofNat 64 w)
    return .next
/-- Wait on a vigil (R213): its first read must find one, at the epoch it then waits for. -/
def awaitM (d : BitVec 5) (va : Word) (line : Nat) : M Flow := do
  readVigilM line
  let s ← getS
  needM (s.isVigil line) 0xA0 va
  vigilLoopM d line (vgEpoch (s.readN line 8))
/-- A notice has ended a wait: the line is read again, in its turn and with none of the checks (R213). -/
def noticedM (d : BitVec 5) (first : M Flow) : M Flow := do
  match (← slotM).heard with
  | .noticed line e => do
    turnM [line]
    readVigilM line
    vigilLoopM d line e
  | _ => first

/-- `vg.arr` (R213). -/
def execVgArr (x : FmtA) (s : State) : Out :=
  runInstr (.vgArr x) s do
    let va ← rd x.a
    let line ← vigilM .load va
    let _ ← arriveM va line
    return .next

/-- `vg.wait` (R213). -/
def execVgWait (x : FmtA) (s : State) : Out :=
  runInstr (.vgWait x) s do
    let va ← rd x.a
    prepDst x.d.toNat
    noticedM x.d do
      let line ← vigilM .load va
      awaitM x.d va line

/-- `vg.arrw` (R213): it arrives, then waits; after a notice it only reads the line again. -/
def execVgArrw (x : FmtA) (s : State) : Out :=
  runInstr (.vgArrw x) s do
    let va ← rd x.a
    prepDst x.d.toNat
    noticedM x.d do
      let line ← vigilM .load va
      let e ← arriveM va line
      onSlotM (fun z => { z with vlatch := some (va.toNat, e) })
      awaitM x.d va line

/-- `vg.brk` of a line (R214). -/
def execVgBrk (x : FmtA) (s : State) : Out :=
  runInstr (.vgBrk x) s do
    let va ← rd x.a
    let c ← rd x.b
    let line ← vigilM .store va
    releaseDevM
    readVigilM line
    let s ← getS
    let y ← slotM
    needM (s.isVigil line) 0xA0 va
    needM (decide (vgAsid (s.readN (line + 8) 8) = y.asid.toNat)) 0xA2 va
    modS (fun s => s.breakVigil line (0xE0 + c.toNat % 16))
    return .next

/-- `vg.brk` of the wick's group (R208, R214). -/
def execVgBrkGroup (x : FmtA) (s : State) : Out :=
  runInstr (.vgBrkGroup x) s do
    let me ← here
    let c ← rd x.b
    let y ← slotM
    needM (decide (y.grp ≠ 0)) 0xA1
    releaseDevM
    modS (fun s => s.breakGroup (devOf me) y.asid.toNat y.grp.toNat (0xE0 + c.toNat % 16))
    return .next

/-- `vg.stat` (R215). -/
def execVgStat (x : FmtA) (s : State) : Out :=
  runInstr (.vgStat x) s do
    let va ← rd x.a
    let i ← rd x.b
    prepDst x.d.toNat
    let line ← vigilM .load va
    readVigilM line
    let s ← getS
    wr x.d (BitVec.ofNat 64 (s.readN (line + 8 * (i.toNat % 8)) 8))
    return .next

/-! ### Events -/

/-- What a message brought to a vigil is applied: invalidations of its module look again (R266). -/
def State.vigilApplied (s : State) (line : Nat) : State := s.wakeDev (bits line 49 6) .tlb
/-- VIGIL_ARRIVAL_MESSAGE (R204). -/
def execVigilArrivalMessage (s : State) : Out :=
  match s.ev with
  | some (.vigilArrivalMessage _ a) => .next ((s.arriveVigil a.line a.epoch a.n).vigilApplied a.line)
  | _ => .fault .noSuchEvent

/-- VIGIL_BYTE_DECREMENT (R206): from 2^64 up, a break with the cause above it (R189, R232). A line that is no vigil
fails the operation with token code 0x14. -/
def execVigilByteDecrement (s : State) : Out :=
  match s.ev with
  | some (.vigilByteDecrement _ line b ck op) =>
    .next ((if 2 ^ 64 ≤ b then s.breakVigil line (b - 2 ^ 64)
      else if s.isVigil line then s.landVigil line b
      else (s.serve line false).failOp ck op 0x14).vigilApplied line)
  | _ => .fault .noSuchEvent

/-- GROUP_BREAK_NOTICE (R208): each armed vigil of the die's table with that asid and group is broken. -/
def execGroupBreakNotice (s : State) : Out :=
  match s.ev with
  | some (.groupBreakNotice die asid grp cause) =>
    let hit := (s.die die).armed.filter (fun a => decide (a.asid.toNat = asid ∧ a.grp.toNat = grp))
    .next (hit.foldl (fun s a => s.breakVigil a.line cause) s)
  | _ => .fault .noSuchEvent

/-- VIGIL_NOTICE (R204): the slots of the die that wait on the line read it again. -/
def execVigilNotice (s : State) : Out :=
  match s.ev with
  | some (.vigilNotice die line) =>
    let f := fun (k : Nat) (x : Slot) =>
      match x.wait with
      | .vigil l e => if dieOf k = die ∧ l = line then { x with wait := .noticed l e } else x
      | _ => x
    .next { s with slots := Tab.mapVals f s.slots }
  | _ => .fault .noSuchEvent

/-- ARRIVAL_FORWARD (R205). -/
def execArrivalForward (s : State) : Out :=
  match s.ev with
  | some (.arrivalForward st a) => .next (s.forward st a)
  | _ => .fault .noSuchEvent

/-- ARRIVAL_FORWARD_TIMEOUT (R205). -/
def execArrivalForwardTimeout (s : State) : Out :=
  match s.ev with
  | some (.arrivalForwardTimeout st a) => .next (s.forward st a)
  | _ => .fault .noSuchEvent

end Sys2Proof.Machine
end

