-- ==== Sys2Proof/Machine/Engine.lean ====
section
/-!
DEFINITION. Queueing engine commands and the copy engine (spec 09_copies.md, R176 to R196; the bodies of the other
queues: 13_links.md R284, R286; 16_cochains.md R326; 20_lanterns.md R377; 21_tapers.md R398).
-/

namespace Sys2Proof.Machine

/-! ### The checks of a body at `enq` (R195) -/

/-- The cause of a command body, if any: cause of the first failing check. -/
def firstCause : List (Bool × Cause) → Option Cause
  | [] => none
  | (bad, c) :: t => if bad then some c else firstCause t

/-- Copy-engine commands that use a field. -/
def EngOp.isCmd (o : EngOp) (cs : List Nat) : Bool := cs.elem o.cmd
/-- A field that the command does not use is not zero (R179). -/
def EngOp.unusedSet (o : EngOp) : Bool :=
  if o.cmd = 7 then
    decide (o.f 192 64 ≠ 0) || o.vg || decide (o.fmt ≠ 0 ∨ o.strm ≠ 0) ||
      (List.range 16).any (fun c => decide (o.f (32 + 10 * c) 10 = 0))
  else
    (!o.vg && decide (o.vaddr ≠ 0)) || (o.isCmd [3, 5, 6] && decide (o.ringBit ∨ o.rk ≠ 0)) ||
      (o.ringBit && decide (o.f 148 57 ≠ 0)) || (decide (o.cmd = 4) && decide (o.saddr ≠ 0)) ||
      (decide (o.cmd ≠ 5) && o.nopad) || (decide (o.cmd ≠ 6) && decide (o.dir ≠ 0 ∨ o.lev ≠ 0)) ||
      (!o.isCmd [2, 3] && decide (o.ioff ≠ 0))

/-- The alignment of an element (R181). -/
def EngOp.align (o : EngOp) : Nat := if o.fmt = 1 then 4 else o.e

/-- Fields of the dimension block that must be zero are (R180). -/
def EngOp.blockZeros (o : EngOp) : Bool :=
  (List.range 4).all (fun d => decide (d ≤ o.dims) || decide (o.b32 d = 0 ∧ o.b32 (4 + d) = 0 ∧ o.b32 (8 + d) = 0)) &&
    (decide (o.cmd ≠ 4) || (List.range 4).all (fun d => decide (o.b32 (4 + d) = 0))) &&
    (decide (o.cmd ≠ 6) || (List.range 4).all (fun d => decide (o.b32 ((if o.dir = 0 then 8 else 4) + d) = 0))) &&
    (match o.cmd with
      | 1 => decide (bits o.blk.toNat 384 128 = 0)
      | 2 | 3 => decide (bits o.blk.toNat 416 96 = 0)
      | 4 => decide (bits o.blk.toNat 384 64 = 0)
      | 6 => decide (bits o.blk.toNat 480 32 = 0)
      | _ => true)
/-- The conditions of a blocked transform (R186). -/
def EngOp.blockedOk (o : EngOp) : Bool :=
  let tr := fun l => if l = o.lev + 1 then o.ext 1 else o.tr l
  let tc := fun l => if l = o.lev + 1 then o.ext 0 else o.tc l
  decide (o.dims = 1) && decide (o.lev ≠ 0) &&
    [1, 2, 3].all (fun l =>
      if l ≤ o.lev then
        decide (o.tr l ≠ 0 ∧ o.tc l ≠ 0) && decide (tr (l + 1) % o.tr l = 0) && decide (tc (l + 1) % o.tc l = 0)
      else decide (o.tr l = 0 ∧ o.tc l = 0))
/-- The conditions of a converting or merging stream on the operation (R367, R369). -/
def EngOp.streamOk (o : EngOp) : Bool :=
  if o.conv then
    decide (o.fmt = o.head.mfmt) && decide (o.cmd = 1) && decide (o.ss 0 = 1 ∧ o.ds 0 = 1) && decide (o.ext 0 % o.unitP = 0)
  else decide (o.head.merge = 0) || decide (o.fmt = o.head.efmt)

/-- The ranges of a copy-engine operation; a ring push registers its tile slot (R191). -/
def EngOp.ranges (o : EngOp) (size : Nat) : List Range :=
  o.srcRanges ++
    (match o.push with
      | some p => [((p.addr : Int), (p.addr : Int) + 64 * (size : Int) - 1, true)]
      | none => match o.destHull with | some h => [dstRange h] | none => []) ++ o.sideRanges
/-- Every range lies within 0 to 2^57 − 1. -/
def rangesIn (rs : List Range) : Bool := rs.all (fun r => decide (0 ≤ r.1) && decide (r.2.1 < 2 ^ 57))

/-- An invalid dimension block (R181): cause 0x84. -/
def EngOp.badBlock (o : EngOp) : Bool :=
  (List.range 4).any (fun d => decide (d ≤ o.dims) && decide (o.b32 d = 0)) || !o.blockZeros || !o.streamOk ||
    decide (2 ^ 40 ≤ o.destBytes) || (o.isCmd [2, 3] && (decide (o.dims ≠ 1) || decide (65536 < 4 * o.ioff + 4 * o.ext 1))) ||
    (decide (o.cmd = 6) && !o.blockedOk) ||
    !rangesIn (o.srcRanges ++ (match o.destHull with | some h => if o.ringBit then [] else [dstRange h] | none => []) ++ o.sideRanges)

/-- A tile that does not fit its slot, or a ring that is not set up (R188): cause 0x85. -/
def EngOp.badRing (o : EngOp) (r : Ring) : Bool :=
  o.ringBit && (decide (r.depth = 0) ||
    (match o.destHull with
      | some h => decide (h.1 - (o.daddr : Int) < 0) || decide (64 * (r.size : Int) ≤ h.2 - (o.daddr : Int))
      | none => false))

/-- The cause that a copy-engine body raises, up to its ring. -/
def copyCause (o : EngOp) (user : Bool) (emptyStream : Bool) (r : Ring) : Option Cause :=
  firstCause
    [(decide (o.cmd = 0 ∨ 8 ≤ o.cmd), 0x81), (decide (12 ≤ o.scope), 0x81), (decide (10 ≤ o.fmt), 0x62),
     (o.unusedSet, 0x81), (emptyStream, 0x81), (decide (o.cmd = 7) && user, 0x06),
     (decide (o.cmd ≠ 7) && decide ((o.saddr % o.align ≠ 0 ∧ o.cmd ≠ 4) ∨ (o.daddr % o.align ≠ 0 ∧ !o.ringBit)), 0x20),
     (decide (o.cmd ≠ 7) && o.badBlock, 0x84), (decide (o.cmd ≠ 7) && o.badRing r, 0x85)]

/-- The I/O die that owns a laser of the slotted planes (R280). -/
def laserDie (l : Nat) : Nat := if l < 64 then 0 else if l < 192 then 1 else if l < 320 then 2 else 3
/-- Entry `e` of a slot table enables a laser of an I/O die for a device (Table 13.3). -/
def entryServes (tbl : List Byte) (e iod dev : Nat) : Bool :=
  (List.range 448).any (fun l => decide (laserDie l = iod) && decide ((tbl.getD (512 * e + l) 0).toNat = 128 + dev))
/-- Some entry of the module's table does. -/
def Module.serves (m : Module) (iod dev : Nat) : Bool := (List.range m.slotCount).any (fun e => entryServes m.slotTable e iod dev)

/-- The cause of a fabric-send body but for its table (R284). -/
def fabricCause (o : EngOp) (emptyStream : Bool) : Option Cause :=
  firstCause
    [(decide (o.cmd ≠ 1), 0x81), (decide (12 ≤ o.scope), 0x81), (decide (10 ≤ o.fmt), 0x62), (emptyStream, 0x81),
     (decide (o.saddr % 64 ≠ 0 ∨ o.f 148 57 % 64 ≠ 0 ∨ o.len32 % 64 ≠ 0 ∨ o.len32 = 0), 0x8A),
     (o.stc && decide (o.iod ≠ 0), 0x8A), (o.head.conv, 0x84)]
/-- The cause of a multicast body (R286). -/
def multicastCause (o : EngOp) (emptyStream : Bool) : Option Cause :=
  firstCause
    [(decide (o.cmd ≠ 1), 0x81), (decide (12 ≤ o.scope), 0x81), (decide (10 ≤ o.fmt), 0x62), (emptyStream, 0x81),
     (o.vg, 0x89), (decide (o.saddr % 64 ≠ 0 ∨ o.f 148 57 % 64 ≠ 0 ∨ o.len32 % 64 ≠ 0), 0x89),
     (decide (o.len32 < 64 ∨ 65536 < o.len32), 0x89), (decide (65536 < 8 * o.roff + 8), 0x89), (o.head.conv, 0x84)]
/-- The bits of a command body outside a field. -/
def EngOp.bodyBut (o : EngOp) (lo n : Nat) : Bool :=
  decide (o.f 32 (lo - 32) = 0) && decide (o.f (lo + n) (256 - lo - n) = 0)
/-- The cause of a Lantern body (R377). -/
def lanternCause (o : EngOp) : Option Cause :=
  firstCause
    [(decide (o.cmd = 0 ∨ 4 ≤ o.cmd), 0x81), (decide (12 ≤ o.scope), 0x81), (decide (10 ≤ o.fmt), 0x62),
     (o.vg || decide (o.fmt ≠ 0 ∨ o.strm ≠ 0), 0x81),
     (!(match o.cmd with
        | 1 => o.bodyBut 144 61
        | 2 => o.bodyBut 144 4
        | _ => decide (o.f 32 224 = 0)), 0x81)]
/-- The cause of a Taper body (R398). -/
def taperCause (o : EngOp) : Option Cause :=
  firstCause
    [(decide (o.cmd = 0 ∨ 4 ≤ o.cmd), 0x81), (decide (12 ≤ o.scope), 0x81), (decide (10 ≤ o.fmt), 0x62),
     (o.vg || decide (o.fmt ≠ 0 ∨ o.strm ≠ 0), 0x81),
     (!(match o.cmd with
        | 1 => o.bodyBut 148 57
        | 2 => o.bodyBut 32 9
        | _ => decide (o.f 32 224 = 0)), 0x81)]

/-- The cochain register of a halo operation. -/
def EngOp.coch (o : EngOp) : Coch := cochOf o.c0 o.c1
/-- The window's hull and the buffer of a halo operation as ranges (R326): near-window addresses of the issuing
cluster. -/
def EngOp.haloRanges (o : EngOp) : List Range :=
  let c := o.coch
  let lo : Int := (0x01FFFFFF00000000 + 8 * c.base : Nat)
  let b : Int := (o.f 148 57 : Nat)
  [(lo, lo + (c.esize * c.count : Nat) - 1, decide (o.cmd = 2)), (b, b + (c.esize * o.hcount : Nat) - 1, decide (o.cmd = 1))]
/-- The cause of a halo body (R326): its own checks, then those of R317 on the copy of the register and the list. -/
def haloCause (o : EngOp) (cx : Nat → CxSlot) (w : Img) : Option Cause :=
  let c := o.coch
  firstCause
    [(decide (o.cmd = 0 ∨ 3 ≤ o.cmd), 0x81), (decide (12 ≤ o.scope), 0x81), (decide (10 ≤ o.fmt), 0x62),
     (decide (o.hcount = 0 ∨ 16383 < o.hcount) || decide (o.f 32 79 ≠ 0) || decide (o.fmt ≠ c.fmt) ||
        decide (65536 < 4 * o.hlist + 4 * o.hcount), 0x88),
     (decide (o.f 148 57 % c.esize ≠ 0), 0x20), (!c.v, 0x72),
     (decide ((cx c.slot).gen ≠ c.gen ∨ (cx c.slot).st ≠ 2), 0x70),
     (!c.windowOk w || !o.idx.all (fun i => decide (i < 2 ^ 20) && c.has i), 0x74),
     (decide (o.cmd = 2) && c.own && o.idx.any (fun i => decide (simplexOwner w c.deg i ≠ c.part)), 0x75)]

/-! ### Registering (R191 to R195) -/

/-- The ranges that an operation registers, given its ring's tile size. -/
def EngOp.allRanges (o : EngOp) (size : Nat) : List Range :=
  match o.eq with
  | 0 => if o.cmd = 7 then [] else o.ranges size
  | 2 | 6 =>
    [((o.saddr : Int), (o.saddr + o.len32 : Nat) - 1, false), ((o.f 148 57 : Int), (o.f 148 57 + o.len32 : Nat) - 1, true)]
  | 5 => o.haloRanges
  | _ => []

/-- Two ranges overlap. -/
def overlaps (a b : Range) : Bool := decide (a.1 ≤ b.2.1) && decide (b.1 ≤ a.2.1)
/-- A conflict at queueing (R192): with a registered range of the asid when one is a destination, or a destination with
a source of the same command. -/
def Cluster.conflict (c : Cluster) (asid : BitVec 9) (rs : List Range) : Bool :=
  rs.any (fun r => c.locks.any (fun l =>
    decide (l.asid = asid) && (l.dest || r.2.2) && overlaps r ((l.lo : Int), (l.hi : Int), l.dest))) ||
  rs.any (fun r => r.2.2 && rs.any (fun q => !q.2.2 && overlaps r q))
/-- A destination range formed from near-window scratchpad addresses overlaps a slot region (R306). -/
def Cluster.regionConflict (c : Cluster) (rs : List Range) : Bool :=
  rs.any (fun r =>
    r.2.2 && decide (0x01FFFFFF00000000 ≤ r.1) && decide (r.1 < 0x01FFFFFF80000000) &&
      c.inRegion (r.1 - 0x01FFFFFF00000000).toNat (r.2.1 - r.1 + 1).toNat)

/-- Pushes of a ring still in flight (R188). -/
def Cluster.pushes (c : Cluster) (slot k : Nat) : Nat :=
  (c.allOps.filter (fun o =>
    o.code.isNone && (match o.push with | some p => decide (p.slot = slot ∧ p.ring = k) | none => false))).length

/-- Every push of a ring still in flight, one that has failed among them (R348). -/
def Cluster.pushing (c : Cluster) (slot k : Nat) : Bool :=
  c.allOps.any (fun o => match o.push with | some p => decide (p.slot = slot ∧ p.ring = k) | none => false)
/-- A matrix store's push of a ring still in flight (R348). -/
def Core.mxPushes (k : Core) (slot ring : Nat) : Nat :=
  (k.mx.filter (fun o => decide (o.slot = slot ∧ o.push = some ring))).length
/-- The register that a halo operation works from is of its complex slot's generation, and that slot is loaded (R317). -/
def Cluster.haloFresh (c : Cluster) (o : EngOp) : Bool :=
  let q := c.cxSlot o.coch.slot
  decide (q.gen = o.coch.gen) && decide (q.st = 2)

/-- The outcome of a try to register. -/
inductive EnqTry where
  | trap (c : Cause)
  | full
  | ok (o : EngOp) (rs : List Range)

/-- Form the ring tile's address and the ranges, check them for their reach, for conflicts and for room (R181, R188, R192,
R195). A halo operation's
generation check and its registration are one step (R317, R326). -/
def State.enqTry (s : State) (o : EngOp) : EnqTry :=
  let ck := clusterOf o.slot
  let c := s.cluster ck
  let r := s.ring o.slot o.rk
  let q := c.pushes o.slot o.rk + (s.core (coreOf o.slot)).mxPushes o.slot o.rk
  let ring := decide (o.eq = 0 ∧ o.cmd ≠ 7) && o.ringBit
  if ring ∧ o.badRing r then .trap 0x85
  else if o.eq = 5 ∧ c.haloFresh o = false then .trap 0x70
  else
    let o1 := if ring then { o with push := some ⟨o.slot, o.rk, 0x01FFFFFF00000000 + r.tileOff (r.head + q)⟩ } else o
    let rs := o1.allRanges r.size
    if ring ∧ rangesIn rs = false then .trap 0x84
    else if c.conflict o.asid rs then .trap 0x83
    else if c.regionConflict rs then .trap 0x77
    else if (ring ∧ r.depth ≤ r.occupancy + q) ∨ 64 < c.locks.length + rs.length ∨
        (o.eq = 0 ∧ 16 ≤ (Tab.get [] c.rings o.core).length) then .full
    else .ok o1 rs

/-- Ticks of the model from a request or a command to its effect, so that the cores issue while an engine works; the spec
gives no figure. -/
def engineLatency : Nat := 2048

/-- Register an operation's ranges, mark its token pending, and queue it (R195). -/
def State.enqRegister (s : State) (o : EngOp) (rs : List Range) : State :=
  let ck := clusterOf o.slot
  let id := s.nextOp
  let o1 := { o with id := id, total := o.count, seen := s.carriedBy o.slot }
  let s1 := { s with nextOp := id + 1 }
  let s2 := s1.onCluster ck (fun c => { c with
    locks := c.locks ++ rs.map (fun r => ⟨o.asid, r.1.toNat, r.2.1.toNat, r.2.2, id⟩) })
  let s3 := s2.onSlot o.slot (fun x => { x with
    held := none
    pend := if o.tok = 0 then x.pend else x.pend ++ [⟨o.tok, true, id⟩] })
  if o.eq = 0 then (s3.onCluster ck (fun c => { c with rings := Tab.upd [] c.rings o.core (· ++ [o1]) })).visit ck o.core
  else
    (s3.onCluster ck (fun c => { c with ops := c.ops ++ [{ o1 with granted := o1.total }] })).after engineLatency (o1.event ck)

/-- The code-0x01 token of `enq.try` (R195). -/
def noRoomToken : Word := 0x0100000000000000

/-- Translate the address of the vigil that a command names (R190). The spec names no permission that its page must have:
the model asks for that of a load (DESIGN CHOICE, notes/assumptions 84). A page of a device that is no member raises
nothing here: the operation fails (R279). -/
def vigilXlateM (va : Word) : M Nat := do
  let me ← here
  let x ← slotM
  let s ← getS
  let r := s.xlate (coreOf me) true x.user x.asid .load va
  match r.1, (s.lookup (clusterOf me) (some (coreOf me)) x.asid va.toNat).1 with
  | .fault 0x48, some e => do
    setS r.2
    return leafPa (devOf me) e.leaf va.toNat
  | _, _ => do
    let t ← xlateM .load va
    return t.pa
/-- The laser check of a fabric send over the slotted planes (R284): an entry of the slot table serves the destination's
device from the I/O die. No laser serves the module itself, which a near-window address names. -/
def laserM (o : EngOp) : M Unit := do
  let me ← here
  let y ← slotM
  let s ← getS
  let va : Word := BitVec.ofNat 64 (o.f 148 57)
  needM (!isNear va) 0x8A
  let r := s.lookup (clusterOf me) (some (coreOf me)) y.asid va.toNat
  match r.1 with
  | none => do
    setS r.2
    missM .store va
  | some e => do
    setS r.2
    needM ((s.mod (devOf me)).serves o.iod (if e.leaf.getLsbD 9 then bits e.leaf.toNat 10 6 else devOf me)) 0x8A
/-- Bytes of the core's local memory are read: an uncorrectable word fails the wick (R234). -/
def localErrorsM (off n : Nat) : M Unit := do
  let me ← here
  if off + n ≤ 0x10000 then errorsM (localPa (coreOf me) off) n
/-- The local-memory words from which a command is copied are read: its TCW, its block, its list and its ring (R54, R234). -/
def commandErrorsM (off : Nat) (o : EngOp) : M Unit := do
  let me ← here
  localErrorsM off 32
  if o.eq = 0 ∧ o.cmd ≠ 7 then do
    localErrorsM (64 * o.doff) 64
    if o.ringBit then localErrorsM (ringOff me o.rk) 16
  if o.eq = 5 then localErrorsM (4 * o.hlist) (4 * o.hcount)
/-- The command of an `enq` as copied at its issue, with its checks (R54, R195). -/
def enqCopyM (i : Instr) (x : FmtE) : M EngOp := do
  let me ← here
  let y ← slotM
  let off ← rd x.a
  needM (decide (off.toNat % 32 = 0)) 0x20
  let s ← getS
  let corek := coreOf me
  let tcw : TWord := BitVec.ofNat 256 (s.localN corek off.toNat 32)
  let eq := x.eq.toNat
  needM (decide (eq = 0 ∨ (2 ≤ eq ∧ eq ≤ 6))) 0x80
  let o0 : EngOp :=
    { id := 0, eq := eq, core := coreNo corek, slot := me, wick := y.wick, asid := y.asid, sys := !y.user
      tok := x.tok.toNat, tcw := tcw, len := i.enc.len }
  let m := s.mod (devOf me)
  let strm := Tab.get {} m.streams o0.strm
  let empty := decide (o0.strm ≠ 0) && strm.image.isNone
  let hc := o0.hreg
  let o : EngOp :=
    { o0 with
      blk := BitVec.ofNat 512 (s.localN corek (64 * o0.doff) 64)
      image := if o0.strm = 0 ∨ eq = 5 then none else strm.image
      inst := strm.inst
      c0 := Tab.get 0 y.c0 hc, c1 := Tab.get 0 y.c1 hc
      idx := if eq = 5 then s.simplexList corek o0.hlist o0.hcount else [] }
  let c := s.cluster (clusterOf me)
  commandErrorsM off.toNat o
  let cause :=
    match eq with
    | 0 => copyCause o y.user empty (s.ring me o.rk)
    | 2 => fabricCause o empty
    | 3 => lanternCause o
    | 4 => taperCause o
    | 5 => haloCause o c.cxSlot (s.image (clusterOf me) (c.cxSlot o.coch.slot).off)
    | _ => multicastCause o empty
  match cause with
  | some c => trapM c
  | none => return o
/-- The lookups of a command that has been copied: the lasers of its destination, and the vigil's page (R190, R284). -/
def enqLookupM (o : EngOp) : M EngOp := do
  if o.eq = 2 ∧ !o.stc then laserM o
  if o.vg then do
    let pa ← vigilXlateM (BitVec.ofNat 64 (o.vaddr * 64))
    return { o with vigil := some pa }
  else return o
/-- A wait keeps the command, so that the instruction goes on with it (R54). -/
def keepCommandM {α : Type} (o : EngOp) (body : M α) : M α :=
  tryCatch body (fun e =>
    match e with
    | .wait w => do
      onSlotM (fun z => { z with held := some o })
      waitM w
    | e => throw e)
/-- `enq` up to registering: the command as copied at issue, which an `enq` that waited for a walk goes on with, neither
reading nor checking it again (R54, R195). -/
def enqM (i : Instr) (x : FmtE) : M EngOp := do
  prepDst x.tok.toNat
  let o ← match (← slotM).held with
    | some o => pure o
    | none => enqCopyM i x
  keepCommandM o (enqLookupM o)

/-- `enq` (R195, R196): register and queue, or report or wait for room. -/
def enqFlow (i : Instr) (x : FmtE) (try_ : Bool) : M Flow := do
  let me ← here
  let again := (← slotM).held.isSome
  let o ← enqM i x
  match (← getS).enqTry o with
  | .trap c => trapM c
  | .ok o1 rs => do
    modS (fun s => s.enqRegister o1 rs)
    if again then modS (fun s => s.readsDone me)
    return .next
  | .full =>
    if try_ then do
      wr x.tok noRoomToken
      if again then modS (fun s => (s.onSlot me (fun z => { z with held := none })).readsDone me)
      return .next
    else do
      onSlotM (fun z => { z with held := some o })
      modS (fun s => s.after 64 (.enqRoomRetry me))
      waitM .room

/-- `enq.wt` (R195). -/
def execEnqWt (x : FmtE) (s : State) : Out := runInstr (.enqWt x) s (enqFlow (.enqWt x) x false)
/-- `enq.try` (R195). -/
def execEnqTry (x : FmtE) (s : State) : Out := runInstr (.enqTry x) s (enqFlow (.enqTry x) x true)

/-- ENQ_ROOM_RETRY (R195): a waiting `enq` forms its ranges and checks again, from the command copied at its issue; it
registers and queues, traps, or waits on and checks again after 64 ticks. Registered, the instruction is complete, and
the receive-queue words that it read are removed (R116). -/
def execEnqRoomRetry (s : State) : Out :=
  match s.ev with
  | some (.enqRoomRetry slot) =>
    let x := s.slot slot
    match x.wait, x.held with
    | .room, some o =>
      match s.enqTry o with
      | .trap c => .next (s.takeTrap slot c 0 x.pc false)
      | .full => .next (s.after 64 (.enqRoomRetry slot))
      | .ok o1 rs =>
        .next (((s.enqRegister o1 rs).readsDone slot).onSlot slot (fun z => { z with wait := .none, pc := z.pc + BitVec.ofNat 64 o.len }))
    | _, _ => .next s
  | _ => .fault .noSuchEvent

/-! ### The copy engine's rotation (R176 to R178) -/

/-- Start operations of a core's ring in order, at most 32 in flight; one that has failed before it began ends. -/
def State.startOps (s : State) (ck core : Nat) : Nat → State
  | 0 => s
  | n + 1 =>
    let c := s.cluster ck
    match Tab.get [] c.rings core with
    | o :: rest =>
      if c.flying < 32 then
        State.startOps ((s.setCluster ck { c with rings := Tab.put core rest c.rings, ops := c.ops ++ [o] }).opEnd ck o.id) ck core n
      else s
    | [] => s
/-- Charge a core. -/
def Cluster.pay (c : Cluster) (core charge : Nat) : Cluster :=
  { c with deficit := Tab.put core (Tab.get 0 c.deficit core - charge) c.deficit }
/-- One of a slot's accesses that wait for their turn has it; with the last of them the slot goes on (R177). -/
def State.takeTurn (s : State) (slot : Nat) (left : List Nat) : State :=
  if left.elem slot then s
  else s.onSlot slot (fun x => if x.wait = .turn then { x with wait := .none, turn := true } else x)
/-- Send while the deficit covers the charge (R177): thread accesses first, at 64 bytes each, and then requests. A thread
access that has its turn is performed when its slot next issues (notes/assumptions 53). -/
def State.grants (s : State) (ck core : Nat) : Nat → State
  | 0 => s
  | n + 1 =>
    let c := s.cluster ck
    let d := Tab.get 0 c.deficit core
    match Tab.get [] c.thread core with
    | k :: left =>
      if d < 64 then s
      else State.grants ((s.setCluster ck { c.pay core 64 with thread := Tab.put core left c.thread }).takeTurn k left) ck core n
    | [] =>
      match c.issuing core with
      | none => s
      | some o =>
        let r := s.request ck o o.granted
        let charge := (r.2 + 63) / 64 * 64
        if d < charge then s
        else
          State.grants (((s.setCluster ck (c.pay core charge)).onOp ck o.id (fun o => { o with granted := r.1 })).after
            engineLatency (o.event ck)) ck core n

/-- At most how many thread accesses and requests a core has to send. -/
def Cluster.toSend (c : Cluster) (core : Nat) : Nat :=
  (Tab.get [] c.thread core).length +
    ((c.ops.filter (fun o => decide (o.eq = 0 ∧ o.core = core))).map (fun o => o.total - o.granted)).sum
/-- The cores that a rotation visits after one, in order. -/
def rotation (core : Nat) : List Nat := (List.range 16).map (fun j => (core + 1 + j) % 16)
/-- One visit of a core (R177): its deficit and its grants. The visits up to the next core that has something find their
cores with nothing waiting, whose deficits they clear; with every core so the rotation rests. -/
def State.grantVisit (s : State) (ck core : Nat) : State :=
  let s1 := s.startOps ck core 16
  let c := s1.cluster ck
  let s2 :=
    if c.waiting core then
      (s1.onCluster ck (fun c => { c with
        deficit := Tab.upd 0 c.deficit core (· + 256 * Tab.get 16 c.quantum core) })).grants ck core (c.toSend core)
    else s1.onCluster ck (fun c => { c with deficit := Tab.put core 0 c.deficit })
  let idle := (rotation core).takeWhile (fun k => !(s2.cluster ck).busy k)
  let s3 := s2.onCluster ck (fun c => { c with deficit := idle.foldl (fun t k => Tab.put k 0 t) c.deficit })
  match (rotation core)[idle.length]? with
  | some k => s3.visit ck k
  | none => s3

/-- ENGINE_GRANT_VISIT (R177). -/
def execEngineGrantVisit (s : State) : Out :=
  match s.ev with
  | some (.engineGrantVisit ck core) => .next (s.grantVisit ck core)
  | _ => .fault .noSuchEvent

/-- COPY (R182): the next granted request. -/
def execCopy (s : State) : Out :=
  match s.ev with
  | some (.copy ck op) => .next (s.copyStep ck op)
  | _ => .fault .noSuchEvent
/-- GATHER (R183). -/
def execGather (s : State) : Out :=
  match s.ev with
  | some (.gather ck op) => .next (s.copyStep ck op)
  | _ => .fault .noSuchEvent
/-- SCATTER (R183). -/
def execScatter (s : State) : Out :=
  match s.ev with
  | some (.scatter ck op) => .next (s.copyStep ck op)
  | _ => .fault .noSuchEvent
/-- FILL (R184). -/
def execFill (s : State) : Out :=
  match s.ev with
  | some (.fill ck op) => .next (s.copyStep ck op)
  | _ => .fault .noSuchEvent
/-- PADDED_COPY (R185). -/
def execPaddedCopy (s : State) : Out :=
  match s.ev with
  | some (.paddedCopy ck op) => .next (s.copyStep ck op)
  | _ => .fault .noSuchEvent
/-- BLOCKED_TRANSFORM (R186). -/
def execBlockedTransform (s : State) : Out :=
  match s.ev with
  | some (.blockedTransform ck op) => .next (s.copyStep ck op)
  | _ => .fault .noSuchEvent

/-- Set the quanta that a command names (R178). -/
def State.setQuanta (s : State) (ck : Nat) (o : EngOp) : State :=
  s.onCluster ck (fun c => { c with
    quantum := (List.range 16).foldl (fun t k => Tab.put k (o.f (32 + 10 * k) 10) t) c.quantum })
/-- QUANTUM (R178). -/
def execQuantum (s : State) : Out :=
  match s.ev with
  | some (.quantum ck op) =>
    match (s.cluster ck).op op with
    | some o =>
      if o.code.isSome ∨ o.ended then .next s
      else .next (((s.setQuanta ck o).onOp ck op (fun o => { o with next := o.total })).opEnd ck op)
    | none => .next s
  | _ => .fault .noSuchEvent

/-! ### Completion (R188 to R190, R194) -/

/-- The token word (Table 9.5). -/
def tokenWord (code bytes : Nat) (oob : Bool) : Word :=
  BitVec.ofNat 64 (code % 256 * 2 ^ 56 + (if oob then 2 ^ 48 else 0) + bytes % 2 ^ 41)

/-- Write an operation's token into the slot that queued it, while its wick is there. -/
def State.writeToken (s : State) (o : EngOp) (v : Word) : State :=
  let x := s.slot o.slot
  if o.tok ≠ 0 ∧ x.occ ∧ x.wick = o.wick then
    (s.writeReg o.slot o.tok v).onSlot o.slot (fun x => { x with
      pend := x.pend.filter (fun p => !(p.engine && decide (p.id = o.id)))
      wait := if x.wait = .reg o.tok ∨ x.wait = .suspend then .none else x.wait })
  else s

/-- An operation ends (R188, R189): its ranges are freed, a completed push advances its ring's head, a failed one
breaks its vigil, its refusals count as reported, and its token is written; what waited for it goes on, among it the
next push into its ring. A failure met since its end was queued stands in place of the code queued. -/
def State.completeOp (s : State) (ck id code0 : Nat) : State :=
  match (s.cluster ck).op id with
  | none => s
  | some o =>
    let code := o.code.getD code0
    let s1 := s.onCluster ck (fun c => { c with
      locks := c.locks.filter (fun l => decide (l.op ≠ id)), ops := c.ops.filter (fun p => decide (p.id ≠ id)) })
    let s2 :=
      match o.push with
      | some p =>
        if code = 0 then
          (s1.setRingHead p.slot p.ring ((s.ring p.slot p.ring).head + 1)).ringWritten p.slot p.ring o.seen
        else s1
      | none => s1
    let s3 :=
      match o.vigil with
      | some line =>
        if code ≠ 0 ∧ code ≠ 0x14 then s2.post (.vigilByteDecrement (vigilMaster line) line (2 ^ 64 + 0x80 + code) ck id) else s2
      | none => s2
    let s4 := (s3.writeToken o (tokenWord code o.bytes o.oob)).settleAll (devOfCluster ck) o.refused
    let s5 := ((s4.wakeCluster ck .busy).wakeCluster ck .tiles).wakeDev (devOfCluster ck) .tlb
    let s6 := if o.eq = 6 then s5.wakeDev (devOfCluster ck) .unit else s5
    (match o.push with | some p => s6.nextPushes ck p.slot p.ring | none => s6).visit ck o.core

/-- ENGINE_OP_COMPLETE (R189). -/
def execEngineOpComplete (s : State) : Out :=
  match s.ev with
  | some (.engineOpComplete ck op code) => .next (s.completeOp ck op code)
  | _ => .fault .noSuchEvent

/-! ### The halo queue (R326) -/

/-- The events of a halo operation: one element after another. -/
def State.haloStep (s : State) (ck id : Nat) (ev : Event) : State :=
  match (s.cluster ck).op id with
  | none => s
  | some o =>
    if o.total ≤ o.next ∨ o.code.isSome ∨ o.ended then s
    else
      let c := o.coch
      let buf := o.f 148 57 + c.esize * o.next
      let elem := scratchPa ck (c.off (o.idx.getD o.next 0))
      let body : EM Unit := do
        vigilMemberM ck o
        let ps ← piecesM ck o (decide (o.cmd = 1)) false buf c.esize
        let near : Piece := ⟨0, elem, c.esize, false, false⟩
        let plain := { o with image := none }
        if o.cmd = 1 then do
          let d ← readPieces ck plain [near]
          writePieces ck plain (overPieces ps d.flatten)
        else do
          let d ← readPieces ck plain ps
          writePieces ck plain [(near, d.flatten)]
      match (body.run).run s with
      | (.ok _, s1) =>
        let s2 := ((s1.onOp ck id (fun o => { o with next := o.next + 1 })).performed ck o c.esize).opEnd ck id
        if o.next + 1 < o.total then s2.post ev else s2
      | (.error e, s1) => s1.opStop ck o e

/-- HALO_PACK (R326). -/
def execHaloPack (s : State) : Out :=
  match s.ev with
  | some (.haloPack ck op) => .next (s.haloStep ck op (.haloPack ck op))
  | _ => .fault .noSuchEvent
/-- HALO_UNPACK (R326). -/
def execHaloUnpack (s : State) : Out :=
  match s.ev with
  | some (.haloUnpack ck op) => .next (s.haloStep ck op (.haloUnpack ck op))
  | _ => .fault .noSuchEvent

end Sys2Proof.Machine
end

