-- ==== Sys2Proof/Machine/Fab.lean ====
section
/-!
DEFINITION. The fab instructions, fabric sends and multicast, and the slotted planes (spec 13_links.md, R272, R280 to
R293).
-/

namespace Sys2Proof.Machine

/-- The number of an I/O die. -/
def ioNumber (socket : Nat) : Nat := if socket = 6 then 0 else if socket = 11 then 1 else if socket = 12 then 2 else 3
/-- The physical address at which an I/O die's own functions stand for the model. -/
def ioPa (dev k : Nat) : Nat := dev * 2 ^ 49 + ioSocket k * 2 ^ 44
/-- The interposer side of an I/O die, with its functions, takes requests (Table 23.4, R410). -/
def State.ioHome (s : State) (dev k : Nat) : Home := homeOfWord (s.die (dieKey dev (ioSocket k))).readyWord 1
/-- A thread's request to a function of an I/O die waits until it is ready; a failed die fails the wick (R410). -/
def ioReadyM (k : Nat) : M Unit := do
  let dev := devOf (← here)
  match (← getS).ioHome dev k with
  | .ok => pure ()
  | .held => waitM (.router (ioPa dev k))
  | .failed => failM 0xB2 (ioPa dev k)
/-- An engine's request to a function of an I/O die. -/
def ioReadyE (ck k : Nat) : EM Unit := do
  match (← EM.state).ioHome (devOfCluster ck) k with
  | .ok => pure ()
  | .held => throw .stall
  | .failed => throw (.fail 0x12)

/-! ### Stream connections (R270, R272, R289) -/

/-- The sockets from one to another of a line, step by step: along a row by 1, along a column by 6. -/
def walk (step : Nat) : Nat → Nat → Nat → List Nat
  | 0, _, _ => []
  | n + 1, a, b => if a = b then [] else let c := if a < b then a + step else a - step
    c :: walk step n c b
/-- The sockets that a packet passes after its source: along the row, then along the column (R270). -/
def route (a b : Nat) : List Nat :=
  let corner := a / 6 * 6 + b % 6
  walk 1 6 a corner ++ walk 6 4 corner b
/-- The directed links of a path. -/
def linksOf (a b : Nat) : List (Nat × Nat) := List.zip (a :: route a b) (route a b)
/-- The sub-links reserved on a directed link of a module. -/
def State.reservedOn (s : State) (dev : Nat) (l : Nat × Nat) : Nat :=
  ((s.clusters.filter (fun e => decide (devOfCluster e.1 = dev))).map (fun e =>
    (e.2.conns.map (fun c => if (linksOf (e.1 / 64 % 32) c.2.socket).elem l then c.2.rate else 0)).sum)).sum
/-- A connection is admitted (R272). -/
def State.admitsConn (s : State) (ck dst rate : Nat) : Bool :=
  (linksOf (ck / 64 % 32) dst).all (fun l => decide (s.reservedOn (devOfCluster ck) l + rate ≤ 24))

/-- The socket to which a packet for an address goes: a peer's and the host's leave by X0, or by X2 where X0's host link is
not ready (R275, R407). -/
def State.packetSocket (s : State) (dev pa : Nat) : Nat :=
  if bits pa 55 1 = 1 then (if homeOfWord (s.die (dieKey dev 6)).readyWord 2 = .ok then 6 else 12)
  else if bits pa 49 6 = dev then bits pa 44 5 else 6
/-- The addresses of the first and last bytes that a copy-engine operation's request moves for a linear index or a unit. -/
def EngOp.touches (o : EngOp) (idx : Nat → Nat) (l : Nat) : List Nat :=
  if o.conv then
    let a := o.unitAt l
    [a.1, a.1 + o.head.mu - 1, a.2, a.2 + o.head.eu - 1]
  else
    let e := o.elem idx l
    (e.src.toList ++ e.dst.toList).flatMap (fun a => [a, a + o.e - 1])
/-- Where an address of an operation leads by its cluster's TLB, which is not used up by the question. -/
def State.engHome (s : State) (ck : Nat) (o : EngOp) (va : Nat) : Option Nat :=
  if isNear (BitVec.ofNat 64 va) then some (nearPa (ck * 16 + o.core) (BitVec.ofNat 64 va))
  else (smallest ((s.cluster ck).hits o.asid va)).map (fun e => leafPa (devOfCluster ck) e.leaf va)
/-- Requests of an operation that its engine has sent and that are not yet performed go to a socket: those whose page is
translated (notes/assumptions 85). -/
def State.opPacketsTo (s : State) (ck so : Nat) (o : EngOp) : Bool :=
  decide (o.eq = 0) && decide (o.cmd ≠ 7) && !o.ended &&
    (List.range (o.granted - o.next)).any (fun i =>
      (o.touches (s.indexAt ck o) (o.next + i)).any (fun va =>
        match s.engHome ck o va with
        | some pa => decide (s.packetSocket (devOfCluster ck) pa = so)
        | none => false))
/-- An access that a router holds, or has let go. -/
def Wait.atRouter : Wait → Option Nat
  | .router pa | .released pa => some pa
  | _ => Option.none
/-- Packets of a cluster to a socket that are not yet delivered (R289): relaxed accesses, accesses at a router, and requests
that its engine has sent. -/
def State.packetsTo (s : State) (ck so : Nat) : Bool :=
  let dev := devOfCluster ck
  let goes := fun pa => decide (s.packetSocket dev pa = so)
  (List.range 16).any (fun c => (s.core (ck * 16 + c)).flights.any (fun f => f.homes.any goes)) ||
    s.slots.any (fun e => decide (clusterOf e.1 = ck) && e.2.wait.atRouter.any goes) ||
    (s.cluster ck).ops.any (s.opPacketsTo ck so)

/-- `fab.conn` (R289). -/
def execFabConn (x : FmtA) (s : State) : Out :=
  runInstr (.fabConn x) s do
    let me ← here
    let v ← rd x.a
    prepDst x.d.toNat
    let ck := clusterOf me
    let so := bits v.toNat 0 5
    let rate := bits v.toNat 5 5
    let c ← clusterM
    needM (decide (v.toNat / 2 ^ 11 = 0) && decide (so < 24 ∧ so ≠ ck / 64 % 32) && decide (1 ≤ rate ∧ rate ≤ 16)) 0x93
    needM (!c.conns.any (fun e => decide (e.2.socket = so)) && decide (c.conns.length < 4)) 0x93
    needM ((← getS).admitsConn ck so rate) 0x93
    if (← getS).packetsTo ck so then waitM .unit
    match (List.range 4).find? (fun i => (Tab.find? i c.conns).isNone) with
    | none => trapM 0x93
    | some i => do
      modS (fun s => s.onCluster ck (fun c => { c with conns := Tab.put i ⟨so, rate, bits v.toNat 10 1⟩ c.conns }))
      wr x.d (BitVec.ofNat 64 i)
      return .next

/-- `fab.close` (R289): a register that is free has nothing to wait for. -/
def execFabClose (x : FmtA) (s : State) : Out :=
  runInstr (.fabClose x) s do
    let me ← here
    let v ← rd x.a
    match Tab.find? (v.toNat % 4) (← clusterM).conns with
    | some c => if (← getS).packetsTo (clusterOf me) c.socket then waitM .unit
    | none => pure ()
    modS (fun s => s.onCluster (clusterOf me) (fun c => { c with conns := Tab.del (v.toNat % 4) c.conns }))
    return .next

/-! ### The slotted planes (R280 to R283) -/

/-- Fields of a slot table entry (Table 13.3). -/
def slotLaser (t : List Byte) (e l : Nat) : Nat := (t.getD (512 * e + l) 0).toNat
def slotDur (t : List Byte) (e : Nat) : Nat := imgField t (512 * e + 448) 2
def slotGuard (t : List Byte) (e : Nat) : Nat := imgField t (512 * e + 450) 2
/-- The fibre of a laser. -/
def laserPlane (l : Nat) : Nat := l / 8
/-- An entry that `fab.slot` accepts (R281), for a device. -/
def slotEntryOk (t : List Byte) (e dev : Nat) : Bool :=
  let d := slotDur t e
  let g := slotGuard t e
  (List.range 448).all (fun l =>
    let b := slotLaser t e l
    decide (bits b 6 1 = 0) && (decide (b < 128) || (decide (b % 64 ≠ dev) &&
      (List.range (l % 8)).all (fun j => decide (slotLaser t e (l / 8 * 8 + j) ≠ b))))) &&
    decide (imgField t (512 * e + 452) 60 = 0) && decide (25 ≤ d ∧ d ≤ 2500) && decide (30 ≤ g ∧ g ≤ 400) && decide (8 * g < 64 * d)

/-- The slot table that an I/O die runs, and its entries: until it has switched, the one before the module's (R290). -/
def State.dieTable (s : State) (die : Nat) : List Byte × Nat :=
  let m := s.mod (die / 32)
  if (s.die die).switch then (m.oldTable, m.oldCount) else (m.slotTable, m.slotCount)
/-- A timer event of a die's slot entries. -/
def isSlotTimer (die : Nat) : Event → Bool
  | .slotGuardEnd d | .slotDurationExpiry d | .slotQueuesEmpty d => decide (d = die)
  | _ => false
/-- An I/O die opens an entry: its guard runs (R282). -/
def State.openEntry (s : State) (die e : Nat) : State :=
  let t := s.dieTable die
  let s1 := ({ s with
    timers := s.timers.filter (fun x => !isSlotTimer die x.2)
    agenda := s.agenda.filter (fun x => !isSlotTimer die x) } : State).onDie die (fun d =>
      { d with entry := e, guard := true, sending := [] })
  if t.2 = 0 then s1 else s1.after (8 * slotGuard t.1 e) (.slotGuardEnd die)
/-- It closes the entry and opens the next, or entry 0 of a new table (R282, R290). -/
def State.nextEntry (s : State) (die : Nat) : State :=
  let n := (s.die die).entry + 1
  if (s.die die).switch then
    let s1 := (s.onDie die (fun d => { d with switch := false })).openEntry die 0
    if s1.switching (die / 32) then s1 else s1.wakeDev (die / 32) .unit
  else s.openEntry die (if n < (s.dieTable die).2 then n else 0)
/-- A table is installed: each I/O die that runs an entry finishes it, and then starts the new table at entry 0 (R290). -/
def State.installSlots (s : State) (dev : Nat) (t : List Byte) (n : Nat) : State :=
  let m := s.mod dev
  (ioDies dev).foldl
    (fun (s : State) die => if m.slotCount = 0 then s.openEntry die 0 else s.onDie die (fun d => { d with switch := true }))
    (s.setMod dev { m with slotTable := t, slotCount := n, oldTable := m.slotTable, oldCount := m.slotCount })

/-- Enabled lasers of a die in an entry that serve a device. -/
def lasersFor (t : List Byte) (e iod dev : Nat) : Nat :=
  ((List.range 448).filter (fun l => decide (laserDie l = iod) && decide (slotLaser t e l = 128 + dev))).length
/-- Split an access after `n` of its bytes. -/
def splitReq (q : PeerReq) (n : Nat) : PeerReq × PeerReq :=
  ({ q with n := n, v := q.v % 2 ^ (8 * n) }, { q with pa := q.pa + n, n := q.n - n, v := q.v / 2 ^ (8 * n) })
/-- Take up to `n` bytes for a device from the head of a send queue, in order: what is sent, and what stays. -/
def takeBytes (dst : Nat) : Nat → List SendItem → List PeerReq × List SendItem
  | _, [] => ([], [])
  | n, i :: t =>
    if i.dst ≠ dst ∨ n = 0 then
      let r := takeBytes dst n t
      (r.1, i :: r.2)
    else if i.q.n ≤ n then
      let r := takeBytes dst (n - i.q.n) t
      (i.q :: r.1, r.2)
    else
      let p := splitReq i.q n
      let r := takeBytes dst 0 t
      (p.1 :: r.1, { i with q := p.2 } :: r.2)
/-- Devices in a send queue. -/
def queuedDevs (l : List SendItem) : List Nat := (l.map (fun i => i.dst)).eraseDups
/-- Slot-timer cycles of an entry after its guard. -/
def slotCycles (t : List Byte) (e : Nat) : Nat := 64 * slotDur t e - 8 * slotGuard t e
/-- The bytes that a die's lasers for a device send in a slot-timer cycle: 5 each, at 64 Gb/s (R274, R282). -/
def State.laserRate (s : State) (die p : Nat) : Nat := 5 * lasersFor (s.dieTable die).1 (s.die die).entry (ioNumber (die % 32)) p
/-- What a pump of the send queue has sent, what is left, and until when the lasers send. -/
structure Pump where
  out : List PeerReq
  left : List SendItem
  busy : Tab Nat
/-- Let the lasers for a device send what their time up to the entry's close lets them. -/
def Pump.send (u : Pump) (now close rate p : Nat) : Pump :=
  let start := max now (Tab.get 0 u.busy p)
  let t := takeBytes p (rate * (close - start)) u.left
  let n := (t.1.map (fun q => q.n)).sum
  { out := u.out ++ t.1, left := t.2, busy := if n = 0 then u.busy else Tab.put p (start + (n + rate - 1) / rate) u.busy }
/-- In an open entry after its guard the enabled lasers send from their queues, to pod members (R282, R283). -/
def State.slotPump (s : State) (die : Nat) : State :=
  let d := s.die die
  let t := s.dieTable die
  if d.guard ∨ t.2 = 0 then s
  else
    let u := (queuedDevs d.sendq).foldl (fun (u : Pump) p =>
      if s.isMember (die / 32) p ∧ s.laserRate die p ≠ 0 then
        u.send s.tick (d.opened + slotCycles t.1 d.entry) (s.laserRate die p) p
      else u) ⟨[], d.sendq, d.sending⟩
    (s.setDie die { d with sendq := u.left, sending := u.busy }).postAll (u.out.map (fun q => .peerAccess q))
/-- Every send queue that the entry's enabled lasers serve is empty. -/
def State.servedEmpty (s : State) (die : Nat) : Bool := (s.die die).sendq.all (fun i => decide (s.laserRate die i.dst = 0))
/-- With the queues empty the entry is looked at again once the lasers have sent what they took. -/
def State.closeSoon (s : State) (die : Nat) : State :=
  if s.servedEmpty die then
    s.after (max 1 (((s.die die).sending.map Prod.snd).foldl max 0 - s.tick)) (.slotQueuesEmpty die)
  else s
/-- The guard ends: the lasers begin to send, and the entry closes when its time is up, or its queues are empty. -/
def State.slotSend (s : State) (die : Nat) : State :=
  let t := s.dieTable die
  let s1 := (s.onDie die (fun d => { d with guard := false, opened := s.tick })).slotPump die
  (s1.after (slotCycles t.1 (s.die die).entry) (.slotDurationExpiry die)).closeSoon die

/-- SLOT_GUARD_END (R282). -/
def execSlotGuardEnd (s : State) : Out :=
  match s.ev with
  | some (.slotGuardEnd die) => .next (if (s.dieTable die).2 = 0 then s else s.slotSend die)
  | _ => .fault .noSuchEvent
/-- SLOT_DURATION_EXPIRY (R282): the entry closes and the next opens. -/
def execSlotDurationExpiry (s : State) : Out :=
  match s.ev with
  | some (.slotDurationExpiry die) => .next (s.nextEntry die)
  | _ => .fault .noSuchEvent
/-- SLOT_QUEUES_EMPTY (R282): with the queues that its lasers serve empty, and sent, an entry after its guard closes early. -/
def execSlotQueuesEmpty (s : State) : Out :=
  match s.ev with
  | some (.slotQueuesEmpty die) =>
    let d := s.die die
    .next (if d.guard then s
      else if s.servedEmpty die && d.sending.all (fun e => decide (e.2 ≤ s.tick)) then s.nextEntry die
      else s.closeSoon die)
  | _ => .fault .noSuchEvent

/-- Lines as bytes. -/
def lineBytes (ls : List Nat) : List Byte := (ls.map (fun v => natLe v 64)).flatten

/-- The part of `fab.slot` that reads the table and installs it (R281, R290); it answers the old entry count. -/
def slotInstallM (a b : Word) : M Nat := do
  let dev := devOf (← here)
  let n := b.toNat % 128
  needM (decide (a.toNat % 64 = 0)) 0x20 a
  needM (decide (1 ≤ n ∧ n ≤ 64)) 0x93
  (List.range 4).forM ioReadyM
  if (← getS).switching dev then waitM .unit
  let ls ← readLines a 0 (8 * n)
  let t := lineBytes ls
  needM ((List.range n).all (fun e => slotEntryOk t e dev)) 0x93
  let old := ((← getS).mod dev).slotCount
  modS (fun s => s.installSlots dev t n)
  linesDoneM
  return old
/-- `fab.slot` (R290): it installs the table, waits until the four I/O dies have switched, and writes the old entry
count. -/
def execFabSlot (x : FmtA) (s : State) : Out :=
  runInstr (.fabSlot x) s do
    let me ← here
    let dev := devOf me
    let a ← rd x.a
    let b ← rd x.b
    prepDst x.d.toNat
    let m := (← getS).mod dev
    let old ← if m.slotBy = some me then pure m.oldCount else slotInstallM a b
    if (← getS).switching dev then do
      modS (fun s => s.onMod dev (fun m => { m with slotBy := some me }))
      waitM .unit
    modS (fun s => s.onMod dev (fun m => { m with slotBy := if m.slotBy = some me then none else m.slotBy }))
    wr x.d (BitVec.ofNat 64 old)
    return .next

/-! ### fab.stat, fab.gnt (R291, R292) -/

/-- The member bitmap (R273). -/
def State.memberMask (s : State) (dev : Nat) : Nat :=
  ((List.range 64).map (fun d => if s.isMember dev d then 2 ^ d else 0)).sum
/-- Bytes waiting in an I/O die's send queue for a device (R283). -/
def State.waiting (s : State) (die dev : Nat) : Nat :=
  (((s.die die).sendq.filter (fun i => decide (i.dst = dev))).map (fun i => i.q.n)).sum

/-- The value of a selector (Table 13.7). -/
def State.fabStat (s : State) (dev sel : Nat) : Nat :=
  if sel = 0 then s.memberMask dev
  else if sel = 1 then dev
  else if 0x10 ≤ sel ∧ sel ≤ 0x27 then (s.die (dieKey dev (sel - 0x10))).escapes % 2 ^ 64
  else if 0x40 ≤ sel ∧ sel ≤ 0x43 then
    (s.die (dieKey dev (ioSocket (sel - 0x40)))).entry * 256 + (s.dieTable (dieKey dev (ioSocket (sel - 0x40)))).2
  else if 0x100 ≤ sel ∧ sel ≤ 0x1FF then s.waiting (dieKey dev (ioSocket ((sel - 0x100) / 64))) (sel % 64)
  else if 0x200 ≤ sel ∧ sel ≤ 0x23F then (Tab.get 0 (s.grant dev (sel - 0x200)).w 0).toNat
  else if 0x240 ≤ sel ∧ sel ≤ 0x27F then (Tab.get 0 (s.mod dev).mcast (sel - 0x240)).toNat
  else 0

/-- The I/O die whose function a selector of `fab.stat` reads: per-peer state and tables are X0's, a slot entry and a send
queue their die's; the device number and a router's counter are always there (R410; DESIGN CHOICE, notes/assumptions
110). -/
def fabStatUnit (sel : Nat) : Option Nat :=
  if sel = 0 ∨ (0x200 ≤ sel ∧ sel ≤ 0x27F) then some 0
  else if 0x40 ≤ sel ∧ sel ≤ 0x43 then some (sel - 0x40)
  else if 0x100 ≤ sel ∧ sel ≤ 0x1FF then some ((sel - 0x100) / 64)
  else none
/-- `fab.stat` (R291). -/
def execFabStat (x : FmtA) (s : State) : Out :=
  runInstr (.fabStat x) s do
    let me ← here
    let v ← rd x.a
    match fabStatUnit (v.toNat % 2 ^ 16) with
    | some k => ioReadyM k
    | none => pure ()
    result x.d (BitVec.ofNat 64 ((← getS).fabStat (devOf me) (v.toNat % 2 ^ 16))) 0

/-- The reserved fields of a grant image are zero (Table 13.2). -/
def grantImageOk (w : Nat → Nat) : Bool :=
  decide (bits (w 0) 14 18 = 0 ∧ bits (w 0) 10 2 = 0 ∧ w 7 = 0) &&
    (List.range 3).all (fun k => decide (bits (w (1 + 2 * k)) 49 12 = 0 ∧ bits (w (2 + 2 * k)) 49 15 = 0))
/-- A grant entry after the write of an image: rej stays, fence is clear. -/
def Grant.write (g : Grant) (w : Nat → Nat) : Grant :=
  let rej := bits (Tab.get 0 g.w 0).toNat 32 32
  { g with w := (List.range 8).foldl (fun t i =>
      Tab.put i (BitVec.ofNat 64 (if i = 0 then setBits (setBits (w 0) 32 32 rej) 13 1 0 else w i)) t) g.w }
/-- A multicast operation of the module holds a snapshot of an entry (R287). -/
def State.snapshotHeld (s : State) (dev i : Nat) : Bool :=
  s.clusters.any (fun e => decide (devOfCluster e.1 = dev) &&
    e.2.ops.any (fun o => decide (o.eq = 6 ∧ o.mcix = i) && o.snap.isSome))

/-- `fab.gnt` (R292): a multicast write waits until no operation holds a snapshot of the old entry. -/
def execFabGnt (x : FmtA) (s : State) : Out :=
  runInstr (.fabGnt x) s do
    let me ← here
    let a ← rd x.a
    let b ← rd x.b
    let dev := devOf me
    let i := bits a.toNat 0 6
    needM (decide (b.toNat % 64 = 0)) 0x20 b
    needM (decide (b.toNat < 0x10000) && decide (a.toNat / 2 ^ 8 = 0) && !a.getLsbD 6) 0x93
    ioReadyM 0
    let s ← getS
    let w := fun k => s.localN (coreOf me) (b.toNat + 8 * k) 8
    if a.getLsbD 7 then do
      if s.snapshotHeld dev i then waitM .unit
      modS (fun s => s.onMod dev (fun m => { m with mcast := Tab.put i (BitVec.ofNat 64 (w 0)) m.mcast }))
      return .next
    else do
      needM (grantImageOk w) 0x93
      modS (fun s => s.onGrant dev i (fun g => g.write w))
      return .next

/-! ### Fabric send (R284, R285) -/

/-- The chunk of a send or a multicast that starts at its next byte: at most 512 bytes. -/
def EngOp.chunk (o : EngOp) : Nat × Nat := (512 * o.next, min 512 (o.len32 - 512 * o.next))
/-- A run of a chunk's bytes as an access at a peer: `v2` 2 marks an engine's bytes, whose flight is the operation; 3 those
that a tolerant page takes as two bytes for each FP32 word (R259). -/
def EngOp.carry (o : EngOp) (p : Piece) (pa : Nat) (bs : List Byte) : PeerReq :=
  let l := if p.tol then narrowWords bs else bs
  { src := o.slot, pc := 0, asid := o.asid.toNat, wick := o.wick, pa := pa, n := l.length, kind := .store, v := leNat l
    v2 := if p.tol then 3 else 2, flight := some o.id, dst := .none }
/-- A send that adds bytes on their way. -/
def State.outgoing (s : State) (ck id n : Nat) : State := s.onOp ck id (fun o => { o with acks := o.acks + n })

/-- The device of a destination page of a fabric send; a page of another device than before fails it (R285). -/
def fabricDest (s : State) (ck : Nat) (o : EngOp) (ps : List Piece) : EM Nat := do
  let d := bits ((ps.map (fun p => p.pa)).headD 0) 49 6
  if !ps.all (fun p => p.aper && decide (bits p.pa 55 1 = 0) && decide (bits p.pa 49 6 = d)) then throw (.fail 0x11)
  if !s.isMember (devOfCluster ck) d then throw (.fail 0x11)
  match o.dest with
  | some e => if e ≠ d then throw (.fail 0x11)
  | none => pure ()
  match o.vigil with
  | some line => if bits line 55 1 = 1 ∨ bits line 49 6 ≠ d then throw (.fail 0x11)
  | none => pure ()
  return d

/-- One chunk of a fabric send: read, then sent over the static channel or queued for a slotted plane, whose lasers send
at once in an open entry that serves the device. -/
def fabricChunk (ck : Nat) (o : EngOp) : EM Unit := do
  let c := o.chunk
  vigilMemberM ck o
  ioReadyE ck o.iod
  let src ← piecesM ck o false false (o.saddr + c.1) c.2
  let dst ← piecesM ck o true true (o.daddr + c.1) c.2
  let d ← fabricDest (← EM.state) ck o dst
  let bs := (← readPieces ck o src).flatten
  let qs := (overPieces dst bs).map (fun p => o.carry p.1 p.1.pa p.2)
  EM.upd (fun s => s.onOp ck o.id (fun o => { o with dest := some d, acks := o.acks + c.2 }))
  if o.stc then EM.upd (fun s => s.postAll (qs.map (fun q => .peerAccess q)))
  else
    let die := dieKey (devOfCluster ck) (ioSocket o.iod)
    EM.upd (fun s => (s.onDie die (fun x => { x with sendq := x.sendq ++ qs.map (fun q => ⟨d, q⟩) })).slotPump die)

/-- Carry an operation of chunks one chunk on. -/
def State.chunkStep (s : State) (ck id : Nat) (body : EngOp → EM Unit) : State :=
  match (s.cluster ck).op id with
  | none => s
  | some o =>
    if o.total ≤ o.next ∨ o.code.isSome ∨ o.ended then s
    else
      match ((body o).run).run s with
      | (.ok _, s1) =>
        let s2 := (s1.onOp ck id (fun o => { o with next := o.next + 1 })).opEnd ck id
        if o.next + 1 < o.total then s2.post (o.event ck) else s2
      | (.error e, s1) => s1.opStop ck o e

/-- FABRIC_SEND (R285). -/
def execFabricSend (s : State) : Out :=
  match s.ev with
  | some (.fabricSend ck op) => .next (s.chunkStep ck op (fabricChunk ck))
  | _ => .fault .noSuchEvent

/-! ### Multicast (R286, R287) -/

/-- The devices of a mask. -/
def maskDevs (m : Nat) : List Nat := (List.range 64).filter (fun d => m.testBit d)
/-- Take the snapshot with the first beat; devices of it that are no members now count as failed. -/
def State.takeSnapshot (s : State) (ck : Nat) (o : EngOp) : EngOp :=
  let dev := devOfCluster ck
  let mask := o.snap.getD (Tab.get 0 (s.mod dev).mcast o.mcix).toNat
  { o with
    snap := some mask
    failed := o.failed ||| ((maskDevs mask).map (fun d => if d ≠ dev ∧ !s.isMember dev d then 2 ^ d else 0)).sum }
/-- The devices that a multicast sends to. -/
def State.mcastDevs (s : State) (ck : Nat) (o : EngOp) : List Nat :=
  (maskDevs (o.snap.getD 0)).filter (fun d => decide (d ≠ devOfCluster ck) && s.isMember (devOfCluster ck) d)

/-- One chunk of a multicast: read once, sent to every member of the snapshot. -/
def multicastChunk (ck : Nat) (o0 : EngOp) : EM Unit := do
  ioReadyE ck 0
  let s ← EM.state
  let o := s.takeSnapshot ck o0
  let c := o.chunk
  let src ← piecesM ck o false false (o.saddr + c.1) c.2
  let dst ← piecesM ck o true true (o.daddr + c.1) c.2
  if !dst.all (fun p => p.aper) then throw (.fail 0x11)
  let bs := (← readPieces ck o src).flatten
  let ds := s.mcastDevs ck o
  let qs := (ds.map (fun d => (overPieces dst bs).map (fun p => o.carry p.1 (setBits p.1.pa 49 6 d) p.2))).flatten
  EM.upd (fun s => s.onOp ck o.id (fun x => { x with snap := o.snap, failed := o.failed ||| x.failed, acks := x.acks + c.2 * ds.length }))
  EM.upd (fun s => s.postAll (qs.map (fun q => .peerAccess q)))

/-- MULTICAST_STORE (R287). -/
def execMulticastStore (s : State) : Out :=
  match s.ev with
  | some (.multicastStore ck op) => .next (s.chunkStep ck op (multicastChunk ck))
  | _ => .fault .noSuchEvent

/-- MULTICAST_REPLY (R287): the reply word, then the token; the end of the operation lets writes of the entry go on. -/
def execMulticastReply (s : State) : Out :=
  match s.ev with
  | some (.multicastReply ck op failed) =>
    match (s.cluster ck).op op with
    | none => .next s
    | some o =>
      let good := ((maskDevs (o.snap.getD 0)).filter (fun d => decide (d ≠ devOfCluster ck) && !failed.testBit d)).length
      let s1 := (s.setLocalN (ck * 16 + o.core) (8 * o.roff) 8 failed).onOp ck op (fun o => { o with bytes := o.len32 * good })
      .next (s1.completeOp ck op (if failed = 0 then 0 else 0x11))
  | _ => .fault .noSuchEvent

end Sys2Proof.Machine
end

