-- ==== Sys2Proof/Machine/Fpu.lean ====
section
/-!
DEFINITION. The fpu and fpd groups (spec 06_registers.md, R128, Table 6.8): FP32 and FP64 arithmetic, rounded once.
-/

namespace Sys2Proof.Machine

/-- A register read as a value of a format: its low bits (R113). -/
def pat (f : FFmt) (a : Word) : Nat := a.toNat % 2 ^ f.width
/-- A pattern written into a general register, zero-extended (R113). -/
def toReg (r : Nat × Fl) : Word × Fl := (BitVec.ofNat 64 r.1, r.2)
/-- The INT64 conversion of Table 6.8. -/
def cvtInt (f : FFmt) (rm : Rm) (a : Word) : Word × Fl :=
  let r := (f.decode (pat f a)).toInt rm (-(2 ^ 63)) (2 ^ 63 - 1)
  (BitVec.ofInt 64 r.1, r.2)

/-- `fpu.add`. -/
def execFpuAdd (x : FmtF) (s : State) : Out :=
  binary (.fpuAdd x) x.toFmtA (fun a b => toReg (fp32.add (Rm.ofCode x.rm) (pat fp32 a) (pat fp32 b))) s
/-- `fpu.sub`. -/
def execFpuSub (x : FmtF) (s : State) : Out :=
  binary (.fpuSub x) x.toFmtA (fun a b => toReg (fp32.sub (Rm.ofCode x.rm) (pat fp32 a) (pat fp32 b))) s
/-- `fpu.mul`. -/
def execFpuMul (x : FmtF) (s : State) : Out :=
  binary (.fpuMul x) x.toFmtA (fun a b => toReg (fp32.mul (Rm.ofCode x.rm) (pat fp32 a) (pat fp32 b))) s
/-- `fpu.div`. -/
def execFpuDiv (x : FmtF) (s : State) : Out :=
  binary (.fpuDiv x) x.toFmtA (fun a b => toReg (fp32.div (Rm.ofCode x.rm) (pat fp32 a) (pat fp32 b))) s
/-- `fpu.sqrt`. -/
def execFpuSqrt (x : FmtF) (s : State) : Out :=
  unary (.fpuSqrt x) x.toFmtA (fun a => toReg (fp32.sqrt (Rm.ofCode x.rm) (pat fp32 a))) s
/-- `fpu.fma`: z is the old value of dst. -/
def execFpuFma (x : FmtF) (s : State) : Out :=
  ternary (.fpuFma x) x.toFmtA
    (fun a b z => toReg (fp32.fma (Rm.ofCode x.rm) (pat fp32 z) (pat fp32 a) (pat fp32 b))) s
/-- `fpu.fms`: z is the old value of dst. -/
def execFpuFms (x : FmtF) (s : State) : Out :=
  ternary (.fpuFms x) x.toFmtA
    (fun a b z => toReg (fp32.fms (Rm.ofCode x.rm) (pat fp32 z) (pat fp32 a) (pat fp32 b))) s
/-- `fpu.min`: sets no flag. -/
def execFpuMin (x : FmtA) (s : State) : Out :=
  binary (.fpuMin x) x (fun a b => toReg (fp32.min (pat fp32 a) (pat fp32 b), 0)) s
/-- `fpu.max`: sets no flag. -/
def execFpuMax (x : FmtA) (s : State) : Out :=
  binary (.fpuMax x) x (fun a b => toReg (fp32.max (pat fp32 a) (pat fp32 b), 0)) s
/-- `fpu.abs`: sets no flag. -/
def execFpuAbs (x : FmtA) (s : State) : Out :=
  unary (.fpuAbs x) x (fun a => toReg (fp32.absBits (pat fp32 a), 0)) s
/-- `fpu.neg`: sets no flag. -/
def execFpuNeg (x : FmtA) (s : State) : Out :=
  unary (.fpuNeg x) x (fun a => toReg (fp32.negBits (pat fp32 a), 0)) s
/-- `fpu.cvti`: to INT64. -/
def execFpuCvti (x : FmtF) (s : State) : Out :=
  unary (.fpuCvti x) x.toFmtA (fun a => cvtInt fp32 (Rm.ofCode x.rm) a) s
/-- `fpu.cvtf`: from INT64. -/
def execFpuCvtf (x : FmtF) (s : State) : Out :=
  unary (.fpuCvtf x) x.toFmtA (fun a => toReg (fp32.round (Rm.ofCode x.rm) (FV.ofInt a.toInt))) s
/-- `fpu.cvtw`: from the other width. -/
def execFpuCvtw (x : FmtF) (s : State) : Out :=
  unary (.fpuCvtw x) x.toFmtA (fun a => toReg (fp32.round (Rm.ofCode x.rm) (fp64.decode (pat fp64 a)))) s
/-- `fpu.cvtb`: to BF16. -/
def execFpuCvtb (x : FmtF) (s : State) : Out :=
  unary (.fpuCvtb x) x.toFmtA (fun a => toReg (bf16.round (Rm.ofCode x.rm) (fp32.decode (pat fp32 a)))) s
/-- `fpu.cvt8`: to FP8 under R21. -/
def execFpuCvt8 (x : FmtF) (s : State) : Out :=
  unary (.fpuCvt8 x) x.toFmtA (fun a => toReg (fp8.round (Rm.ofCode x.rm) (fp32.decode (pat fp32 a)))) s
/-- `fpd.add`. -/
def execFpdAdd (x : FmtF) (s : State) : Out :=
  binary (.fpdAdd x) x.toFmtA (fun a b => toReg (fp64.add (Rm.ofCode x.rm) (pat fp64 a) (pat fp64 b))) s
/-- `fpd.sub`. -/
def execFpdSub (x : FmtF) (s : State) : Out :=
  binary (.fpdSub x) x.toFmtA (fun a b => toReg (fp64.sub (Rm.ofCode x.rm) (pat fp64 a) (pat fp64 b))) s
/-- `fpd.mul`. -/
def execFpdMul (x : FmtF) (s : State) : Out :=
  binary (.fpdMul x) x.toFmtA (fun a b => toReg (fp64.mul (Rm.ofCode x.rm) (pat fp64 a) (pat fp64 b))) s
/-- `fpd.div`. -/
def execFpdDiv (x : FmtF) (s : State) : Out :=
  binary (.fpdDiv x) x.toFmtA (fun a b => toReg (fp64.div (Rm.ofCode x.rm) (pat fp64 a) (pat fp64 b))) s
/-- `fpd.sqrt`. -/
def execFpdSqrt (x : FmtF) (s : State) : Out :=
  unary (.fpdSqrt x) x.toFmtA (fun a => toReg (fp64.sqrt (Rm.ofCode x.rm) (pat fp64 a))) s
/-- `fpd.fma`: z is the old value of dst. -/
def execFpdFma (x : FmtF) (s : State) : Out :=
  ternary (.fpdFma x) x.toFmtA
    (fun a b z => toReg (fp64.fma (Rm.ofCode x.rm) (pat fp64 z) (pat fp64 a) (pat fp64 b))) s
/-- `fpd.fms`: z is the old value of dst. -/
def execFpdFms (x : FmtF) (s : State) : Out :=
  ternary (.fpdFms x) x.toFmtA
    (fun a b z => toReg (fp64.fms (Rm.ofCode x.rm) (pat fp64 z) (pat fp64 a) (pat fp64 b))) s
/-- `fpd.min`: sets no flag. -/
def execFpdMin (x : FmtA) (s : State) : Out :=
  binary (.fpdMin x) x (fun a b => toReg (fp64.min (pat fp64 a) (pat fp64 b), 0)) s
/-- `fpd.max`: sets no flag. -/
def execFpdMax (x : FmtA) (s : State) : Out :=
  binary (.fpdMax x) x (fun a b => toReg (fp64.max (pat fp64 a) (pat fp64 b), 0)) s
/-- `fpd.abs`: sets no flag. -/
def execFpdAbs (x : FmtA) (s : State) : Out :=
  unary (.fpdAbs x) x (fun a => toReg (fp64.absBits (pat fp64 a), 0)) s
/-- `fpd.neg`: sets no flag. -/
def execFpdNeg (x : FmtA) (s : State) : Out :=
  unary (.fpdNeg x) x (fun a => toReg (fp64.negBits (pat fp64 a), 0)) s
/-- `fpd.cvti`: to INT64. -/
def execFpdCvti (x : FmtF) (s : State) : Out :=
  unary (.fpdCvti x) x.toFmtA (fun a => cvtInt fp64 (Rm.ofCode x.rm) a) s
/-- `fpd.cvtf`: from INT64. -/
def execFpdCvtf (x : FmtF) (s : State) : Out :=
  unary (.fpdCvtf x) x.toFmtA (fun a => toReg (fp64.round (Rm.ofCode x.rm) (FV.ofInt a.toInt))) s
/-- `fpd.cvtw`: from the other width. -/
def execFpdCvtw (x : FmtF) (s : State) : Out :=
  unary (.fpdCvtw x) x.toFmtA (fun a => toReg (fp64.round (Rm.ofCode x.rm) (fp32.decode (pat fp32 a)))) s
/-- `fpd.cvtb`: to BF16. -/
def execFpdCvtb (x : FmtF) (s : State) : Out :=
  unary (.fpdCvtb x) x.toFmtA (fun a => toReg (bf16.round (Rm.ofCode x.rm) (fp64.decode (pat fp64 a)))) s
/-- `fpd.cvt8`: to FP8 under R21. -/
def execFpdCvt8 (x : FmtF) (s : State) : Out :=
  unary (.fpdCvt8 x) x.toFmtA (fun a => toReg (fp8.round (Rm.ofCode x.rm) (fp64.decode (pat fp64 a)))) s

end Sys2Proof.Machine
end

