-- ==== Sys2Proof/Machine/Crypto.lean ====
section
/-!
DEFINITION. The algorithms that spec 04_objects.md (R71) and 23_power_host.md (R410, R414, R415) name: SHAKE256 (FIPS 202),
Ed448 in its pure form (RFC 8032) and X448 (RFC 7748). The spec names the standards; what stands here is taken from them
(PRESUMED, notes/assumptions 73).
-/

namespace Sys2Proof.Crypto

open Sys2Proof.Machine

/-! ### SHAKE256 -/

/-- The round constants of Keccak-f[1600]. -/
def keccakRound : List Word :=
  [0x0000000000000001, 0x0000000000008082, 0x800000000000808A, 0x8000000080008000, 0x000000000000808B, 0x0000000080000001,
    0x8000000080008081, 0x8000000000008009, 0x000000000000008A, 0x0000000000000088, 0x0000000080008009, 0x000000008000000A] ++
  [0x000000008000808B, 0x800000000000008B, 0x8000000000008089, 0x8000000000008003, 0x8000000000008002, 0x8000000000000080,
    0x000000000000800A, 0x800000008000000A, 0x8000000080008081, 0x8000000000008080, 0x0000000080000001, 0x8000000080008008]
/-- The rotation of the lane at x + 5y. -/
def keccakRot : List Nat :=
  [0, 1, 62, 28, 27, 36, 44, 6, 55, 20, 3, 10, 43, 25, 39, 41, 45, 15, 21, 8, 18, 2, 61, 56, 14]
/-- One round on 25 lanes: θ, then ρ and π, then χ and ι. -/
def keccakStep (a : List Word) (rc : Word) : List Word :=
  let l := fun (a : List Word) (x y : Nat) => a.getD (x % 5 + 5 * (y % 5)) 0
  let c := fun x => l a x 0 ^^^ l a x 1 ^^^ l a x 2 ^^^ l a x 3 ^^^ l a x 4
  let d := (List.range 5).map (fun x => c (x + 4) ^^^ (c (x + 1)).rotateLeft 1)
  let t := (List.range 25).map (fun i => (a.getD i 0 ^^^ d.getD (i % 5) 0).rotateLeft (keccakRot.getD i 0))
  let b := (List.range 25).map (fun i => l t (i % 5 + 3 * (i / 5)) (i % 5))
  (List.range 25).map (fun i =>
    let v := l b i (i / 5) ^^^ (~~~(l b (i + 1) (i / 5)) &&& l b (i + 2) (i / 5))
    if i = 0 then v ^^^ rc else v)
/-- The permutation. -/
def keccakF (a : List Word) : List Word := keccakRound.foldl keccakStep a
/-- A block of 136 bytes as the first 17 lanes. -/
def laneAt (bs : List Byte) (i : Nat) : Word := BitVec.ofNat 64 (leNat ((bs.drop (8 * i)).take 8))
/-- Absorb `n` blocks. -/
def absorb : Nat → List Word → List Byte → List Word
  | 0, a, _ => a
  | n + 1, a, bs =>
    let x := (List.range 25).map (fun i => if i < 17 then a.getD i 0 ^^^ laneAt bs i else a.getD i 0)
    absorb n (keccakF x) (bs.drop 136)
/-- Squeeze `n` blocks. -/
def squeeze : Nat → List Word → List Byte
  | 0, _ => []
  | n + 1, a => ((a.take 17).map (fun w => natLe w.toNat 8)).flatten ++ squeeze n (keccakF a)
/-- A message with its domain bits 1111 and the padding to whole blocks. -/
def shakePad (m : List Byte) : List Byte :=
  let r := 136 - m.length % 136
  if r = 1 then m ++ [0x9F] else m ++ [0x1F] ++ List.replicate (r - 2) 0 ++ [0x80]
/-- SHAKE256 of a string of bytes, taken to `n` bytes. -/
def shake256 (m : List Byte) (n : Nat) : List Byte :=
  let p := shakePad m
  (squeeze ((n + 135) / 136) (absorb (p.length / 136) (List.replicate 25 0) p)).take n

/-! ### The field of 2^448 − 2^224 − 1 -/

def fieldP : Nat := 2 ^ 448 - 2 ^ 224 - 1
/-- Differences in the field. -/
def fsub (a b : Nat) : Nat := (a + fieldP - b % fieldP) % fieldP
/-- A power: exponent of at most `n` bits. -/
def fpow (n : Nat) (a e : Nat) : Nat :=
  match n with
  | 0 => 1
  | k + 1 =>
    let h := fpow k a (e / 2)
    if e % 2 = 1 then h * h % fieldP * a % fieldP else h * h % fieldP
/-- The inverse. -/
def finv (a : Nat) : Nat := fpow 448 a (fieldP - 2)

/-! ### Ed448 -/

/-- d of the curve x² + y² = 1 + d x² y². -/
def edD : Nat := fieldP - 39081
/-- The order of the base point. -/
def edL : Nat := 2 ^ 446 - 13818066809895115352007386748515426880336692474882178609894547503885
/-- A point in projective coordinates. -/
structure EdPoint where
  x : Nat
  y : Nat
  z : Nat
  deriving DecidableEq, Repr
/-- The base point. -/
def edBase : EdPoint :=
  { x := 224580040295924300187604334099896036246789641632564134246125461686950415467406032909029192869357953282578032075146446173674602635247710
    y := 298819210078481492676017930443930673437544040154080242095928241372331506189835876003536878655418784733982303233503462500531545062832660
    z := 1 }
/-- The sum of two points. -/
def EdPoint.add (p q : EdPoint) : EdPoint :=
  let a := p.z * q.z % fieldP
  let b := a * a % fieldP
  let c := p.x * q.x % fieldP
  let d := p.y * q.y % fieldP
  let e := edD * c % fieldP * d % fieldP
  let f := fsub b e
  let g := (b + e) % fieldP
  let h := (p.x + p.y) * (q.x + q.y) % fieldP
  { x := a * f % fieldP * fsub h (c + d) % fieldP, y := a * g % fieldP * fsub d c % fieldP, z := f * g % fieldP }
/-- A multiple by a number of at most `n` bits. -/
def EdPoint.mul (n : Nat) (k : Nat) (p : EdPoint) : EdPoint :=
  match n with
  | 0 => ⟨0, 1, 1⟩
  | m + 1 =>
    let h := EdPoint.mul m (k / 2) p
    let d := h.add h
    if k % 2 = 1 then d.add p else d
/-- Two points are equal. -/
def EdPoint.same (p q : EdPoint) : Bool :=
  decide (p.x * q.z % fieldP = q.x * p.z % fieldP ∧ p.y * q.z % fieldP = q.y * p.z % fieldP)
/-- A point as 57 bytes: y, and the low bit of x as the highest bit. -/
def EdPoint.bytes (p : EdPoint) : List Byte :=
  let i := finv p.z
  natLe (p.y * i % fieldP + p.x * i % fieldP % 2 * 2 ^ 455) 57
/-- The point that 57 bytes stand for, if any. -/
def edPoint (b : List Byte) : Option EdPoint :=
  let v := leNat b
  let y := v % 2 ^ 455
  let sign := v / 2 ^ 455 % 2
  if b.length ≠ 57 ∨ fieldP ≤ y then none
  else
    let u := fsub (y * y) 1
    let w := fsub (edD * (y * y % fieldP)) 1
    let u3 := u * u % fieldP * u % fieldP
    let w3 := w * w % fieldP * w % fieldP
    let x := u3 * w % fieldP * fpow 448 (u3 * u % fieldP * u % fieldP * w3 % fieldP) ((fieldP - 3) / 4) % fieldP
    if x * x % fieldP * w % fieldP ≠ u ∨ (x = 0 ∧ sign = 1) then none
    else some ⟨if x % 2 = sign then x else fieldP - x, y, 1⟩
/-- The characters of a string as bytes. -/
def ascii (s : String) : List Byte := s.toList.map (fun c => BitVec.ofNat 8 c.toNat)
/-- What is hashed ahead of every message under a context string: dom4 of the pure form. -/
def dom4 (ctx : List Byte) : List Byte := ascii "SigEd448" ++ [0, BitVec.ofNat 8 ctx.length] ++ ctx
/-- The secret scalar of a 57-byte secret, and the other half of its hash. -/
def edSecret (secret : List Byte) : Nat × List Byte :=
  let h := shake256 secret 114
  (leNat (h.take 57) % 2 ^ 447 / 4 * 4 + 2 ^ 447, h.drop 57)
/-- The public key of a secret. -/
def ed448Public (secret : List Byte) : List Byte := (EdPoint.mul 448 (edSecret secret).1 edBase).bytes
/-- The signature of a message by a secret, under a context string. -/
def ed448Sign (secret msg ctx : List Byte) : List Byte :=
  let s := edSecret secret
  let r := leNat (shake256 (dom4 ctx ++ s.2 ++ msg) 114) % edL
  let rb := (EdPoint.mul 446 r edBase).bytes
  let k := leNat (shake256 (dom4 ctx ++ rb ++ ed448Public secret ++ msg) 114) % edL
  rb ++ natLe ((r + k * s.1) % edL) 57
/-- A signature of a message verifies under a public key and a context string: 4SB = 4R + 4kA. -/
def ed448Verify (key msg ctx sig : List Byte) : Bool :=
  let s := leNat (sig.drop 57)
  match edPoint key, edPoint (sig.take 57) with
  | some a, some r =>
    let k := leNat (shake256 (dom4 ctx ++ sig.take 57 ++ key ++ msg) 114) % edL
    let four := fun (p : EdPoint) => (p.add p).add (p.add p)
    decide (sig.length = 114) && decide (s < edL) &&
      (four (EdPoint.mul 446 s edBase)).same (four (r.add (EdPoint.mul 446 k a)))
  | _, _ => false

/-! ### X448 -/

/-- The ladder over the low `n` bits of a scalar, from the top: the two points (x2 : z2) and (x3 : z3). -/
def ladder (k u : Nat) : Nat → (Nat × Nat) × (Nat × Nat) → (Nat × Nat) × (Nat × Nat)
  | 0, s => s
  | n + 1, ((x2, z2), (x3, z3)) =>
    let bit := k / 2 ^ n % 2
    let p := if bit = 1 then ((x3, z3), (x2, z2)) else ((x2, z2), (x3, z3))
    let a := (p.1.1 + p.1.2) % fieldP
    let b := fsub p.1.1 p.1.2
    let aa := a * a % fieldP
    let bb := b * b % fieldP
    let e := fsub aa bb
    let da := fsub p.2.1 p.2.2 * a % fieldP
    let cb := (p.2.1 + p.2.2) % fieldP * b % fieldP
    let sum := (da + cb) % fieldP
    let dif := fsub da cb
    let q := ((aa * bb % fieldP, e * ((aa + 39081 * e) % fieldP) % fieldP), (sum * sum % fieldP, u * (dif * dif % fieldP) % fieldP))
    ladder k u n (if bit = 1 then (q.2, q.1) else q)
/-- X448 of a 56-byte scalar and a 56-byte u coordinate. -/
def x448 (scalar u : List Byte) : List Byte :=
  let k := leNat scalar % 2 ^ 447 / 4 * 4 + 2 ^ 447
  let v := leNat u % fieldP
  let r := (ladder k v 448 ((1, 0), (v, 1))).1
  natLe (r.1 * finv r.2 % fieldP) 56
/-- The base coordinate, 5. -/
def x448Base : List Byte := natLe 5 56

end Sys2Proof.Crypto
end

