-- ==== Sys2Proof/Machine/Object.lean ====
section
/-!
DEFINITION. The Gnonik object format (spec 04_objects.md, R59 to R72): reading a file and every check that rejects it,
resolving names and applying relocations, and the bytes that a loader stores. Nothing here is a step of the machine: a
linker or a loader is a program, and these are the functions that the rules have it compute.
-/

namespace Sys2Proof.Gnonik

open Sys2Proof.Machine

/-! ### The parts of a file (Tables 4.1, 4.2, 4.5, 4.7) -/

/-- A number of `n` little-endian bytes at an offset of a file (R59). -/
def numAt (f : List Byte) (off n : Nat) : Nat := leNat ((f.drop off).take n)

/-- The file header (Table 4.1). -/
structure Header where
  magic : Nat
  version : Nat
  kind : Nat
  flags : Nat
  nsect : Nat
  sectoff : Nat
  stroff : Nat
  strsize : Nat
  nsym : Nat
  symoff : Nat
  sigoff : Nat
  siglen : Nat
  rsvd : Nat
  deriving DecidableEq, Repr

/-- A section header (Table 4.2). -/
structure Section where
  name : Nat
  type : Nat
  flags : Nat
  vaddr : Nat
  fileoff : Nat
  size : Nat
  align : Nat
  relcount : Nat
  reloff : Nat
  deriving DecidableEq, Repr, Inhabited

/-- A symbol entry (Table 4.5). -/
structure Symbol where
  name : Nat
  bind : Nat
  skind : Nat
  sect : Nat
  value : Nat
  size : Nat
  deriving DecidableEq, Repr, Inhabited

/-- A relocation entry (Table 4.7). -/
structure Reloc where
  offset : Nat
  addend : Nat
  sym : Nat
  rtype : Nat
  rsvd : Nat
  deriving DecidableEq, Repr, Inhabited

/-- The header at offset 0. -/
def Header.read (f : List Byte) : Header :=
  { magic := numAt f 0 4, version := numAt f 4 2, kind := numAt f 6 2, flags := numAt f 8 4, nsect := numAt f 12 4
    sectoff := numAt f 16 8, stroff := numAt f 24 8, strsize := numAt f 32 4, nsym := numAt f 36 4
    symoff := numAt f 40 8, sigoff := numAt f 48 8, siglen := numAt f 56 4, rsvd := numAt f 60 4 }
/-- The section header at an offset. -/
def Section.read (f : List Byte) (o : Nat) : Section :=
  { name := numAt f o 4, type := numAt f (o + 4) 2, flags := numAt f (o + 6) 2, vaddr := numAt f (o + 8) 8
    fileoff := numAt f (o + 16) 8, size := numAt f (o + 24) 8, align := numAt f (o + 32) 4
    relcount := numAt f (o + 36) 4, reloff := numAt f (o + 40) 8 }
/-- The symbol entry at an offset. -/
def Symbol.read (f : List Byte) (o : Nat) : Symbol :=
  { name := numAt f o 4, bind := numAt f (o + 4) 1, skind := numAt f (o + 5) 1, sect := numAt f (o + 6) 2
    value := numAt f (o + 8) 8, size := numAt f (o + 16) 8 }
/-- The relocation entry at an offset. -/
def Reloc.read (f : List Byte) (o : Nat) : Reloc :=
  { offset := numAt f o 8, addend := numAt f (o + 8) 8, sym := numAt f (o + 16) 4, rtype := numAt f (o + 20) 2
    rsvd := numAt f (o + 22) 2 }

/-- A file's parts: its kind, the section headers with their contents and relocations, the symbols, the string
table. -/
structure Object where
  kind : Nat
  sects : List Section
  body : List (List Byte)
  rels : List (List Reloc)
  syms : List Symbol
  strs : List Byte
  deriving DecidableEq, Repr, Inhabited

/-- The section headers of a file. -/
def sections (f : List Byte) : List Section :=
  let h := Header.read f
  (List.range h.nsect).map (fun i => Section.read f (h.sectoff + 48 * i))

/-- Split a file at the offsets that its headers give; nothing is checked. -/
def Object.read (f : List Byte) : Object :=
  let h := Header.read f
  let ss := sections f
  { kind := h.kind
    sects := ss
    body := ss.map (fun x => if x.type = 3 then [] else (f.drop x.fileoff).take x.size)
    rels := ss.map (fun x => (List.range x.relcount).map (fun i => Reloc.read f (x.reloff + 24 * i)))
    syms := (List.range h.nsym).map (fun i => Symbol.read f (h.symoff + 24 * i))
    strs := (f.drop h.stroff).take h.strsize }

/-- A section's contents in memory: zeros for type zero (Table 4.3). -/
def Object.bytes (o : Object) (i : Nat) : List Byte :=
  let x := o.sects.getD i default
  if x.type = 3 then List.replicate x.size 0 else o.body.getD i []

/-- The characters of the name at an offset of the string table, if it is an ASCII name that ends in NUL. Only names that
the file uses are looked at: bytes of the table that none uses do not reject it (R60; DESIGN CHOICE, notes/assumptions
93). -/
def nameAt (strs : List Byte) (off : Nat) : Option (List Byte) :=
  let t := strs.drop off
  let n := t.takeWhile (fun b => decide (b ≠ 0))
  if n.length < t.length ∧ n.all (fun b => decide (b.toNat < 128)) then some n else none

/-! ### The layout of the file (R59, R60) -/

/-- The places of a file that are not empty: header, tables, contents and signature, as an offset and a length. -/
def places (f : List Byte) : List (Nat × Nat) :=
  let h := Header.read f
  let ss := sections f
  ([(0, 64), (h.sectoff, 48 * h.nsect), (h.stroff, h.strsize), (h.symoff, 24 * h.nsym), (h.sigoff, h.siglen)] ++
    ss.map (fun (x : Section) => (x.fileoff, if x.type = 3 ∨ x.type = 0 then 0 else x.size)) ++
    ss.map (fun (x : Section) => (x.reloff, 24 * x.relcount))).filter (fun p => decide (0 < p.2))

/-- Two places share no byte. -/
def apart (p q : Nat × Nat) : Bool := decide (p.1 + p.2 ≤ q.1 ∨ q.1 + q.2 ≤ p.1)

/-- No two of a list of places share a byte. -/
def allApart : List (Nat × Nat) → Bool
  | [] => true
  | p :: t => t.all (apart p) && allApart t

/-- The header's values and the layout (R59, R60, Table 4.1): a signed file ends with its 208-byte signature block at a
multiple of 8, and the signed flag, sigoff and siglen agree (R71). -/
def layoutOk (f : List Byte) : Bool :=
  let h := Header.read f
  decide (64 ≤ f.length) && decide (h.magic = 0x314B4E47) && decide (h.version = 1) &&
    decide (1 ≤ h.kind ∧ h.kind ≤ 3) && decide (h.flags < 2) && decide (h.rsvd = 0) && decide (1 ≤ h.nsect) &&
    decide (h.flags = 1 ↔ h.sigoff ≠ 0) && decide (h.siglen = if h.flags = 1 then 208 else 0) &&
    decide (h.sigoff % 8 = 0) && decide (h.sigoff = 0 ∨ h.sigoff + 208 = f.length) &&
    (places f).all (fun p => decide (p.1 + p.2 ≤ f.length)) && allApart (places f) &&
    decide (1 ≤ h.strsize) && decide (numAt f h.stroff 1 = 0)

/-! ### Sections (R61, R62) -/

def Section.has (x : Section) (b : Nat) : Bool := decide (bits x.flags b 1 = 1)
/-- Flags of Table 4.4. -/
def Section.a (x : Section) : Bool := x.has 0
def Section.w (x : Section) : Bool := x.has 1
def Section.x (x : Section) : Bool := x.has 2
def Section.t (x : Section) : Bool := x.has 3
def Section.sys (x : Section) : Bool := x.has 4

/-- Section 0: every field is zero (R61). -/
def nullSection : Section := ⟨0, 0, 0, 0, 0, 0, 0, 0, 0⟩

/-- The fields of a section header other than section 0, by file kind (R61, R62, R70, Tables 4.2 to 4.4). -/
def Section.ok (kind : Nat) (strs : List Byte) (x : Section) : Bool :=
  (nameAt strs x.name).isSome &&
    decide (1 ≤ x.type ∧ x.type ≤ 11) && decide (x.flags < 32) && decide (x.align ≤ 32) &&
    (if kind = 1 then decide (x.vaddr = 0) else decide (x.vaddr % 2 ^ x.align = 0) && decide (x.relcount = 0)) &&
    decide (x.relcount = 0 → x.reloff = 0) && decide (x.type = 3 → x.fileoff = 0) &&
    decide (x.sys = true → kind = 3) &&
    (if x.type = 1 then x.a && x.x && !x.w && !x.t && decide (2 ≤ x.align) && decide (x.size % 4 = 0) else true) &&
    (if x.t then decide (x.type = 2 ∨ x.type = 3) && decide (2 ≤ x.align) && decide (x.size % 4 = 0) else true) &&
    (if 4 ≤ x.type ∧ x.type ≤ 10 then x.a && !x.x else true) &&
    (if x.type = 4 then decide (6 ≤ x.align) && decide (x.size % 64 = 0) else true) &&
    (if x.type = 11 then decide (x.flags = 0) else true)

/-- No two sections with flag a overlap in virtual address (R62). -/
def mapsApart (ss : List Section) : Bool :=
  allApart ((ss.filter (fun x => x.a && decide (0 < x.size))).map (fun x => (x.vaddr, x.size)))

/-! ### Symbols (R64) -/

/-- A symbol entry other than entry 0 (Tables 4.5, 4.6). -/
def Symbol.ok (nsect : Nat) (strs : List Byte) (y : Symbol) : Bool :=
  (nameAt strs y.name).isSome && decide (y.bind ≤ 2) && decide (y.skind ≤ 10) &&
    decide (y.sect < nsect ∨ y.sect = 0xFFFF)

/-! ### Relocations (R66, R67, Table 4.8) -/

/-- The bytes that a relocation type patches; none for a type that is rejected. -/
def relocBytes (rtype : Nat) : Option Nat :=
  match rtype with
  | 1 => some 8
  | 2 => some 4
  | 3 => some 4
  | 4 => some 8
  | 5 => some 4
  | 6 => some 4
  | 7 => some 4
  | 8 => some 8
  | 9 => some 32
  | _ => none

/-- A relocation entry by itself: a type of Table 4.8, within its section, which holds bytes in the file; a code field
lies at a multiple of 4 in a code section, a command word at a multiple of 32 (R66, R67). -/
def Reloc.ok (x : Section) (nsym : Nat) (r : Reloc) : Bool :=
  match relocBytes r.rtype with
  | none => false
  | some n =>
    decide (r.rsvd = 0) && decide (r.sym < nsym) && decide (r.offset + n ≤ x.size) &&
      decide (x.type ≠ 3 ∧ x.type ≠ 11) &&
      (if 3 ≤ r.rtype ∧ r.rtype ≤ 6 then decide (x.type = 1) && decide (r.offset % 4 = 0) else true) &&
      (if r.rtype = 9 then decide (r.offset % 32 = 0) else true)

/-- The entries of a section: each is allowed, and no two patch the same byte. -/
def relocsOk (x : Section) (nsym : Nat) (rs : List Reloc) : Bool :=
  rs.all (Reloc.ok x nsym) && allApart (rs.map (fun r => (r.offset, (relocBytes r.rtype).getD 0)))

/-- A number as a signed 64-bit value. -/
def signed64 (v : Nat) : Int := (BitVec.ofNat 64 v).toInt

/-- The value that Table 4.8 forms from S, A and P, if it passes the type's check: the field's number. -/
def relocValue (rtype s a p : Nat) : Option Nat :=
  let v := (s + a) % 2 ^ 64
  let d := signed64 (s + a + 2 ^ 64 - p)
  match rtype with
  | 1 => some v
  | 2 => if v < 2 ^ 32 then some v else none
  | 3 => if -2 ^ 31 ≤ signed64 v ∧ signed64 v < 2 ^ 31 then some v else none
  | 4 => some v
  | 5 => if d % 4 = 0 ∧ -2 ^ 21 ≤ d ∧ d ≤ 2 ^ 21 - 4 then some (d / 4 % 2 ^ 20).toNat else none
  | 6 => if -2 ^ 14 ≤ signed64 v ∧ signed64 v < 2 ^ 14 then some v else none
  | 7 => if -2 ^ 31 ≤ d ∧ d < 2 ^ 31 then some (d % 2 ^ 32).toNat else none
  | 8 => if v % 4 = 0 ∧ v < 2 ^ 57 then some (v / 4) else none
  | 9 => if v % 64 = 0 ∧ v < 2 ^ 57 then some (v / 64) else none
  | _ => none

/-- The field of the patched bytes: its lowest bit and its width (Table 4.8). -/
def relocField (rtype : Nat) : Nat × Nat :=
  match rtype with
  | 1 => (0, 64)
  | 4 => (0, 64)
  | 5 => (0, 20)
  | 6 => (0, 15)
  | 8 => (2, 55)
  | 9 => (205, 51)
  | _ => (0, 32)

/-- Write a relocation's value into its field of a section's bytes; every other bit keeps its value (R67). -/
def patch (bs : List Byte) (r : Reloc) (v : Nat) : List Byte :=
  let n := (relocBytes r.rtype).getD 0
  let fl := relocField r.rtype
  let old := leNat ((bs.drop r.offset).take n)
  bs.take r.offset ++ natLe (setBits old fl.1 fl.2 v) n ++ bs.drop (r.offset + n)

/-! ### Payloads and wick records (R68 to R70) -/

/-- What Table 4.10 gives a payload type: bytes per entry, most entries, and the payload's alignment. -/
def payloadKind (type : Nat) : Option (Nat × Nat × Nat) :=
  match type with
  | 5 => some (64, 2 ^ 26, 256)
  | 6 => some (64, 1024, 256)
  | 7 => some (32, 256, 64)
  | 8 => some (512, 64, 64)
  | 9 => some (16, 128, 16)
  | 10 => some (64, 1, 64)
  | _ => none

/-- The payloads of a section from a position on: each header ends at its payload's first byte, whose address has the
alignment of Table 4.10, and its fields are those of Table 4.9. How the next payload is found is the model's choice
(DESIGN CHOICE, notes/assumptions 94): at the next aligned address that leaves room for a header; where the 16 bytes
before it are all zero the gap goes on; the bytes between are not looked at. -/
def payloadsOk (type vaddr : Nat) (bs : List Byte) : Nat → Nat → Bool
  | 0, _ => false
  | fuel + 1, pos =>
    match payloadKind type with
    | none => true
    | some (ent, most, al) =>
      let p := (vaddr + pos + 16 + al - 1) / al * al - vaddr
      let h := p - 16
      let count := numAt bs (h + 4) 4
      if bs.length < p then true
      else if numAt bs h 16 = 0 then payloadsOk type vaddr bs fuel p
      else
        decide (numAt bs h 2 = type) && decide (numAt bs (h + 2) 2 = 1) && decide (1 ≤ count ∧ count ≤ most) &&
          decide (numAt bs (h + 8) 4 = ent) && decide (numAt bs (h + 12) 4 = 0) && decide (p + count * ent ≤ bs.length) &&
          payloadsOk type vaddr bs fuel (p + count * ent)

/-- A wick entry record in a file (R70): state 00, asid, grp and status zero, predicate bits 0 and 1 fixed, g1 zero. -/
def wickEntryOk (r : WickRec) : Bool :=
  decide (r.state = 0) && decide (r.asid = 0) && decide (r.grp = 0) && decide (bits r.w1.toNat 56 8 = 0) &&
    decide (r.pred % 4 = 1) && decide (r.g1 = 0)

/-- The records of a section of type 4. -/
def wickEntries (bs : List Byte) : List WickRec :=
  (List.range (bs.length / 64)).map (fun i => WickRec.ofNat (numAt bs (64 * i) 64))

/-- What the framing of a section's contents must be (R68 to R70). -/
def contentOk (x : Section) (bs : List Byte) : Bool :=
  if x.type = 4 then (wickEntries bs).all wickEntryOk
  else if 5 ≤ x.type ∧ x.type ≤ 10 then payloadsOk x.type x.vaddr bs (bs.length + 1) 0
  else true

/-! ### The whole file (R60) and its signature (R71, R72) -/

/-- The section checks of a list that begins with the null section. -/
def sectionsOk (o : Object) : Bool :=
  match o.sects with
  | [] => false
  | z :: rest => decide (z = nullSection) && rest.all (Section.ok o.kind o.strs)

/-- The symbol checks of a list that begins with the null entry; a file that holds no entry at all has none to check (R64;
DESIGN CHOICE, notes/assumptions 92). -/
def symbolsOk (o : Object) : Bool :=
  match o.syms with
  | [] => true
  | z :: rest => decide (z = ⟨0, 0, 0, 0, 0, 0⟩) && rest.all (Symbol.ok o.sects.length o.strs)

/-- A file is signed. -/
def isSigned (f : List Byte) : Bool := decide ((Header.read f).flags % 2 = 1)
/-- The algorithm and the reserved bytes of a signature block (Table 4.11). -/
def blockOk (f : List Byte) : Bool :=
  let s := (Header.read f).sigoff
  decide (numAt f s 2 = 1) && decide (numAt f (s + 2) 6 = 0) && decide (numAt f (s + 202) 6 = 0)

/-- A file that a linker or loader accepts, its digest and signature apart (R60 to R71). -/
def accepts (f : List Byte) : Bool :=
  let o := Object.read f
  layoutOk f && (!isSigned f || blockOk f) && sectionsOk o && symbolsOk o &&
    (List.range o.sects.length).all (fun i =>
      relocsOk (o.sects.getD i default) o.syms.length (o.rels.getD i []) &&
        contentOk (o.sects.getD i default) (o.bytes i)) &&
    decide (o.kind = 1 ∨ mapsApart o.sects = true)

/-- The context string of the rule, and of every signature that follows its rules (R414). -/
def gnonikContext : List Byte := Crypto.ascii "sahhorn-gnonik"
/-- The signature block verifies under a public key (R71, Table 4.11): the algorithm, the key identifier, the digest of
the bytes before the block, and the signature of the digest under the context string of the rule. -/
def signatureOk (key f : List Byte) : Bool :=
  let s := (Header.read f).sigoff
  let at_ := fun (o n : Nat) => (f.drop (s + o)).take n
  blockOk f && decide (at_ 8 16 = Crypto.shake256 key 16) && decide (at_ 24 64 = Crypto.shake256 (f.take s) 64) &&
    Crypto.ed448Verify key (at_ 24 64) gnonikContext (at_ 88 114)

/-- A module takes a firmware image: kind 3, signed by a key that the module holds (R72). -/
def firmwareOk (keys : List (List Byte)) (f : List Byte) : Bool :=
  accepts f && decide ((Header.read f).kind = 3) && isSigned f && keys.any (fun k => signatureOk k f)

/-- A loader takes a file (R60, R72): firmware under the module's firmware keys; another file unsigned, or signed, under the
key by which the loader verifies it if it does. -/
def loadable (keys : List (List Byte)) (check : Option (List Byte)) (f : List Byte) : Bool :=
  if (Header.read f).kind = 3 then firmwareOk keys f
  else accepts f && (!isSigned f || (match check with | none => true | some k => signatureOk k f))

/-! ### Linking (R65, R67) -/

/-- Why a link fails (R60, R65, R67): an input that is rejected or of another kind; a global name with two definitions; or a
relocation, by its section, its offset and its symbol, whose symbol is undefined or whose value fails its check. -/
inductive LinkError where
  | rejected
  | twice
  | reloc (sect : List Byte) (offset : Nat) (sym : List Byte)
  deriving DecidableEq, Repr

/-- An input of the linker: an object of kind 1 and the virtual address that each of its sections takes. -/
structure Input where
  obj : Object
  base : List Nat
  deriving DecidableEq, Repr

/-- The final value of a symbol that an input defines. -/
def Input.value (i : Input) (y : Symbol) : Nat :=
  if y.sect = 0xFFFF then y.value else (i.base.getD y.sect 0 + y.value) % 2 ^ 64

/-- A symbol's name. -/
def Input.nameOf (i : Input) (y : Symbol) : List Byte := (nameAt i.obj.strs y.name).getD []

/-- The final values that the inputs define for a name under a binding, in link order. -/
def definitions (ins : List Input) (bind : Nat) (name : List Byte) : List Nat :=
  ins.flatMap (fun i =>
    ((i.obj.syms.drop 1).filter (fun y => decide (y.bind = bind ∧ y.sect ≠ 0 ∧ i.nameOf y = name))).map i.value)

/-- No global name has two definitions (R65). -/
def namesOk (ins : List Input) : Bool :=
  ins.all (fun i => (i.obj.syms.drop 1).all (fun y =>
    decide (y.bind = 1 → (definitions ins 1 (i.nameOf y)).length ≤ 1)))

/-- The final value of a symbol reference (R65): a local symbol is its own input's; a global definition wins over weak
ones, of which the first in link order wins; a weak reference without one is 0, and any other is an error. -/
def resolve (ins : List Input) (i : Input) (sym : Nat) : Option Nat :=
  let y := i.obj.syms.getD sym default
  if y.bind = 0 then (if y.sect = 0 then none else some (i.value y))
  else
    match definitions ins 1 (i.nameOf y), definitions ins 2 (i.nameOf y) with
    | v :: _, _ => some v
    | [], v :: _ => some v
    | [], [] => if y.bind = 2 then some 0 else none

/-- Apply the relocations of section `k` in table order; the first that fails its check ends it (R66, R67). -/
def relocate (ins : List Input) (i : Input) (k : Nat) : List Reloc → List Byte → Except LinkError (List Byte)
  | [], bs => .ok bs
  | r :: rs, bs =>
    let bad : LinkError := .reloc ((nameAt i.obj.strs (i.obj.sects.getD k default).name).getD []) r.offset
      (i.nameOf (i.obj.syms.getD r.sym default))
    match resolve ins i r.sym with
    | none => .error bad
    | some s =>
      match relocValue r.rtype s r.addend (i.base.getD k 0 + r.offset) with
      | none => .error bad
      | some v => relocate ins i k rs (patch bs r v)

/-- The contents of every section of an input after linking. -/
def Input.link (ins : List Input) (i : Input) : Except LinkError (List (List Byte)) :=
  (List.range i.obj.sects.length).mapM (fun k => relocate ins i k (i.obj.rels.getD k []) (i.obj.bytes k))

/-- Link: the contents of every section of every input, or no output at all (R67). -/
def linkInputs (ins : List Input) : Except LinkError (List (List (List Byte))) :=
  if namesOk ins then ins.mapM (Input.link ins) else .error .twice
/-- Link files, each with the addresses of its sections: a linker takes relocatable objects that it accepts (R59, R60). -/
def link (fs : List (List Byte × List Nat)) : Except LinkError (List (List (List Byte))) :=
  if fs.all (fun f => accepts f.1 && decide ((Header.read f.1).kind = 1)) then
    linkInputs (fs.map (fun f => ⟨Object.read f.1, f.2⟩))
  else .error .rejected

/-! ### Loading (R62, R63, R69, R70) -/

/-- A run of bytes that a loader stores: its virtual address, whether its pages are tolerant, and the bytes. -/
structure Chunk where
  va : Nat
  tol : Bool
  bytes : List Byte
  deriving DecidableEq, Repr

/-- The permission bits of the pages of a section (Table 4.4, Table 12.2): v, r, w, x, u and tol. -/
def Section.perms (x : Section) : Nat :=
  1 + 2 + (if x.w then 4 else 0) + (if x.x then 8 else 0) + (if x.sys then 0 else 16) + (if x.t then 256 else 0)

/-- A section's bytes as they are loaded: a wick record takes the asid of the target address space (R70). -/
def loadBytes (asid : Nat) (x : Section) (bs : List Byte) : List Byte :=
  if x.type = 4 then
    (wickEntries bs).flatMap (fun r => natLe (WickRec.toNat { r with w1 := putBits r.w1 0 9 asid }) 64)
  else bs

/-- What a loader stores of an image (kinds 2 and 3): every section with flag a, at its address. -/
def Object.chunks (o : Object) (asid : Nat) : List Chunk :=
  (List.range o.sects.length).filterMap (fun i =>
    let x := o.sects.getD i default
    if x.a ∧ o.kind ≠ 1 then some ⟨x.vaddr, x.t, loadBytes asid x (o.bytes i)⟩ else none)

/-- Store a run of bytes through the leaf entries of its pages, one byte or one FP32 word at a time; the words of a
tolerant page are stored as R36 narrows them. -/
def storeChunk (dev : Nat) (leaf : Nat → Word) (c : Chunk) (s : State) : State :=
  if c.tol then
    (List.range (c.bytes.length / 4)).foldl (fun s i =>
      s.storeList (leafPa dev (leaf (c.va + 4 * i)) (c.va + 4 * i)) (narrowWords ((c.bytes.drop (4 * i)).take 4))) s
  else
    (List.range c.bytes.length).foldl (fun s i =>
      s.storeList (leafPa dev (leaf (c.va + i)) (c.va + i)) ((c.bytes.drop i).take 1)) s

/-- Load an image into an address space of a device, given the leaf entry of each address, the device's firmware keys and
the key that the loader checks other files by; nothing is loaded from a file that is rejected (R60, R72). -/
def load (dev asid : Nat) (keys : List (List Byte)) (check : Option (List Byte)) (leaf : Nat → Word) (f : List Byte)
    (s : State) : Option State :=
  if loadable keys check f ∧ (Header.read f).kind ≠ 1 then
    some (((Object.read f).chunks asid).foldl (fun s c => storeChunk dev leaf c s) s)
  else none

/-! ### Writing a file (R59) -/

/-- The header's bytes. -/
def Header.write (h : Header) : List Byte :=
  natLe h.magic 4 ++ natLe h.version 2 ++ natLe h.kind 2 ++ natLe h.flags 4 ++ natLe h.nsect 4 ++ natLe h.sectoff 8 ++
    natLe h.stroff 8 ++ natLe h.strsize 4 ++ natLe h.nsym 4 ++ natLe h.symoff 8 ++ natLe h.sigoff 8 ++
    natLe h.siglen 4 ++ natLe h.rsvd 4
/-- A section header's bytes. -/
def Section.write (x : Section) : List Byte :=
  natLe x.name 4 ++ natLe x.type 2 ++ natLe x.flags 2 ++ natLe x.vaddr 8 ++ natLe x.fileoff 8 ++ natLe x.size 8 ++
    natLe x.align 4 ++ natLe x.relcount 4 ++ natLe x.reloff 8
/-- A symbol entry's bytes. -/
def Symbol.write (y : Symbol) : List Byte :=
  natLe y.name 4 ++ natLe y.bind 1 ++ natLe y.skind 1 ++ natLe y.sect 2 ++ natLe y.value 8 ++ natLe y.size 8
/-- A relocation entry's bytes. -/
def Reloc.write (r : Reloc) : List Byte :=
  natLe r.offset 8 ++ natLe r.addend 8 ++ natLe r.sym 4 ++ natLe r.rtype 2 ++ natLe r.rsvd 2

/-- Give sections their file offsets: contents and relocation tables one after another from an offset on. -/
def placeFrom : Nat → List (Section × List Reloc) → List Section
  | _, [] => []
  | pos, (x, rs) :: t =>
    let n := if x.type = 3 ∨ x.type = 0 then 0 else x.size
    let y := { x with
      fileoff := if n = 0 then 0 else pos
      relcount := rs.length
      reloff := if rs.isEmpty then 0 else pos + n }
    y :: placeFrom (pos + n + 24 * rs.length) t

/-- An unsigned file of an object: header, section table, string table, symbol table, then each section's contents and
relocations. -/
def Object.write (o : Object) : List Byte :=
  let n := o.sects.length
  let stroff := 64 + 48 * n
  let symoff := stroff + o.strs.length
  let ss := placeFrom (symoff + 24 * o.syms.length) (o.sects.zip o.rels)
  Header.write
      { magic := 0x314B4E47, version := 1, kind := o.kind, flags := 0, nsect := n, sectoff := 64, stroff := stroff
        strsize := o.strs.length, nsym := o.syms.length, symoff := symoff, sigoff := 0, siglen := 0, rsvd := 0 } ++
    ss.flatMap Section.write ++ o.strs ++ o.syms.flatMap Symbol.write ++
    ((o.sects.zip o.body).zip o.rels).flatMap (fun z =>
      (if z.1.1.type = 3 then [] else z.1.2) ++ z.2.flatMap Reloc.write)

end Sys2Proof.Gnonik
end

