-- ==== Sys2Proof/Machine/Fetch.lean ====
section
/-!
DEFINITION. Fetching an instruction's words (R39, R63, R85, R149, R254), choosing the slot that issues (R84), the
interrupt a slot may take (R236 to R238), and the wick entry that places a program for a test.
-/

namespace Sys2Proof.Machine

/-- The bytes of an instruction-cache line: the spec gives none; 64 (notes/assumptions 7). -/
def icBytes : Nat := 64
/-- The lines of an instruction cache of 32 KiB (Table 1.2). -/
def icLines : Nat := 512

/-- A word of instruction memory: present, or missed at an address. -/
inductive FetchRes where
  | word (w : IWord)
  | miss (va : Word)
  deriving DecidableEq, Repr

/-- A row of a scratchpad has words to repair when it is read (R152). -/
def State.rowMarked (s : State) (pa : Nat) : Bool :=
  match region pa with
  | .scratch _ _ => s.syms.any (fun e => decide (e.row = pa / 256))
  | _ => false
/-- Fetch one word for a slot: from the home in the near window, whose rows a fetch of its own repairs (R152), from the
core's instruction cache elsewhere. A line of a page without the user permission does not serve a user wick, whose fetch is translated anew (R254). -/
def State.fetchWord (s : State) (slot : Nat) (va : Word) : FetchRes :=
  let k := s.core (coreOf slot)
  if va.toNat / 2 ^ 57 ≠ 0 then .miss va
  else if isNear va then
    let pa := nearPa (coreOf slot) va
    if (s.readError pa).isSome || s.rowMarked pa then .miss va
    else .word (BitVec.ofNat 32 (if (region pa).inRange then s.readN pa 4 else 0))
  else
    let x := s.slot slot
    match k.icache.find? (fun l => decide (l.asid = x.asid) && decide (l.line = va.toNat / icBytes) &&
      (l.user || !x.user)) with
    | some l => .word (BitVec.ofNat 32 (leNat ((l.bytes.drop (va.toNat % icBytes)).take 4)))
    | none => .miss va

/-- How many literal words follow an instruction word (R39): its format has source fields, and one holds 30 or 31. -/
def literalWords (w : IWord) : Nat :=
  match parse w 0 0 with
  | .error _ => 0
  | .ok i => (i.enc.len - 4) / 4

/-- Fetch the words of the instruction at a slot's pc: the literal words first, and then the decode, so that a miss or
a fault of a literal word comes before a decode cause of the instruction word; R45 and R85 do not say which is met first
(DESIGN CHOICE, notes/assumptions 76). -/
def State.fetch (s : State) (slot : Nat) : Except Word (IWord × IWord × IWord) :=
  let pc := (s.slot slot).pc
  match s.fetchWord slot pc with
  | .miss va => .error va
  | .word w =>
    let n := literalWords w
    let l1 := if 1 ≤ n then s.fetchWord slot (pc + 4) else .word 0
    let l2 := if 2 ≤ n then s.fetchWord slot (pc + 8) else .word 0
    match l1, l2 with
    | .miss va, _ => .error va
    | _, .miss va => .error va
    | .word a, .word b => .ok (w, a, b)

/-- A wait that an interrupt abandons (R110, R117, R131, R174, R196, R216, R257, R293, R353). -/
def Wait.abandonable : Wait → Bool
  | .miss _ | .fetchMiss _ | .reg _ | .mq | .port | .flights | .acks | .ready | .room | .suspend | .monitor _ | .vigil _ _
  | .tiles | .unitReady | .unit => true
  | .none | .performing | .expired | .noticed _ _ | .router _ | .released _ | .turn | .tlb | .busy | .missHeld _ | .reply | .fetch _ | .reservation | .matrix | .held _ | .failing _ => false

/-- A slot with this wait stands in the rotation (R85). -/
def Wait.inRotation : Wait → Bool
  | .none | .expired | .noticed _ _ | .released _ => true
  | _ => false

/-- A one-slot source is unmasked in a slot that can take it (R236, R238). -/
def Slot.takes (x : Slot) (cause : Nat) : Bool :=
  x.occ && x.ie && decide (x.tvec ≠ 0) && !x.tmask.getLsbD (cause - 0xC0)

/-- The lowest-numbered slot of a core that takes a one-slot source. -/
def State.taker (s : State) (corek cause : Nat) : Option Nat :=
  ((List.range 8).map (fun j => corek * 8 + j)).find? (fun k => (s.slot k).takes cause)

/-- The interrupt a slot may take at its issue turn, lowest code first (R236): its cause and tval, and whether it is
one of the all-slots sources. -/
def State.interruptFor (s : State) (slot : Nat) : Option (Nat × Word × Bool) :=
  let x := s.slot slot
  let one := (s.core (coreOf slot)).irq.filter (fun e => decide (s.taker (coreOf slot) e.1 = some slot))
  let all := if x.occ && x.ie then x.irqAll else []
  let cs := (all.map (fun e => (e.1, e.2, true))) ++ (one.map (fun e => (e.1, e.2, false)))
  cs.foldl (fun best e =>
    match best with
    | none => some e
    | some b => if e.1 < b.1 then some e else some b) none

/-- A slot is eligible in a cycle (R84): it holds a wick, is in the rotation or may take an interrupt, and did not
issue in the 3 preceding cycles. -/
def State.eligible (s : State) (cycle slot : Nat) : Bool :=
  let x := s.slot slot
  x.occ && (match x.lastIssue with | none => true | some c => decide (c + 4 ≤ cycle)) &&
    (x.wait.inRotation || (x.wait.abandonable && (s.interruptFor slot).isSome))

/-- The slot that issues (R84): the first eligible one in ascending order after the one that issued last. -/
def State.pick (s : State) (corek : Nat) : Option Nat :=
  let k := s.core corek
  ((List.range 8).map (fun j => corek * 8 + (k.lastSlot + 1 + j) % 8)).find? (s.eligible k.cycle)

/-- An access that a router has let go leaves: what waits for the packets of its cluster looks again (R289, R410). -/
def State.leaveRouter (s : State) (slot : Nat) : State :=
  match (s.slot slot).wait with
  | .released _ => (s.onSlot slot (fun x => { x with wait := .none })).wakeCluster (clusterOf slot) .unit
  | _ => s
/-- Record that a slot issues in this cycle. -/
def State.issueFrom (s : State) (corek slot : Nat) : State :=
  let c := (s.core corek).cycle
  { ((s.leaveRouter slot).onCore corek (fun k => { k with lastSlot := slot % 8 })).onSlot slot
      (fun x => { x with lastIssue := some c, firm := false }) with cur := slot }
/-- The slot's instruction goes on after a wait that no interrupt abandons: it completes, or waits again, before an
interrupt is taken (R174, R266, R329, R378, R399). -/
def State.goesOn (s : State) (slot : Nat) : Bool := (s.slot slot).firm && (s.slot slot).wait.inRotation

/-- A resident member of a vigil's group that has not arrived stands in the rotation of a core (R205). -/
def State.memberMissing (s : State) (corek : Nat) (a : Arrival) : Bool :=
  decide (a.grp ≠ 0) && (List.range 8).any (fun j =>
    let x := s.slot (corek * 8 + j)
    x.occ && x.wait.inRotation && !x.handler && !x.uepc.getLsbD 0 &&
      decide (x.grp.toNat = a.grp ∧ x.asid.toNat = a.asid) &&
      !x.arrived.elem (a.line, a.epoch))

/-- What a core's own counters bring about in a cycle: a monitor wait's timeout (R171), the gating of an empty slot
(R120), the forwarding of held arrivals (R205). -/
def State.coreEvent (s : State) (corek : Nat) : Option Event :=
  let k := s.core corek
  let ks := (List.range 8).map (fun j => corek * 8 + j)
  match ks.find? (fun j => match (s.slot j).wait with | .monitor (some d) => decide (d ≤ k.cycle) | _ => false) with
  | some j => some (.monWaitTimeout j)
  | none =>
    match ks.find? (fun j =>
      let x := s.slot j
      !x.occ && !x.waitw && !x.gated && decide (x.emptySince + 16384 ≤ k.cycle)) with
    | some j => some (.slotGating j)
    | none =>
      match k.arrivals.find? (fun a => !s.memberMissing corek a) with
      | some a => some (.arrivalForward (.core corek) a)
      | none => none

/-- A core of a compute die that throttles withholds its issue cycle (R17, R406). -/
def State.withholds (s : State) (corek : Nat) : Bool :=
  (s.die (dieOfCluster (corek / 16))).throttled && Config.withheld (dieOfCluster (corek / 16)) (s.core corek).cycle
/-- A withheld cycle of a die is counted once, at its lowest-numbered core that takes turns (R406). -/
def State.countWithheld (s : State) (corek : Nat) : State :=
  let die := dieOfCluster (corek / 16)
  if s.turn.any (fun k => decide (dieOfCluster (k / 16) = die) && decide (k < corek)) then s
  else s.onDie die (fun d => { d with throttle := (d.throttle + 1) % 2 ^ 64 })

/-- The address at which a placed program starts: the near window's first scratchpad byte. -/
def placePc : Word := 0x01FFFFFF00000000

/-- A state in which the next step fetches an instruction from the current slot's near window: the slot holds a
system-mode wick that stands there, the bytes are stored, and its core has the next turn (notes/assumptions 4). -/
def State.place (s : State) (nbits w : Nat) : State :=
  let k := s.cur
  let x := s.slot k
  let n := (nbits + 7) / 8
  let s1 := s.setSlot k { x with
    occ := true, waitw := false, wait := .none, pc := placePc, kind := x.kind ||| 1, lastIssue := none
    gated := false, irqAll := [], pend := [] }
  let m := writeBytes s.mem (scratchPa (clusterOf k) 0) (w % 2 ^ (8 * n)) 12
  { s1 with mem := m, agenda := [], timers := [], turn := [coreOf k] }

end Sys2Proof.Machine
end

