-- ==== Sys2Proof/Machine/Peer.lean ====
section
/-!
DEFINITION. Accesses on their way: completions, reservations, peer accesses with their answers, pod membership, and the
neighbour ports (spec 08_scratchpad.md, R159 to R173; 13_links.md, R273 to R279; 06_registers.md, R116).
-/

namespace Sys2Proof.Machine

/-! ### Plain and relaxed completions (R159, R160) -/

/-- An answer of a plain access has arrived: at the last one the slot rejoins the rotation. -/
def Slot.replied (x : Slot) : Slot :=
  { x with replies := x.replies - 1, wait := if x.replies ≤ 1 then .none else x.wait }
/-- A wick instruction that reads a record from a peer goes on with it (R279). -/
def isLine : RegDst → Bool
  | .line _ => true
  | _ => false
/-- The last answer completes the instruction, but a wick instruction that goes on: the receive-queue words that it read
are removed (R116). Invalidations that waited for the access go on (R266). -/
def State.repliesIn (s : State) (slot : Nat) (dst : RegDst) : State :=
  if (s.slot slot).replies ≠ 0 then s
  else
    (if isLine dst then s else (s.takeWords slot).onSlot slot (fun x => { x with undo := none })).wakeDev (devOf slot) .tlb
/-- The slot waits for the answers of a plain access. -/
def Slot.replying (x : Slot) : Bool := x.occ && (decide (x.wait = .reply) || decide (x.wait = .reservation))

/-- ACCESS_COMPLETE (R159): the value lands, and at the last answer the slot rejoins the rotation. A value for a port
whose neighbour has no room waits (R116). -/
def execAccessComplete (s : State) : Out :=
  match s.ev with
  | some (.accessComplete slot dst v) =>
    if (s.slot slot).replying then
      if s.canLand slot dst then
        .next (((s.land ((s.slot slot).lastIssue.getD (s.core (coreOf slot)).cycle) slot dst v).onSlot slot
          Slot.replied).repliesIn slot dst)
      else .next (s.after 1 (.accessComplete slot dst v))
    else .next s
  | _ => .fault .noSuchEvent

/-- A relaxed access whose answers are all in ends (R160): its registers are no longer pending. -/
def State.endFlight (s : State) (corek id : Nat) : State :=
  match (s.core corek).flights.find? (fun f => decide (f.id = id)) with
  | none => s
  | some f =>
    if f.homes ≠ [] then s
    else
      let s1 := s.onCore corek (fun k => { k with flights := k.flights.filter (fun g => decide (g.id ≠ id)) })
      let done := fun (p : Pend) => !p.engine && decide (p.id = id)
      let s2 := s1.onSlot f.slot (fun x =>
        let left := x.pend.filter (fun p => !done p)
        { x with
          pend := left
          wait := (match x.wait with
            | .reg n => if left.any (fun p => decide (p.reg = n)) then x.wait else .none
            | .suspend => .none
            | w => w) })
      (((s2.wakeCore corek .flights).wakeCore corek .performing).wakeCluster (corek / 16) .unit).wakeDev
        (devOfCluster (corek / 16)) .tlb
/-- Remove the first occurrence of a number. -/
def removeOne (d : Nat) : List Nat → List Nat
  | [] => []
  | e :: t => if e = d then t else e :: removeOne d t
/-- Change a flight. -/
def State.onFlight (s : State) (corek id : Nat) (f : Flight → Flight) : State :=
  s.onCore corek (fun k => { k with flights := k.flights.map (fun g => if g.id = id then f g else g) })
/-- One of a flight's requests is answered. -/
def State.flightAnswered (s : State) (corek id pa : Nat) : State :=
  s.onFlight corek id (fun g => { g with homes := removeOne pa g.homes })

/-- Perform a relaxed access of the module at its home: a load lands while its wick is in the slot; a store to a
reserved word joins the queue, and its answer is still to come (R168). -/
def State.performNear (s : State) (corek cycle : Nat) (q : PeerReq) : State :=
  let id := q.flight.getD 0
  match q.kind with
  | .store =>
    if s.reserved q.pa q.n then s.reserve (devOf q.src) q
    else (s.storeReq (clusterOf q.src) q).flightAnswered corek id q.pa
  | _ =>
    match s.readFault q.pa q.n with
    | some e => (s.accessError q e.1 e.2).flightAnswered corek id q.pa
    | none =>
      let s1 := s.serveSpan q.pa q.n
      (if s.holds q then s1.land cycle q.src q.dst (landValue q.dst q.n (s.loadHome q.pa q.n)) else s1).flightAnswered
        corek id q.pa
/-- A relaxed access's event: its homes in the module perform it, or one answer lands. -/
def State.relaxedStep (s : State) (corek id pa : Nat) (dst : RegDst) (v : Option Nat) : State :=
  match (s.core corek).flights.find? (fun f => decide (f.id = id)) with
  | none => s
  | some f =>
    let s1 :=
      match v with
      | none => f.near.foldl (fun (s : State) q => s.performNear corek f.cycle q) s
      | some w => (if s.holds f.req then s.land f.cycle f.slot dst w else s).flightAnswered corek id pa
    s1.endFlight corek id
/-- RELAXED_ACCESS_COMPLETE (R160). -/
def execRelaxedAccessComplete (s : State) : Out :=
  match s.ev with
  | some (.relaxedAccessComplete core id pa dst v) => .next (s.relaxedStep core id pa dst v)
  | _ => .fault .noSuchEvent

/-! ### Reservations and near-memory atomics (R168, R371) -/

/-- The cluster on whose behalf a home of a device performs a request; none for a request of another device. -/
def homeCluster (dev : Nat) (q : PeerReq) : Nat := if devOf q.src = dev then clusterOf q.src else 2 ^ 30
/-- Answer a store that has been performed at a home of a device. -/
def State.storeDone (s : State) (dev : Nat) (q : PeerReq) : State :=
  if devOf q.src ≠ dev then s.post (.peerAck q) else s.answer q 0
/-- The word goes to the head of its queue: the request is performed with the word's current value, and the next one's
grant follows. -/
def State.grantWord (s : State) (dev word : Nat) : State :=
  match s.resv.find? (fun r => decide (r.word = word)) with
  | none => s
  | some r =>
    match r.q with
    | [] => { s with resv := s.resv.filter (fun r => decide (r.word ≠ word)) }
    | q :: t =>
      let s1 := { s with resv := s.resv.map (fun (r : Resv) => if r.word = word then { r with q := t } else r) }
      let s2 := s1.perform (homeCluster dev q) q
      let s3 := if q.kind = .store then s2.storeDone dev q else s2
      s3.post (.atomicReservationGrant dev word)
/-- ATOMIC_RESERVATION_GRANT (R168). -/
def execAtomicReservationGrant (s : State) : Out :=
  match s.ev with
  | some (.atomicReservationGrant dev word) => .next (s.grantWord dev word)
  | _ => .fault .noSuchEvent
/-- LANTERN_ATOMIC (R371). -/
def execLanternAtomic (s : State) : Out :=
  match s.ev with
  | some (.lanternAtomic dev _ _ q) => .next (s.perform (homeCluster dev q) q)
  | _ => .fault .noSuchEvent
/-- MON_WAIT_TIMEOUT (R171): the wait ends, and the instruction is executed again. -/
def execMonWaitTimeout (s : State) : Out :=
  match s.ev with
  | some (.monWaitTimeout slot) =>
    .next (s.onSlot slot (fun x => match x.wait with | .monitor _ => { x with wait := .expired } | _ => x))
  | _ => .fault .noSuchEvent

/-! ### Peer accesses at the destination (R275, R277) -/

/-- The device that a request names. -/
def peerDev (q : PeerReq) : Nat := bits q.pa 49 6
/-- Bytes of an engine's operation: the store of a fabric send or a multicast. -/
def isEngineReq (q : PeerReq) : Bool := decide (q.v2 = 2 ∨ q.v2 = 3) && decide (q.kind = .store)
/-- The bytes as the operation counts them: a tolerant page halves them (R259). -/
def opBytes (q : PeerReq) : Nat := if q.v2 = 3 then 2 * q.n else q.n
/-- The operation that bytes belong to. -/
def State.reqOp (s : State) (q : PeerReq) : Option EngOp := (s.cluster (clusterOf q.src)).op (q.flight.getD 0)
/-- Change it. -/
def State.onReqOp (s : State) (q : PeerReq) (f : EngOp → EngOp) : State := s.onOp (clusterOf q.src) (q.flight.getD 0) f
/-- An engine's bytes are no longer on their way; the operation ends when it can. -/
def State.bytesSettled (s : State) (q : PeerReq) : State :=
  ((s.onReqOp q (fun o => { o with acks := o.acks - opBytes q })).opEnd (clusterOf q.src) (q.flight.getD 0)).wakeDev (devOf q.src) .tlb

/-- A thread's store to a peer is no longer outstanding: releases and fences look again; a release store or a relaxed
one has its answer (R163, R173). -/
def State.storeSettled (s : State) (q : PeerReq) : State :=
  let s1 := s.onSlot q.src (fun x => { x with peerOut := x.peerOut.erase ⟨peerDev q, q.num⟩ })
  let s2 := ((s1.wakeDev (devOf q.src) .acks).wakeDev (devOf q.src) .performing).wakeDev (devOf q.src) .tlb
  if q.flight.isSome then s2.answer { q with dst := .none } 0
  else if q.v2 = 1 then s2.answer { q with dst := .none } 0
  else s2

/-- A request of a peer meets a failed home: it is answered as a machine error (R410). -/
def State.peerFailed (s : State) (q : PeerReq) : State :=
  if isEngineReq q then (s.failOp (clusterOf q.src) (q.flight.getD 0) 0x12).bytesSettled q
  else if q.kind = .store then (s.accessError q 0xB2 q.pa).storeSettled q
  else s.failRequest q 0xB2 q.pa

/-- A list of bytes cut at 512-byte granules. -/
def cutGranules (pa : Nat) : Nat → List Byte → List (Nat × List Byte)
  | 0, _ => []
  | n + 1, bs =>
    let k := 512 - pa % 512
    if bs = [] then [] else (pa, bs.take k) :: cutGranules (pa + k) n (bs.drop k)
/-- The requests that an engine's bytes make at the memory controllers of a device, with stream 0 (R284). -/
def lanternReqs (q : PeerReq) : List Event :=
  (cutGranules q.pa 3 (natLe q.v q.n)).map (fun p =>
    .lanternRequest (peerDev q) (bits p.1 44 5) (bits p.1 9 3)
      { stream := 0, asid := q.asid, pa := p.1, n := p.2.length, store := true, fmt := 3, data := p.2 })
/-- An admitted request at its home. -/
def State.peerPerform (s : State) (q : PeerReq) : State :=
  let d := peerDev q
  match q.kind with
  | .store =>
    if isEngineReq q && (s.writeError q.pa q.n).isSome then
      (s.failErrors q.src (perGranule ((s.mergeFaults q.pa q.n).map (fun a => (0xB2, a))))).peerFailed q
    else if isEngineReq q then
      (if isDram q.pa then s.postAll (lanternReqs q)
        else (s.repairRows q.pa q.n).storeHome (homeCluster d q) q.pa q.n q.v).post (.peerAck q)
    else if s.reserved q.pa q.n then s.reserve d q
    else (s.perform (homeCluster d q) q).post (.peerAck q)
  | .load => s.perform (homeCluster d q) q
  | .atomic _ =>
    match region q.pa with
    | .dram dev so off => s.post (.lanternAtomic dev so (bits off 9 3) q)
    | _ => s.reserve d q
/-- The device admits a request; its own engines' bytes pass no grant (R275). -/
def State.peerAdmits (s : State) (q : PeerReq) : Bool :=
  let d := peerDev q
  decide (d = devOf q.src) || (s.grant d (devOf q.src)).admits q.pa q.n q.kind
/-- A request that has been admitted reaches its home: at a die that is not yet ready it is held at the router, in order
(R410). -/
def State.peerLands (s : State) (q : PeerReq) : State :=
  match s.home (2 ^ 30) q.pa with
  | .ok => s.peerPerform q
  | .held => s.onDie (dieKey (peerDev q) (bits q.pa 44 5)) (fun x => { x with router := x.router ++ [q] })
  | .failed => s.peerFailed q
/-- A request arrives: it is admitted, or refused (R277). -/
def State.peerArrives (s : State) (q : PeerReq) : State :=
  if s.peerAdmits q = false then (s.refuse (peerDev q) (devOf q.src) q.pa).post (.peerRefusal q) else s.peerLands q
/-- A request that a router lets go is performed before the next one, so that the accesses of one slot to one byte keep
their order (R161): a load or an atomic waits for no event but its word's reservation. -/
def State.routerPerforms (s : State) (q : PeerReq) : State :=
  if q.kind = .store then s.peerPerform q
  else if s.reserved q.pa q.n then s.reserve (peerDev q) q
  else s.perform (homeCluster (peerDev q) q) q
/-- It reaches its home: as `peerLands`. -/
def State.routerLets (s : State) (q : PeerReq) : State :=
  match s.home (2 ^ 30) q.pa with
  | .ok => s.routerPerforms q
  | _ => s.peerLands q
/-- The requests held at a die's router go on, in order; they have been admitted, and a grant written since applies to
accesses that arrive after it (R292). -/
def State.releaseRouter (s : State) (die : Nat) : State :=
  (s.die die).router.foldl (fun (s : State) q => s.routerLets q) (s.onDie die (fun x => { x with router := [] }))
/-- PEER_ACCESS (R277). -/
def execPeerAccess (s : State) : Out :=
  match s.ev with
  | some (.peerAccess q) => .next (s.peerArrives q)
  | _ => .fault .noSuchEvent

/-! ### Answers at the source (R173, R278, R279) -/

/-- An acknowledgement: a fabric send's bytes count and decrement its vigil (R285). -/
def State.acknowledged (s : State) (q : PeerReq) : State :=
  if isEngineReq q then
    match s.reqOp q with
    | none => s
    | some o => (if o.eq = 2 then s.performed (clusterOf q.src) o (opBytes q) else s).bytesSettled q
  else s.storeSettled q
/-- PEER_ACK (R173). -/
def execPeerAck (s : State) : Out :=
  match s.ev with
  | some (.peerAck q) => .next (s.acknowledged q)
  | _ => .fault .noSuchEvent

/-- A thread's refusal goes to its slot's latch, or, its wick having left, to the log and the service core (R227,
R229). -/
def State.recordRefusal (s : State) (q : PeerReq) : State :=
  let d := peerDev q
  if s.holds q then s.onSlot q.src (fun x => x.latchFault q.pc d)
  else
    let v := Deferred.value ⟨q.pc, d, false, []⟩
    (((s.log (dieOf q.src) 0xC5 [v, BitVec.ofNat 64 q.asid]).postIrq (dieOf q.src * 1024 + 15) 0xC5 v).settleRefusal
      (devOf q.src) d 1)
/-- A refusal message arrives: it counts, and an operation fails, or the access is answered as refused (R278, R279,
R285, R287). -/
def State.refused (s : State) (q : PeerReq) : State :=
  let d := peerDev q
  let s1 := s.countRefusal (devOf q.src) d
  if isEngineReq q then
    match s1.reqOp q with
    | none => s1.settleRefusal (devOf q.src) d 1
    | some o =>
      let s2 := s1.onReqOp q (fun o => { o with refused := o.refused ++ [d], failed := o.failed ||| 2 ^ d })
      (if o.eq = 2 then s2.failOp (clusterOf q.src) o.id 0x11 else s2).bytesSettled q
  else
    let s2 := s1.recordRefusal q
    if q.kind = .store then s2.storeSettled q else s2.answer q 0
/-- PEER_REFUSAL (R278). -/
def execPeerRefusal (s : State) : Out :=
  match s.ev with
  | some (.peerRefusal q) => .next (s.refused q)
  | _ => .fault .noSuchEvent
/-- FENCE_MARKER (R278): the destination clears the source's fault fence. -/
def execFenceMarker (s : State) : Out :=
  match s.ev with
  | some (.fenceMarker dev src) => .next (s.onGrant dev src (fun g => g.setFence false))
  | _ => .fault .noSuchEvent

/-! ### Membership (R273, R279) -/

/-- A request of a module to a peer. -/
def toPeer (dev peer : Nat) (q : PeerReq) : Bool := decide (devOf q.src = dev) && decide (bits q.pa 55 1 = 0) && decide (peerDev q = peer)
/-- The request that an event still carries. -/
def carriedReq : Event → Option PeerReq
  | .peerAccess q => some q
  | .lanternAtomic _ _ _ q => some q
  | _ => none
/-- An event carries a request of a kind. -/
def carries (p : PeerReq → Bool) (e : Event) : Bool := (carriedReq e).any p
/-- The requests of a kind that are outstanding: on their way, queued for a word, or held at a router. -/
def State.outstanding (s : State) (p : PeerReq → Bool) : List PeerReq :=
  ((s.agenda ++ s.timers.map Prod.snd).filterMap carriedReq ++ (s.resv.map (fun r => r.q)).flatten ++
    (s.dies.map (fun e => e.2.router)).flatten).filter p
/-- They are taken out of every queue. -/
def State.dropOutstanding (s : State) (p : PeerReq → Bool) : State :=
  { s with
    agenda := s.agenda.filter (fun e => !carries p e)
    timers := s.timers.filter (fun t => !carries p t.2)
    resv := s.resv.map (fun (r : Resv) => { r with q := r.q.filter (fun q => !p q) })
    dies := Tab.mapVals (fun _ d => { d with router := d.router.filter (fun q => !p q) }) s.dies }
/-- A plain load or atomic. -/
def plainReply (q : PeerReq) : Bool := q.flight.isNone && decide (q.kind ≠ .store)
/-- A request of the plain access that a slot waits in. -/
def ofAccess (slot wick : Nat) (q : PeerReq) : Bool := plainReply q && decide (q.src = slot ∧ q.wick = wick)
/-- The refusal that an event brings to such an access. -/
def refusalOf (slot wick : Nat) : Event → Option PeerReq
  | .peerRefusal q => if ofAccess slot wick q then some q else none
  | _ => none
/-- An access is given up, with all its requests at whichever peers: no answer of it comes any more, and refusals that were
on their way are settled as they arrive (R278, R279). -/
def State.dropAccess (s : State) (slot wick : Nat) : State :=
  let refs := (s.agenda ++ s.timers.map Prod.snd).filterMap (refusalOf slot wick)
  let gone := fun (e : Event) => isCompletion slot e || (refusalOf slot wick e).isSome
  let s1 := s.dropOutstanding (ofAccess slot wick)
  refs.foldl (fun (s : State) q => (s.countRefusal (devOf slot) (peerDev q)).settleRefusal (devOf slot) (peerDev q) 1)
    { s1 with agenda := s1.agenda.filter (fun e => !gone e), timers := s1.timers.filter (fun t => !gone t.2) }
/-- A plain load or atomic whose peer has left raises 0x92 at its own pc, once, and has no effect (R279). -/
def State.abandonAccess (s : State) (q : PeerReq) : State :=
  if s.holds q ∧ (s.slot q.src).replying then
    ((((s.dropAccess q.src q.wick).onSlot q.src (fun x => { x.undone with replies := 0, wait := .none })).takeTrap q.src 0x92 0
      q.pc false).wakeDev (devOf q.src) .tlb)
  else s
/-- A peer leaves: plain loads and atomics raise 0x92; every other outstanding access is recorded as a refusal. -/
def State.leavePod (s : State) (dev peer : Nat) : State :=
  let out := s.outstanding (toPeer dev peer)
  let s1 := (s.onMod dev (fun m => { m with members := m.members.filter (fun d => decide (d ≠ peer)) })).dropOutstanding
    (toPeer dev peer)
  ((out.filter plainReply).foldl (fun (s : State) q => s.abandonAccess q) s1).postAll
    ((out.filter (fun q => !plainReply q)).map (fun q => .peerRefusal q))
/-- PEER_LEFT (R279). -/
def execPeerLeft (s : State) : Out :=
  match s.ev with
  | some (.peerLeft dev peer) => .next (s.leavePod dev peer)
  | _ => .fault .noSuchEvent
/-- LINK_TRAINED (R273). -/
def execLinkTrained (s : State) : Out :=
  match s.ev with
  | some (.linkTrained dev peer) =>
    .next (if s.isMember dev peer then s else s.onMod dev (fun m => { m with members := m.members ++ [peer] }))
  | _ => .fault .noSuchEvent

/-! ### Neighbour ports (R116) -/

/-- A word enters a core's receive queue, or waits in the link while the queue is full; the first slot that waits on mq
is served. A fenced core discards it, and the fault log counts it (R235). -/
def State.wordArrives (s : State) (corek : Nat) (w : Word) : State :=
  let k := s.core corek
  if k.fenced then s.log (dieOfCluster (corek / 16)) 0xB6 [BitVec.ofNat 64 corek, w]
  else (s.setCore corek { k with link := k.link ++ [w] }).settleQueue corek
/-- PORT_WORD_ARRIVAL (R116). -/
def execPortWordArrival (s : State) : Out :=
  match s.ev with
  | some (.portWordArrival core w) => .next (s.wordArrives core w)
  | _ => .fault .noSuchEvent

end Sys2Proof.Machine
end

