-- ==== Sys2Proof/Machine/Lantern.lean ====
section
/-!
DEFINITION. Stream slots, the lan instructions and their queued forms, single requests to a Lantern, and Beacon lists
(spec 20_lanterns.md, R356 to R377; 12_translation.md, R263).
-/

namespace Sys2Proof.Machine

/-! ### Stream slots (R359, R374, R375) -/

/-- A stream slot of a module. -/
def State.stream (s : State) (dev n : Nat) : Stream := Tab.get {} (s.mod dev).streams n
/-- The id of a slot's image, 0 when it is empty. -/
def Stream.id (t : Stream) : Nat := match t.image with | some i => (lheadOf i).id | none => 0
/-- Fill or empty a slot: its installation number advances modulo 2^16. -/
def State.setStream (s : State) (dev n : Nat) (img : Option (List Byte)) : State :=
  s.onMod dev (fun m => { m with streams := Tab.upd {} m.streams n (fun t => { inst := (t.inst + 1) % 2 ^ 16, image := img }) })
/-- Empty slots 1 to 15. -/
def State.emptyStreams (s : State) (dev : Nat) : State :=
  (List.range 15).foldl (fun s n => s.setStream dev (n + 1) none) s
/-- Clear the counters of every Lantern. -/
def State.clearLanterns (s : State) (dev : Nat) : State :=
  s.onMod dev (fun m => { m with lanterns := Tab.mapVals (fun _ l => { l with taken := 0, failed := 0, units := 0 }) m.lanterns })

/-- The address at which a memory stack's functions stand for the model. -/
def stackPa (dev socket : Nat) : Nat := dev * 2 ^ 49 + socket * 2 ^ 44
/-- The sockets of the memory stacks. -/
def stackSockets : List Nat := (List.range 24).filter isStack
/-- A change of the stream slots goes to the Lanterns of every stack: it waits until each is ready, and a failed one fails
the wick (R410; DESIGN CHOICE, notes/assumptions 110). -/
def stacksReadyM : M Unit := do
  let dev := devOf (← here)
  stackSockets.forM (fun so => readyM (stackPa dev so))
/-- The same for a queued change. -/
def stacksReadyE (ck : Nat) : EM Unit := do
  let s ← EM.state
  stackSockets.forM (fun so =>
    match s.home (dieOfCluster ck) (stackPa (devOfCluster ck) so) with
    | .ok => pure ()
    | .held => throw .stall
    | .failed => throw (.fail 0x12))
/-- The stack of a Lantern. -/
def lanternSocket (k : Nat) : Nat := if k / 8 < 6 then k / 8 else k / 8 + 12
/-- `lan.inst` (R374): nothing is installed unless every check passes. -/
def execLanInst (x : FmtA) (s : State) : Out :=
  runInstr (.lanInst x) s <| firmM do
    let me ← here
    let a ← rd x.a
    let n ← rd x.b
    prepDst x.d.toNat
    needM (decide (1 ≤ n.toNat ∧ n.toNat ≤ 15)) 0x86
    needM (decide (a.toNat % 64 = 0)) 0x20 a
    stacksReadyM
    let ls ← readLines a 0 47
    let img := lineBytes ls
    match imageCause img with
    | some c => trapM c
    | none => pure ()
    let old := ((← getS).stream (devOf me) n.toNat).id
    modS (fun s => s.setStream (devOf me) n.toNat (some img))
    linesDoneM
    wr x.d (BitVec.ofNat 64 old)
    return .next

/-- `lan.drop` (R375). -/
def execLanDrop (x : FmtA) (s : State) : Out :=
  runInstr (.lanDrop x) s do
    let me ← here
    let v ← rd x.a
    prepDst x.d.toNat
    let n := v.toNat % 16
    needM (decide (n ≠ 0)) 0x86
    stacksReadyM
    let old := ((← getS).stream (devOf me) n).id
    modS (fun s => s.setStream (devOf me) n none)
    wr x.d (BitVec.ofNat 64 old)
    return .next

/-- `lan.dflt` (R375). -/
def execLanDflt (x : FmtA) (s : State) : Out :=
  runInstr (.lanDflt x) s do
    let me ← here
    stacksReadyM
    modS (fun s => (s.emptyStreams (devOf me)).clearLanterns (devOf me))
    return .next

/-- The value of a selector of `lan.stat` (R376). -/
def State.lanStat (s : State) (dev sel k : Nat) : Nat :=
  let l := Tab.get {} (s.mod dev).lanterns k
  if sel = 0 then 1
  else if sel < 16 then
    let t := s.stream dev sel
    t.id * 2 ^ 32 + t.inst * 2 ^ 16 + (if t.image.isSome then 1 else 0)
  else if 96 ≤ k then 0
  else if sel = 0x100 then l.taken
  else if sel = 0x101 then l.failed
  else if sel = 0x102 then l.units
  else 0

/-- `lan.stat` (R376): the counters of a Lantern are its stack's. -/
def execLanStat (x : FmtA) (s : State) : Out :=
  runInstr (.lanStat x) s do
    let me ← here
    let a ← rd x.a
    let b ← rd x.b
    if 0x100 ≤ a.toNat % 2 ^ 16 ∧ a.toNat % 2 ^ 16 ≤ 0x102 ∧ b.toNat % 128 < 96 then
      readyM (stackPa (devOf me) (lanternSocket (b.toNat % 128)))
    result x.d (BitVec.ofNat 64 ((← getS).lanStat (devOf me) (a.toNat % 2 ^ 16) (b.toNat % 128))) 0

/-! ### The Lantern queue (R377) -/

/-- An operation of one action performs it: the state, its bytes, or a token code. -/
def State.oneStep (s : State) (ck id : Nat) (body : EngOp → EM Nat) : State :=
  match (s.cluster ck).op id with
  | none => s
  | some o =>
    if o.code.isSome ∨ o.ended then s
    else
      match ((body o).run).run s with
      | (.ok b, s1) => (s1.onOp ck id (fun o => { o with next := o.total, bytes := b })).opEnd ck id
      | (.error e, s1) => s1.opStop ck o e

/-- The engine reads an image of `n` bytes at a 64-byte-aligned address. -/
def engImage (ck : Nat) (o : EngOp) (va n : Nat) : EM (List Byte) := do
  let ps ← piecesM ck o false false va n
  return (← readPieces ck { o with image := none } ps).flatten
/-- The slot field of a Lantern command. -/
def EngOp.lslot (o : EngOp) : Nat := o.f 144 4

/-- The body of an install: a rejected image fails with 0x17. -/
def installBody (ck : Nat) (o : EngOp) : EM Nat := do
  if o.lslot = 0 ∨ o.daddr % 64 ≠ 0 then throw (.fail 0x17)
  stacksReadyE ck
  let img ← engImage ck o o.daddr lampImageBytes
  if (imageCause img).isSome then throw (.fail 0x17)
  EM.upd (fun s => s.setStream (devOfCluster ck) o.lslot (some img))
  return lampImageBytes
/-- The body of a drop. -/
def dropBody (ck : Nat) (o : EngOp) : EM Nat := do
  if o.lslot = 0 then throw (.fail 0x17)
  stacksReadyE ck
  EM.upd (fun s => s.setStream (devOfCluster ck) o.lslot none)
  return 0
/-- The body of a reset. -/
def resetBody (ck : Nat) (_ : EngOp) : EM Nat := do
  stacksReadyE ck
  EM.upd (fun s => (s.emptyStreams (devOfCluster ck)).clearLanterns (devOfCluster ck))
  return 0

/-- LANTERN_INSTALL_CMD (R377). -/
def execLanternInstallCmd (s : State) : Out :=
  match s.ev with
  | some (.lanternInstallCmd ck op) => .next (s.oneStep ck op (installBody ck))
  | _ => .fault .noSuchEvent
/-- LANTERN_DROP_CMD (R377). -/
def execLanternDropCmd (s : State) : Out :=
  match s.ev with
  | some (.lanternDropCmd ck op) => .next (s.oneStep ck op (dropBody ck))
  | _ => .fault .noSuchEvent
/-- LANTERN_RESET_CMD (R377). -/
def execLanternResetCmd (s : State) : Out :=
  match s.ev with
  | some (.lanternResetCmd ck op) => .next (s.oneStep ck op (resetBody ck))
  | _ => .fault .noSuchEvent

/-! ### One request (R358, R366 to R370) -/

/-- What the stages make of a request's bytes, as writes at the home; none fails the request. -/
def requestBytes (img : Option (List Byte)) (q : LanternReq) : Option (Tab Byte) :=
  let t := putBytes [] q.pa q.data
  match img with
  | none => some t
  | some i =>
    let h := lheadOf i
    if !h.applies q.store then some t
    else if h.conv then (runStream i q.data).map (fun ws => putBytes [] q.pa ((wordBytes ws).take h.mu))
    else stagePass i t (granules t) []
/-- The home's own errors under a request that reads, or adds to what it reads (R357, R371), or under a write that covers a
line in part. -/
def State.requestErrors (s : State) (merge : Nat) (q : LanternReq) (t : Tab Byte) : List (Nat × Nat) :=
  if q.store && decide (merge = 0) then s.runErrors (t.map (fun e => (e.1, [e.2])))
  else perGranule (s.errorsUnder q.pa q.n)
/-- A request fails at its Lantern, which counts it; the errors that it meets are logged in the stack's fault log, with the
stack and the address (R234, R376). -/
def State.requestFails (s : State) (dev : Nat) (q : LanternReq) (l : List (Nat × Nat)) : State :=
  let die := dieKey dev (bits q.pa 44 5)
  l.foldl (fun (s : State) e => s.log die e.1 [BitVec.ofNat 64 die, BitVec.ofNat 64 e.2]) (s.lanternFail q.pa)
/-- Write what the stages have made, or add it element by element under a write merge (R369). -/
def State.requestWrite (s : State) (merge : Nat) (q : LanternReq) (t : Tab Byte) : State :=
  if merge = 0 then s.storeRuns (t.map (fun e => (e.1, [e.2])))
  else
    (List.range (q.data.length / 4)).foldl (fun (s : State) j =>
      let a := q.pa + 4 * j
      s.mergeAdd ⟨0, a, 4, false, false⟩ merge (leNat ((List.range 4).map (fun k => Tab.get 0 t (a + k))))) s
/-- A Lantern takes a request into its stages: it is counted, and fails, or its bytes are written. A request bound to an
installation that the slot no longer holds fails (R359). -/
def State.takeRequest (s : State) (dev : Nat) (q : LanternReq) : State :=
  let s1 := s.engServe q.pa
  let slot := s.stream dev q.stream
  let img := if q.stream = 0 then none else slot.image
  let merge := match img with | some i => (lheadOf i).merge | none => 0
  if q.stream ≠ 0 ∧ (slot.image = none ∨ slot.inst ≠ q.inst) then s1.lanternFail q.pa
  else
    match requestBytes img q with
    | none => s1.lanternFail q.pa
    | some t =>
      let l := s.requestErrors merge q t
      if l ≠ [] then s1.requestFails dev q l
      else if q.store then s1.requestWrite merge q t else s1
/-- LANTERN_REQUEST (R358). -/
def execLanternRequest (s : State) : Out :=
  match s.ev with
  | some (.lanternRequest dev _ _ q) => .next (s.takeRequest dev q)
  | _ => .fault .noSuchEvent

/-! ### Beacon lists (R263) -/

/-- Insert a candidate in descending estimate. -/
def insertCand (c : Nat × Nat) : List (Nat × Nat) → List (Nat × Nat)
  | [] => [c]
  | d :: t => if d.2 < c.2 then c :: d :: t else d :: insertCand c t
/-- A candidate list in descending estimate. -/
def sortCands (l : List (Nat × Nat)) : List (Nat × Nat) := l.foldl (fun acc c => insertCand c acc) []
/-- The address of a controller's block. -/
def State.beaconBlock (s : State) (dev stack ctl : Nat) : Nat :=
  (s.mod dev).beaconBase + 2048 * ((if stack < 6 then stack else stack - 12) * 8 + ctl)
/-- The 64 entries of a block as 1,024 bytes: a frame's bits above the 32 counted are those of the stack itself. -/
def beaconBytes (dev stack : Nat) (l : List (Nat × Nat)) : List Byte :=
  ((List.range 64).map (fun j =>
    match l[j]? with
    | some c => natLe ((dev * 2 + stack / 16) * 2 ^ 32 + c.1) 8 ++ natLe c.2 8
    | none => natLe 0 16)).flatten
/-- A controller's interval ends: its list is written, its counters are cleared, and seq follows. -/
def State.writeBeacon (s : State) (dev stack ctl : Nat) : State :=
  let a := s.beaconBlock dev stack ctl
  let k := (if stack < 6 then stack else stack - 12) * 8 + ctl
  let l := Tab.get {} (s.mod dev).lanterns k
  let s1 := ((s.serve a true).serve (a + 512) true).storeList a (beaconBytes dev stack (sortCands l.cand))
  let s2 := s1.onMod dev (fun m => { m with
    lanterns := Tab.upd {} m.lanterns k (fun l => { l with sketch := [], cand := [], seq := l.seq + 1 }) })
  (s2.serve (a + 1024) true).storeN (a + 1024) 8 (l.seq + 1)
/-- BEACON_INTERVAL (R263): the next interval follows after 2^24 ticks; a controller that is not ready writes nothing. -/
def execBeaconInterval (s : State) : Out :=
  match s.ev with
  | some (.beaconInterval dev stack ctl) =>
    let s1 := if homeOfWord (s.die (dieKey dev stack)).readyWord 2 = .ok then s.writeBeacon dev stack ctl else s
    .next (s1.after (2 ^ 24) (.beaconInterval dev stack ctl))
  | _ => .fault .noSuchEvent

end Sys2Proof.Machine
end

