-- ==== Sys2Proof/Machine/Taper.lean ====
section
/-!
DEFINITION. The Taper engine (spec 21_tapers.md, R381 to R399): the control block and the table, dispatch, the end of
an entry and its messages, the tap instructions and their queued forms.
-/

namespace Sys2Proof.Machine

/-! ### The control block and the table (Tables 21.1 to 21.4) -/

/-- Fields of a control block. -/
def cbCount (cb : List Byte) : Nat := imgField cb 4 2
def cbNstash (cb : List Byte) : Nat := imgField cb 6 1
def cbTable (cb : List Byte) : Nat := imgField cb 8 8
def cbSbase (cb : List Byte) : Nat := imgField cb 16 8
def cbSsize (cb : List Byte) : Nat := imgField cb 24 4
def cbPasses (cb : List Byte) : Nat := imgField cb 28 4
def cbFmt (cb : List Byte) : Nat := imgField cb 32 1
def cbAff (cb : List Byte) : Nat := imgField cb 33 1
/-- The two words of input ring `i`, and of output channel `j`. -/
def inWord0 (cb : List Byte) (i : Nat) : Nat := imgField cb (64 + 16 * i) 8
def inWord1 (cb : List Byte) (i : Nat) : Nat := imgField cb (72 + 16 * i) 8
def outWord0 (cb : List Byte) (j : Nat) : Nat := imgField cb (320 + 16 * j) 8
def outWord1 (cb : List Byte) (j : Nat) : Nat := imgField cb (328 + 16 * j) 8
/-- The device of a ring or channel, its depth and its slot size. -/
def linkDev (w1 : Nat) : Nat := bits w1 40 6
def linkDepth (w1 : Nat) : Nat := bits w1 32 8
def linkSize (w1 : Nat) : Nat := bits w1 0 32
/-- The peer's ring number of an output channel. -/
def chanRing (w1 : Nat) : Nat := bits w1 46 4
/-- The output channel that a control block uses for a peer and a ring. -/
def chanOf (cb : List Byte) (peer ring : Nat) : Option Nat :=
  (List.range 16).find? (fun j =>
    let w := outWord1 cb j
    decide (linkDepth w ≠ 0 ∧ linkDev w = peer ∧ chanRing w = ring))

/-- A table entry (Table 21.4). -/
structure TapEntry where
  mb : Nat
  ph : Nat
  sact : Nat
  sslot : Nat
  iring : Nat
  iv : Bool
  ov : Bool
  opeer : Nat
  oring : Nat
  stage : Nat
  prio : Nat
  pc : Nat
  arg0 : Nat
  arg1 : Nat
  rsv : Bool
  deriving DecidableEq, Repr

/-- Entry `e` of a table. -/
def tapEntry (tbl : List Byte) (e : Nat) : TapEntry :=
  let a := imgField tbl (32 * e) 8
  let b := imgField tbl (32 * e + 8) 8
  { mb := bits a 48 16, ph := bits a 46 2, sact := bits a 44 2, sslot := bits a 38 6, iring := bits a 32 4
    iv := decide (bits a 31 1 = 1), ov := decide (bits a 30 1 = 1), opeer := bits a 22 6, oring := bits a 18 4
    stage := bits a 0 8, prio := bits b 57 2, pc := bits b 2 55 * 4
    arg0 := imgField tbl (32 * e + 16) 8, arg1 := imgField tbl (32 * e + 24) 8
    rsv := decide (bits a 36 2 ≠ 0 ∨ bits a 28 2 ≠ 0 ∨ bits a 8 10 ≠ 0 ∨ bits b 59 5 ≠ 0 ∨ bits b 0 2 ≠ 0) }

/-- The control block's own fields keep Tables 21.1 to 21.3 (R383). -/
def blockOk (cb : List Byte) : Bool :=
  let aff := cbAff cb
  let used := fun j => decide (linkDepth (outWord1 cb j) ≠ 0)
  decide (imgField cb 0 4 = 0x31504154) && decide (1 ≤ cbCount cb ∧ cbCount cb ≤ 256) && decide (cbNstash cb ≤ 64) &&
    decide (imgField cb 7 1 = 0) && decide (imgField cb 34 30 = 0) &&
    decide (cbTable cb % 64 = 0 ∧ cbTable cb < 2 ^ 57) && decide (cbSbase cb % 64 = 0 ∧ cbSbase cb < 2 ^ 57) &&
    decide (cbSsize cb % 64 = 0) && decide (cbSsize cb ≠ 0 ∨ cbNstash cb = 0) && decide (cbPasses cb < 2 ^ 24) &&
    decide (cbFmt cb ≤ 127) && decide (bits aff 6 2 ≠ 3) && (decide (bits aff 5 1 = 0) || isCompute (bits aff 0 5)) &&
    (List.range 16).all (fun i => decide (inWord0 cb i % 64 = 0 ∧ inWord0 cb i < 2 ^ 57 ∧ inWord1 cb i < 2 ^ 46)) &&
    (List.range 16).all (fun j => decide (outWord0 cb j < 2 ^ 57 ∧ outWord1 cb j < 2 ^ 50)) &&
    (List.range 16).all (fun j => (List.range j).all (fun i => !(used i && used j &&
      decide (linkDev (outWord1 cb i) = linkDev (outWord1 cb j) ∧ chanRing (outWord1 cb i) = chanRing (outWord1 cb j)))))
/-- An entry keeps Table 21.4 and names rings, channels and stash slots that the block has (R383). -/
def entryOk (cb : List Byte) (t : TapEntry) : Bool :=
  decide (t.ph ≠ 3) && !t.rsv && (decide (t.sact ≠ 0) || decide (t.sslot = 0)) && (t.iv || decide (t.iring = 0)) &&
    (t.ov || decide (t.opeer = 0 ∧ t.oring = 0)) && (!t.iv || decide (linkDepth (inWord1 cb t.iring) ≠ 0)) &&
    (!t.ov || (chanOf cb t.opeer t.oring).isSome) && (decide (t.sact = 0) || decide (t.sslot < cbNstash cb))
/-- A block and a table that `tap.load` accepts (R383). -/
def tableOk (cb tbl : List Byte) : Bool :=
  blockOk cb && (List.range (cbCount cb)).all (fun e => entryOk cb (tapEntry tbl e))
/-- The 64-byte lines that hold a block's table, and the address of the first: every byte of the table is read before a
check of R383, its count as given. An address with bits 63:57 set names nothing that could be read: R383 alone decides
there (DESIGN CHOICE, notes/assumptions 87). -/
def tableLines (cb : List Byte) : Nat :=
  if cbTable cb < 2 ^ 57 then (cbTable cb % 64 + 32 * cbCount cb + 63) / 64 else 0
def tableLine (cb : List Byte) : Nat := cbTable cb / 64 * 64

/-! ### State of the engine -/

/-- The I/O die X0 of a module. -/
def x0Of (dev : Nat) : Nat := dieKey dev 6
/-- The module's engine. -/
def State.taper (s : State) (dev : Nat) : Taper := (s.mod dev).taper
def State.onTaper (s : State) (dev : Nat) (f : Taper → Taper) : State := s.onMod dev (fun m => { m with taper := f m.taper })
/-- An entry of the loaded table. -/
def Taper.at (t : Taper) (e : Nat) : TapEntry := tapEntry t.tbl e
/-- Entries dispatched and not yet ended. -/
def Taper.outCount (t : Taper) : Nat := (t.out.filter (fun o => !o.ended)).length

/-- A load by another is under way (R395): by a slot, or by a queued operation that has not failed. -/
def State.loadUnderWay (s : State) (dev me : Nat) : Bool :=
  match (s.taper dev).loading with
  | none => false
  | some k =>
    decide (k ≠ me) && (decide (k < 2 ^ 30) ||
      s.clusters.any (fun e => decide (devOfCluster e.1 = dev) && e.2.ops.any (fun o => decide (2 ^ 30 + o.id = k) && o.code.isNone)))
/-- `tap.load` would raise 0x87 before it reads (R395). -/
def State.loadRefused (s : State) (dev me : Nat) : Bool :=
  (s.taper dev).run || decide ((s.taper dev).outCount ≠ 0) || s.loadUnderWay dev me
/-- Install a block and a table (R395): counters, stash slots and bubbles reset. -/
def Taper.install (t : Taper) (cb tbl : List Byte) : Taper :=
  { t with
    loaded := true, cb := cb, tbl := tbl, run := false, fin := false, failed := none, head := 0, pass := 0
    rings := [], stash := [], bubbles := [], dispatched := 0, ended := 0, out := [], badIn := [], badOut := []
    loading := none
    chans := (List.range 16).map (fun j => (j, ⟨0, linkDepth (outWord1 cb j)⟩)) }
/-- `tap.go` would raise 0x87 (R396). -/
def State.goRefused (s : State) (dev : Nat) (v : Nat) : Bool :=
  let t := s.taper dev
  decide (2 ^ 9 ≤ v) || !t.loaded || t.run || t.fin || t.failed.isSome || s.loadUnderWay dev (2 ^ 40)

/-- Ticks of the model between two cycles of the engine. -/
def taperPeriod : Nat := 16
/-- A dispatch cycle is on its way. -/
def State.taperPolls (s : State) (die : Nat) : Bool :=
  s.timers.any (fun t => decide (t.2 = .taperDispatch die))
/-- The engine runs from its head under an asid. -/
def State.taperGo (s : State) (dev : Nat) (asid : Nat) : State :=
  let s1 := s.onTaper dev (fun t => { t with run := true, asid := BitVec.ofNat 9 asid })
  if s1.taperPolls (x0Of dev) then s1 else s1.after 1 (.taperDispatch (x0Of dev))

/-! ### Dispatch (R384 to R387, R392) -/

/-- The stash condition of an entry. -/
def stashReady (t : Taper) (e : TapEntry) : Bool :=
  let st := (Tab.get {} t.stash e.sslot).st
  if e.sact = 0 then true else if e.sact = 1 then decide (st = 0) else decide (st = 2)
/-- The channel of an entry. -/
def Taper.chan (t : Taper) (e : TapEntry) : Nat := (chanOf t.cb e.opeer e.oring).getD 0
/-- The first condition of R386 that the head fails: 1 input, 2 stash, 3 downstream, 4 room; 0 when it is eligible. -/
def State.taperWhy (s : State) (dev : Nat) : Nat :=
  let t := s.taper dev
  let e := t.at t.head
  let r := Tab.get {} t.rings e.iring
  if e.iv && decide ((r.arr + 2 ^ 16 - r.taken) % 2 ^ 16 = 0) then 1
  else if !stashReady t e then 2
  else if e.ov && decide ((Tab.get {} t.chans (t.chan e)).cred = 0) then 3
  else
    let so := bits (cbAff t.cb) 0 5
    if !(s.die (dieKey dev (if isCompute so then so else 7))).room then 4 else 0

/-- The wick of an entry (R387, Table 21.6). -/
def Taper.wick (t : Taper) (dev : Nat) (seq : Nat) : Wick :=
  let e := t.at t.head
  let r := Tab.get {} t.rings e.iring
  let w1 := inWord1 t.cb e.iring
  let j := t.chan e
  let o := outWord1 t.cb j
  let prio := if e.prio = 0 then 1 else e.prio
  let w := BitVec.ofNat 64
  { rcd :=
      { w0 := w (prio * 2 ^ 57 + e.pc)
        w1 := w (cbAff t.cb * 2 ^ 32 + cbFmt t.cb * 2 ^ 25 + 2 ^ 9 + t.asid.toNat)
        g1 := w (t.pass % 2 ^ 24 * 2 ^ 40 + t.head * 2 ^ 32 + e.mb * 2 ^ 16 + e.stage * 2 ^ 8 + e.ph)
        g2 := if e.iv then w (inWord0 t.cb e.iring + r.taken % linkDepth w1 * linkSize w1) else 0
        g3 := if e.ov then w (outWord0 t.cb j + (Tab.get {} t.chans j).sent % linkDepth o * linkSize o) else 0
        g4 := if e.sact = 0 then 0 else w (cbSbase t.cb + e.sslot * cbSsize t.cb)
        g5 := w e.arg0, g6 := w e.arg1 }
    taper := some ⟨x0Of dev, t.head, seq⟩ }

/-- A stash slot at dispatch (Table 21.5). -/
def Stash.dispatch (x : Stash) (sact : Nat) : Stash :=
  if sact = 1 then { x with st := 1 }
  else { st := if sact = 2 then 3 else x.st, users := x.users + 1 }
/-- The engine after it has dispatched its head. -/
def Taper.advance (t : Taper) : Taper :=
  let e := t.at t.head
  let seq := t.dispatched
  let last := decide (t.head + 1 = cbCount t.cb)
  let pass := if last then t.pass + 1 else t.pass
  let fin := last && decide (cbPasses t.cb ≠ 0) && decide (cbPasses t.cb ≤ pass)
  { t with
    rings := if e.iv then Tab.upd {} t.rings e.iring (fun r => { r with taken := (r.taken + 1) % 2 ^ 16 }) else t.rings
    chans := if e.ov then Tab.upd {} t.chans (t.chan e) (fun c => { sent := (c.sent + 1) % 2 ^ 16, cred := c.cred - 1 }) else t.chans
    stash := if e.sact = 0 then t.stash else Tab.upd {} t.stash e.sslot (fun x => x.dispatch e.sact)
    dispatched := seq + 1
    out := t.out ++ [{ seq := seq, entry := t.head, owesIn := e.iv, owesOut := e.ov }]
    head := if last then 0 else t.head + 1, pass := pass, fin := fin, run := t.run && !fin }

/-- One cycle of a running engine: the head is dispatched, or a bubble is counted. -/
def State.taperCycle (s : State) (dev : Nat) : State :=
  let t := s.taper dev
  if !t.run then s
  else
    let why := s.taperWhy dev
    let s1 :=
      if why = 0 then (s.onTaper dev Taper.advance).readyWick (dieKey dev 7) (t.wick dev t.dispatched) false
      else s.onTaper dev (fun t => { t with bubbles := Tab.upd 0 t.bubbles (why - 1) (· + 1) })
    if (s1.taper dev).run then s1.after taperPeriod (.taperDispatch (x0Of dev)) else s1
/-- TAPER_DISPATCH (R386, R392). -/
def execTaperDispatch (s : State) : Out :=
  match s.ev with
  | some (.taperDispatch die) => .next (s.taperCycle (die / 32))
  | _ => .fault .noSuchEvent

/-! ### The end of an entry (R388, R390) -/

/-- A stash slot at retirement (Table 21.5); a failed take frees it. -/
def Stash.retire (x : Stash) (failed : Bool) : Stash :=
  if x.st = 1 then { x with st := if failed then 0 else 2 }
  else
    let u := x.users - 1
    if x.st = 3 ∧ u = 0 then { st := 0, users := 0 } else { x with users := u }

/-- What settling messages carries on: the engine, the messages, and the rings and channels on which an earlier entry
has not yet ended. -/
structure Settling where
  t : Taper
  msgs : List Event
  rings : List Nat
  chans : List Nat
  kept : List TapOut

/-- Settle one entry's free-slot count: sent in dispatch order, withheld behind a failed entry, whose ring still counts
the later entries that retire (R384, R390). -/
def settleIn (s : State) (dev : Nat) (z : Settling) (o : TapOut) : Settling × TapOut :=
  let e := z.t.at o.entry
  if !o.owesIn then (z, o)
  else if z.rings.elem e.iring then (z, o)
  else if !o.ended then ({ z with rings := e.iring :: z.rings }, o)
  else
    let o1 := { o with owesIn := false }
    if o.failed then ({ z with t := { z.t with badIn := e.iring :: z.t.badIn } }, o1)
    else
      let src := linkDev (inWord1 z.t.cb e.iring)
      let t1 := { z.t with rings := Tab.upd {} z.t.rings e.iring (fun r => { r with done := (r.done + 1) % 2 ^ 16 }) }
      if z.t.badIn.elem e.iring then ({ z with t := { t1 with withheld := t1.withheld + 1 } }, o1)
      else ({ z with t := t1, msgs := z.msgs ++ (if s.isMember dev src then [.taperFreeSlotCount (x0Of src) dev e.iring] else []) }, o1)
/-- Settle one entry's arrival message. -/
def settleOut (s : State) (dev : Nat) (z : Settling) (o : TapOut) : Settling × TapOut :=
  let e := z.t.at o.entry
  let j := z.t.chan e
  if !o.owesOut then (z, o)
  else if z.chans.elem j then (z, o)
  else if !o.ended then ({ z with chans := j :: z.chans }, o)
  else
    let o1 := { o with owesOut := false }
    if o.failed then ({ z with t := { z.t with badOut := j :: z.t.badOut } }, o1)
    else if z.t.badOut.elem j then ({ z with t := { z.t with withheld := z.t.withheld + 1 } }, o1)
    else ({ z with msgs := z.msgs ++ (if s.isMember dev e.opeer then [.taperArrival (x0Of e.opeer) dev e.oring] else []) }, o1)
/-- Settle the entries in dispatch order: those that owe nothing more and have ended go. -/
def State.settleEntries (s : State) (dev : Nat) : State :=
  let t := s.taper dev
  let z := t.out.foldl (fun (z : Settling) o =>
    let a := settleIn s dev z o
    let b := settleOut s dev a.1 a.2
    if b.2.ended && !b.2.owesIn && !b.2.owesOut then b.1 else { b.1 with kept := b.1.kept ++ [b.2] })
    { t := t, msgs := [], rings := [], chans := [], kept := [] }
  (s.onTaper dev (fun _ => { z.t with out := z.kept })).postAll z.msgs
/-- An entry ends, with or without failure. -/
def State.entryEnd (s : State) (g : TaperTag) (failed : Bool) : State :=
  let dev := g.die / 32
  let t := s.taper dev
  match t.out.find? (fun o => decide (o.seq = g.seq)) with
  | none => s
  | some o =>
    if o.ended then s
    else
      let e := t.at o.entry
      let t1 : Taper := { t with
        ended := t.ended + 1
        out := t.out.map (fun p => if p.seq = g.seq then { p with ended := true, failed := failed } else p)
        stash := if e.sact = 0 then t.stash else Tab.upd {} t.stash e.sslot (fun x => x.retire failed) }
      let t2 : Taper := if failed then { t1 with run := false, failed := some o.entry } else t1
      (s.onTaper dev (fun _ => t2)).settleEntries dev
/-- TAPER_ENTRY_END (R388). -/
def execTaperEntryEnd (s : State) : Out :=
  match s.ev with
  | some (.taperEntryEnd g) => .next (s.entryEnd g false)
  | _ => .fault .noSuchEvent

/-! ### Messages (R384, R388, R391) -/

/-- Count a discarded message. -/
def Taper.discard (t : Taper) : Taper := { t with discarded := t.discarded + 1 }
/-- An arrival for a ring from a device. -/
def Taper.arrive (t : Taper) (src ring : Nat) : Taper :=
  let w := inWord1 t.cb ring
  if t.loaded ∧ ring < 16 ∧ linkDepth w ≠ 0 ∧ linkDev w = src then
    { t with rings := Tab.upd {} t.rings ring (fun r => { r with arr := (r.arr + 1) % 2 ^ 16 }) }
  else t.discard
/-- A free-slot count for the channel that names a device and a ring. -/
def Taper.credit (t : Taper) (src ring : Nat) : Taper :=
  match (if t.loaded then chanOf t.cb src ring else none) with
  | some j => { t with chans := Tab.upd {} t.chans j (fun c => { c with cred := (c.cred + 1) % 2 ^ 16 }) }
  | none => t.discard
/-- TAPER_ARRIVAL (R384). -/
def execTaperArrival (s : State) : Out :=
  match s.ev with
  | some (.taperArrival die src ring) => .next (s.onTaper (die / 32) (fun t => t.arrive src ring))
  | _ => .fault .noSuchEvent
/-- TAPER_FREE_SLOT_COUNT (R388). -/
def execTaperFreeSlotCount (s : State) : Out :=
  match s.ev with
  | some (.taperFreeSlotCount die src ring) => .next (s.onTaper (die / 32) (fun t => t.credit src ring))
  | _ => .fault .noSuchEvent

/-! ### The tap instructions (R395 to R397, R399) -/

/-- Read the block and the table, check them, and install (R395): a failure other than a wait ends the load. -/
def tapLoadM (dev me : Nat) (a : Word) : M Nat :=
  tryCatch (do
    modS (fun s => s.onTaper dev (fun t => { t with loading := some me }))
    let cb := lineBytes (← readLines a 0 9)
    let tbl := lineBytes (← readLines (BitVec.ofNat 64 (tableLine cb)) 0 (tableLines cb))
    needM (tableOk cb tbl) 0x87
    modS (fun s => s.onTaper dev (fun t => t.install cb tbl))
    linesDoneM
    return cbCount cb) (fun e => do
      match e with
      | .wait _ => pure ()
      | _ => modS (fun s => s.onTaper dev (fun t => { t with loading := none }))
      throw e)

/-- A slot has not begun to load the module's table. -/
def State.taperFree (s : State) (dev slot : Nat) : Bool := decide ((s.taper dev).loading ≠ some slot)
/-- `tap.load` (R395, R399): once it has begun it waits for nothing that an interrupt abandons. -/
def execTapLoad (x : FmtA) (s : State) : Out :=
  runInstr (.tapLoad x) s <| firmM do
    let me ← here
    let a ← rd x.a
    if (← getS).taperFree (devOf me) me then prepDst x.d.toNat
    needM (decide (a.toNat % 64 = 0)) 0x20 a
    ioReadyM 0
    needM (!(← getS).loadRefused (devOf me) me) 0x87
    let n ← tapLoadM (devOf me) me a
    wr x.d (BitVec.ofNat 64 n)
    return .next

/-- `tap.go` (R396). -/
def execTapGo (x : FmtA) (s : State) : Out :=
  runInstr (.tapGo x) s do
    let me ← here
    let v ← rd x.a
    ioReadyM 0
    needM (!(← getS).goRefused (devOf me) v.toNat) 0x87
    modS (fun s => s.taperGo (devOf me) v.toNat)
    return .next

/-- `tap.halt` (R396). -/
def execTapHalt (x : FmtA) (s : State) : Out :=
  runInstr (.tapHalt x) s do
    let me ← here
    prepDst x.d.toNat
    ioReadyM 0
    let h := ((← getS).taper (devOf me)).head
    modS (fun s => s.onTaper (devOf me) (fun t => { t with run := false }))
    wr x.d (BitVec.ofNat 64 h)
    return .next

/-- The value of a selector of `tap.stat` (R397). -/
def Taper.stat (t : Taper) (sel : Nat) : Nat :=
  if sel < 4 then Tab.get 0 t.bubbles sel % 2 ^ 64
  else if sel = 4 then t.dispatched % 2 ^ 64
  else if sel = 5 then t.ended % 2 ^ 64
  else if sel = 6 then t.discarded
  else if sel = 7 then t.withheld
  else if 0x10 ≤ sel ∧ sel ≤ 0x1F then
    let r := Tab.get {} t.rings (sel - 0x10)
    r.arr * 2 ^ 32 + r.taken * 2 ^ 16 + r.done
  else if 0x20 ≤ sel ∧ sel ≤ 0x2F then
    let c := Tab.get {} t.chans (sel - 0x20)
    c.sent * 2 ^ 16 + c.cred % 2 ^ 8
  else if 0x40 ≤ sel ∧ sel ≤ 0x7F then
    let x := Tab.get {} t.stash (sel - 0x40)
    x.users % 2 ^ 8 * 2 ^ 8 + x.st
  else 0
/-- `tap.stat` (R397). -/
def execTapStat (x : FmtA) (s : State) : Out :=
  runInstr (.tapStat x) s do
    let me ← here
    let v ← rd x.a
    ioReadyM 0
    result x.d (BitVec.ofNat 64 (((← getS).taper (devOf me)).stat (v.toNat % 2 ^ 16))) 0

/-- The head status word (Table 21.7). -/
def State.headStatus (s : State) (dev : Nat) : Nat :=
  let t := s.taper dev
  let reason := if !t.loaded then 7 else if t.failed.isSome then 6 else if !t.run then 5 else s.taperWhy dev
  let b := fun (c : Bool) (n : Nat) => if c then 2 ^ n else 0
  reason * 2 ^ 61 + b t.run 60 + b t.fin 59 + t.pass % 2 ^ 24 * 2 ^ 32 + (t.failed.getD t.head) % 2 ^ 8 * 2 ^ 24 + t.outCount % 2 ^ 16
/-- `tap.head` (R393). -/
def execTapHead (x : FmtA) (s : State) : Out :=
  runInstr (.tapHead x) s do
    let me ← here
    ioReadyM 0
    result x.d (BitVec.ofNat 64 ((← getS).headStatus (devOf me))) 0

/-! ### The Taper queue (R398) -/

/-- The engine's read of whole lines, page by page. -/
def engLines (ck : Nat) (o : EngOp) (va : Nat) : Nat → EM (List Byte)
  | 0 => return []
  | n + 1 => do
    let b ← engImage ck o va 64
    let t ← engLines ck o (va + 64) n
    return b ++ t
/-- The body of a queued load: what would raise 0x87 fails with 0x18, a misaligned block too. -/
def tapLoadBody (ck : Nat) (o : EngOp) : EM Nat := do
  let dev := devOfCluster ck
  let me := 2 ^ 30 + o.id
  let need := fun (ok : Bool) => (if ok then pure () else throw (.fail 0x18) : EM Unit)
  ioReadyE ck 0
  need (decide (o.daddr % 64 = 0))
  need (!(← EM.state).loadRefused dev me)
  EM.upd (fun s => s.onTaper dev (fun t => { t with loading := some me }))
  let cb ← engLines ck o o.daddr 9
  let tbl ← engLines ck o (tableLine cb) (tableLines cb)
  need (tableOk cb tbl)
  EM.upd (fun s => s.onTaper dev (fun t => t.install cb tbl))
  return 0
/-- The body of a queued go. -/
def tapGoBody (ck : Nat) (o : EngOp) : EM Nat := do
  let dev := devOfCluster ck
  ioReadyE ck 0
  if (← EM.state).goRefused dev (o.f 32 9) then throw (.fail 0x18)
  EM.upd (fun s => s.taperGo dev (o.f 32 9))
  return 0
/-- The body of a queued halt. -/
def tapHaltBody (ck : Nat) (_ : EngOp) : EM Nat := do
  ioReadyE ck 0
  EM.upd (fun s => s.onTaper (devOfCluster ck) (fun t => { t with run := false }))
  return 0

/-- TAPER_LOAD_CMD (R398). -/
def execTaperLoadCmd (s : State) : Out :=
  match s.ev with
  | some (.taperLoadCmd ck op) => .next (s.oneStep ck op (tapLoadBody ck))
  | _ => .fault .noSuchEvent
/-- TAPER_GO_CMD (R398). -/
def execTaperGoCmd (s : State) : Out :=
  match s.ev with
  | some (.taperGoCmd ck op) => .next (s.oneStep ck op (tapGoBody ck))
  | _ => .fault .noSuchEvent
/-- TAPER_HALT_CMD (R398). -/
def execTaperHaltCmd (s : State) : Out :=
  match s.ev with
  | some (.taperHaltCmd ck op) => .next (s.oneStep ck op (tapHaltBody ck))
  | _ => .fault .noSuchEvent

end Sys2Proof.Machine
end

