-- ==== Sys2Proof/Machine/Matrix.lean ====
section
/-!
DEFINITION. The matrix unit (spec 19_matrix.md, R337 to R355; 02_numbers.md, R28 to R31): shapes, skip lists, scales, the
sums, and the mx instructions with their retirement.
-/

namespace Sys2Proof.Machine

/-! ### Shapes (Table 19.1) -/

/-- The format of a pair that a core takes: FP8 and FP4 on an N-cluster, BF16 and FP32 on a W-cluster (R337). -/
def mmaTakes (w : Bool) (fmt : Nat) : Bool := if w then decide (fmt = 2 ∨ fmt = 3) else decide (fmt = 0 ∨ fmt = 1)
/-- Bytes of an A tile. -/
def mmaABytes (fmt : Nat) : Nat := if fmt = 1 then 2560 else if fmt = 3 then 2048 else 4096
/-- K-blocks of 16 of a slice; one for FP4, which is always whole. -/
def mmaBlocks (fmt : Nat) : Nat := if fmt = 0 then 8 else if fmt = 2 then 4 else 1
/-- Bytes of a block of B, and cycles for it. -/
def mmaBlockBytes (fmt : Nat) : Nat := if fmt = 0 then 512 else if fmt = 1 then 2560 else if fmt = 2 then 1024 else 2048
def mmaBlockCycles (fmt : Nat) : Nat := if fmt = 0 then 16 else if fmt = 1 then 64 else if fmt = 2 then 32 else 128

/-! ### Skip lists (R343) -/

/-- A stream's position: the offset of the current byte and the blocks of it that are consumed. -/
structure SkipPos where
  off : Nat
  used : Nat
  deriving DecidableEq, Repr
/-- The position of stream `q` in fs. -/
def skipOf (fs : Word) (q : Nat) : SkipPos := ⟨bits fs.toNat (32 * q) 16, bits fs.toNat (32 * q + 16) 5⟩
/-- fs with stream `q` at a position. -/
def skipPut (fs : Word) (q : Nat) (p : SkipPos) : Word := putBits fs (32 * q) 21 (p.off + p.used % 32 * 2 ^ 16)
/-- Pass bytes that cover no block; none past offset 0xFFFF. -/
def skipEmpty (byte : Nat → Nat) : Nat → SkipPos → Option SkipPos
  | 0, _ => none
  | n + 1, p =>
    let b := byte p.off
    if b / 16 + b % 16 ≠ 0 then some p
    else if p.off = 0xFFFF then none
    else skipEmpty byte n ⟨p.off + 1, 0⟩
/-- Walk over `n` K-blocks: which are present, and the position after them; none raises 0x66. -/
def skipWalk (byte : Nat → Nat) : Nat → SkipPos → Option (List Bool × SkipPos)
  | 0, p => some ([], p)
  | n + 1, p =>
    match skipEmpty byte 65537 p with
    | none => none
    | some q =>
      let b := byte q.off
      let u := q.used + 1
      let next : Option SkipPos :=
        if b / 16 + b % 16 ≤ u then (if q.off = 0xFFFF then none else some ⟨q.off + 1, 0⟩) else some ⟨q.off, u⟩
      match next with
      | none => none
      | some r => (skipWalk byte n r).map (fun t => (decide (b / 16 ≤ q.used) :: t.1, t.2))

/-! ### Elements and scales (R338, R342, R28) -/

/-- `n` bytes of a cluster's scratchpad from an offset; beyond its range they read zero (R156). -/
def State.spadBytes (s : State) (ck off n : Nat) : List Byte :=
  (List.range n).map (fun i => if off + i < 0x400000 then s.byte (scratchPa ck (off + i)) else 0)
/-- A little-endian word of a list of bytes. -/
def wordAt (l : List Byte) (o n : Nat) : Nat := leNat ((l.drop o).take n)
/-- The storage format and the bytes of an element. -/
def mmaFmt (fmt : Nat) : FFmt := if fmt = 0 then fp8 else if fmt = 1 then fp4 else if fmt = 2 then bf16 else fp32
def mmaBytes (fmt : Nat) : Nat := if fmt = 0 then 1 else if fmt = 2 then 2 else 4
/-- The depth K of a slice. -/
def mmaDepth (fmt : Nat) : Nat := if fmt = 0 ∨ fmt = 1 then 128 else if fmt = 2 then 64 else 16
/-- Element (i, k) of A. -/
def mmaA (fmt : Nat) (a : List Byte) (i k : Nat) : FV :=
  let z := mmaBytes fmt
  (mmaFmt fmt).decode (wordAt a ((i * mmaDepth fmt + k) * z) z)
/-- The place of K-block `b` among the present ones. -/
def storedBlock (present : List Bool) (b : Nat) : Nat := ((present.take b).filter id).length
/-- Element (k, j) of B. -/
def mmaB (fmt : Nat) (present : List Bool) (t : List Byte) (k j : Nat) : FV :=
  let z := mmaBytes fmt
  (mmaFmt fmt).decode (wordAt t ((storedBlock present (k / 16) * 16 + k % 16) * 32 * z + j * z) z)
/-- Element `e` of block `b` of a row of A or column of B in FP4, and the block's scale. -/
def mmaF4 (t : List Byte) (r b e : Nat) : FV :=
  fp4.decode (bits (wordAt t (80 * r + 20 * b + 4 + e / 2) 1) (4 * (e % 2)) 4)
def mmaF4Scale (t : List Byte) (r b : Nat) : Nat := wordAt t (80 * r + 20 * b) 4
/-- The combined scales of a check: valid words (0x60) whose products are in range (0x61). -/
def combine (xs : List Nat) (pairs : List (Nat × Nat)) : Except Cause (List Nat) :=
  if !xs.all scaleValid then .error 0x60
  else
    let c := pairs.map (fun p => rneMul32 p.1 p.2)
    if c.any combinedBad then .error 0x61 else .ok c
/-- The fields of fa and fb (Table 19.3). -/
def shadowBase (w : Word) : Nat := bits w.toNat 4 22
def shadowStride (w : Word) : Nat := bits w.toNat 26 12
/-- The combined scales of an operation: one per row for FP8, one per element and block for FP4. -/
def State.mmaScales (s : State) (ck fmt : Nat) (fa fb : Word) (ra rb : Ring) (a b : List Byte) : Except Cause (List Nat) :=
  if fmt = 0 then
    let blk := s.spadBytes ck (shadowBase fa + ra.tail % ra.depth * shadowStride fa) 128
    let al := (List.range 32).map (fun i => wordAt blk (4 * i) 4)
    let om := wordAt (s.spadBytes ck (shadowBase fb + rb.tail % rb.depth * shadowStride fb) 4) 0 4
    combine (al ++ [om]) (al.map (fun x => (x, om)))
  else if fmt = 1 then
    let ix := ((List.range 32).map (fun i => (List.range 4).map (fun q => (i, q)))).flatten
    let js := ((List.range 32).map (fun i => ((List.range 32).map (fun j => (List.range 4).map (fun q => (i, j, q)))).flatten)).flatten
    combine (ix.map (fun p => mmaF4Scale a p.1 p.2) ++ ix.map (fun p => mmaF4Scale b p.1 p.2))
      (js.map (fun p => (mmaF4Scale a p.1 p.2.2, mmaF4Scale b p.2.1 p.2.2)))
  else .ok []

/-! ### The sums (R29 to R31, R344) -/

/-- An exact sum of products; an empty sum, and a sum of zeros, is +0. -/
def dotSum (l : List (FV × FV)) : FV := l.foldl (fun acc p => (acc.add .rne (p.1.mul p.2).1).1) (.fin false 0 1)
/-- Rounded to FP32. -/
def rne32 (v : FV) : Nat := (fp32.round .rne v).1
/-- The indices of the present K. -/
def presentK (fmt : Nat) (present : List Bool) : List Nat :=
  (List.range (mmaDepth fmt)).filter (fun k => present.getD (k / 16) true)
/-- One element of the accumulator after an operation. -/
def MxOp.element (o : MxOp) (i j acc : Nat) : Nat :=
  let ks := presentK o.fmt o.present
  let prods := ks.map (fun k => (mmaA o.fmt o.abytes i k, mmaB o.fmt o.present o.bbytes k j))
  if o.fmt = 0 then rneAdd32 acc (rneMul32 (rne32 (dotSum prods)) (o.scales.getD i 0))
  else if o.fmt = 1 then
    (List.range 4).foldl (fun c b =>
      let p := dotSum ((List.range 32).map (fun e => (mmaF4 o.abytes i b e, mmaF4 o.bbytes j b e)))
      rneAdd32 c (rneMul32 (rne32 p) (o.scales.getD ((i * 32 + j) * 4 + b) 0))) acc
  else if o.fmt = 2 then rneAdd32 acc (rne32 (dotSum prods))
  else prods.foldl (fun c p => (fp32.finish .rne (FV.fma .rne (fp32.decode c) p.1 p.2)).1) acc

/-! ### Accumulators (R339) -/

/-- An accumulator tile as a wick of an asid reads it. -/
def Core.tile (k : Core) (ad : Nat) (asid : BitVec 9) : Tab Nat :=
  let a := Tab.get {} k.acc ad
  if a.asid = asid then a.w else []
/-- Write every element of an accumulator tile. -/
def Core.setTile (k : Core) (ad : Nat) (asid : BitVec 9) (f : Nat → Nat) : Core :=
  { k with acc := Tab.put ad ⟨asid, (List.range 1024).foldl (fun t n => Tab.set 0 t n (f n)) []⟩ k.acc }

/-! ### Starting (R350, R352) -/

/-- fa.err (R345). -/
def faErr (x : Slot) : Bool := x.fa.getLsbD 63
/-- The near-window address of a scratchpad offset. -/
def tileVa (off : Nat) : Nat := 0x01FFFFFF00000000 + off
/-- A range of `n` bytes at a scratchpad offset; none of no bytes. -/
def tileRange (off n : Nat) (dest : Bool) : List Range :=
  if n = 0 then [] else [((tileVa off : Nat), (tileVa off + n : Nat) - 1, dest)]
/-- The rows of a scratchpad under `n` bytes are read: an uncorrectable one fails the wick, another is repaired (R152,
R234). -/
def rowsM (off n : Nat) : M Unit := do
  let pa := scratchPa (clusterOf (← here)) off
  let hi := min (off + n) 0x400000
  (List.range (if off < hi then (pa % 256 + (hi - off) + 255) / 256 else 0)).forM fun i => do
    let p := max pa (pa / 256 * 256 + 256 * i)
    errorM p
    modS (fun s => s.serve p false)
/-- The address of the first of `n` tile bytes that lies beyond the scratchpad, noted when the operation starts (R156). -/
def tileOob (off n : Nat) : List Nat := if 0x400000 < off + n then [tileVa (max off 0x400000)] else []

/-- The checks of an `mx` instruction are made once, at issue, before any wait (R346). -/
def issueM (check : M MxIssue) : M MxIssue := do
  match (← slotM).mxIssue with
  | some r => return r
  | none =>
    let r ← check
    onSlotM (fun x => { x with mxIssue := some r })
    return r

/-- The unit starts an operation: its slot's pc moves on, and it retires after its cycles. -/
def State.mxStart (s : State) (corek : Nat) (o : MxOp) : State :=
  let begin_ := fun (x : Slot) =>
    if x.occ ∧ x.wick = o.wick then
      let y := o.oob.foldl (fun x a => x.noteOob (BitVec.ofNat 64 a) (decide (o.fn = 4))) x
      if y.wait = .unitReady then { y with wait := .matrix, pc := y.pc + BitVec.ofNat 64 o.len } else y
    else x
  (s.onSlot o.slot begin_).after o.cycles (.matrixOperationRetire corek)
/-- An operation's ranges can be registered: 0x83, 0x77, or a wait for entries (R350). -/
def rangesM (rs : List Range) : M Unit := do
  let y ← slotM
  let c ← clusterM
  needM (!c.conflict y.asid rs) 0x83
  needM (!c.regionConflict rs) 0x77
  if 64 < c.locks.length + rs.length then waitM .tiles
/-- Register an operation's ranges, for which `rangesM` has found room; it starts, or is ready behind others. -/
def mxReadyM (o : MxOp) (rs : List Range) : M Flow := do
  let me ← here
  let y ← slotM
  let id ← freshM
  let o1 := { o with lock := id }
  let k ← coreM
  modS (fun s => s.onCluster (clusterOf me) (fun c => { c with
    locks := c.locks ++ rs.map (fun r => ⟨y.asid, r.1.toNat, r.2.1.toNat, r.2.2, id⟩) }))
  modS (fun s => s.onCore (coreOf me) (fun k => { k with mx := k.mx ++ [o1] }))
  onSlotM (fun z => { z with mxIssue := none })
  if k.mx = [] then do
    modS (fun s => s.mxStart (coreOf me) o1)
    onSlotM (fun z => { z with wait := .matrix })
    return .next
  else waitM .unitReady

/-- A ring that is set up and whose slots hold a tile (R338). -/
def ringHolds (r : Ring) (n : Nat) : Bool := decide (r.depth ≠ 0 ∧ n ≤ 64 * r.size)
/-- The rings that an operation pops: bit 7 for ta, bit 6 for tb. -/
def mxPops (x : FmtM) : List Nat :=
  (if x.mx.getLsbD 7 then [x.a.toNat] else []) ++ (if x.mx.getLsbD 6 then [x.b.toNat] else [])
/-- The start of an operation in the running slot. -/
def mxOpM (x : FmtM) (fn cycles : Nat) : M MxOp := do
  let me ← here
  let y ← slotM
  return { fn := fn, slot := me, wick := y.wick, asid := y.asid, ad := x.d.toNat, pops := mxPops x, cycles := cycles }

/-- The last byte of a list that a walk has read. -/
def skipLast (r : Option (List Bool × SkipPos)) : Nat :=
  match r with
  | none => 0xFFFF
  | some r => if r.2.used = 0 then r.2.off - 1 else r.2.off
/-- The walk of a sparse form (R343): which blocks are present, and fs after it. A word of the list that cannot be read
fails the wick (R234). -/
def walkM (sparse : Option Nat) (n : Nat) : M (List Bool × Option Word) := do
  let me ← here
  let y ← slotM
  let s ← getS
  match sparse with
  | none => return (List.replicate n true, none)
  | some q =>
    let p := skipOf y.fs q
    let r := skipWalk (fun o => s.localN (coreOf me) o 1) n p
    (List.range (skipLast r / 8 + 1 - p.off / 8)).forM (fun i => errorM (localPa (coreOf me) (8 * (p.off / 8 + i))))
    match r with
    | none => trapM 0x66
    | some r => return (r.1, some (skipPut y.fs q r.2))

/-- The present blocks of B that an issue has found. -/
def MxIssue.blocks (r : MxIssue) : Nat := (r.present.filter id).length
/-- The wait for rings has ended: an acquire at clus scope of their words (R351). -/
def ringsSeenM (ks : List Nat) : M Unit := do
  let me ← here
  modS (fun s => ks.foldl (fun (s : State) k => s.acquiredAt me 2 (ringWord me k)) s)
/-- The checks of a multiply-accumulate up to 0x64, and the walk (R346). -/
def mmaIssueM (x : FmtM) (sparse : Option Nat) : M MxIssue := do
  let me ← here
  let y ← slotM
  needM (!faErr y) 0x65
  let f := bits y.fa.toNat 0 4
  let g := bits y.fb.toNat 0 4
  needM (decide (f < 10 ∧ g < 10)) 0x62
  needM (decide (f = g) && mmaTakes (isW (clusterOf me)) f && !(sparse.isSome && decide (f = 1))) 0x65
  let w ← walkM sparse (mmaBlocks f)
  let r : MxIssue := { fmt := f, present := w.1, fs := w.2 }
  let s ← getS
  needM (ringHolds (s.ring me x.a.toNat) (mmaABytes f) &&
    ringHolds (s.ring me x.b.toNat) (r.blocks * mmaBlockBytes f)) 0x64
  return r
/-- The scale blocks that an operation reads: offset and bytes (R342). -/
def scaleBlocks (fmt : Nat) (fa fb : Word) (ra rb : Ring) : List (Nat × Nat) :=
  if fmt = 0 then
    [(shadowBase fa + ra.tail % ra.depth * shadowStride fa, 128), (shadowBase fb + rb.tail % rb.depth * shadowStride fb, 4)]
  else []

/-- A multiply-accumulate (R346): the checks at issue, the wait for the rings, the registration of the ranges, and only
then the tile bytes and the scales; a trap of these leaves nothing registered. -/
def mmaM (x : FmtM) (sparse : Option Nat) : M Flow := do
  let me ← here
  let y ← slotM
  let ck := clusterOf me
  let r ← issueM (mmaIssueM x sparse)
  let s ← getS
  let ra := s.ring me x.a.toNat
  let rb := s.ring me x.b.toNat
  if ra.occupancy = 0 ∨ rb.occupancy = 0 then waitM .tiles
  ringsSeenM [x.a.toNat, x.b.toNat]
  let an := mmaABytes r.fmt
  let bn := r.blocks * mmaBlockBytes r.fmt
  let ao := ra.tileOff ra.tail
  let bo := rb.tileOff rb.tail
  let rs := tileRange ao an false ++ tileRange bo bn false
  rangesM rs
  ((ao, an) :: (bo, bn) :: scaleBlocks r.fmt y.fa y.fb ra rb).forM (fun p => rowsM p.1 p.2)
  let a := s.spadBytes ck ao an
  let b := s.spadBytes ck bo bn
  match s.mmaScales ck r.fmt y.fa y.fb ra rb a b with
  | .error c => trapM c
  | .ok sc => do
    let o ← mxOpM x 0 (max 1 (r.blocks * mmaBlockCycles r.fmt))
    mxReadyM { o with
      fmt := r.fmt, present := r.present, abytes := a, bbytes := b, scales := sc, fs := r.fs
      oob := tileOob ao an ++ (if bn = 0 then [] else tileOob bo bn) } rs

/-- `mx.mma` (R346). -/
def execMxMma (x : FmtM) (s : State) : Out := runInstr (.mxMma x) s (mmaM x none)
/-- `mx.mmaz0` (R346). -/
def execMxMmaz0 (x : FmtM) (s : State) : Out := runInstr (.mxMmaz0 x) s (mmaM x (some 0))
/-- `mx.mmaz1` (R346). -/
def execMxMmaz1 (x : FmtM) (s : State) : Out := runInstr (.mxMmaz1 x) s (mmaM x (some 1))

/-- `mx.clr` (R347). -/
def execMxClr (x : FmtM) (s : State) : Out :=
  runInstr (.mxClr x) s do
    needM (!faErr (← slotM)) 0x65
    let o ← mxOpM x 3 1
    mxReadyM { o with pops := [] } []

/-- The bytes of a stored element (R348). -/
def stBytes (ofmt : Nat) : Nat := if ofmt = 0 then 1 else if ofmt = 2 then 2 else 4
/-- The checks of `mx.st` and `mx.ld`: a format code that the instruction takes, and a ring that holds the tile (R348,
R349). -/
def tileIssueM (x : FmtM) (code : Slot → Nat) (takes : Nat → Bool) : M MxIssue := do
  let me ← here
  let y ← slotM
  needM (!faErr y) 0x65
  let f := code y
  needM (decide (f < 10)) 0x62
  needM (takes f) 0x65
  needM (ringHolds ((← getS).ring me x.a.toNat) (1024 * stBytes f)) 0x64
  return { fmt := f }

/-- `mx.st` (R348). -/
def execMxSt (x : FmtM) (s : State) : Out :=
  runInstr (.mxSt x) s do
    let me ← here
    let y ← slotM
    let i ← issueM (tileIssueM x (fun y => bits y.fc.toNat 0 4) (fun f => decide (f = 0 ∨ f = 2 ∨ f = 3)))
    let n := 1024 * stBytes i.fmt
    let r := (← getS).ring me x.a.toNat
    if r.depth ≤ r.occupancy ∨ (← clusterM).pushing me x.a.toNat then waitM .tiles
    ringsSeenM [x.a.toNat]
    let off := r.tileOff r.head
    let rs := tileRange off n true
    rangesM rs
    let o ← mxOpM x 4 32
    mxReadyM { o with
      fmt := i.fmt, rm := bits y.fc.toNat 8 2, push := some x.a.toNat, dest := off, pops := [], oob := tileOob off n } rs

/-- `mx.ld` (R349). -/
def execMxLd (x : FmtM) (s : State) : Out :=
  runInstr (.mxLd x) s do
    let me ← here
    let i ← issueM (tileIssueM x (fun y => bits y.fc.toNat 4 4) (fun f => decide (f = 2 ∨ f = 3)))
    let n := 1024 * stBytes i.fmt
    let r := (← getS).ring me x.a.toNat
    if r.occupancy = 0 then waitM .tiles
    ringsSeenM [x.a.toNat]
    let off := r.tileOff r.tail
    let rs := tileRange off n false
    rangesM rs
    rowsM off n
    let o ← mxOpM x 5 32
    mxReadyM { o with fmt := i.fmt, abytes := (← getS).spadBytes (clusterOf me) off n, oob := tileOob off n } rs

/-! ### Retirement (R346, R348 to R352) -/

/-- An accumulator element as `mx.st` writes it. -/
def stElement (fmt rm v : Nat) : List Byte :=
  let m := Rm.ofCode (BitVec.ofNat 2 rm)
  if fmt = 0 then natLe (fp8.round m (fp32.decode v)).1 1
  else if fmt = 2 then natLe (bf16.round m (fp32.decode v)).1 2
  else natLe v 4
/-- An element of an input tile as `mx.ld` takes it. -/
def ldElement (fmt : Nat) (l : List Byte) (n : Nat) : Nat :=
  if fmt = 2 then bfWiden (wordAt l (2 * n) 2) else wordAt l (4 * n) 4
/-- Store an output tile, element by element; beyond the scratchpad it is dropped. -/
def State.storeTile (s : State) (ck off fmt rm : Nat) (t : Tab Nat) : State :=
  (List.range 1024).foldl (fun (s : State) n =>
    let b := stElement fmt rm (Tab.get 0 t n)
    s.setScratchN ck (off + n * stBytes fmt) b.length (leNat b)) s
/-- What an operation writes: its accumulator, or its output tile with the ring's head. -/
def State.mxWrite (s : State) (corek : Nat) (o : MxOp) : State :=
  let t := (s.core corek).tile o.ad o.asid
  match o.push with
  | some k =>
    let s1 := s.storeTile (corek / 16) o.dest o.fmt o.rm t
    (s1.setRingHead o.slot k ((s1.ring o.slot k).head + 1)).ringWritten o.slot k (s1.carriedBy o.slot)
  | none =>
    s.onCore corek (fun k => k.setTile o.ad o.asid (fun n =>
      if o.fn = 0 then o.element (n / 32) (n % 32) (Tab.get 0 t n) else if o.fn = 5 then ldElement o.fmt o.abytes n else 0))
/-- Free an operation's ranges, and pop its rings. -/
def State.mxFree (s : State) (corek : Nat) (o : MxOp) : State :=
  let s1 := s.onCluster (corek / 16) (fun c => { c with locks := c.locks.filter (fun l => decide (l.op ≠ o.lock)) })
  o.pops.foldl (fun (s : State) k =>
    (s.setRingTail o.slot k ((s.ring o.slot k).tail + 1)).ringWritten o.slot k (s.carriedBy o.slot)) s1
/-- The slot rejoins the rotation with its stream's position; a write of an accumulator clears its dead bit (R119). -/
def Slot.mxDone (x : Slot) (o : MxOp) : Slot :=
  if x.occ ∧ x.wick = o.wick ∧ x.wait = .matrix then
    { x with
      wait := .none, fs := o.fs.getD x.fs
      dead := if o.fn = 4 then x.dead else x.dead &&& ~~~(BitVec.ofNat 64 (2 ^ (32 + o.ad))) }
  else x
/-- The operation under way retires, and the next ready one starts. -/
def State.mxRetire (s : State) (corek : Nat) : State :=
  match (s.core corek).mx with
  | [] => s
  | o :: t =>
    let s1 := ((s.mxWrite corek o).mxFree corek o).onSlot o.slot (fun x => x.mxDone o)
    let s2 := (s1.onCore corek (fun k => { k with mx := t })).wakeCluster (corek / 16) .tiles
    let s3 := match o.push with | some r => s2.nextPushes (corek / 16) o.slot r | none => s2
    match t with
    | [] => s3
    | p :: _ => s3.mxStart corek p
/-- MATRIX_OPERATION_RETIRE (R346). -/
def execMatrixOperationRetire (s : State) : Out :=
  match s.ev with
  | some (.matrixOperationRetire core) => .next (s.mxRetire core)
  | _ => .fault .noSuchEvent

end Sys2Proof.Machine
end

