-- ==== Sys2Proof/Machine/Sched.lean ====
section
/-!
DEFINITION. The scheduler (spec 05_wicks.md, R83, R87 to R92, R96, R103, R104): dispatch from a die's ready queue,
ageing, stealing, the dispensers, a wick's entry into a slot, and arriving wicks.
-/

namespace Sys2Proof.Machine

/-! ### Dispatch (R87 to R89) -/

/-- A cluster is of the kind that aff[7:6] names (R89). -/
def kindOk (aff ck : Nat) : Bool := if aff = 1 then !isW ck else if aff = 2 then isW ck else true
/-- The clusters of a die to which a wick may go: a tagged wick's own, otherwise those of its kind. -/
def clustersFor (die : Nat) (w : Wick) : List Nat :=
  match w.tag with
  | some k => [k / 16]
  | none => ((List.range 48).map (fun c => die * 64 + c)).filter (kindOk w.rcd.affKind)
/-- The cluster with the most free dispenser entries, the lowest number on a tie; none while no dispenser has room. -/
def State.bestCluster (s : State) (l : List Nat) : Option Nat :=
  l.foldl (fun best ck =>
    let n := (s.cluster ck).disp.length
    if 64 ≤ n then best
    else
      match best with
      | none => some ck
      | some b => if n < (s.cluster b).disp.length then some ck else best) none
/-- The wick that an entry yields: its own, or its launch's next rank (R93). -/
def RqEntry.wick (e : RqEntry) : Wick :=
  match e.ranks with
  | none => e.w
  | some _ => { e.w with rcd := { e.w.rcd with g1 := BitVec.ofNat 64 e.first } }
/-- What is left of an entry after it has yielded a wick. -/
def RqEntry.rest (e : RqEntry) : Option RqEntry :=
  match e.ranks with
  | some n => if 1 < n then some { e with first := e.first + 1, ranks := some (n - 1) } else none
  | none => none
/-- The wicks of an entry. -/
def RqEntry.count (e : RqEntry) : Nat := e.ranks.getD 1
/-- Replace the first entry equal to one given, or remove it. -/
def replaceEntry (e : RqEntry) (r : Option RqEntry) : List RqEntry → List RqEntry
  | [] => []
  | x :: t => if x = e then r.toList ++ t else x :: replaceEntry e r t
/-- An entry after a dispatch from a level (R88): at 4,096 higher dispatches it rises one level. -/
def RqEntry.age (e : RqEntry) (level : Nat) : RqEntry :=
  if level < e.eff ∧ e.w.rcd.hold = false then
    if e.aged + 1 = 4096 then { e with eff := e.eff - 1, aged := 0 } else { e with aged := e.aged + 1 }
  else e
/-- The entries of a ready queue in dispatch order: by level, then in the order in which they became ready. -/
def Die.order (d : Die) : List RqEntry := ((List.range 4).map (fun p => d.ready.filter (fun e => decide (e.eff = p)))).flatten
/-- The first entry that some dispenser has room for, with the cluster it goes to. -/
def State.nextDispatch (s : State) (die : Nat) : Option (RqEntry × Nat) :=
  (s.die die).order.findSome? (fun e => (s.bestCluster (clustersFor die e.w)).map (fun c => (e, c)))

/-- Wicks that arrived and found no reserved entry enter as entries free (R87, R103): those that a steal brought,
then those that migrated. -/
def State.admitArriving (s : State) (die : Nat) : State :=
  let d := s.die die
  if 1024 ≤ d.count true then s
  else
    match d.arriving with
    | e :: t => s.onDie die (fun d => { d with ready := d.ready ++ [e], arriving := t })
    | [] =>
      match (s.clusters.filter (fun c => decide (dieOfCluster c.1 = die))).find? (fun c => decide (c.2.arriving ≠ [])) with
      | none => s
      | some c =>
        match c.2.arriving with
        | [] => s
        | w :: t =>
          (s.onCluster c.1 (fun x => { x with arriving := t })).onDie die (fun d =>
            { d with ready := d.ready ++ [{ w := w, eff := w.rcd.prio, reserved := true }] })

/-- Ticks of the model that a wick takes from the ready queue to where its dispenser can pass it on: longer than a cycle of
the Taper engine, so that entries dispatched in successive cycles go to different clusters (DESIGN CHOICE,
notes/assumptions 88). -/
def dispatchLatency : Nat := 32
/-- Dispatch one wick of a die (R87 to R89): it enters the dispenser, the others age, and waiters for room look
again. -/
def State.dispatch (s : State) (die : Nat) : State :=
  if (s.die die).readyWord.getLsbD 1 = false then s
  else
    match s.nextDispatch die with
    | none => s
    | some (e, ck) =>
      let s1 := s.onDie die (fun d => { d with ready := (replaceEntry e e.rest d.ready).map (fun x => x.age e.eff) })
      let s2 := s1.onCluster ck (fun c => { c with disp := c.disp ++ [{ e.wick with due := s.tick + dispatchLatency }] })
      let s3 := if e.rest.isNone then ((s2.admitArriving die).compareMark die).wakeDev (die / 32) .ready else s2
      (s3.after dispatchLatency (.dispenserPass ck)).post (.schedDispatch die)
/-- SCHED_DISPATCH (R87). -/
def execSchedDispatch (s : State) : Out :=
  match s.ev with
  | some (.schedDispatch die) => .next (s.dispatch die)
  | _ => .fault .noSuchEvent

/-! ### Stealing (R91) -/

/-- Ticks of the model that a reply of a steal takes, so that time passes between two requests. -/
def stealLatency : Nat := 64
/-- An entry whose wicks are stealable: neither pinned nor tagged. -/
def RqEntry.stealable (e : RqEntry) : Bool := !e.w.rcd.pinned && e.w.tag.isNone
/-- The lowest-priority level with a stealable wick. -/
def Die.sourceLevel (d : Die) : Option Nat :=
  [3, 2, 1, 0].find? (fun p => d.ready.any (fun e => e.stealable && decide (e.eff = p)))
/-- Take `n` wicks of a level from the newest on, from a queue given newest first: what stays and what is given, both
newest first; a launch's entry is split, and its ranks, which became ready together, are given from the highest number on
(DESIGN CHOICE, notes/assumptions 104). -/
def takeNewest (lvl : Nat) : Nat → List RqEntry → List RqEntry × List StolenWick
  | _, [] => ([], [])
  | n, e :: t =>
    if n = 0 ∨ e.stealable = false ∨ e.eff ≠ lvl then
      let r := takeNewest lvl n t
      (e :: r.1, r.2)
    else
      match e.ranks with
      | none =>
        let r := takeNewest lvl (n - 1) t
        (r.1, ⟨e.w, lvl, 0, 0⟩ :: r.2)
      | some k =>
        if k ≤ n then
          let r := takeNewest lvl (n - k) t
          (r.1, ⟨e.w, lvl, e.first, k⟩ :: r.2)
        else
          let r := takeNewest lvl 0 t
          ({ e with ranks := some (k - n) } :: r.1, ⟨e.w, lvl, e.first + (k - n), n⟩ :: r.2)
/-- What a die keeps and gives for a request that names `room` (R91). -/
def Die.give (d : Die) (room : Nat) : List RqEntry × List StolenWick :=
  match d.sourceLevel with
  | none => (d.ready, [])
  | some p =>
    let u := ((d.ready.filter (fun e => e.stealable && decide (e.eff = p))).map RqEntry.count).sum
    let r := takeNewest p (min (u / 2) room) d.ready.reverse
    (r.1.reverse, r.2.reverse)
/-- What follows when a steal has taken `n` entries out of a ready queue: waiting wicks enter those that are free, the
occupancy is compared with the mark, and waiters for room look again (R91, R103). -/
def State.freed (s : State) (die n : Nat) : State :=
  if n = 0 then s
  else (((List.range n).foldl (fun (s : State) _ => s.admitArriving die) s).compareMark die).wakeDev (die / 32) .ready
/-- A neighbour serves a request: a die that has failed gives nothing, one that is not yet ready holds the request. -/
def State.serveSteal (s : State) (thief victim room : Nat) : State :=
  let d := s.die victim
  if d.readyWord.getLsbD 7 then s.after stealLatency (.stealReply thief victim [])
  else if d.readyWord.getLsbD 1 = false then s.after 4096 (.stealRequest thief victim room)
  else
    let r := d.give room
    ((s.setDie victim { d with ready := r.1 }).after stealLatency (.stealReply thief victim r.2)).freed victim
      (d.ready.length - r.1.length)
/-- STEAL_REQUEST (R91). -/
def execStealRequest (s : State) : Out :=
  match s.ev with
  | some (.stealRequest thief victim room) => .next (s.serveSteal thief victim room)
  | _ => .fault .noSuchEvent

/-- A stolen wick as an entry of the thief: same level, ageing restarted. A run of a launch's ranks takes one reserved
entry (DESIGN CHOICE, notes/assumptions 105). -/
def stolenEntry (x : StolenWick) : RqEntry :=
  { w := x.w, eff := x.level, reserved := true, first := x.first, ranks := if x.count = 0 then none else some x.count }
/-- Put an entry into the reserved entries, or let it wait for one. -/
def State.enterReserved (s : State) (die : Nat) (e : RqEntry) : State :=
  s.onDie die (fun d => if d.count true < 1024 then { d with ready := d.ready ++ [e] } else { d with arriving := d.arriving ++ [e] })
/-- A reply: the wicks enter, and the next neighbour is asked; a round that brought nothing starts the back-off. The
occupancy is compared with the mark when this reply changed it (R91). -/
def State.stolen (s : State) (thief : Nat) (given : List StolenWick) : State :=
  let s1 := given.foldl (fun (s : State) x => s.enterReserved thief (stolenEntry x)) s
  let d := s1.die thief
  let s2 :=
    match d.steal with
    | none => s1
    | some st =>
      let got := st.got || decide (given ≠ [])
      match st.ask with
      | n :: t =>
        (s1.setDie thief { d with steal := some ⟨t, got⟩ }).post
          (.stealRequest thief (thief / 32 * 32 + n) (1024 - d.count true))
      | [] =>
        if got then
          let s2 := s1.setDie thief { d with steal := none }
          if given = [] then s2 else s2.compareMark thief
        else (s1.setDie thief { d with steal := none, backoff := true }).after 4096 (.stealBackoffEnd thief)
  s2.post (.schedDispatch thief)
/-- STEAL_REPLY (R91). -/
def execStealReply (s : State) : Out :=
  match s.ev with
  | some (.stealReply thief _ given) => .next (s.stolen thief given)
  | _ => .fault .noSuchEvent
/-- STEAL_BACKOFF_END (R91): the die compares again. -/
def execStealBackoffEnd (s : State) : Out :=
  match s.ev with
  | some (.stealBackoffEnd die) => .next ((s.onDie die (fun d => { d with backoff := false })).compareMark die)
  | _ => .fault .noSuchEvent

/-! ### The dispensers (R92, R96, R104) -/

/-- The window of a core holds another launch's record, of which a wick still stands on the core (R96). -/
def State.windowBlocks (s : State) (corek : Nat) (w : Wick) : Bool :=
  let k := s.core corek
  match w.launch, k.window with
  | some l, some m =>
    let of := fun (t : Option LaunchTag) => decide (t.map (fun l => l.id) = some m)
    decide (l.id ≠ m) &&
      ((List.range 8).any (fun j => (s.slot (corek * 8 + j)).occ && of (s.slot (corek * 8 + j)).launch) ||
        k.runq.any (fun v => of v.launch))
  | _, _ => false
/-- The cores of a cluster that may take a wick: the tagged one, core 15 for a service wick, otherwise cores 0 to 14;
none that is fenced (R235) or whose dispenser is stopped (R239). R92 passes an untagged wick of another kind to a core
of the cluster and does not say whether core 15 is among them: the model keeps it for service wicks (DESIGN CHOICE,
notes/assumptions 83). -/
def State.coresFor (s : State) (ck : Nat) (w : Wick) : List Nat :=
  let l :=
    match w.tag with
    | some k => [k]
    | none => if w.rcd.affKind = 3 then [ck * 16 + 15] else (List.range 15).map (fun c => ck * 16 + c)
  l.filter (fun k => !(s.core k).fenced && !(s.core k).halted && !s.windowBlocks k w)
/-- An empty slot of a core that may be filled: a slot that waits in `wk.waitw` is held by a debug halt (R104). -/
def State.fillable (s : State) (slot : Nat) : Bool :=
  !(s.slot slot).occ && !((s.slot slot).waitw && (s.core (coreOf slot)).debug)
/-- The slots of a core. -/
def slotsOf (corek : Nat) : List Nat := (List.range 8).map (fun j => corek * 8 + j)
/-- A slot of a core waiting in `wk.waitw` that may be filled. -/
def State.waitwSlot (s : State) (corek : Nat) : Option Nat := (slotsOf corek).find? (fun k => (s.slot k).waitw && s.fillable k)
/-- Where a wick goes (R92): a slot that waits, otherwise the core with the shortest run queue. -/
def State.placeFor (s : State) (ck : Nat) (w : Wick) : Option (Nat × Option Nat) :=
  let l := s.coresFor ck w
  match l.findSome? (fun k => if (s.core k).runq = [] then (s.waitwSlot k).map (fun j => (k, some j)) else none) with
  | some p => some p
  | none =>
    (l.foldl (fun (best : Option Nat) k =>
      let n := (s.core k).runq.length
      if 8 ≤ n then best
      else
        match best with
        | none => some k
        | some b => if n < (s.core b).runq.length then some k else best) none).map (fun k => (k, none))
/-- Write a launch's shape record to a core's window before its first wick starts there (R96). -/
def State.shapeFor (s : State) (corek : Nat) (w : Wick) : State :=
  match w.launch with
  | none => s
  | some l =>
    if (s.core corek).window = some l.id then s
    else (s.setLocalN corek 0x40 64 l.shape.toNat).onCore corek (fun k => { k with window := some l.id })
/-- The first wick of a dispenser that has reached it and can be placed. -/
def State.nextPass (s : State) (ck : Nat) : Option (Wick × Nat × Option Nat) :=
  (s.cluster ck).disp.findSome? (fun w => if s.tick < w.due then none else (s.placeFor ck w).map (fun p => (w, p.1, p.2)))
/-- Pass one wick to a core, and let what waited for the dispenser's room follow: arriving wicks, and misses (R256). -/
def State.pass (s : State) (ck : Nat) : State :=
  match s.nextPass ck with
  | none => s
  | some (w, k, j) =>
    let s1 := s.onCluster ck (fun c =>
      { c with
        disp := c.disp.erase w ++ (if c.disp.length ≤ 64 then c.arriving.take 1 else [])
        arriving := if c.disp.length ≤ 64 then c.arriving.drop 1 else c.arriving })
    let s2 := (s1.shapeFor k w).onCore k (fun c => { c with runq := c.runq ++ [{ w with due := 0 }] })
    (((s2.missRetry ck).postNext (.dispenserPass ck)).postNext (.wickEntry (j.getD (k * 8)))).post
      (.schedDispatch (dieOfCluster ck))
/-- DISPENSER_PASS (R92). -/
def execDispenserPass (s : State) : Out :=
  match s.ev with
  | some (.dispenserPass ck) => .next (s.pass ck)
  | _ => .fault .noSuchEvent

/-! ### Entry into a slot (R83, R119, R120, R172, R219, R227, R341) -/

/-- A format-table entry is malformed (R341). -/
def fmtMalformed (w0 w1 : Nat) : Bool :=
  decide (bits w1 63 1 = 0) || decide (bits w0 56 8 ≠ 0 ∨ bits w0 27 5 ≠ 0 ∨ bits w0 23 1 ≠ 0 ∨ bits w0 18 2 ≠ 0) ||
    decide (bits w1 32 31 ≠ 0) || decide (bits w0 20 3 = 7 ∨ bits w0 24 3 = 7) ||
    decide (bits w0 32 12 % 4 ≠ 0 ∨ bits w0 44 12 % 4 ≠ 0)
/-- The scale base that a carried register gives (R341). -/
def scaleBase (r : WickRec) (i : Nat) : Nat := if i = 0 then 0 else bits (r.word (i + 1)).toNat 2 20 * 4
/-- Form the shadow registers from a format-table entry (R341). -/
def Slot.formShadow (x : Slot) (r : WickRec) (w0 w1 : Nat) : Slot :=
  let w := BitVec.ofNat 64
  if fmtMalformed w0 w1 then { x with fa := w (2 ^ 63), fb := 0, fc := 0, fs := 0 }
  else
    { x with
      fa := w (bits w0 32 12 * 2 ^ 26 + scaleBase r (bits w0 20 3) * 2 ^ 4 + bits w0 0 4)
      fb := w (bits w0 44 12 * 2 ^ 26 + scaleBase r (bits w0 24 3) * 2 ^ 4 + bits w0 4 4)
      fc := w (bits w0 16 2 * 2 ^ 8 + bits w0 12 4 * 2 ^ 4 + bits w0 8 4)
      fs := w (bits w1 16 16 * 2 ^ 32 + bits w1 0 16) }
/-- The clearing of an entry clears the registers that are not carried: the asid changes, or the slot was gated. -/
def Slot.clears (x : Slot) (r : WickRec) : Bool := x.gated || decide (x.lastAsid.toNat ≠ r.asid)
/-- g1 to g6 from the record, g7 to g15 kept or zero (R83). -/
def Slot.entryG (x : Slot) (r : WickRec) : Tab Word :=
  let old := if x.clears r then [] else x.g.filter (fun e => decide (7 ≤ e.1))
  [(1, r.g1), (2, r.g2), (3, r.g3), (4, r.g4), (5, r.g5), (6, r.g6)].foldl (fun t e => Tab.set 0 t e.1 e.2) old
/-- A slot that a wick enters (R83); the wick's number is `n`. -/
def Slot.enter (x : Slot) (w : Wick) (n : Nat) : Slot :=
  let r := w.rcd
  { x with
    occ := true, waitw := false, wait := .none, wick := n
    pc := r.pc, kind := BitVec.ofNat 5 r.kind, prio := BitVec.ofNat 2 r.prio
    asid := BitVec.ofNat 9 r.asid, lastAsid := BitVec.ofNat 9 r.asid
    fmt := BitVec.ofNat 7 r.fmt, aff := BitVec.ofNat 8 r.aff, grp := BitVec.ofNat 16 r.grp
    g := x.entryG r
    v := if x.clears r then [] else x.v
    c0 := if x.clears r then [] else x.c0
    c1 := if x.clears r then [] else x.c1
    pred := (BitVec.ofNat 16 r.pred ||| 1) &&& 0xFFFD
    fflags := 0, oob := 0, cvm := 0xFF80, dead := 0xFF80, pp := 7
    tcause := 0, tepc := 0, tval := 0, ucause := 0, uepc := 0, uval := 0
    uvec := if x.lastAsid.toNat ≠ r.asid then 0 else x.uvec
    pend := [], mons := [], latch := none, vlatch := none, glatch := none
    handler := false, parkU := none, parkS := none
    seen := w.seen, launch := w.launch, taper := w.taper, irqAll := [], held := none, arrived := [], replies := 0, gated := false
    polled := none, met := .none, undo := none, lines := [] }
/-- The bytes of a slot's ring block are written zero (R154). -/
def State.clearRings (s : State) (slot : Nat) : State := s.setLocalN (coreOf slot) (0x100 + 0x80 * (slot % 8)) 128 0
/-- A wick enters a slot: the ring block is cleared with the registers (R154), and the shadow registers are formed after
the clearing. -/
def State.enterWick (s : State) (slot : Nat) (w : Wick) : State :=
  let x := s.slot slot
  let ck := clusterOf slot
  let s1 := if x.clears w.rcd then s.clearRings slot else s
  let at_ := 0x3FF800 + 16 * w.rcd.fmt
  let y := (x.enter w s.nextWick).formShadow w.rcd (s1.scratchN ck at_ 8) (s1.scratchN ck (at_ + 8) 8)
  ({ s1.setSlot slot y with nextWick := s.nextWick + 1 } : State).activate (coreOf slot)
/-- The slot that a run queue fills: the named one when it waits in `wk.waitw`, otherwise the lowest-numbered empty
one. -/
def State.entrySlot (s : State) (slot : Nat) : Option Nat :=
  if (s.slot slot).waitw && s.fillable slot then some slot else (slotsOf (coreOf slot)).find? s.fillable
/-- A run queue hands its oldest wick to a slot (R92). -/
def State.fill (s : State) (slot : Nat) : State :=
  let corek := coreOf slot
  let k := s.core corek
  if k.fenced then s
  else
    match k.runq, s.entrySlot slot with
    | w :: t, some j =>
      (((s.setCore corek { k with runq := t }).enterWick j w).post (.wickEntry slot)).post (.dispenserPass (clusterOf slot))
    | _, _ => s
/-- WICK_ENTRY (R83). -/
def execWickEntry (s : State) : Out :=
  match s.ev with
  | some (.wickEntry slot) => .next (s.fill slot)
  | _ => .fault .noSuchEvent

/-! ### Arriving wicks (R90, R103, R277) -/

/-- A module admits a wick from a source (R277). -/
def Grant.admitsWick (g : Grant) : Bool :=
  let w := (Tab.get 0 g.w 0).toNat
  decide (bits w 0 1 = 1) && decide (bits w 13 1 = 0) && decide (bits w 12 1 = 1)
/-- A wick enters a cluster: the dispenser, else a reserved entry of the ready queue, else it waits in the mesh (R103). -/
def State.arriveAt (s : State) (ck : Nat) (w : Wick) : State :=
  let die := dieOfCluster ck
  if (s.cluster ck).disp.length < 64 then
    (s.onCluster ck (fun c => { c with disp := c.disp ++ [w] })).post (.dispenserPass ck)
  else if (s.die die).count true < 1024 then s.makeReady die { w := w, eff := w.rcd.prio, reserved := true }
  else s.onCluster ck (fun c => { c with arriving := c.arriving ++ [w] })
/-- An admitted wick as it runs: under the asid of the grant (R277). -/
def admittedWick (w : Wick) : Wick :=
  match w.fromPeer, w.granted with
  | false, _ => w
  | true, none => w
  | true, some a => { w with rcd := { w.rcd with w1 := putBits w.rcd.w1 0 9 a }, granted := none }
/-- A wick reaches a die: one not yet ready holds it, and one that has failed refuses it (R410). -/
def State.reach (s : State) (ck : Nat) (w : Wick) (srcDev srcDie : Nat) : State :=
  let die := dieOfCluster ck
  if (s.die die).readyWord.getLsbD 7 then s.post (.wickRefusalReturn srcDie { w with granted := none } 0xB2)
  else if (s.die die).readyWord.getLsbD 1 = false ∧ die ≠ srcDie then s.after 4096 (.migrationArrival ck w srcDev srcDie)
  else s.arriveAt ck (admittedWick w)
/-- A wick arrives: one from a peer is checked against the grant before the die's state, and runs under the grant's asid; a
refused one goes back and neither sets the fence nor counts at the source (R277, R278). -/
def State.migrate (s : State) (ck : Nat) (w : Wick) (srcDev srcDie : Nat) : State :=
  let dev := devOfCluster ck
  let g := s.grant dev srcDev
  if w.fromPeer = false ∨ w.granted.isSome = true then s.reach ck w srcDev srcDie
  else if g.admitsWick then s.reach ck { w with granted := some (bits (Tab.get 0 g.w 0).toNat 1 9) } srcDev srcDie
  else
    ((s.onGrant dev srcDev Grant.reject).log (dieOfCluster ck) 0x91
      [BitVec.ofNat 64 srcDev, BitVec.ofNat 64 (scratchPa ck 0)]).post (.wickRefusalReturn srcDie w 0x91)
/-- MIGRATION_ARRIVAL (R103). -/
def execMigrationArrival (s : State) : Out :=
  match s.ev with
  | some (.migrationArrival ck w srcDev srcDie) => .next (s.migrate ck w srcDev srcDie)
  | _ => .fault .noSuchEvent
/-- WICK_REFUSAL_RETURN (R103): the wick goes to its source's failure list, and its group breaks (R208). -/
def execWickRefusalReturn (s : State) : Out :=
  match s.ev with
  | some (.wickRefusalReturn die w cause) =>
    .next ((s.post (.wickFailure die { w with rcd := w.rcd.mark 3 cause })).breakGroup (die / 32) w.rcd.asid w.rcd.grp cause)
  | _ => .fault .noSuchEvent

/-! ### Gating and refresh (R120, R134) -/

/-- SLOT_GATING (R120): a slot that has held no wick is gated, and its ring block written zero (R154); one in `wk.waitw`
never is. -/
def execSlotGating (s : State) : Out :=
  match s.ev with
  | some (.slotGating slot) =>
    .next (if (s.slot slot).occ || (s.slot slot).waitw then s
      else (s.clearRings slot).onSlot slot (fun x => { x with gated := true }))
  | _ => .fault .noSuchEvent
/-- VECTOR_REFRESH (R134): a refresh keeps the row's value, and a corrected error is counted; a row that is uncorrectable
is written zero, and the slot's wick fails (R234). The rows of a gated slot are not refreshed. -/
def execVectorRefresh (s : State) : Out :=
  match s.ev with
  | some (.vectorRefresh slot row err) =>
    let x := s.slot slot
    if err = .none ∨ x.gated then .next s
    else if err = .corrected then .next (s.onDie (dieOf slot) (fun d => { d with corrected := d.corrected + 1 }))
    else
      let s1 := (s.onSlot slot (fun x => x.setV row 0)).log (dieOf slot) 0xB1 [BitVec.ofNat 64 slot, BitVec.ofNat 64 row]
      .next (if x.occ then s1.failWick slot 0xB1 x.pc else s1)
  | _ => .fault .noSuchEvent

end Sys2Proof.Machine
end

