-- ==== Sys2Proof/Machine/Interrupt.lean ====
section
/-!
DEFINITION. Failed wicks and the failure list (spec 11_traps.md, R231 to R235), interrupts and their sources (R230,
R236 to R239), the decode trap, and the answer of an instruction-cache miss (R45, R85, R254).
-/

namespace Sys2Proof.Machine

/-! ### The failure list (R231, R233, R412) -/

/-- The service core of cluster 0 of a die. -/
def serviceOf (die : Nat) : Nat := die * 1024 + 15
/-- Append a record to a die's ring in DRAM and advance the head (R412). -/
def State.appendRecord (s : State) (die : Nat) (r : WickRec) : State :=
  let d := s.die die
  let head := s.readN (d.failBase - 56) 8
  let a := d.failBase + 64 * (head % d.failSize)
  (((s.serve a true).storeN a 64 r.toNat).serve (d.failBase - 56) true).storeN (d.failBase - 56) 8 (head + 1)
/-- A record reaches the failure list: the ring, or the overflow buffer with cause 0xC6; with both full it waits
(R233). -/
def State.failRecord (s : State) (die : Nat) (r : WickRec) : State :=
  let d := s.die die
  if d.overflow = [] ∧ s.failFull die = false then s.appendRecord die r
  else if d.overflow.length < 64 then
    (s.setDie die { d with overflow := d.overflow ++ [r] }).postIrq (serviceOf die) 0xC6
      (BitVec.ofNat 64 (d.overflow.length + 1))
  else s.setDie die { d with waitFails := d.waitFails ++ [.record r] }
/-- A failed wick's record reaches the failure list; a tagged wick's Taper entry ends as failed (R390). -/
def State.failEnter (s : State) (die : Nat) (w : Wick) : State :=
  let s1 := s.failRecord die w.rcd
  match w.taper with
  | some t => s1.entryEnd t true
  | none => s1
/-- WICK_FAILURE (R231, R390). -/
def execWickFailure (s : State) : Out :=
  match s.ev with
  | some (.wickFailure die w) => .next (s.failEnter die w)
  | _ => .fault .noSuchEvent

/-- Move buffered records into the ring, oldest first, while it has room. -/
def State.drainOverflow (s : State) (die : Nat) : Nat → State
  | 0 => s
  | n + 1 =>
    match (s.die die).overflow with
    | [] => s
    | r :: t =>
      if s.failFull die then s
      else State.drainOverflow ((s.appendRecord die r).onDie die (fun d => { d with overflow := t })) die n
/-- The ring and the buffer take no more records. -/
def State.failClosed (s : State) (die : Nat) : Bool := s.failFull die && decide (64 ≤ (s.die die).overflow.length)
/-- A record that waits enters, or the wick that waits in its slot leaves it, and its record enters. -/
def State.admitFailure (s : State) (die : Nat) (f : FailWait) : State :=
  match f with
  | .record r => s.failRecord die r
  | .slot k =>
    let x := s.slot k
    match x.wait with
    | .failing c =>
      ((s.failLeave k c).failEnter die (x.failed c x.pc)).breakGroup (devOf k) x.asid.toNat x.grp.toNat c
    | _ => s
/-- What waits for room enters in the order of failure, as far as there is room (R233). -/
def State.admitFailures (s : State) (die : Nat) : List FailWait → State
  | [] => s.onDie die (fun d => { d with waitFails := [] })
  | f :: t =>
    if s.failClosed die then s.onDie die (fun d => { d with waitFails := f :: t })
    else State.admitFailures (s.admitFailure die f) die t
/-- FAILURE_LIST_TAIL_ADVANCE (R233): buffered records move, and then those that wait for room. -/
def execFailureListTailAdvance (s : State) : Out :=
  match s.ev with
  | some (.failureListTailAdvance die tail) =>
    let d := s.die die
    .next (if d.failSize = 0 then s
      else ((s.storeN (d.failBase - 48) 8 tail).drainOverflow die 64).admitFailures die d.waitFails)
  | _ => .fault .noSuchEvent

/-! ### Errors of a core, and re-admission (R152, R234, R235, R412) -/

/-- The shared state of a core is lost when it is fenced: its registers, accumulators, queue and matrix operations. The words
that the links held are discarded, and counted in the fault log (R235). -/
def State.fence (s : State) (slot : Nat) : State :=
  let corek := coreOf slot
  let k := s.core corek
  let gone := k.mx.map (fun o => o.lock)
  let s1 := s.setCore corek { k with fenced := true, h := [], acc := [], rq := [], link := [], mqWait := [], mx := [] }
  let s2 := s1.onCluster (clusterOf slot) (fun c => { c with locks := c.locks.filter (fun l => !gone.elem l.op) })
  let s3 := k.link.foldl (fun (s : State) w => s.log (dieOf slot) 0xB6 [BitVec.ofNat 64 corek, w]) s2
  (s3.wakeCluster (clusterOf slot) .port).log (dieOf slot) 0xB6 [BitVec.ofNat 64 slot]
/-- The next wick of a fenced core fails (R235): its slots in ascending order, then its run queue, oldest first. -/
def State.failNext (s : State) (slot : Nat) : State :=
  let corek := coreOf slot
  let ready := fun k => (s.slot k).occ && (match (s.slot k).wait with | .failing _ => false | _ => true)
  match (slotsOf corek).find? ready with
  | some k => (s.machineError k 0xB5 0 (s.slot k).pc).post (.coreError slot)
  | none =>
    match (s.core corek).runq with
    | [] => s
    | w :: t =>
      ((((s.logError slot 0xB5 0).onCore corek (fun k => { k with runq := t })).post
        (.wickFailure (dieOf slot) { w with rcd := w.rcd.mark 3 0xB5 })).breakGroup (devOf slot) w.rcd.asid w.rcd.grp 0xB5).post
        (.coreError slot)
/-- CORE_ERROR (R235): the core is fenced, the wick of the slot at fault fails with 0xB6, and the others follow one by
one. -/
def execCoreError (s : State) : Out :=
  match s.ev with
  | some (.coreError slot) =>
    if (s.core (coreOf slot)).fenced then .next (s.failNext slot)
    else
      let s1 := s.fence slot
      let s2 := if (s1.slot slot).occ then s1.failWick slot 0xB6 (s1.slot slot).pc else s1
      .next (s2.post (.coreError slot))
  | _ => .fault .noSuchEvent
/-- CORE_READMIT (R412): the dispenser feeds the core again. -/
def execCoreReadmit (s : State) : Out :=
  match s.ev with
  | some (.coreReadmit k) => .next ((s.onCore k (fun c => { c with fenced := false })).post (.dispenserPass (k / 16)))
  | _ => .fault .noSuchEvent
/-- BANK_FAIL_MARK (R152): at most one bank of a scratchpad is marked. -/
def execBankFailMark (s : State) : Out :=
  match s.ev with
  | some (.bankFailMark ck bank) =>
    .next (s.onCluster ck (fun c => if c.failedBanks = [] ∧ bank < 34 then { c with failedBanks := [bank] } else c))
  | _ => .fault .noSuchEvent

/-! ### Interrupt sources (R236, R238, R239, Table 11.6) -/

/-- The slots of a core that hold a wick. -/
def State.holding (s : State) (corek : Nat) : List Nat := (slotsOf corek).filter (fun k => (s.slot k).occ)
/-- Post an all-slots source to a core: every slot that now holds a wick takes it once; a post of a source that is still
pending merges. -/
def State.postAllSlots (s : State) (corek cause : Nat) (v : Word) : State :=
  if (slotsOf corek).any (fun k => (s.slot k).irqAll.any (fun e => decide (e.1 = cause))) then s
  else (s.holding corek).foldl (fun s k => s.onSlot k (fun x => { x with irqAll := x.irqAll ++ [(cause, v)] })) s
/-- Withdraw an all-slots source: held slots rejoin the rotation (R238). -/
def State.withdraw (s : State) (corek cause : Nat) : State :=
  (slotsOf corek).foldl (fun s k => s.onSlot k (fun x =>
    { x with
      irqAll := x.irqAll.filter (fun e => decide (e.1 ≠ cause))
      wait := if x.wait = .held cause then .none else x.wait })) s
/-- PREEMPTION_REQUEST (R239, phase 1): the dispenser stops feeding the core, and 0xC0 is posted. -/
def execPreemptionRequest (s : State) : Out :=
  match s.ev with
  | some (.preemptionRequest k line) => .next ((s.onCore k (fun c => { c with halted := true })).postAllSlots k 0xC0 line)
  | _ => .fault .noSuchEvent
/-- PREEMPTION_WITHDRAW (R238, R239, phase 4). -/
def execPreemptionWithdraw (s : State) : Out :=
  match s.ev with
  | some (.preemptionWithdraw k) =>
    .next (((s.withdraw k 0xC0).onCore k (fun c => { c with halted := false })).post (.dispenserPass (k / 16)))
  | _ => .fault .noSuchEvent
/-- HOST_DOORBELL (R408, Table 23.2): it waits until the service cores of its die run (R410). -/
def execHostDoorbell (s : State) : Out :=
  match s.ev with
  | some (.hostDoorbell dev c v) =>
    let die := dieKey dev (computeSockets.getD c 7)
    .next (if c < 8 then
      (match homeOfWord (s.die die).readyWord 2 with
        | .ok => s.postIrq (serviceOf die) 0xC1 v
        | .held => s.after 64 (.hostDoorbell dev c v)
        | .failed => s)
      else s)
  | _ => .fault .noSuchEvent
/-- SERVICE_SIGNAL (R236). -/
def execServiceSignal (s : State) : Out :=
  match s.ev with
  | some (.serviceSignal k v) => .next (s.postIrq k 0xC2 v)
  | _ => .fault .noSuchEvent
/-- DEBUG_HALT (R104, R236). -/
def execDebugHalt (s : State) : Out :=
  match s.ev with
  | some (.debugHalt k) => .next ((s.onCore k (fun c => { c with debug := true })).postAllSlots k 0xC3 0)
  | _ => .fault .noSuchEvent
/-- DEBUG_HALT_END (R104, R238): slots held in `wk.waitw` may be filled again. -/
def execDebugHaltEnd (s : State) : Out :=
  match s.ev with
  | some (.debugHaltEnd k) =>
    .next ((((s.withdraw k 0xC3).onCore k (fun c => { c with debug := false })).post (.wickEntry (k * 8))).post
      (.dispenserPass (k / 16)))
  | _ => .fault .noSuchEvent

/-! ### Taking an interrupt (R221, R224, R230, R236 to R238) -/

/-- An interrupt is no longer pending for a slot that has taken it. -/
def State.clearIrq (s : State) (slot cause : Nat) (all : Bool) : State :=
  if all then s.onSlot slot (fun x => { x with irqAll := x.irqAll.filter (fun e => decide (e.1 ≠ cause)) })
  else s.onCore (coreOf slot) (fun k => { k with irq := Tab.del cause k.irq })
/-- The wait of a slot is abandoned with no effect (R110, R117): receive-queue words that it had reserved are free, and
it is no longer among those that wait on mq; its matrix instructions that have not started go, and an `enq` that waits
for room registers nothing. -/
def State.abandonWait (s : State) (slot : Nat) : State :=
  ((s.giveUp slot).dropReady slot).onSlot slot (fun x => { x with held := none, wait := .none })
/-- Take an interrupt: a slot without a handler is held (R238); one with peer stores outstanding waits for their
acknowledgements, and a recorded fault goes first (R230). -/
def State.interrupt (s : State) (slot cause : Nat) (tval : Word) (all : Bool) : State :=
  let x := s.slot slot
  if x.tvec = 0 then (s.abandonWait slot).onSlot slot (fun x => { x with wait := .held cause })
  else if x.peerOut ≠ [] then (s.abandonWait slot).onSlot slot (fun x => { x with wait := .acks })
  else
    match x.latch with
    | some l => (s.abandonWait slot).takeTrap slot 0x90 l.value x.pc true
    | none => ((s.abandonWait slot).takeInterrupt slot cause tval).clearIrq slot cause all
/-- INTERRUPT_TAKE (R237). -/
def execInterruptTake (s : State) : Out :=
  match s.ev with
  | some (.interruptTake slot) =>
    .next (match s.interruptFor slot with
      | some (cause, tval, all) => s.interrupt slot cause tval all
      | none => s)
  | _ => .fault .noSuchEvent

/-! ### The decode trap (R45, R48) and the fetch that missed (R85, R234, R254) -/

/-- The decode causes of a word in a slot, the lowest one; none for a word that decodes there. -/
def illegalCause (s : State) (slot : Nat) (w l1 l2 : IWord) : Option Cause :=
  match parse w l1 l2 with
  | .error c => some c
  | .ok i => decodeCause s slot i.enc
/-- ILLEGAL_INSTRUCTION (R45, R48): the decode cause is raised with the instruction word as its value. -/
def execIllegalInstruction (s : State) : Out :=
  match s.ev with
  | some (.illegalInstruction w l1 l2) =>
    .next (match illegalCause s s.cur w l1 l2 with
      | some c => s.takeTrap s.cur c (w.zeroExtend 64) (s.slot s.cur).pc false
      | none => s)
  | _ => .fault .noSuchEvent

/-- The bytes of a line that a fetch reads at its home: zero where a peer refuses them, which the slot's latch records
(R279). -/
def State.fetchLine (s : State) (slot pa : Nat) : List Byte × State :=
  let zero : List Byte := List.replicate icBytes 0
  match peerOf slot pa with
  | none => (if (region pa).inRange then s.readList pa icBytes else zero, s.serve pa true)
  | some d =>
    if (s.grant d (devOf slot)).admits pa icBytes .load then
      (if (region pa).inRange then s.readList pa icBytes else zero, s.serve pa true)
    else
      (zero, (((s.refuse d (devOf slot) pa).countRefusal (devOf slot) d).onSlot slot (fun x => x.latchFault x.pc d)))
/-- A line of the instruction cache is filled, with the user permission of its page; a full cache drops the line that was filled longest ago
(notes/assumptions 7). -/
def State.fillLine (s : State) (slot : Nat) (va : Word) (pa : Nat) (user : Bool) : State :=
  let r := s.fetchLine slot (pa - va.toNat % icBytes)
  r.2.onCore (coreOf slot) (fun k =>
    { k with icache := (⟨(s.slot slot).asid, va.toNat / icBytes, r.1, user⟩ ::
        k.icache.filter (fun l => !decide (l.asid = (s.slot slot).asid ∧ l.line = va.toNat / icBytes))).take icLines })
/-- What a slot's fetch of an address that missed comes to: a fetch fault, a walk, an error, or the line. -/
def State.fetchFill (s : State) (slot : Nat) (va : Word) : State :=
  let x := s.slot slot
  let fail := fun (s : State) (c : Cause) => s.takeTrap slot c va x.pc false
  let go := fun (s : State) => s.onSlot slot (fun x => { x with wait := .none })
  if va.toNat / 2 ^ 57 ≠ 0 then fail s 0x43
  else if isNear va then
    let pa := nearPa (coreOf slot) va
    if (s.readError pa).isSome then s.machineError slot 0xB4 pa x.pc else go (s.repairRow pa)
  else
    let r := s.xlate (coreOf slot) true x.user x.asid .fetch va
    match r.1 with
    | .fault c => fail r.2 c
    | .miss =>
      ((r.2.enqMiss (clusterOf slot) x.asid va.toNat 2 (some slot) none).1).onSlot slot (fun x =>
        { x with wait := .fetchMiss va })
    | .ok t =>
      match r.2.targetCause slot .fetch 4 t with
      | some c => fail r.2 c
      | none =>
        let home :=
          match peerOf slot t.pa with
          | some d => if (s.grant d (devOf slot)).admits t.pa icBytes .load then r.2.home (2 ^ 30) t.pa else .ok
          | none => r.2.home (dieOf slot) t.pa
        match home with
        | .held => r.2.onSlot slot (fun x => { x with wait := .router t.pa })
        | .failed => r.2.machineError slot 0xB2 t.pa x.pc
        | .ok =>
          match r.2.readFault (t.pa - va.toNat % icBytes) icBytes with
          | some e => r.2.machineError slot 0xB4 e.2 x.pc
          | none =>
            go (r.2.fillLine slot va t.pa (match (r.2.xlate (coreOf slot) true true x.asid .fetch va).1 with
              | .ok _ => true
              | _ => false))
/-- INSTRUCTION_CACHE_MISS_FILL (R85). -/
def execInstructionCacheMissFill (s : State) : Out :=
  match s.ev with
  | some (.instructionCacheMissFill slot) =>
    .next (match (s.slot slot).wait with
      | .fetch va => s.fetchFill slot va
      | _ => s)
  | _ => .fault .noSuchEvent

end Sys2Proof.Machine
end

