-- ==== Sys2Proof/Machine/Sys.lean ====
section
/-!
DEFINITION. System registers (spec 06_registers.md, R122 to R124, Table 6.5): the contents and the writable fields
of every selector, `sys.rw`, and the write of the scheduler control word.
-/

namespace Sys2Proof.Machine

/-- The location word (R11, Table 1.3). -/
def locWord (slot : Nat) : Word :=
  let kind := if isService (coreOf slot) then 3 else if isW (clusterOf slot) then 1 else 0
  BitVec.ofNat 64 (kind * 2 ^ 24 + slot % 2 ^ 24)

/-- Units a die has borrowed (R403). -/
def Die.borrowed (d : Die) : Nat := (d.loans.map (fun l => l.units)).sum
/-- Units a die has lent (R403). -/
def Die.lentOut (d : Die) : Nat := (d.lent.map (fun l => l.units)).sum
/-- The allotment at rest of a socket (R403, Table 1.5). -/
def allotment (socket : Nat) : Nat := if isCompute socket then 520 else 90

/-- qctl (Table 6.6). -/
def qctlWord (x : Slot) (k : Core) : Word := BitVec.ofNat 64 (k.rq.length % 64 * 2 ^ 8 + x.pp.toNat * 2)

/-- The contents of a selector for a slot (Table 6.5). -/
def State.sysRead (s : State) (slot sel : Nat) : Word :=
  let x := s.slot slot
  let k := s.core (coreOf slot)
  let d := s.die (dieOf slot)
  match sel with
  | 0x000 => locWord slot
  | 0x001 => BitVec.ofNat 64 k.cycle
  | 0x002 => x.fflags.zeroExtend 64
  | 0x003 => x.cvm
  | 0x004 => x.dead
  | 0x005 => qctlWord x k
  | 0x006 => x.oob
  | 0x007 => (x.record 0 0 x.pc (!x.user)).w1
  | 0x008 => x.fa
  | 0x009 => x.fb
  | 0x00A => x.fc
  | 0x00B => x.fs
  | 0x010 => x.tvec
  | 0x011 => x.tcause
  | 0x012 => x.tepc
  | 0x013 => x.tval
  | 0x014 => x.tsave
  | 0x015 => x.tmask
  | 0x018 => x.uvec
  | 0x019 => x.ucause
  | 0x01A => x.uepc
  | 0x01B => x.uval
  | 0x020 => BitVec.ofNat 64 d.mark
  | 0x030 => BitVec.ofNat 64 (allotment (dieOf slot % 32))
  | 0x031 => BitVec.ofNat 64 (d.borrowed % 2 ^ 16)
  | 0x032 => BitVec.ofNat 64 (d.lentOut % 2 ^ 16)
  | 0x033 => BitVec.ofNat 64 d.throttle
  | _ => 0

/-- The fields of a vector register (Table 11.1): bits 56:2. -/
def vecMask : Word := 0x01FFFFFFFFFFFFFC
/-- The fields of cvm and the dead mask (Table 6.3). -/
def cvmMask : Word := 0x0000000FFFFFFF80
/-- The fields of fa (Table 19.3). -/
def faMask : Word := 0x8000003FFFFFFFCF
/-- The fields of fb. -/
def fbMask : Word := 0x0000003FFFFFFFCF
/-- The fields of fs (Table 19.5). -/
def fsMask : Word := 0x001FFFFF001FFFFF

/-- Write a slot-held selector, its writable fields only (R122, R124). An upcall's situation under R260 ends when
uepc is written with act clear. -/
def Slot.sysWrite (x : Slot) (sel : Nat) (v : Word) : Slot :=
  match sel with
  | 0x002 => { x with fflags := v.truncate 8 &&& 0x7F }
  | 0x003 => { x with cvm := v &&& cvmMask }
  | 0x004 => { x with dead := v &&& cvmMask }
  | 0x005 => { x with pp := BitVec.ofNat 3 (v.toNat / 2) }
  | 0x006 => { x with oob := v &&& 0xC1FFFFFFFFFFFFFF }
  | 0x008 => { x with fa := v &&& faMask }
  | 0x009 => { x with fb := v &&& fbMask }
  | 0x00A => { x with fc := v &&& 0x3FF }
  | 0x00B => { x with fs := v &&& fsMask }
  | 0x010 => { x with tvec := v &&& vecMask }
  | 0x011 => { x with tcause := v &&& 0x7FF }
  | 0x012 => { x with tepc := v &&& vecMask }
  | 0x013 => { x with tval := v }
  | 0x014 => { x with tsave := v }
  | 0x015 => { x with tmask := v &&& 0x1FFFFFFFF }
  | 0x018 => { x with uvec := v &&& vecMask }
  | 0x019 => { x with ucause := v &&& 0x1FF }
  | 0x01A =>
    { x with
      uepc := v &&& (vecMask ||| 1)
      parkU := if v.getLsbD 0 then x.parkU else none }
  | 0x01B => { x with uval := v }
  | _ => x

/-- Set a die's low-water mark and compare the occupancy with it (R91, R123). -/
def State.setMark (s : State) (die v : Nat) : State :=
  (s.onDie die (fun d => { d with mark := v % 2 ^ 14 })).compareMark die

/-- Write a selector: a slot's own, or the die's scheduler control word, which the write's own event follows. -/
def State.sysWrite (s : State) (slot sel : Nat) (v : Word) : State :=
  if sel = 0x020 then
    (s.onDie (dieOf slot) (fun d => { d with mark := v.toNat % 2 ^ 14 })).post (.schedWrite (dieOf slot) (v.toNat % 2 ^ 14))
  else s.onSlot slot (fun x => x.sysWrite sel v)

/-- `sys.rw` (R122): the selector's old value goes to dst; sa other than g0 writes it. -/
def execSysRw (x : FmtS) (s : State) : Out :=
  runInstr (.sysRw x) s do
    let v ← rd x.a
    let k ← here
    let st ← getS
    prepDst x.d.toNat
    let old := st.sysRead k x.sel.toNat
    if x.a.code ≠ 0 then modS (fun t => t.sysWrite k x.sel.toNat v)
    wr x.d old
    return .next

/-- SCHED_WRITE (R123): the low-water mark is set and the occupancy compared with it at once. -/
def execSchedWrite (s : State) : Out :=
  match s.ev with
  | some (.schedWrite die v) => .next (s.setMark die v)
  | _ => .fault .noSuchEvent

end Sys2Proof.Machine
end

