-- ==== Sys2Proof/Machine/Power.lean ====
section
/-!
DEFINITION. Power units (spec 23_power_host.md, R403 to R406): borrowing, lending, repayment, recall and throttling.
-/

namespace Sys2Proof.Machine

/-- The units a die holds (R403): its allotment, plus what it has borrowed, minus what it has lent. -/
def State.heldUnits (s : State) (die : Nat) : Nat :=
  allotment (die % 32) + (s.die die).borrowed - (s.die die).lentOut
/-- A die's unused own units (R404): borrowed units are never lent. -/
def State.unusedOwn (s : State) (die : Nat) : Nat :=
  allotment (die % 32) - (s.die die).lentOut - (s.die die).demand
/-- The units that a die has recalled and not yet been repaid (R405). -/
def Die.recalled (d : Die) : Nat := (d.lent.map (fun l => l.called)).sum
/-- What a die still lacks, beside what it has recalled. -/
def State.shortfall (s : State) (die : Nat) : Nat :=
  (s.die die).demand - (s.heldUnits die + (s.die die).recalled)
/-- The neighbours of a die with a socket above a number. -/
def neighboursAbove (die so : Nat) : List Nat :=
  ((neighbours (die % 32)).filter (fun n => decide (so ≤ n))).map (fun n => die / 32 * 32 + n)
/-- The cores of a compute die. -/
def coresOfDie (die : Nat) : List Nat := (List.range 768).map (fun j => die * 1024 + j)

/-- Take units off a list of loans, newest first: the loans taken off, and those that stay. -/
def takeLoans : Nat → List Loan → List Loan × List Loan
  | _, [] => ([], [])
  | n, l :: t =>
    if n = 0 then ([], l :: t)
    else if l.units ≤ n then
      let r := takeLoans (n - l.units) t
      (l :: r.1, r.2)
    else ([{ l with units := n }], { l with units := l.units - n } :: t)

/-- A demand that stands for a die. -/
def isDemand (die : Nat) : Event → Bool
  | .demandChange d _ => decide (d = die)
  | _ => false
/-- A die compares again, its demand unchanged, after 4,096 ticks of the model. -/
def State.comparePowerAgain (s : State) (die : Nat) : State :=
  if s.timers.any (fun t => isDemand die t.2) then s else s.after 4096 (.demandChange die (s.die die).demand)
/-- Ask the next neighbour for a shortfall, from a socket number on; with none left the series ends, and a die still
short asks again later (R404). -/
def State.ask (s : State) (die so : Nat) : State :=
  let need := s.shortfall die
  match neighboursAbove die so with
  | n :: _ =>
    if need = 0 then s.onDie die (fun d => { d with asking := false })
    else (s.onDie die (fun d => { d with asking := true })).post (.powerBorrowRequest die n need)
  | [] =>
    let s1 := s.onDie die (fun d => { d with asking := false })
    if need = 0 then s1 else s1.comparePowerAgain die
/-- Repay borrowed units that the demand no longer needs, newest first (R405). -/
def State.repay (s : State) (die : Nat) : State :=
  let d := s.die die
  let r := takeLoans (s.heldUnits die - d.demand) d.loans
  (s.setDie die { d with loans := r.2 }).postAll (r.1.map (fun l => .powerRepay die l.die l.units l.id false))
/-- Recall units of a list of loans that are not yet recalled, newest first: the list, and for each recall the loan as it
stands and the units recalled. -/
def callLoans : Nat → List Loan → List Loan × List (Loan × Nat)
  | _, [] => ([], [])
  | n, l :: t =>
    let u := min n (l.units - l.called)
    let r := callLoans (n - u) t
    ({ l with called := l.called + u } :: r.1, if u = 0 then r.2 else (l, u) :: r.2)
/-- Recall lent units that the die's own demand needs, those lent last first (R405; the order is a DESIGN CHOICE,
notes/assumptions 95). -/
def State.recall (s : State) (die : Nat) : State :=
  let d := s.die die
  let need := d.demand - (allotment (die % 32) - d.lentOut) - d.recalled
  let r := callLoans need d.lent
  (s.setDie die { d with lent := r.1 }).postAll (r.2.map (fun p => .powerRecall p.1.die die p.2 p.1.id))
/-- Start or end a throttle episode (R406): a compute die posts 0xC4 to its cores at the start; the cycles that
another die has withheld are a free value. -/
def State.throttleCheck (s : State) (die : Nat) : State :=
  let d := s.die die
  let short := decide (s.heldUnits die < d.demand)
  if short && !d.throttled then
    let s1 := s.setDie die { d with throttled := true }
    if isCompute (die % 32) then
      (coresOfDie die).foldl (fun s k => s.postIrq k 0xC4 (BitVec.ofNat 64 d.throttle)) s1
    else s1
  else if d.throttled then
    let n := if isCompute (die % 32) then 0 else (Config.freeValue s.freeCtr).toNat
    { s.setDie die { d with throttled := short, throttle := (d.throttle + n) % 2 ^ 64 } with freeCtr := s.freeCtr + 1 }
  else s
/-- A die compares its demand with its units: it repays, recalls, throttles, and asks when no series is under way. -/
def State.settlePower (s : State) (die : Nat) : State :=
  let s1 := ((s.repay die).recall die).throttleCheck die
  if (s1.die die).asking = false ∧ s1.shortfall die ≠ 0 then s1.ask die 0 else s1

/-- DEMAND_CHANGE (R404 to R406). -/
def execDemandChange (s : State) : Out :=
  match s.ev with
  | some (.demandChange die demand) =>
    let s1 := { s with timers := s.timers.filter (fun t => !isDemand die t.2) }
    .next ((s1.onDie die (fun d => { d with demand := demand })).settlePower die)
  | _ => .fault .noSuchEvent
/-- POWER_BORROW_REQUEST (R404): the neighbour lends the lesser of the request and its unused own units. -/
def execPowerBorrowRequest (s : State) : Out :=
  match s.ev with
  | some (.powerBorrowRequest borrower lender units) =>
    let u := min units (s.unusedOwn lender)
    let s1 :=
      if u = 0 then s
      else
        { s.onDie lender (fun d => { d with lent := { id := s.nextOp, die := borrower, units := u } :: d.lent }) with
          nextOp := s.nextOp + 1 }
    .next (s1.post (.powerLend borrower lender u s.nextOp))
  | _ => .fault .noSuchEvent
/-- POWER_LEND (R404): the units arrive, and the next neighbour is asked for what is still short. -/
def execPowerLend (s : State) : Out :=
  match s.ev with
  | some (.powerLend borrower lender units loan) =>
    let s1 :=
      if units = 0 then s
      else s.onDie borrower (fun d => { d with loans := { id := loan, die := lender, units := units } :: d.loans })
    .next (((s1.ask borrower (lender % 32 + 1)).repay borrower).throttleCheck borrower)
  | _ => .fault .noSuchEvent
/-- A loan after units of it have come back: recalled ones are no longer awaited, and of others no more can be awaited than
are still lent. -/
def Loan.less (l : Loan) (n : Nat) (recalled : Bool) : Loan :=
  let u := l.units - n
  { l with units := u, called := min u (if recalled then l.called - n else l.called) }
/-- Take units off the loan of a number; one with none left goes. -/
def reduceLoan (id n : Nat) (recalled : Bool) (l : List Loan) : List Loan :=
  (l.map (fun x => if x.id = id then x.less n recalled else x)).filter (fun x => decide (x.units ≠ 0))
/-- POWER_REPAY (R405): the units reach their lender. -/
def execPowerRepay (s : State) : Out :=
  match s.ev with
  | some (.powerRepay _ lender units loan recalled) =>
    .next ((s.onDie lender (fun d => { d with lent := reduceLoan loan units recalled d.lent })).settlePower lender)
  | _ => .fault .noSuchEvent
/-- POWER_RECALL (R405): the borrower drops the units, repays them, and throttles or asks again. -/
def execPowerRecall (s : State) : Out :=
  match s.ev with
  | some (.powerRecall borrower lender units loan) =>
    let d := s.die borrower
    let u := min units ((d.loans.filter (fun l => decide (l.id = loan))).map (fun l => l.units)).sum
    let s1 := s.setDie borrower { d with loans := reduceLoan loan u true d.loans }
    let s2 := if u = 0 then s1 else s1.post (.powerRepay borrower lender u loan true)
    .next (s2.settlePower borrower)
  | _ => .fault .noSuchEvent

end Sys2Proof.Machine
end

