-- ==== Sys2Proof/Machine/HostLink.lean ====
section
/-!
DEFINITION. Host link, bring-up and identity (spec 23_power_host.md, R407 to R415): the launch queues, die reset, host
register writes, attestation, and the host link's training.
-/

namespace Sys2Proof.Machine

/-! ### The launch queues (R408, R409, Table 23.2) -/

/-- Entries that the host has written and the die has not taken. -/
def LaunchQ.occupancy (q : LaunchQ) : Nat := (q.tail + 2 ^ 16 - q.head) % 2 ^ 16
/-- Entry `n` of a launch queue, 128 bytes as a number. -/
def LaunchQ.entry (q : LaunchQ) (n : Nat) : Nat := leNat ((List.range 128).map (fun i => Tab.get 0 q.entries (128 * n + i)))
/-- Change a die's launch queue. -/
def State.onQueue (s : State) (die : Nat) (f : LaunchQ → LaunchQ) : State := s.onDie die (fun d => { d with lq := f d.lq })
/-- LAUNCH_TAIL_WRITE (R409): an occupancy above 32 stops the queue; a valid tail lets it go on. -/
def execLaunchTailWrite (s : State) : Out :=
  match s.ev with
  | some (.launchTailWrite die tail) =>
    .next ((s.onQueue die (fun q =>
      let r := { q with tail := tail % 2 ^ 16 }
      { r with stopped := decide (32 < r.occupancy) })).post (.launchEntryTake die))
  | _ => .fault .noSuchEvent
/-- The result of an entry, and the head's advance. -/
def LaunchQ.result (q : LaunchQ) (c : Nat) : LaunchQ :=
  { q with
    results := Tab.put (q.head % 32) c q.results
    cause := if c = 0 then q.cause else c
    head := (q.head + 1) % 2 ^ 16 }
/-- Take one entry (R409): checked and placed under R93 with the queue's asid and grp, for user mode (R109). The place
needs room on every die that receives ranks (R108). -/
def State.takeEntry (s : State) (die : Nat) : State :=
  let q := (s.die die).lq
  let dev := die / 32
  if q.stopped ∨ q.occupancy = 0 ∨ (s.die die).readyWord.getLsbD 1 = false then s
  else
    let v := q.entry (q.head % 32)
    match descCause v true with
    | some c => (s.onQueue die (fun q => q.result c)).post (.launchEntryTake die)
    | none =>
      if s.launchRoom dev v = false then s.after 64 (.launchEntryTake die)
      else
        ((s.launch dev v (bits q.qctl.toNat 0 9) (bits q.qctl.toNat 16 16)).onQueue die (fun q => q.result 0)).post
          (.launchEntryTake die)
/-- LAUNCH_ENTRY_TAKE (R409). -/
def execLaunchEntryTake (s : State) : Out :=
  match s.ev with
  | some (.launchEntryTake die) => .next (s.takeEntry die)
  | _ => .fault .noSuchEvent

/-- A word of a launch region as the host reads it (R408, Table 23.2). -/
def State.launchWord (s : State) (die off : Nat) : Word :=
  let q := (s.die die).lq
  let w := BitVec.ofNat 64
  if off < 0x1000 then w (leNat ((List.range 8).map (fun i => Tab.get 0 q.entries (off + i))))
  else if off = 0x1000 then q.qctl
  else if off = 0x1008 then w q.tail
  else if off = 0x1010 then w q.head
  else if off = 0x1018 then w ((if q.stopped then 1 else 0) + q.cause % 256 * 2 ^ 8)
  else if 0x1100 ≤ off ∧ off < 0x1200 then w (Tab.get 0 q.results ((off - 0x1100) / 8))
  else 0

/-! ### Attestation (R413 to R415, Table 23.6) -/

/-- The report of a socket (Table 23.6): nonce, measurement, socket, ready bits, and the signature by its identity key of
the digest of those 104 bytes, whose length is that of R71. Socket 24 is the interposer, which has no ready word and
measures its router configuration. -/
def State.attReport (s : State) (dev so : Nat) (nonce : List Byte) : List Byte :=
  let pad := fun (n : Nat) (l : List Byte) => (l ++ List.replicate n 0).take n
  let d := s.die (dieKey dev so)
  let m := if so < 24 then d.measured else Crypto.shake256 (Config.routerConfig dev) 64
  let body := pad 32 nonce ++ pad 64 m ++ [BitVec.ofNat 8 so, if so < 24 then d.readyWord else 0] ++ List.replicate 6 0
  body ++ pad 114 (Crypto.ed448Sign (Config.identitySecret dev so) (Crypto.shake256 body 64) (Crypto.ascii "sahhorn-attest"))
/-- A socket that answers: a die whose firmware is verified, or the interposer. -/
def State.attReady (s : State) (dev so : Nat) : Bool :=
  decide (so = 24) || (decide (so < 24) && (s.die (dieKey dev so)).readyWord.getLsbD 0 && !(s.die (dieKey dev so)).readyWord.getLsbD 7)
/-- A socket that never will: a failed die, or none. -/
def State.attNever (s : State) (dev so : Nat) : Bool :=
  decide (24 < so) || (decide (so < 24) && (s.die (dieKey dev so)).readyWord.getLsbD 7)
/-- ATTESTATION_REQUEST (R413): ignored while busy; with go set, go clears, busy is set, and the request goes with the
nonce to its die, where it waits until the firmware is verified (R410). A request of the sideband asks the die itself
(R414). -/
def execAttestationRequest (s : State) : Out :=
  match s.ev with
  | some (.attestationRequest dev v none) =>
    let m := s.mod dev
    if m.attStatus.getLsbD 0 then .next s
    else
      let so := bits v.toNat 0 5
      if bits v.toNat 8 1 = 0 then .next (s.setMod dev { m with attReq := BitVec.ofNat 64 so })
      else
        let s1 := s.setMod dev { m with attReq := BitVec.ofNat 64 so, attStatus := 1, asked := m.nonce }
        .next (if s.attReady dev so || s.attNever dev so then s1.post (.attestationAnswer dev so none) else s1)
  | some (.attestationRequest dev v (some n)) =>
    let so := bits v.toNat 0 5
    .next (if s.attReady dev so || s.attNever dev so then s.post (.attestationAnswer dev so (some n))
      else s.after 4096 (.attestationRequest dev v (some n)))
  | _ => .fault .noSuchEvent
/-- ATTESTATION_ANSWER (R413, R414): the report is written, then busy clears and done is set; a socket that cannot
attest sets bit 2 as well. The sideband takes its report, none from such a socket. -/
def execAttestationAnswer (s : State) : Out :=
  match s.ev with
  | some (.attestationAnswer dev so none) =>
    let m := s.mod dev
    if m.attStatus.getLsbD 0 = false then .next s
    else if s.attNever dev so then .next (s.setMod dev { m with attStatus := 6 })
    else .next (s.setMod dev { m with report := s.attReport dev so m.asked, attStatus := 2 })
  | some (.attestationAnswer dev so (some n)) =>
    .next (s.onMod dev (fun m => { m with sideReport := if s.attNever dev so then [] else s.attReport dev so n }))
  | _ => .fault .noSuchEvent

/-! ### Host writes to registers (R408, R413) -/

/-- Replace 8 bytes of a list of 32 at an offset. -/
def putNonce (l : List Byte) (off : Nat) (v : Word) : List Byte :=
  let base := (l ++ List.replicate 32 (0 : Byte)).take 32
  base.take off ++ natLe v.toNat 8 ++ base.drop (off + 8)
/-- A write into a launch region: an entry's bytes, or qctl while the queue is empty. -/
def LaunchQ.hostWrite (q : LaunchQ) (off : Nat) (v : Word) : LaunchQ :=
  if off < 0x1000 then
    { q with entries := ((List.range 8).zip (natLe v.toNat 8)).foldl (fun t e => Tab.set 0 t (off + e.1) e.2) q.entries }
  else if off = 0x1000 ∧ q.occupancy = 0 then { q with qctl := v &&& 0xFFFF01FF }
  else q
/-- HOST_REGISTER_WRITE: an offset of the status region, or, from 2^16 and 2^17 up, of the launch region of X0 and X2.
Writes that the tables do not name a writer for are ignored. -/
def execHostRegisterWrite (s : State) : Out :=
  match s.ev with
  | some (.hostRegisterWrite dev off v) =>
    .next (if off % 8 ≠ 0 then s
      else if off < 2 ^ 16 then
        if 0x1020 ≤ off ∧ off < 0x1040 then s.onMod dev (fun m => { m with nonce := putNonce m.nonce (off - 0x1020) v }) else s
      else if off < 2 ^ 17 then s.onQueue (dieKey dev 6) (fun q => q.hostWrite (off - 2 ^ 16) v)
      else s.onQueue (dieKey dev 12) (fun q => q.hostWrite (off - 2 ^ 17) v))
  | _ => .fault .noSuchEvent

/-- A word of the status region (Table 23.7); reads have no side effect. -/
def State.statusWord (s : State) (dev off : Nat) : Word :=
  let w := BitVec.ofNat 64
  let d := fun so => s.die (dieKey dev so)
  if off < 0xC0 then w (d (off / 8)).readyWord.toNat
  else if 0x100 ≤ off ∧ off < 0x400 then
    let so := (off - 0x100) / 32
    match (off - 0x100) % 32 / 8 with
    | 0 => w (allotment so)
    | 1 => w ((d so).borrowed % 2 ^ 16)
    | 2 => w ((d so).lentOut % 2 ^ 16)
    | _ => w (d so).throttle
  else if off = 0x1000 then (s.mod dev).attReq
  else if off = 0x1008 then (s.mod dev).attStatus
  else if 0x1020 ≤ off ∧ off < 0x1040 then w (leNat (((s.mod dev).nonce.drop (off - 0x1020)).take 8))
  else if 0x1100 ≤ off ∧ off < 0x11E0 then w (leNat (((s.mod dev).report.drop (off - 0x1100)).take 8))
  else 0

/-! ### Reset, bring-up and the links (R407, R410 to R412, R415) -/

/-- A die leaves reset: its slots, cores, clusters and own registers are in their reset state. What waits at its router,
wicks made ready before its scheduler was, and what the host wrote to its launch region before that was ready, wait on
(R410); the units of power that it and its neighbours have lent stay where they are (R403; DESIGN CHOICE,
notes/assumptions 91). -/
def State.clearDie (s : State) (die : Nat) : State :=
  { s with
    slots := s.slots.filter (fun e => decide (dieOf e.1 ≠ die))
    cores := s.cores.filter (fun e => decide (dieOfCluster (e.1 / 16) ≠ die))
    clusters := s.clusters.filter (fun e => decide (dieOfCluster e.1 ≠ die))
    turn := s.turn.filter (fun k => decide (dieOfCluster (k / 16) ≠ die))
    dies := Tab.put die
      (let d := s.die die
       let e : Die :=
         { router := d.router, loans := d.loans, lent := d.lent, demand := d.demand, asking := d.asking
           throttled := d.throttled }
       if d.readyWord.getLsbD 1 then e else { e with ready := d.ready, arriving := d.arriving, lq := d.lq }) s.dies }
/-- A memory stack writes every line zero under its new key (R410). -/
def State.zeroStack (s : State) (die : Nat) : State :=
  let inside := fun pa =>
    match region pa with
    | .dram dev so _ => decide (dieKey dev so = die)
    | _ => false
  { s with mem := s.mem.filter (fun c => !inside c.1), bad := s.bad.filter (fun w => !inside (8 * w)) }
/-- The size word of a failure list, 64 bytes before its base, is written where its home takes it (R412). -/
def State.sizeWord (s : State) (die : Nat) : State :=
  let d := s.die die
  if d.failSize ≠ 0 ∧ s.home die (d.failBase - 64) = .ok then
    (s.serve (d.failBase - 64) true).storeN (d.failBase - 64) 8 d.failSize
  else s
/-- What the router that holds a slot's access finds: an I/O die's functions, a peer's home, or one of the module (R410). -/
def State.routerHome (s : State) (slot pa : Nat) : Home :=
  if bits pa 55 1 = 0 ∧ isIo (bits pa 44 5) then s.ioHome (bits pa 49 6) (ioNumber (bits pa 44 5))
  else s.home (match peerOf slot pa with | some _ => 2 ^ 30 | none => dieOf slot) pa
/-- Accesses held at a router whose home no longer holds them go on (R410). -/
def State.wakeRouters (s : State) : State :=
  { s with slots := Tab.mapVals (fun k x =>
      match x.wait with
      | .router pa => if s.routerHome k pa = .held then x else { x with wait := .released pa }
      | _ => x) s.slots }
/-- The ends of a stack's link agree on a session key (R415): each certificate verifies under the root key as R71 has it,
and `signed` says that each end has found the other's signature over its share good. -/
def linkAgrees (die : Nat) (signed : Bool) : Bool :=
  let good := fun so => Crypto.ed448Verify Config.rootKey
    (Crypto.shake256 (Crypto.ed448Public (Config.identitySecret (die / 32) so)) 64) Gnonik.gnonikContext
    (Config.certificate (die / 32) so)
  signed && good (die % 32) && good 24
/-- The key of a session (R415): 32 bytes of SHAKE256 of the secret that the two shares make. -/
def sessionKey (a b : List Byte) : BitVec 256 :=
  BitVec.ofNat 256 (leNat (Crypto.shake256 (Crypto.x448 a (Crypto.x448 b Crypto.x448Base)) 32))
/-- A stack draws its keys (Table 23.5), and one for its link if the ends agree. -/
def State.drawKeys (s : State) (die : Nat) (agreed : Bool) : State :=
  let r := fun i => Config.randomBits (s.freeCtr + i)
  let s1 := s.onDie die (fun d => { d with
    stackKey := r 0, macKey := (r 1).truncate 256
    linkKey := if agreed then sessionKey (natLe (r 2).toNat 56) (natLe (r 3).toNat 56) else 0 })
  { s1 with freeCtr := s.freeCtr + 4 }
/-- Firmware sets the values of Table 23.5. -/
def State.bringUp (s : State) (die : Nat) : State :=
  let so := die % 32
  if isCompute so then
    let s1 := s.onDie die (fun d =>
      { d with failBase := 64 * Config.failBase die, failSize := 2 ^ (6 + Config.failSize die % 15) })
    (List.range 48).foldl (fun s c => s.onCluster (die * 64 + c) (fun x =>
      { x with walkTemplate := Config.walkTemplate (die * 64 + c), asidBase := Config.asidBase (die * 64 + c) })) (s1.sizeWord die)
  else if isStack so then s.onMod (die / 32) (fun m => { m with beaconBase := 2048 * Config.beaconBase (die / 32) })
  else s
/-- The ready bits that a verified die sets (Table 23.4); the host link's bit follows its training, and a stack's bit 1 the
agreement on its link's key (R415). -/
def readyBits (so : Nat) (agreed : Bool) : BitVec 8 :=
  if isIo so then (if so = 6 then 0x0B else 0x03) else if isStack so && !agreed then 0x05 else 0x07
/-- What a die starts with: its scheduler, its launch queue, its controllers' intervals, a request for its report. -/
def State.startDie (s : State) (die : Nat) : State :=
  let so := die % 32
  let dev := die / 32
  let s1 :=
    if isCompute so then s.post (.schedDispatch die)
    else if isStack so then (List.range 8).foldl (fun s c => s.after (2 ^ 24) (.beaconInterval dev so c)) s
    else s.post (.launchEntryTake die)
  if (s.mod dev).attStatus.getLsbD 0 ∧ (s.mod dev).attReq.toNat = so then s1.post (.attestationAnswer dev so none) else s1
/-- A beacon interval of a stack. -/
def isBeaconOf (die : Nat) : Event → Bool
  | .beaconInterval dev so _ => decide (dieKey dev so = die)
  | _ => false
/-- A verified die (R410): its bring-up, and then its ready bits; a stack that takes accesses now takes the size words of
the module's failure lists that lie in it. -/
def State.verified (s : State) (die : Nat) (image : List Byte) (signed : Bool) : State :=
  let agreed := linkAgrees die signed
  let z := if isStack (die % 32) then (s.zeroStack die).drawKeys die agreed else s
  let s1 := (z.bringUp die).onDie die (fun d => { d with
    readyWord := readyBits (die % 32) agreed, measured := Crypto.shake256 image 64 })
  (if isStack (die % 32) then (diesOf (die / 32)).foldl State.sizeWord s1 else s1).startDie die
/-- DIE_RESET (R410): a die that verifies its firmware under R72 and passes its self-test sets its ready bits, after its
bring-up; one that fails sets bit 7 alone. What waited at its router goes on. -/
def execDieReset (s : State) : Out :=
  match s.ev with
  | some (.dieReset die image tested signed) =>
    let s0 := { s.clearDie die with timers := s.timers.filter (fun t => !isBeaconOf die t.2) }
    let s1 :=
      if tested && Gnonik.firmwareOk (Config.firmwareKeys die) image then s0.verified die image signed
      else
        let z := s0.onDie die (fun d => { d with readyWord := 0x80 })
        if (s.mod (die / 32)).attStatus.getLsbD 0 ∧ (s.mod (die / 32)).attReq.toNat = die % 32 then
          z.post (.attestationAnswer (die / 32) (die % 32) none)
        else z
    .next (((s1.releaseRouter die).wakeRouters.wakeDev (die / 32) .unit).wakeDev (die / 32) .tlb)
  | _ => .fault .noSuchEvent
/-- FLIT_AUTH_FAIL (R415): the flit is dropped and retried, and the failure is counted in the die's fault log. -/
def execFlitAuthFail (s : State) : Out :=
  match s.ev with
  | some (.flitAuthFail die link) => .next (s.log die 0 [BitVec.ofNat 64 link])
  | _ => .fault .noSuchEvent
/-- HOST_LINK_TRAINED (R407, R410): bit 2 of X0's or X2's ready word; accesses held for a host link go on, and a connection
looks again which die packets to the host leave by (R289). -/
def execHostLinkTrained (s : State) : Out :=
  match s.ev with
  | some (.hostLinkTrained die up) =>
    let so := die % 32
    if (so = 6 ∨ so = 12) ∧ (s.die die).readyWord.getLsbD 7 = false then
      .next ((s.onDie die (fun d =>
        { d with readyWord := if up then d.readyWord ||| 4 else d.readyWord &&& 0xFB })).wakeRouters.wakeDev (die / 32) .unit)
    else .next s
  | _ => .fault .noSuchEvent
/-- ESCAPE_TIMEOUT (R271): the packet arrives once and in order; the router adds 1 to its escape counter. -/
def execEscapeTimeout (s : State) : Out :=
  match s.ev with
  | some (.escapeTimeout die) => .next (s.onDie die (fun d => { d with escapes := d.escapes + 1 }))
  | _ => .fault .noSuchEvent

/-! ### The management sideband (R121) -/

/-- The selectors that Table 6.1 lists among a slot's registers: fflags, cvm, fa, fb, fc and fs. -/
def gatedSel : List Nat := [0x002, 0x003, 0x008, 0x009, 0x00A, 0x00B]
/-- The value of a register as a debugger reads it (Table 6.4): zero for the slot-held registers of a gated slot. -/
def State.sideValue (s : State) (slot : Nat) (r : SideReg) : VWord :=
  let x := s.slot slot
  let k := s.core (coreOf slot)
  let w := BitVec.ofNat 1024
  let held := fun n => if x.gated then 0 else w n
  match r with
  | .g n => held (Tab.get 0 x.g n).toNat
  | .h n => w (hValue k.cycle x.asid (Tab.get [] k.h n)).toNat
  | .pred => held x.pred.toNat
  | .vec n => if x.gated then 0 else x.vreg n
  | .coch n => held ((Tab.get 0 x.c0 n).toNat + 2 ^ 64 * (Tab.get 0 x.c1 n).toNat)
  | .acc n row =>
    w (leNat (((List.range 32).map (fun j => natLe (Tab.get 0 (Tab.get {} k.acc n).w (32 * row + j)) 4)).flatten))
  | .sys sel => if sel ∈ gatedSel then held (s.sysRead slot sel).toNat else w (s.sysRead slot sel).toNat
  | .ring n => held (s.localN (coreOf slot) (0x100 + 0x80 * (slot % 8) + 16 * n) 16)
  | .sparse n => held (bits x.fs.toNat (32 * n) 32)
  | .status off => w (s.statusWord (devOf slot) off).toNat
/-- A register is pending on the scoreboard: its reader waits (Table 6.4). -/
def Slot.sidePending (x : Slot) : SideReg → Bool
  | .g n => x.isPending n
  | .h n => x.isPending (16 + n)
  | .vec n => x.isPending (32 + n)
  | _ => false
/-- SIDEBAND_READ (R121). -/
def execSidebandRead (s : State) : Out :=
  match s.ev with
  | some (.sidebandRead slot r) =>
    if (s.slot slot).sidePending r then .next (s.after 64 (.sidebandRead slot r))
    else .next { s with sideband := s.sideValue slot r }
  | _ => .fault .noSuchEvent

end Sys2Proof.Machine
end

