-- ==== Sys2Proof/Machine/Mov.lean ====
section
/-!
DEFINITION. The cmp and mov groups (spec 06_registers.md, R129, R130).
-/

namespace Sys2Proof.Machine

/-- The values of a floating compare: s reads FP32, d reads FP64. -/
def cmpVal (t : BitVec 3) (a : Word) : FV := if t = 1 then fp32.decode (pat fp32 a) else fp64.decode (pat fp64 a)

/-- A compare writes an even–odd predicate pair (R129): the condition and its complement. -/
def compare (i : Instr) (x : FmtC) (c : Word → Word → Bool) (s : State) : Out :=
  runInstr i s do
    let a ← rd x.a
    let b ← rd x.b
    onSlotM (fun y => y.setPair x.d.toNat (c a b))
    return .next

/-- `cmp.eq`. -/
def execCmpEq (x : FmtC) (s : State) : Out :=
  compare (.cmpEq x) x (fun a b => if x.t = 0 then decide (a = b) else (cmpVal x.t a).eqv (cmpVal x.t b)) s
/-- `cmp.ne`. -/
def execCmpNe (x : FmtC) (s : State) : Out :=
  compare (.cmpNe x) x (fun a b => if x.t = 0 then decide (a ≠ b) else !(cmpVal x.t a).eqv (cmpVal x.t b)) s
/-- `cmp.lt`. -/
def execCmpLt (x : FmtC) (s : State) : Out :=
  compare (.cmpLt x) x (fun a b => if x.t = 0 then a.slt b else (cmpVal x.t a).lt (cmpVal x.t b)) s
/-- `cmp.ge`. -/
def execCmpGe (x : FmtC) (s : State) : Out :=
  compare (.cmpGe x) x (fun a b => if x.t = 0 then !a.slt b
    else (cmpVal x.t b).lt (cmpVal x.t a) || (cmpVal x.t a).eqv (cmpVal x.t b)) s
/-- `cmp.lo`. -/
def execCmpLo (x : FmtC) (s : State) : Out :=
  compare (.cmpLo x) x (fun a b => a.ult b) s
/-- `cmp.hs`. -/
def execCmpHs (x : FmtC) (s : State) : Out :=
  compare (.cmpHs x) x (fun a b => !a.ult b) s
/-- `cmp.un`. -/
def execCmpUn (x : FmtC) (s : State) : Out :=
  compare (.cmpUn x) x (fun a b => (cmpVal x.t a).isNan || (cmpVal x.t b).isNan) s
/-- `mov.cp`: g[dst] := g[sa]. -/
def execMovCp (x : FmtA) (s : State) : Out := unary (.movCp x) x (fun a => (a, 0)) s
/-- `mov.rdp`: the predicate word, with bit 0 set and bit 1 clear. -/
def execMovRdp (x : FmtA) (s : State) : Out :=
  runInstr (.movRdp x) s do
    let y ← slotM
    result x.d (((y.pred ||| 1) &&& 0xFFFD).zeroExtend 64) 0
/-- `mov.wrp`: the predicates of a mask. -/
def execMovWrp (x : FmtA) (s : State) : Out :=
  runInstr (.movWrp x) s do
    let a ← rd x.a
    let b ← rd x.b
    let m : BitVec 16 := b.truncate 16
    onSlotM (fun y => y.setPred ((y.pred &&& ~~~m) ||| (a.truncate 16 &&& m)))
    return .next
/-- `mov.sxb`. -/
def execMovSxb (x : FmtA) (s : State) : Out :=
  unary (.movSxb x) x (fun a => ((a.truncate 8 : BitVec 8).signExtend 64, 0)) s
/-- `mov.sxh`. -/
def execMovSxh (x : FmtA) (s : State) : Out :=
  unary (.movSxh x) x (fun a => ((a.truncate 16 : BitVec 16).signExtend 64, 0)) s
/-- `mov.sxw`. -/
def execMovSxw (x : FmtA) (s : State) : Out :=
  unary (.movSxw x) x (fun a => ((a.truncate 32 : BitVec 32).signExtend 64, 0)) s
/-- `mov.zxb`. -/
def execMovZxb (x : FmtA) (s : State) : Out :=
  unary (.movZxb x) x (fun a => ((a.truncate 8 : BitVec 8).zeroExtend 64, 0)) s
/-- `mov.zxh`. -/
def execMovZxh (x : FmtA) (s : State) : Out :=
  unary (.movZxh x) x (fun a => ((a.truncate 16 : BitVec 16).zeroExtend 64, 0)) s
/-- `mov.zxw`. -/
def execMovZxw (x : FmtA) (s : State) : Out :=
  unary (.movZxw x) x (fun a => ((a.truncate 32 : BitVec 32).zeroExtend 64, 0)) s

end Sys2Proof.Machine
end

