-- ==== Sys2Proof/Machine/Tlb.lean ====
section
/-!
DEFINITION. The tlb instructions (spec 12_translation.md, R255 to R257, R264 to R268): fills and refusals, and the
misses they answer; invalidation; the probe.
-/

namespace Sys2Proof.Machine

/-- A miss-queue entry that a fill answers: its asid, or any when the entry is global, and a page within the fill's
(R265). -/
def Miss.answered (m : Miss) (asid : BitVec 9) (anyAsid : Bool) (va size : Nat) : Bool :=
  (anyAsid || decide (m.asid = asid)) && decide (m.page * 2 ^ 16 / size = va / size)

/-- A slot that waited repeats its lookup. -/
def State.missDone (s : State) (slot : Nat) (m : Miss) : State :=
  if (s.slot slot).awaits m then s.onSlot slot (fun x => { x with wait := .none }) else s
/-- A refused miss raises its cause in a waiting slot: 0x43 for 0x40 at a fetch (R254, R265). -/
def State.missRefused (s : State) (slot : Nat) (m : Miss) (cause : Cause) : State :=
  let x := s.slot slot
  if x.awaits m then
    match x.wait.missed with
    | some (va, f) => s.takeTrap slot (if f ∧ cause = 0x40 then 0x43 else cause) va x.pc false
    | none => s
  else s

/-- A fault latch keeps its first page (R198). -/
def Slot.latchPage (x : Slot) (page cause : Nat) : Slot :=
  if x.occ ∧ x.glatch = none then { x with glatch := some (page, cause) } else x

/-- The engines' operations that wait for a page go on with the requests whose turn has come, the first of which fails when
the page is refused (R257). -/
def State.engineAnswer (s : State) (ck : Nat) (m : Miss) (refused : Bool) : State :=
  (s.cluster ck).ops.foldl (fun s o =>
    match o.miss with
    | none => s
    | some (p, c) =>
      if p = m.page ∧ o.asid = m.asid then
        let s1 := s.onOp ck o.id (fun o => { o with miss := none, owed := 0 })
        if refused then (s1.failStep ck o c).postAll (List.replicate (o.owed - 1) (o.event ck))
        else s1.postAll (List.replicate o.owed (o.event ck))
      else s) s

/-- Take the answered entries out of a cluster's miss queue. -/
def State.takeMisses (s : State) (ck : Nat) (p : Miss → Bool) : List Miss × State :=
  let q := (s.cluster ck).missq
  (q.filter p, s.onCluster ck (fun c => { c with missq := c.missq.filter (fun m => !p m) }))

/-- Answer an entry with a filled leaf: a page without read permission is recorded for `vgth.gt` (R198). -/
def State.answerMiss (s : State) (ck : Nat) (m : Miss) (leaf : Word) : State :=
  let s1 := m.slots.foldl (fun s k => s.missDone k m) s
  let s2 := if leaf.getLsbD 1 then s1 else m.gather.foldl (fun s k => s.onSlot k (fun x => x.latchPage m.page 0x41)) s1
  if m.engine then s2.engineAnswer ck m false else s2
/-- Refuse an entry with a cause. -/
def State.refuseMiss (s : State) (ck : Nat) (m : Miss) (cause : Cause) : State :=
  let s1 := m.slots.foldl (fun s k => s.missRefused k m cause) s
  let s2 := m.gather.foldl (fun s k => s.onSlot k (fun x => x.latchPage m.page cause)) s1
  if m.engine then s2.engineAnswer ck m true else s2

/-- What a refusal or a fill lets go on: slots that found the queue full, and invalidations of the module. -/
def State.missesDone (s : State) (ck : Nat) : State := (s.missRetry ck).wakeDev (devOfCluster ck) .tlb

/-- Entries that a fill replaces: the same size and page, and an asid that both match (R255). -/
def TlbEntry.replaced (e new : TlbEntry) : Bool :=
  decide (e.size = new.size ∧ e.vpage = new.vpage) &&
    (e.leaf.getLsbD 5 || new.leaf.getLsbD 5 || decide (e.asid = new.asid))
/-- The lowest free way of a set. -/
def freeWay (set : List TlbEntry) : Option Nat := (List.range 8).find? (fun w => !set.any (fun e => decide (e.way = w)))
/-- Place an entry in its set (R265): a way it replaces, else a free way, else the least recently used one; the way,
whether a valid entry of another page is evicted, and the set after. -/
def placeEntry (set : List TlbEntry) (new : TlbEntry) : Nat × Bool × List TlbEntry :=
  let keep := set.filter (fun e => !e.replaced new)
  match set.find? (fun e => e.replaced new), freeWay keep, keep.getLast? with
  | some e, _, _ => (e.way, false, { new with way := e.way } :: keep)
  | none, some w, _ => (w, false, { new with way := w } :: keep)
  | none, none, some e => (e.way, true, { new with way := e.way } :: keep.dropLast)
  | none, none, none => (0, false, [new])

/-- Micro-TLB entries of a cluster's cores that a fill replaces go. -/
def State.trimMicro (s : State) (ck : Nat) (new : TlbEntry) : State :=
  { s with cores := Tab.mapVals (fun k c => if k / 16 = ck then { c with micro := c.micro.filter (fun e => !e.replaced new) } else c) s.cores }

/-- Fill a cluster's TLB (R265): the result, and the state. -/
def State.tlbFill (s : State) (ck : Nat) (asid : BitVec 9) (va : Nat) (leaf : Word) : Word × State :=
  let size := leafSize leaf
  let set := va / size % 512
  let new : TlbEntry := { asid := asid, size := size, vpage := va / size, way := 0, leaf := leaf }
  let r := placeEntry (Tab.get [] (s.cluster ck).tlb set) new
  let s1 := (s.onCluster ck (fun c => { c with tlb := Tab.put set r.2.2 c.tlb })).trimMicro ck new
  let t := s1.takeMisses ck (fun m => m.answered asid (leaf.getLsbD 5) va size)
  let s2 := (t.1.foldl (fun s m => s.answerMiss ck m leaf) t.2).missesDone ck
  (BitVec.ofNat 64 ((if r.2.1 then 2 ^ 63 else 0) + set * 8 + r.1), s2)

/-- Refuse the misses of a page (R265). -/
def State.tlbRefuse (s : State) (ck : Nat) (asid : BitVec 9) (va : Nat) (cause : Cause) : State :=
  let t := s.takeMisses ck (fun m => m.answered asid false va (2 ^ 16))
  (t.1.foldl (fun s m => s.refuseMiss ck m cause) t.2).missesDone ck

/-- `tlb.fill` (R265). -/
def execTlbFill (x : FmtA) (s : State) : Out :=
  runInstr (.tlbFill x) s do
    let me ← here
    let a ← rd x.a
    let e ← rd x.b
    prepDst x.d.toNat
    let va := bits a.toNat 16 41 * 2 ^ 16
    let asid := a.truncate 9
    if !e.getLsbD 0 then do
      modS (fun s => s.tlbRefuse (clusterOf me) asid va (if bits e.toNat 8 8 = 0x49 then 0x49 else 0x40))
      wr x.d 0
    else do
      needM (!leafMalformed e) 0x49 (BitVec.ofNat 64 va)
      let r := (← getS).tlbFill (clusterOf me) asid va e
      setS r.2
      wr x.d r.1
    return .next

/-! ### Invalidation (R266) -/

/-- What an invalidation names: an asid, global entries, everything, and the bytes from first to last. -/
structure Inval where
  asid : BitVec 9
  glob : Bool
  all : Bool
  first : Nat
  last : Nat

/-- It covers a byte of a page or line that starts at an address and has a size. -/
def Inval.covers (v : Inval) (start size : Nat) : Bool := decide (start ≤ v.last) && decide (v.first < start + size)
/-- It removes a TLB entry. -/
def Inval.removes (v : Inval) (e : TlbEntry) : Bool :=
  v.covers (e.vpage * e.size) e.size &&
    (v.all || (if e.leaf.getLsbD 5 then v.glob else decide (e.asid = v.asid)))
/-- It removes an instruction-cache line: a line does not say whether its page is global, so that with the global
entries every line of the range goes. -/
def Inval.dropsLine (v : Inval) (l : ICLine) : Bool :=
  v.covers (l.line * 64) 64 && (v.all || v.glob || decide (l.asid = v.asid))
/-- It waits for a walk: one of a matching asid and page. -/
def Inval.awaits (v : Inval) (m : Miss) : Bool :=
  v.covers (m.page * 2 ^ 16) (2 ^ 16) && (v.all || v.glob || decide (m.asid = v.asid))

/-- The removal in every TLB and instruction cache of a module. -/
def State.invalidate (s : State) (dev : Nat) (v : Inval) : State :=
  { s with
    clusters := Tab.mapVals (fun ck c =>
      if devOfCluster ck = dev then { c with tlb := Tab.mapVals (fun _ l => l.filter (fun e => !v.removes e)) c.tlb } else c) s.clusters
    cores := Tab.mapVals (fun k c =>
      if devOfCluster (k / 16) = dev then
        { c with micro := c.micro.filter (fun e => !v.removes e), icache := c.icache.filter (fun l => !v.dropsLine l) }
      else c) s.cores }

/-- An arrival or a decrement on its way to a vigil of a module. -/
def toVigil (dev : Nat) : Event → Bool
  | .vigilArrivalMessage _ a => decide (bits a.line 49 6 = dev)
  | .vigilByteDecrement _ line _ _ _ => decide (bits line 49 6 = dev)
  | _ => false
/-- Arrivals at vigils of a module have not all been applied: a stage holds some, or a message is on its way (R205, R206). -/
def State.vigilsBusy (s : State) (dev : Nat) : Bool :=
  s.cores.any (fun e => decide (devOfCluster (e.1 / 16) = dev) && !e.2.arrivals.isEmpty) ||
    s.clusters.any (fun e => decide (devOfCluster e.1 = dev) && !e.2.arrivals.isEmpty) ||
    s.dies.any (fun e => decide (e.1 / 32 = dev) && !e.2.arrivals.isEmpty) ||
    s.agenda.any (toVigil dev) || s.timers.any (fun t => toVigil dev t.2)
/-- An operation, queued or in flight, that names a vigil on a page which the invalidation covers: the line was translated
at its `enq` (R190), and is decremented later. -/
def Inval.awaitsOp (v : Inval) (o : EngOp) : Bool :=
  o.vigil.isSome && v.covers (o.vaddr * 64) 64 && (v.all || v.glob || decide (o.asid = v.asid))
/-- Walks and accesses of a module that an invalidation waits for: matching walks, every access that is not yet performed or
acknowledged, whichever entry it went through, and what is still to be applied to a vigil. -/
def State.invalBusy (s : State) (dev : Nat) (v : Inval) : Bool :=
  s.vigilsBusy dev ||
  s.clusters.any (fun e => decide (devOfCluster e.1 = dev) &&
    (e.2.missq.any v.awaits || e.2.ops.any (fun o => decide (o.acks ≠ 0)) || e.2.allOps.any v.awaitsOp)) ||
  s.cores.any (fun e => decide (devOfCluster (e.1 / 16) = dev) && !e.2.flights.isEmpty) ||
  s.slots.any (fun e => decide (devOf e.1 = dev) && (!e.2.peerOut.isEmpty || decide (e.2.replies ≠ 0)))

/-- Complete an invalidation once nothing is waited for; an empty range does nothing. -/
def invalM (v : Inval) : M Flow := do
  let me ← here
  if v.last < v.first then return .next
  else do
    if (← getS).invalBusy (devOf me) v then waitM .tlb
    modS (fun s => s.invalidate (devOf me) v)
    return .next

/-- `tlb.invr` (R266). -/
def execTlbInvr (x : FmtA) (s : State) : Out :=
  runInstr (.tlbInvr x) s do
    let a ← rd x.a
    let b ← rd x.b
    invalM ⟨a.truncate 9, a.getLsbD 9, false, bits a.toNat 16 41 * 2 ^ 16, bits b.toNat 0 57⟩

/-- `tlb.inva` (R266). -/
def execTlbInva (x : FmtA) (s : State) : Out :=
  runInstr (.tlbInva x) s do
    let a ← rd x.a
    invalM ⟨a.truncate 9, a.getLsbD 9, a.getLsbD 10, 0, 2 ^ 57 - 1⟩

/-! ### The probe (R267) -/

/-- The entry that a lookup of a core would use, without counting or reordering. -/
def State.probe (s : State) (corek : Nat) (asid : BitVec 9) (va : Nat) : Option TlbEntry :=
  smallest (s.microHits (some corek) asid va ++ (s.cluster (corek / 16)).hits asid va)

/-- What `tlb.prb` reads. -/
def State.probeWord (s : State) (corek : Nat) (a b : Word) : Word :=
  match bits b.toNat 62 2 with
  | 0 =>
    if a.toNat / 2 ^ 57 ≠ 0 ∨ isNear a then 0
    else match s.probe corek (b.truncate 9) a.toNat with
      | some e => e.leaf
      | none => 0
  | 1 => (s.cluster (corek / 16)).misses ++ (s.cluster (corek / 16)).multi
  | _ => 0

/-- `tlb.prb` (R267). -/
def execTlbPrb (x : FmtA) (s : State) : Out :=
  runInstr (.tlbPrb x) s do
    let me ← here
    let a ← rd x.a
    let b ← rd x.b
    result x.d ((← getS).probeWord (coreOf me) a b) 0

end Sys2Proof.Machine
end

