-- ==== Sys2Proof/Machine/Trap.lean ====
section
/-!
DEFINITION. The trap instructions (spec 11_traps.md, R242 to R247).
-/

namespace Sys2Proof.Machine

/-- `trap.sw` (R243): the resumption pc is past the instruction. -/
def execTrapSw (x : FmtA) (s : State) : Out :=
  runInstr (.trapSw x) s do
    let v ← rd x.a
    throw (.trap { cause := 0xE0 + v.toNat % 16, tval := v, past := true })

/-- `trap.ret` (R244). -/
def execTrapRet (x : FmtA) (s : State) : Out :=
  runInstr (.trapRet x) s do
    let y ← slotM
    onSlotM Slot.trapReturn
    return .jump y.tepc

/-- `trap.brk` (R245). -/
def execTrapBrk (x : FmtA) (s : State) : Out := runInstr (.trapBrk x) s (trapM 0x0F)

/-- tmask with the bits of a mask replaced (R246). -/
def mergeMask (old v m : Word) : Word :=
  let m1 := m &&& 0x1FFFFFFFF
  (old &&& ~~~m1) ||| (v &&& m1)

/-- `trap.msk` (R246): one exchange. -/
def execTrapMsk (x : FmtA) (s : State) : Out :=
  runInstr (.trapMsk x) s do
    let v ← rd x.a
    let m ← rd x.b
    prepDst x.d.toNat
    let y ← slotM
    onSlotM (fun z => { z with tmask := mergeMask y.tmask v m })
    wr x.d y.tmask
    return .next

end Sys2Proof.Machine
end

