-- ==== Sys2Proof/Machine/VMem.lean ====
section
/-!
DEFINITION. Vector loads, stores and gathers (spec 07_vectors.md, R143 to R147; 09_copies.md, R197, R198).
-/

namespace Sys2Proof.Machine

/-- One lane or block of a vector access: its address, its bytes, and the lane (or block) number. -/
structure LaneAcc where
  va : Word
  n : Nat
  i : Nat
  deriving DecidableEq, Repr

/-- The lanes or blocks of a `vld` or `vst` (R143, R144): contiguous or strided. -/
def laneAccs (t : Nat) (strided : Bool) (a b : Word) : List LaneAcc :=
  let n := if t = 3 then 20 else laneBits t / 8
  (List.range (if t = 3 then 8 else laneCount t)).map (fun i =>
    ⟨if strided then a + BitVec.ofNat 64 i * b else a + b + BitVec.ofNat 64 (i * n), n, i⟩)

/-- The alignment of an element: 4 for an FP4 block (R144). -/
def laneAlign (n : Nat) : Nat := if n = 20 then 4 else n

/-- The checks of R145 after translation, each over every lane in lane order before the next check. Where the causes of
the target, 0x21, 0x24 and 0x77, stand among them R145 does not say: they come last (DESIGN CHOICE,
notes/assumptions 81). -/
def checkLanesM (k : XKind) (tolOk : Bool) (ls : List (LaneAcc × Xlat)) : M Unit := do
  let me ← here
  let x ← slotM
  let s ← getS
  let wr := decide (k = .store)
  ls.forM (fun l => needM (decide (l.1.va.toNat % laneAlign l.1.n = 0)) 0x20 l.1.va)
  ls.forM (fun l => needM (!s.lockHit (clusterOf me) x.asid l.1.va.toNat l.1.n wr) 0x82 l.1.va)
  ls.forM (fun l => needM (!l.2.tol || tolOk) 0x46 l.1.va)
  ls.forM (fun l =>
    match s.targetCause me k l.1.n l.2 with
    | some c => trapM c l.1.va
    | none => pure ())

/-- Translate every lane, in lane order. Of an FP4 block R144 translates the block's address; the model takes all its 20
bytes as following that byte in physical memory, with no check of a page that they run into (DESIGN CHOICE,
notes/assumptions 82). -/
def xlateLanesM (k : XKind) (ls : List LaneAcc) : M (List (LaneAcc × Xlat)) :=
  ls.mapM (fun l => do
    let t ← xlateM k l.va
    return (l, t))

/-- Where a loaded lane goes. -/
def laneDst (d t : Nat) (l : LaneAcc) (tol : Bool) : RegDst :=
  if t = 3 then .block d l.i else if tol then .widen d l.i else .lane d l.i l.n

/-- The bytes that a store takes from v[vd], and v[vd + 1] for FP4 (R143, R144). -/
def laneData (x : Slot) (d t : Nat) (l : LaneAcc) (tol : Bool) : Nat :=
  if t = 3 then vget (x.vreg (d + 1)) (32 * l.i) 32 + 2 ^ 32 * vget (x.vreg d) (128 * l.i) 128
  else
    let v := vget (x.vreg d) (8 * l.n * l.i) (8 * l.n)
    if tol then bfNarrow v else v

/-- A lane's request. -/
def laneReqM (k : AccKind) (d t : Nat) (flight : Option Nat) (p : LaneAcc × Xlat) : M PeerReq := do
  let x ← slotM
  requestM k p.2 p.1.n (if k = .store then laneData x d t p.1 p.2.tol else 0) 0 flight
    (if k = .store then .none else laneDst d t p.1 p.2.tol)

/-- A lane's home lies in the module. -/
def laneNear (slot : Nat) (p : LaneAcc × Xlat) : Bool := decide (peerOf slot p.2.pa = none)

/-- Perform a request of the module at once in a slot: a load lands, a store is stored. -/
def State.performNow (s : State) (q : PeerReq) : State :=
  match q.kind with
  | .load =>
    (s.serveSpan q.pa q.n).land (s.core (coreOf q.src)).cycle q.src q.dst (landValue q.dst q.n (s.loadHome q.pa q.n))
  | _ => (s.serveSpan q.pa q.n).storeHome (clusterOf q.src) q.pa q.n q.v

/-- Let the lanes' homes be ready and the lanes have their turn, note lanes and blocks with a byte out of range, and fail
on an uncorrectable one. -/
def lanesReadyM (k : AccKind) (ls : List (LaneAcc × Xlat)) : M Unit := do
  ls.forM (fun p => readyM p.2.pa)
  turnM (ls.map (fun p => p.2.pa))
  ls.forM (fun p =>
    if (region p.2.pa).room (p.2.width p.1.n) = p.2.width p.1.n then pure ()
    else onSlotM (fun x => x.noteOob p.2.va (decide (k = .store))))
  let me ← here
  ls.forM (fun p =>
    if !laneNear me p then pure ()
    else if k = .load then errorsM p.2.pa (p.2.width p.1.n)
    else mergeErrorM p.2.pa (p.2.width p.1.n))

/-- Before a plain load with a lane at a peer lands, what it may change is kept (R279). -/
def keepLanesM (ls : List (LaneAcc × Xlat)) (regs : List Nat) : M Unit := do
  let me ← here
  if ls.all (laneNear me) then pure () else keepM regs

/-- A plain access of lanes (R146): homes in the module at once, in lane order; peers by events; store lanes to a
reserved word behind the reservation. -/
def plainLanesM (k : AccKind) (qs : List PeerReq) : M Unit := do
  let me ← here
  qs.forM (fun q => do
    match peerOf me q.pa with
    | some d =>
      if k = .store then do
        let id ← freshM
        modS (fun s => s.post (.peerAccess { q with num := id }))
        onSlotM (fun x => { x with peerOut := x.peerOut ++ [⟨d, id⟩] })
      else do
        modS (fun s => s.post (.peerAccess q))
        onSlotM (fun x => { x with wait := .reply, replies := x.replies + 1 })
    | none =>
      if k = .store && (← getS).reserved q.pa q.n then do
        modS (fun s => s.reserve (devOf me) q)
        onSlotM (fun x => { x with wait := .reservation, replies := x.replies + 1 })
      else modS (fun s => s.performNow q))

/-- A relaxed access of lanes: one request of the core's counter, whose answers are counted. -/
def relaxedLanesM (k : AccKind) (id : Nat) (qs : List PeerReq) (regs : List Nat) : M Unit := do
  let me ← here
  let near := qs.filter (fun q => decide (peerOf me q.pa = none))
  let far := (qs.filter (fun q => decide (peerOf me q.pa ≠ none))).map (fun q => { q with num := id })
  flyM id qs regs
  if near ≠ [] then modS (fun s => s.post (.relaxedAccessComplete (coreOf me) id 0 .none none))
  modS (fun s => s.postAll (far.map (fun q => .peerAccess q)))
  if k = .store then onSlotM (fun x => { x with peerOut := x.peerOut ++ far.filterMap (fun q => (peerOf me q.pa).map (⟨·, id⟩)) })

/-- A vector load or store (R143 to R146). -/
def vmemM (k : AccKind) (x : FmtV) (strided relaxed : Bool) : M Flow := do
  let t := x.t.toNat
  let d := x.d.toNat
  let a ← rdCode x.a.toNat
  let b ← rdCode x.b.toNat
  let regs := if t = 3 then [d, d + 1] else [d]
  regs.forM prepV
  let xk : XKind := if k = .store then .store else .load
  let ls ← xlateLanesM xk (laneAccs t strided a b)
  checkLanesM xk (decide (t = 0) || decide (t = 4)) ls
  ls.forM (fun p => readyM p.2.pa)
  if relaxed then flightRoomM
  if k = .load && !relaxed then keepLanesM ls regs
  lanesReadyM k ls
  if relaxed then do
    let id ← freshM
    let qs ← ls.mapM (laneReqM k d t (some id))
    relaxedLanesM k id qs (if k = .store then [] else regs.map (32 + ·))
  else do
    let qs ← ls.mapM (laneReqM k d t none)
    plainLanesM k qs
  return .next

/-- `vld.c`. -/
def execVldC (x : FmtV) (s : State) : Out := runInstr (.vldC x) s (vmemM .load x false false)
/-- `vld.s`. -/
def execVldS (x : FmtV) (s : State) : Out := runInstr (.vldS x) s (vmemM .load x true false)
/-- `vld.c.r`. -/
def execVldCR (x : FmtV) (s : State) : Out := runInstr (.vldCR x) s (vmemM .load x false true)
/-- `vld.s.r`. -/
def execVldSR (x : FmtV) (s : State) : Out := runInstr (.vldSR x) s (vmemM .load x true true)
/-- `vst.c`. -/
def execVstC (x : FmtV) (s : State) : Out := runInstr (.vstC x) s (vmemM .store x false false)
/-- `vst.s`. -/
def execVstS (x : FmtV) (s : State) : Out := runInstr (.vstS x) s (vmemM .store x true false)
/-- `vst.c.r`. -/
def execVstCR (x : FmtV) (s : State) : Out := runInstr (.vstCR x) s (vmemM .store x false true)
/-- `vst.s.r`. -/
def execVstSR (x : FmtV) (s : State) : Out := runInstr (.vstSR x) s (vmemM .store x true true)

/-! ### Gathers (R197, R198) -/

/-- The lanes of a gather that are not done. -/
def gatherAccs (base : Word) (idx : VWord) : List LaneAcc :=
  ((List.range 32).map (fun i => (i, vget idx (32 * i) 32))).filterMap (fun p =>
    if p.2 = 0xFFFFFFFF then none else some ⟨base + BitVec.ofNat 64 (4 * p.2), 4, p.1⟩)

/-- `vgth.g` (R197). -/
def execVgthG (x : FmtV) (s : State) : Out :=
  runInstr (.vgthG x) s do
    let base ← rdCode x.a.toNat
    let idx ← rdV x.b.toNat
    prepV x.d.toNat
    let ls ← xlateLanesM .load (gatherAccs base idx)
    checkLanesM .load true ls
    keepLanesM ls [x.d.toNat]
    lanesReadyM .load ls
    let qs ← ls.mapM (laneReqM .load x.d.toNat 0 none)
    plainLanesM .load qs
    return .next

/-- Translate a lane of `vgth.gt`: a lane in the latched page takes the latched fault (R198); a miss starts a fill and
leaves the lane, and waits while the fill finds no entry free (R256). -/
def gatherXlateM (l : LaneAcc) : M (Option (LaneAcc × Xlat)) := do
  let me ← here
  let x ← slotM
  let s ← getS
  match x.glatch with
  | some g =>
    if l.va.toNat / 2 ^ 16 = g.1 then do
      onSlotM (fun y => { y with glatch := none })
      trapM g.2 l.va
  | none => pure ()
  let r := s.xlate (coreOf me) true x.user x.asid .load l.va
  setS r.2
  match r.1 with
  | .ok t => return some (l, t)
  | .fault c => trapM c l.va
  | .miss =>
    let q := (← getS).enqMiss (clusterOf me) x.asid l.va.toNat 5 none (some me)
    setS q.1
    if !q.2 then waitM (.miss l.va)
    return none

/-- `vgth.gt` (R197): the lanes that translate are read and marked done; p14 says whether any is left. With vd = vb a
lane's mark is written after its value, so that no value stays. -/
def execVgthGt (x : FmtV) (s : State) : Out :=
  runInstr (.vgthGt x) s do
    let base ← rdCode x.a.toNat
    let idx ← rdV x.b.toNat
    prepV x.d.toNat
    let rs ← (gatherAccs base idx).mapM gatherXlateM
    let ls := rs.filterMap id
    checkLanesM .load true ls
    keepLanesM ls [x.d.toNat, x.b.toNat]
    lanesReadyM .load ls
    let qs ← ls.mapM (laneReqM .load x.d.toNat 0 none)
    plainLanesM .load (if x.d = x.b then qs.map (fun q => { q with dst := .none }) else qs)
    onSlotM (fun y => y.setV x.b.toNat (ls.foldl (fun v p => vput v (32 * p.1.i) 32 0xFFFFFFFF) (y.vreg x.b.toNat)))
    onSlotM (fun y => y.setPair 14 (((lanesOf 0 (y.vreg x.b.toNat)).any (fun k => decide (k ≠ 0xFFFFFFFF)))))
    return .next

end Sys2Proof.Machine
end

