-- ==== Sys2Proof/Machine/Dispatch.lean ====
section
/-!
DEFINITION. The dispatch: one arm per row of the opcode table, each a direct call of the meaning of that row.
-/

namespace Sys2Proof.Machine

def exec (i : Instr) (s : State) : Host.Outcome State Fault Refusal :=
  match i with
  | .aluAdd x => Sys2Proof.Machine.execAluAdd x s
  | .aluSub x => Sys2Proof.Machine.execAluSub x s
  | .aluMul x => Sys2Proof.Machine.execAluMul x s
  | .aluMulh x => Sys2Proof.Machine.execAluMulh x s
  | .aluMulhz x => Sys2Proof.Machine.execAluMulhz x s
  | .aluDiv x => Sys2Proof.Machine.execAluDiv x s
  | .aluDivz x => Sys2Proof.Machine.execAluDivz x s
  | .aluRem x => Sys2Proof.Machine.execAluRem x s
  | .aluRemz x => Sys2Proof.Machine.execAluRemz x s
  | .aluAnd x => Sys2Proof.Machine.execAluAnd x s
  | .aluOr x => Sys2Proof.Machine.execAluOr x s
  | .aluXor x => Sys2Proof.Machine.execAluXor x s
  | .aluAndn x => Sys2Proof.Machine.execAluAndn x s
  | .aluShl x => Sys2Proof.Machine.execAluShl x s
  | .aluShr x => Sys2Proof.Machine.execAluShr x s
  | .aluSra x => Sys2Proof.Machine.execAluSra x s
  | .aluMin x => Sys2Proof.Machine.execAluMin x s
  | .aluMax x => Sys2Proof.Machine.execAluMax x s
  | .aluMinz x => Sys2Proof.Machine.execAluMinz x s
  | .aluMaxz x => Sys2Proof.Machine.execAluMaxz x s
  | .aluAdds x => Sys2Proof.Machine.execAluAdds x s
  | .aluSubs x => Sys2Proof.Machine.execAluSubs x s
  | .aluClz x => Sys2Proof.Machine.execAluClz x s
  | .aluCtz x => Sys2Proof.Machine.execAluCtz x s
  | .aluPopc x => Sys2Proof.Machine.execAluPopc x s
  | .aluiAdd x => Sys2Proof.Machine.execAluiAdd x s
  | .aluiAnd x => Sys2Proof.Machine.execAluiAnd x s
  | .aluiOr x => Sys2Proof.Machine.execAluiOr x s
  | .aluiXor x => Sys2Proof.Machine.execAluiXor x s
  | .aluiShl x => Sys2Proof.Machine.execAluiShl x s
  | .aluiShr x => Sys2Proof.Machine.execAluiShr x s
  | .aluiSra x => Sys2Proof.Machine.execAluiSra x s
  | .aluiMul x => Sys2Proof.Machine.execAluiMul x s
  | .fpuAdd x => Sys2Proof.Machine.execFpuAdd x s
  | .fpuSub x => Sys2Proof.Machine.execFpuSub x s
  | .fpuMul x => Sys2Proof.Machine.execFpuMul x s
  | .fpuDiv x => Sys2Proof.Machine.execFpuDiv x s
  | .fpuSqrt x => Sys2Proof.Machine.execFpuSqrt x s
  | .fpuFma x => Sys2Proof.Machine.execFpuFma x s
  | .fpuFms x => Sys2Proof.Machine.execFpuFms x s
  | .fpuMin x => Sys2Proof.Machine.execFpuMin x s
  | .fpuMax x => Sys2Proof.Machine.execFpuMax x s
  | .fpuAbs x => Sys2Proof.Machine.execFpuAbs x s
  | .fpuNeg x => Sys2Proof.Machine.execFpuNeg x s
  | .fpuCvti x => Sys2Proof.Machine.execFpuCvti x s
  | .fpuCvtf x => Sys2Proof.Machine.execFpuCvtf x s
  | .fpuCvtw x => Sys2Proof.Machine.execFpuCvtw x s
  | .fpuCvtb x => Sys2Proof.Machine.execFpuCvtb x s
  | .fpuCvt8 x => Sys2Proof.Machine.execFpuCvt8 x s
  | .fpdAdd x => Sys2Proof.Machine.execFpdAdd x s
  | .fpdSub x => Sys2Proof.Machine.execFpdSub x s
  | .fpdMul x => Sys2Proof.Machine.execFpdMul x s
  | .fpdDiv x => Sys2Proof.Machine.execFpdDiv x s
  | .fpdSqrt x => Sys2Proof.Machine.execFpdSqrt x s
  | .fpdFma x => Sys2Proof.Machine.execFpdFma x s
  | .fpdFms x => Sys2Proof.Machine.execFpdFms x s
  | .fpdMin x => Sys2Proof.Machine.execFpdMin x s
  | .fpdMax x => Sys2Proof.Machine.execFpdMax x s
  | .fpdAbs x => Sys2Proof.Machine.execFpdAbs x s
  | .fpdNeg x => Sys2Proof.Machine.execFpdNeg x s
  | .fpdCvti x => Sys2Proof.Machine.execFpdCvti x s
  | .fpdCvtf x => Sys2Proof.Machine.execFpdCvtf x s
  | .fpdCvtw x => Sys2Proof.Machine.execFpdCvtw x s
  | .fpdCvtb x => Sys2Proof.Machine.execFpdCvtb x s
  | .fpdCvt8 x => Sys2Proof.Machine.execFpdCvt8 x s
  | .cmpEq x => Sys2Proof.Machine.execCmpEq x s
  | .cmpNe x => Sys2Proof.Machine.execCmpNe x s
  | .cmpLt x => Sys2Proof.Machine.execCmpLt x s
  | .cmpGe x => Sys2Proof.Machine.execCmpGe x s
  | .cmpLo x => Sys2Proof.Machine.execCmpLo x s
  | .cmpHs x => Sys2Proof.Machine.execCmpHs x s
  | .cmpUn x => Sys2Proof.Machine.execCmpUn x s
  | .movCp x => Sys2Proof.Machine.execMovCp x s
  | .movRdp x => Sys2Proof.Machine.execMovRdp x s
  | .movWrp x => Sys2Proof.Machine.execMovWrp x s
  | .movSxb x => Sys2Proof.Machine.execMovSxb x s
  | .movSxh x => Sys2Proof.Machine.execMovSxh x s
  | .movSxw x => Sys2Proof.Machine.execMovSxw x s
  | .movZxb x => Sys2Proof.Machine.execMovZxb x s
  | .movZxh x => Sys2Proof.Machine.execMovZxh x s
  | .movZxw x => Sys2Proof.Machine.execMovZxw x s
  | .sysRw x => Sys2Proof.Machine.execSysRw x s
  | .schedWrite => Sys2Proof.Machine.execSchedWrite s
  | .br x => Sys2Proof.Machine.execBr x s
  | .brLink x => Sys2Proof.Machine.execBrLink x s
  | .jmpJr x => Sys2Proof.Machine.execJmpJr x s
  | .jmpJl x => Sys2Proof.Machine.execJmpJl x s
  | .wkSpawn x => Sys2Proof.Machine.execWkSpawn x s
  | .wkMigr x => Sys2Proof.Machine.execWkMigr x s
  | .wkWaitw x => Sys2Proof.Machine.execWkWaitw x s
  | .wkSusp x => Sys2Proof.Machine.execWkSusp x s
  | .wkDone x => Sys2Proof.Machine.execWkDone x s
  | .wkSnuffSelf x => Sys2Proof.Machine.execWkSnuffSelf x s
  | .wkSnuff x => Sys2Proof.Machine.execWkSnuff x s
  | .wkLaunch x => Sys2Proof.Machine.execWkLaunch x s
  | .wkPrio x => Sys2Proof.Machine.execWkPrio x s
  | .ld x => Sys2Proof.Machine.execLd x s
  | .ldAcq x => Sys2Proof.Machine.execLdAcq x s
  | .st x => Sys2Proof.Machine.execSt x s
  | .stRel x => Sys2Proof.Machine.execStRel x s
  | .amoAdd x => Sys2Proof.Machine.execAmoAdd x s
  | .amoAnd x => Sys2Proof.Machine.execAmoAnd x s
  | .amoOr x => Sys2Proof.Machine.execAmoOr x s
  | .amoXor x => Sys2Proof.Machine.execAmoXor x s
  | .amoMin x => Sys2Proof.Machine.execAmoMin x s
  | .amoMax x => Sys2Proof.Machine.execAmoMax x s
  | .amoMinz x => Sys2Proof.Machine.execAmoMinz x s
  | .amoMaxz x => Sys2Proof.Machine.execAmoMaxz x s
  | .amoSwap x => Sys2Proof.Machine.execAmoSwap x s
  | .amoCas x => Sys2Proof.Machine.execAmoCas x s
  | .amoFadd x => Sys2Proof.Machine.execAmoFadd x s
  | .fenceAll x => Sys2Proof.Machine.execFenceAll x s
  | .fenceSt x => Sys2Proof.Machine.execFenceSt x s
  | .fenceLd x => Sys2Proof.Machine.execFenceLd x s
  | .monArm x => Sys2Proof.Machine.execMonArm x s
  | .monDis x => Sys2Proof.Machine.execMonDis x s
  | .monWait x => Sys2Proof.Machine.execMonWait x s
  | .monClr x => Sys2Proof.Machine.execMonClr x s
  | .vecAdd x => Sys2Proof.Machine.execVecAdd x s
  | .vecSub x => Sys2Proof.Machine.execVecSub x s
  | .vecMul x => Sys2Proof.Machine.execVecMul x s
  | .vecFma x => Sys2Proof.Machine.execVecFma x s
  | .vecMin x => Sys2Proof.Machine.execVecMin x s
  | .vecMax x => Sys2Proof.Machine.execVecMax x s
  | .vecAbs x => Sys2Proof.Machine.execVecAbs x s
  | .vecNeg x => Sys2Proof.Machine.execVecNeg x s
  | .vecAnd x => Sys2Proof.Machine.execVecAnd x s
  | .vecOr x => Sys2Proof.Machine.execVecOr x s
  | .vecXor x => Sys2Proof.Machine.execVecXor x s
  | .vecShl x => Sys2Proof.Machine.execVecShl x s
  | .vecShr x => Sys2Proof.Machine.execVecShr x s
  | .vecSra x => Sys2Proof.Machine.execVecSra x s
  | .vecSel x => Sys2Proof.Machine.execVecSel x s
  | .vecShuf x => Sys2Proof.Machine.execVecShuf x s
  | .vecBcast x => Sys2Proof.Machine.execVecBcast x s
  | .vecRsum x => Sys2Proof.Machine.execVecRsum x s
  | .vecRmax x => Sys2Proof.Machine.execVecRmax x s
  | .vecRmin x => Sys2Proof.Machine.execVecRmin x s
  | .vecCvt x => Sys2Proof.Machine.execVecCvt x s
  | .vecScale x => Sys2Proof.Machine.execVecScale x s
  | .vecCeq x => Sys2Proof.Machine.execVecCeq x s
  | .vecClt x => Sys2Proof.Machine.execVecClt x s
  | .vldC x => Sys2Proof.Machine.execVldC x s
  | .vldS x => Sys2Proof.Machine.execVldS x s
  | .vldCR x => Sys2Proof.Machine.execVldCR x s
  | .vldSR x => Sys2Proof.Machine.execVldSR x s
  | .vstC x => Sys2Proof.Machine.execVstC x s
  | .vstS x => Sys2Proof.Machine.execVstS x s
  | .vstCR x => Sys2Proof.Machine.execVstCR x s
  | .vstSR x => Sys2Proof.Machine.execVstSR x s
  | .vgthG x => Sys2Proof.Machine.execVgthG x s
  | .vgthGt x => Sys2Proof.Machine.execVgthGt x s
  | .enqWt x => Sys2Proof.Machine.execEnqWt x s
  | .enqTry x => Sys2Proof.Machine.execEnqTry x s
  | .enqRoomRetry => Sys2Proof.Machine.execEnqRoomRetry s
  | .vgInit x => Sys2Proof.Machine.execVgInit x s
  | .vgJoin x => Sys2Proof.Machine.execVgJoin x s
  | .vgLeave x => Sys2Proof.Machine.execVgLeave x s
  | .vgArr x => Sys2Proof.Machine.execVgArr x s
  | .vgWait x => Sys2Proof.Machine.execVgWait x s
  | .vgArrw x => Sys2Proof.Machine.execVgArrw x s
  | .vgBrk x => Sys2Proof.Machine.execVgBrk x s
  | .vgBrkGroup x => Sys2Proof.Machine.execVgBrkGroup x s
  | .vgStat x => Sys2Proof.Machine.execVgStat x s
  | .trapSw x => Sys2Proof.Machine.execTrapSw x s
  | .trapRet x => Sys2Proof.Machine.execTrapRet x s
  | .trapBrk x => Sys2Proof.Machine.execTrapBrk x s
  | .trapMsk x => Sys2Proof.Machine.execTrapMsk x s
  | .tlbFill x => Sys2Proof.Machine.execTlbFill x s
  | .tlbInvr x => Sys2Proof.Machine.execTlbInvr x s
  | .tlbInva x => Sys2Proof.Machine.execTlbInva x s
  | .tlbPrb x => Sys2Proof.Machine.execTlbPrb x s
  | .fabConn x => Sys2Proof.Machine.execFabConn x s
  | .fabClose x => Sys2Proof.Machine.execFabClose x s
  | .fabSlot x => Sys2Proof.Machine.execFabSlot x s
  | .fabStat x => Sys2Proof.Machine.execFabStat x s
  | .fabGnt x => Sys2Proof.Machine.execFabGnt x s
  | .lanInst x => Sys2Proof.Machine.execLanInst x s
  | .lanDrop x => Sys2Proof.Machine.execLanDrop x s
  | .lanStat x => Sys2Proof.Machine.execLanStat x s
  | .lanDflt x => Sys2Proof.Machine.execLanDflt x s
  | .tapLoad x => Sys2Proof.Machine.execTapLoad x s
  | .tapGo x => Sys2Proof.Machine.execTapGo x s
  | .tapHalt x => Sys2Proof.Machine.execTapHalt x s
  | .tapStat x => Sys2Proof.Machine.execTapStat x s
  | .tapHead x => Sys2Proof.Machine.execTapHead x s
  | .cxLoad x => Sys2Proof.Machine.execCxLoad x s
  | .cxBind x => Sys2Proof.Machine.execCxBind x s
  | .cxRebind x => Sys2Proof.Machine.execCxRebind x s
  | .cxGen x => Sys2Proof.Machine.execCxGen x s
  | .cxDrop x => Sys2Proof.Machine.execCxDrop x s
  | .ckDx x => Sys2Proof.Machine.execCkDx x s
  | .ckStar x => Sys2Proof.Machine.execCkStar x s
  | .ckIstar x => Sys2Proof.Machine.execCkIstar x s
  | .ckCodif x => Sys2Proof.Machine.execCkCodif x s
  | .ckWedge x => Sys2Proof.Machine.execCkWedge x s
  | .ckInterp x => Sys2Proof.Machine.execCkInterp x s
  | .ckCvt x => Sys2Proof.Machine.execCkCvt x s
  | .ckAnch x => Sys2Proof.Machine.execCkAnch x s
  | .ckAxpy x => Sys2Proof.Machine.execCkAxpy x s
  | .ckDot x => Sys2Proof.Machine.execCkDot x s
  | .ckHpack x => Sys2Proof.Machine.execCkHpack x s
  | .ckHunp x => Sys2Proof.Machine.execCkHunp x s
  | .mxMma x => Sys2Proof.Machine.execMxMma x s
  | .mxMmaz0 x => Sys2Proof.Machine.execMxMmaz0 x s
  | .mxMmaz1 x => Sys2Proof.Machine.execMxMmaz1 x s
  | .mxClr x => Sys2Proof.Machine.execMxClr x s
  | .mxSt x => Sys2Proof.Machine.execMxSt x s
  | .mxLd x => Sys2Proof.Machine.execMxLd x s
  | .copy => Sys2Proof.Machine.execCopy s
  | .gather => Sys2Proof.Machine.execGather s
  | .scatter => Sys2Proof.Machine.execScatter s
  | .fill => Sys2Proof.Machine.execFill s
  | .paddedCopy => Sys2Proof.Machine.execPaddedCopy s
  | .blockedTransform => Sys2Proof.Machine.execBlockedTransform s
  | .quantum => Sys2Proof.Machine.execQuantum s
  | .engineGrantVisit => Sys2Proof.Machine.execEngineGrantVisit s
  | .engineOpComplete => Sys2Proof.Machine.execEngineOpComplete s
  | .fabricSend => Sys2Proof.Machine.execFabricSend s
  | .multicastStore => Sys2Proof.Machine.execMulticastStore s
  | .multicastReply => Sys2Proof.Machine.execMulticastReply s
  | .haloPack => Sys2Proof.Machine.execHaloPack s
  | .haloUnpack => Sys2Proof.Machine.execHaloUnpack s
  | .lanternInstallCmd => Sys2Proof.Machine.execLanternInstallCmd s
  | .lanternDropCmd => Sys2Proof.Machine.execLanternDropCmd s
  | .lanternResetCmd => Sys2Proof.Machine.execLanternResetCmd s
  | .taperLoadCmd => Sys2Proof.Machine.execTaperLoadCmd s
  | .taperGoCmd => Sys2Proof.Machine.execTaperGoCmd s
  | .taperHaltCmd => Sys2Proof.Machine.execTaperHaltCmd s
  | .schedDispatch => Sys2Proof.Machine.execSchedDispatch s
  | .stealRequest => Sys2Proof.Machine.execStealRequest s
  | .stealReply => Sys2Proof.Machine.execStealReply s
  | .stealBackoffEnd => Sys2Proof.Machine.execStealBackoffEnd s
  | .dispenserPass => Sys2Proof.Machine.execDispenserPass s
  | .wickEntry => Sys2Proof.Machine.execWickEntry s
  | .migrationArrival => Sys2Proof.Machine.execMigrationArrival s
  | .wickRefusalReturn => Sys2Proof.Machine.execWickRefusalReturn s
  | .slotGating => Sys2Proof.Machine.execSlotGating s
  | .vectorRefresh => Sys2Proof.Machine.execVectorRefresh s
  | .portWordArrival => Sys2Proof.Machine.execPortWordArrival s
  | .accessComplete => Sys2Proof.Machine.execAccessComplete s
  | .relaxedAccessComplete => Sys2Proof.Machine.execRelaxedAccessComplete s
  | .atomicReservationGrant => Sys2Proof.Machine.execAtomicReservationGrant s
  | .monWaitTimeout => Sys2Proof.Machine.execMonWaitTimeout s
  | .peerAccess => Sys2Proof.Machine.execPeerAccess s
  | .peerAck => Sys2Proof.Machine.execPeerAck s
  | .peerRefusal => Sys2Proof.Machine.execPeerRefusal s
  | .fenceMarker => Sys2Proof.Machine.execFenceMarker s
  | .peerLeft => Sys2Proof.Machine.execPeerLeft s
  | .linkTrained => Sys2Proof.Machine.execLinkTrained s
  | .lanternRequest => Sys2Proof.Machine.execLanternRequest s
  | .lanternAtomic => Sys2Proof.Machine.execLanternAtomic s
  | .beaconInterval => Sys2Proof.Machine.execBeaconInterval s
  | .vigilArrivalMessage => Sys2Proof.Machine.execVigilArrivalMessage s
  | .vigilByteDecrement => Sys2Proof.Machine.execVigilByteDecrement s
  | .groupBreakNotice => Sys2Proof.Machine.execGroupBreakNotice s
  | .vigilNotice => Sys2Proof.Machine.execVigilNotice s
  | .arrivalForward => Sys2Proof.Machine.execArrivalForward s
  | .arrivalForwardTimeout => Sys2Proof.Machine.execArrivalForwardTimeout s
  | .wickFailure => Sys2Proof.Machine.execWickFailure s
  | .failureListTailAdvance => Sys2Proof.Machine.execFailureListTailAdvance s
  | .coreError => Sys2Proof.Machine.execCoreError s
  | .bankFailMark => Sys2Proof.Machine.execBankFailMark s
  | .coreReadmit => Sys2Proof.Machine.execCoreReadmit s
  | .preemptionRequest => Sys2Proof.Machine.execPreemptionRequest s
  | .preemptionWithdraw => Sys2Proof.Machine.execPreemptionWithdraw s
  | .hostDoorbell => Sys2Proof.Machine.execHostDoorbell s
  | .serviceSignal => Sys2Proof.Machine.execServiceSignal s
  | .debugHalt => Sys2Proof.Machine.execDebugHalt s
  | .debugHaltEnd => Sys2Proof.Machine.execDebugHaltEnd s
  | .interruptTake => Sys2Proof.Machine.execInterruptTake s
  | .sidebandRead => Sys2Proof.Machine.execSidebandRead s
  | .escapeTimeout => Sys2Proof.Machine.execEscapeTimeout s
  | .slotGuardEnd => Sys2Proof.Machine.execSlotGuardEnd s
  | .slotDurationExpiry => Sys2Proof.Machine.execSlotDurationExpiry s
  | .slotQueuesEmpty => Sys2Proof.Machine.execSlotQueuesEmpty s
  | .taperDispatch => Sys2Proof.Machine.execTaperDispatch s
  | .taperEntryEnd => Sys2Proof.Machine.execTaperEntryEnd s
  | .taperArrival => Sys2Proof.Machine.execTaperArrival s
  | .taperFreeSlotCount => Sys2Proof.Machine.execTaperFreeSlotCount s
  | .demandChange => Sys2Proof.Machine.execDemandChange s
  | .powerBorrowRequest => Sys2Proof.Machine.execPowerBorrowRequest s
  | .powerLend => Sys2Proof.Machine.execPowerLend s
  | .powerRepay => Sys2Proof.Machine.execPowerRepay s
  | .powerRecall => Sys2Proof.Machine.execPowerRecall s
  | .launchTailWrite => Sys2Proof.Machine.execLaunchTailWrite s
  | .launchEntryTake => Sys2Proof.Machine.execLaunchEntryTake s
  | .attestationRequest => Sys2Proof.Machine.execAttestationRequest s
  | .attestationAnswer => Sys2Proof.Machine.execAttestationAnswer s
  | .hostRegisterWrite => Sys2Proof.Machine.execHostRegisterWrite s
  | .dieReset => Sys2Proof.Machine.execDieReset s
  | .flitAuthFail => Sys2Proof.Machine.execFlitAuthFail s
  | .illegalInstruction => Sys2Proof.Machine.execIllegalInstruction s
  | .instructionCacheMissFill => Sys2Proof.Machine.execInstructionCacheMissFill s
  | .matrixOperationRetire => Sys2Proof.Machine.execMatrixOperationRetire s
  | .hostLinkTrained => Sys2Proof.Machine.execHostLinkTrained s

end Sys2Proof.Machine
end

