-- ==== Sys2Proof/Machine/Turn.lean ====
section
/-!
DEFINITION. An issue turn's instruction: the words fetched for the current slot are decoded and executed, and whether
they would raise a synchronous cause, which a slot takes ahead of a pending interrupt (spec 11_traps.md, R224, R236).
-/

namespace Sys2Proof.Machine

/-- Decode the words fetched for the current slot and execute the instruction, or raise its decode cause. -/
def stepWords (w l1 l2 : IWord) (s : State) : Host.Outcome State Fault Refusal :=
  match decode w l1 l2 with
  | .ok i => exec i s
  | .error _ => exec .illegalInstruction { s with ev := some (.illegalInstruction w l1 l2) }

/-- The instruction at a slot's pc raises a synchronous cause: with handlers at address 1, where no instruction stands and
to which no other effect leads, it goes there. -/
def State.trapsAt (s : State) (slot : Nat) : Bool :=
  let s1 := s.onSlot slot (fun x => { x with tvec := 1, uvec := 1 })
  let trapped := fun (t : State) => decide ((t.slot slot).pc = 1)
  match s1.fetch slot with
  | .error va => trapped (s1.fetchFill slot va)
  | .ok (w, l1, l2) =>
    match stepWords w l1 l2 s1 with
    | .next t => trapped t
    | _ => false

/-- The slot's turn goes to a pending interrupt: one that it may take, and no synchronous cause of the instruction at its pc
comes first (R224, R236). A wait out of the rotation is abandoned as it stands (R237). -/
def State.interrupted (s : State) (slot : Nat) : Bool :=
  (s.interruptFor slot).isSome && !((s.slot slot).wait.inRotation && s.trapsAt slot)

end Sys2Proof.Machine
end

