-- ==== Sys2Proof/Machine/Step.lean ====
section
/-!
DEFINITION. One step of the machine: the next event of the agenda, else a timer that is due, else one cycle of the
core whose turn it is, in which at most one instruction issues (R84).
-/

namespace Sys2Proof.Machine

/-- Execute an event: its operands stand in the state. -/
def stepEvent (e : Event) (s : State) : Host.Outcome State Fault Refusal :=
  exec e.instr { s with ev := some e, tick := s.tick + 1 }

/-- The issue turn of a slot: a pending interrupt that it takes, else the instruction at its pc, which may go on after a
wait. -/
def stepSlot (corek slot : Nat) (s : State) : Host.Outcome State Fault Refusal :=
  let s1 := s.issueFrom corek slot
  if !s.goesOn slot && s1.interrupted slot then exec .interruptTake { s1 with ev := some (.interruptTake slot) }
  else
    match s1.fetch slot with
    | .error va => .next ((s1.setWait slot (.fetch va)).post (.instructionCacheMissFill slot))
    | .ok (w, l1, l2) => stepWords w l1 l2 s1

/-- One cycle of a core. -/
def stepCore (corek : Nat) (s : State) : Host.Outcome State Fault Refusal :=
  match s.coreEvent corek with
  | some e => stepEvent e s
  | none =>
    let s1 := { s.onCore corek (fun k => { k with cycle := k.cycle + 1 }) with tick := s.tick + 1 }
    if s1.withholds corek then .next (s1.countWithheld corek)
    else if (s1.core corek).fenced then .next s1
    else
      match s1.pick corek with
      | none => .next s1
      | some slot => stepSlot corek slot s1

/-- One step: event, timer, or the next core's cycle. -/
def step (s : State) : Host.Outcome State Fault Refusal :=
  match s.agenda with
  | e :: rest => stepEvent e { s with agenda := rest }
  | [] =>
    match s.timers.find? (fun t => decide (t.1 ≤ s.tick)) with
    | some t => stepEvent t.2 { s with timers := s.timers.erase t }
    | none =>
      match s.turn with
      | [] => .next { s with tick := s.tick + 1 }
      | k :: rest => stepCore k { s with turn := rest ++ [k] }

/-- A state whose next step fetches and runs the given instruction (notes/assumptions 4). -/
def State.withFetchWord (s : State) (nbits w : Nat) : State := s.place nbits w

end Sys2Proof.Machine
end

