-- ==== Sys2Proof/Safety.lean ====
section
/-!
DEFINITION. The terms that claims use: what a safe step is, the invariants that every step keeps, when an instruction
issues, what its source fields read, when its destination can be written, and how a completed instruction ends.
-/

namespace Sys2Proof.Machine

/-- A step answers a next state, neither a fault nor a refusal. -/
def Completes (o : Host.Outcome State Fault Refusal) : Prop := ∃ t, o = .next t

/-! ### Invariants -/

/-- Memory keeps its canonical form. -/
def State.memOk (s : State) : Bool := Memory.wf s.mem

/-- In a slot p0 is true, p1 is false, g0 reads zero, and bit 7 of fflags is clear (R112, R118, R27). -/
def Slot.regsOk (x : Slot) : Bool :=
  x.pred.getLsbD 0 && !x.pred.getLsbD 1 && decide (Tab.get 0 x.g 0 = 0) && !x.fflags.getLsbD 7

/-- `Slot.regsOk` in every slot of the pod. -/
def State.regsOk (s : State) : Bool := s.slots.all (fun e => e.2.regsOk)

/-! ### Issue and operands -/

/-- The instruction issues in the current slot: no decode cause stands against it, and its guard is true (R44, R45); a
jump's target registers are written (R99). -/
def Issues (i : Instr) (s : State) : Prop :=
  decodeCause s s.cur i.enc = none ∧ (s.slot s.cur).p i.enc.guard = true ∧ encAwaits i.enc (s.slot s.cur) = none

/-- What the reads of an instruction have taken so far (R116): words of the receive queue, and a poll's answer for the
predicate pair that qctl.pp named. -/
structure Reading where
  taken : Nat := 0
  poll : Option (Nat × Bool) := none
  deriving DecidableEq, Repr

/-- What a register code reads in a slot (Table 3.2, R112 to R116), or none when the slot must wait: a register
pending on the scoreboard, or mq with no word for this slot. -/
def State.readCode (s : State) (slot c : Nat) (q : Reading) : Option (Word × Reading) :=
  let x := s.slot slot
  let k := s.core (coreOf slot)
  if x.isPending c then none
  else if c = 0 then some (0, q)
  else if c < 16 then some (Tab.get 0 x.g c, q)
  else if c < 24 then some (hValue k.cycle x.asid (Tab.get [] k.h (c - 16)), q)
  else if c = 24 then (k.mqWord slot q.taken).map (fun w => (w, { q with taken := q.taken + 1 }))
  else
    match k.pollWord slot q.taken with
    | none => some (0, { q with poll := some (2 * x.pp.toNat, false) })
    | some w => some (w, ⟨q.taken + 1, some (2 * x.pp.toNat, true)⟩)

/-- What a source field reads: a register, or the literal that follows (R113). -/
def State.readSrc (s : State) (slot : Nat) (a : Src) (q : Reading) : Option (Word × Reading) :=
  match a with
  | .reg n => s.readCode slot n.toNat q
  | .lit32 v => some (v.signExtend 64, q)
  | .lit64 v => some (v, q)

/-- What one source field reads at issue. -/
def State.reads1 (s : State) (a : Src) (va : Word) (q : Reading) : Prop := s.readSrc s.cur a {} = some (va, q)

/-- What two source fields read at issue, the first one first (R43). -/
def State.reads2 (s : State) (a b : Src) (va vb : Word) (q : Reading) : Prop :=
  ∃ q1, s.readSrc s.cur a {} = some (va, q1) ∧ s.readSrc s.cur b q1 = some (vb, q)

/-- What two source fields and then the register in the dst field read at issue (R43). -/
def State.reads3 (s : State) (a b : Src) (d : Nat) (va vb vd : Word) (q : Reading) : Prop :=
  ∃ q2, s.reads2 a b va vb q2 ∧ s.readCode s.cur d q2 = some (vd, q)

/-- The destination can be written without a wait: not pending (R114), and room behind a port (R116). -/
def State.canWrite (s : State) (slot d : Nat) : Bool :=
  !(s.slot slot).isPending d &&
    (if 26 ≤ d then
      match neighbour (coreOf slot) d with
      | some n => (s.core n).hasRoom || (s.core n).fenced
      | none => true
    else true)

/-- How a completed instruction ends that goes on to the next one: words it has read leave the receive queue, a
poll's predicate pair is written, and the pc moves past the instruction (R39, R116). -/
def State.retired (s : State) (slot len : Nat) (q : Reading) : State := finish len ⟨slot, s, q.taken, q.poll⟩ .next

/-- The same for a jump to a target. -/
def State.jumped (s : State) (slot : Nat) (t : Word) (q : Reading) : State := finish 0 ⟨slot, s, q.taken, q.poll⟩ (.jump t)

/-- The same for an instruction after which the slot no longer holds the wick. -/
def State.gone (s : State) (slot : Nat) (q : Reading) : State := finish 0 ⟨slot, s, q.taken, q.poll⟩ .gone

/-- The state after an instruction that ends its wick's stay in the slot has taken what it read (R116). -/
def State.readsTaken (s : State) (slot : Nat) (q : Reading) : State :=
  if q.taken = 0 ∧ q.poll = none then s else (s.keepReads slot q.taken q.poll).takeWords slot

/-- How an instruction waits: what it has read of the receive queue stays with it, and its slot leaves the rotation for a
reason (R116). -/
def State.awaiting (s : State) (slot : Nat) (q : Reading) (w : Wait) : State :=
  (s.keepReads slot q.taken q.poll).setWait slot w

/-- A state with flags set in a slot. -/
def State.flagged (s : State) (slot : Nat) (f : Fl) : State :=
  if f = 0 then s else s.onSlot slot (fun x => x.flag f)

/-! ### Accesses -/

/-- An access of a kind to `n` bytes at an address is translated and passes every check that comes before its home:
alignment, range locks, tolerant page and target (R165, R254); `s1` is the state after the translation. -/
def State.accessed (s : State) (slot : Nat) (k : XKind) (n : Nat) (tolOk : Bool) (va : Word) (t : Xlat) (s1 : State) :
    Prop :=
  s.xlate (coreOf slot) true (s.slot slot).user (s.slot slot).asid k va = (.ok t, s1) ∧ va.toNat % n = 0 ∧
  s1.lockHit (clusterOf slot) (s.slot slot).asid va.toNat n (decide (k = .store) || decide (k = .atomic)) = false ∧
  (t.tol = true → tolOk = true) ∧ s1.targetCause slot k n t = none

/-- The access can leave: its home in the module takes accesses (R410); a peer's home is looked at on arrival (R275). It goes
now: its home lies in the cluster, it has had its turn in the engine's rotation, or the rotation rests (R177). -/
def State.homeOk (s : State) (slot pa : Nat) : Prop :=
  (peerOf slot pa = none → s.home (dieOf slot) pa = .ok) ∧ s.mayGo slot [pa] = true
/-- The state with the access's turn used up (R177), and with an out-of-range address kept in oob (R156, Table 8.4). -/
def State.noted (s : State) (slot : Nat) (t : Xlat) (wr : Bool) : State :=
  let s1 := s.turnUsed slot [t.pa]
  if (region t.pa).inRange then s1 else s1.onSlot slot (fun x => x.noteOob t.va wr)
/-- A release or fence of a scope completes without a wait or a recorded fault (R163, R169, R173, R228). -/
def State.released (s : State) (slot sc : Nat) (only : Option Nat) (loads stores : Bool) : Bool :=
  s.drained slot sc only loads stores &&
    (!peerScope sc || (!s.awaitsAcks slot sc only && decide ((s.slot slot).latch = none)))
/-- The wick can leave its slot at a suspension point of a scope: no recorded fault, no pending register, its stores
performed (R86). -/
def State.mayLeave (s : State) (slot sc : Nat) : Bool :=
  decide ((s.slot slot).latch = none) && decide ((s.slot slot).pend = []) && s.released slot sc none true true
/-- The state with what a plain access to a peer may change kept (R279): the predicates and oob. -/
def State.kept (s : State) (slot : Nat) : State := s.onSlot slot (fun x => { x with undo := some ⟨[], x.dead, x.pred, x.oob⟩ })
/-- The line that a record access of the slot's instruction has read before, if any: a peer's answer (R279), or a line that
had its turn (R177). -/
def State.lineOf (s : State) (slot pa : Nat) : Option Nat := (s.slot slot).lineOf pa
/-- A 64-byte line that an instruction reads as one: the access, and the line as it was read before, or its home in the
module and its error check (R100, R101, R177, R234, R279). -/
def State.lineOk (s : State) (slot : Nat) (va : Word) (t : Xlat) (s1 : State) : Prop :=
  s.accessed slot .load 64 false va t s1 ∧
    ((s1.lineOf slot t.pa).isSome ∨ (peerOf slot t.pa = none ∧ s1.homeOk slot t.pa ∧ s1.readFault t.pa 64 = none))
/-- The state after a record access has set out for a peer. -/
def State.lineSent (s : State) (slot : Nat) (t : Xlat) (wr : Bool) : State :=
  (if (s.slot slot).undo.isNone then s.kept slot else s).noted slot t wr
/-- The state after such a line has been read. -/
def State.lineRead (s : State) (slot : Nat) (t : Xlat) : State :=
  if (s.lineOf slot t.pa).isSome then s else (s.noted slot t false).lineHere slot t.pa (s.turned slot [t.pa])
/-- What the line holds. -/
def State.lineValue (s : State) (slot : Nat) (t : Xlat) : Nat :=
  (s.lineOf slot t.pa).getD ((s.noted slot t false).loadHome t.pa 64)
/-- The state after an instruction has used the lines that it has read. -/
def State.linesDone (s : State) (slot : Nat) : State := s.onSlot slot (fun x => { x with lines := [], undo := none })

/-- The event with its operands, ready to be executed. -/
def State.given (s : State) (e : Event) : State := { s with ev := some e }

end Sys2Proof.Machine
end

