-- ==== Sys2Proof/Claims.lean ====
section
/-!
DEFINITION. The tables of results that claims compare the machine with, written over the integers in the words of
the spec's own tables.
-/

namespace Sys2Proof.Claims

open Sys2Proof.Machine

/-! ### alu and alui (Table 6.7, R127) -/

/-- An integer clamped to the signed 64-bit range, and whether it was clamped. -/
def clamped (z : Int) : Int × Bool :=
  (max (-(2 ^ 63)) (min (2 ^ 63 - 1) z), decide (z < -(2 ^ 63) ∨ 2 ^ 63 ≤ z))

/-- The two-operand functions of Table 6.7 but division: the result before it is taken modulo 2^64, and whether sat
is set. -/
def aluTwo : Instr → Option (FmtA × (Word → Word → Int × Bool))
  | .aluAdd x => some (x, fun a b => (a.toNat + b.toNat, false))
  | .aluSub x => some (x, fun a b => ((a.toNat : Int) - b.toNat, false))
  | .aluMul x => some (x, fun a b => (a.toNat * b.toNat, false))
  | .aluMulh x => some (x, fun a b => (a.toInt * b.toInt / 2 ^ 64, false))
  | .aluMulhz x => some (x, fun a b => (a.toNat * b.toNat / 2 ^ 64, false))
  | .aluAnd x => some (x, fun a b => ((a &&& b).toNat, false))
  | .aluOr x => some (x, fun a b => ((a ||| b).toNat, false))
  | .aluXor x => some (x, fun a b => ((a ^^^ b).toNat, false))
  | .aluAndn x => some (x, fun a b => ((a &&& ~~~b).toNat, false))
  | .aluShl x => some (x, fun a b => (a.toNat * 2 ^ (b.toNat % 64), false))
  | .aluShr x => some (x, fun a b => (a.toNat / 2 ^ (b.toNat % 64), false))
  | .aluSra x => some (x, fun a b => (a.toInt / 2 ^ (b.toNat % 64), false))
  | .aluMin x => some (x, fun a b => (min a.toInt b.toInt, false))
  | .aluMax x => some (x, fun a b => (max a.toInt b.toInt, false))
  | .aluMinz x => some (x, fun a b => (min (a.toNat : Int) b.toNat, false))
  | .aluMaxz x => some (x, fun a b => (max (a.toNat : Int) b.toNat, false))
  | .aluAdds x => some (x, fun a b => clamped (a.toInt + b.toInt))
  | .aluSubs x => some (x, fun a b => clamped (a.toInt - b.toInt))
  | _ => none

/-- The one-operand functions of Table 6.7: leading zeros, trailing zeros and one bits. -/
def aluOne : Instr → Option (FmtA × (Word → Nat))
  | .aluClz x => some (x, fun a => ((List.range 64).takeWhile (fun i => !a.getMsbD i)).length)
  | .aluCtz x => some (x, fun a => ((List.range 64).takeWhile (fun i => !a.getLsbD i)).length)
  | .aluPopc x => some (x, fun a => (List.range 64).countP (fun i => a.getLsbD i))
  | _ => none

/-- The divisions of Table 6.7: truncation toward zero, and the remainder with the sign of the dividend. -/
def aluDivision : Instr → Option (FmtA × (Word → Word → Int))
  | .aluDiv x => some (x, fun a b => a.toInt.tdiv b.toInt)
  | .aluDivz x => some (x, fun a b => a.toNat / b.toNat)
  | .aluRem x => some (x, fun a b => a.toInt - b.toInt * a.toInt.tdiv b.toInt)
  | .aluRemz x => some (x, fun a b => a.toNat % b.toNat)
  | _ => none

/-- The alui functions (R127): the alu function of the same name, with b the sign-extended immediate, or the 6-bit
count of a shift. -/
def aluImm : Instr → Option (FmtI × (Word → Int → Int))
  | .aluiAdd x => some (x, fun a m => a.toNat + m)
  | .aluiAnd x => some (x, fun a m => (a &&& BitVec.ofInt 64 m).toNat)
  | .aluiOr x => some (x, fun a m => (a ||| BitVec.ofInt 64 m).toNat)
  | .aluiXor x => some (x, fun a m => (a ^^^ BitVec.ofInt 64 m).toNat)
  | .aluiShl x => some (x, fun a m => a.toNat * 2 ^ (m.toNat % 64))
  | .aluiShr x => some (x, fun a m => a.toNat / 2 ^ (m.toNat % 64))
  | .aluiSra x => some (x, fun a m => a.toInt / 2 ^ (m.toNat % 64))
  | .aluiMul x => some (x, fun a m => a.toNat * m)
  | _ => none

/-! ### fpu and fpd (Table 6.8) -/

/-- The operations of Table 6.8 of one source, of two, and those that also read dst: the pattern of the result and
the flags. FP32 operands are the low 32 bits of a register (R113). -/
inductive FpShape where
  | one (f : Nat → Nat × Fl)
  | two (f : Nat → Nat → Nat × Fl)
  | three (f : Nat → Nat → Nat → Nat × Fl)

/-- The rows of Table 6.8 that take FP32 or FP64 operands and give a pattern, with their format's width. -/
def fpTable : Instr → Option (FmtA × Nat × FpShape)
  | .fpuAdd x => some (x.toFmtA, 32, .two (fp32.add (Rm.ofCode x.rm)))
  | .fpuSub x => some (x.toFmtA, 32, .two (fp32.sub (Rm.ofCode x.rm)))
  | .fpuMul x => some (x.toFmtA, 32, .two (fp32.mul (Rm.ofCode x.rm)))
  | .fpuDiv x => some (x.toFmtA, 32, .two (fp32.div (Rm.ofCode x.rm)))
  | .fpuSqrt x => some (x.toFmtA, 32, .one (fp32.sqrt (Rm.ofCode x.rm)))
  | .fpuFma x => some (x.toFmtA, 32, .three (fun a b z => fp32.fma (Rm.ofCode x.rm) z a b))
  | .fpuFms x => some (x.toFmtA, 32, .three (fun a b z => fp32.fms (Rm.ofCode x.rm) z a b))
  | .fpuMin x => some (x, 32, .two (fun a b => (fp32.min a b, 0)))
  | .fpuMax x => some (x, 32, .two (fun a b => (fp32.max a b, 0)))
  | .fpuAbs x => some (x, 32, .one (fun a => (fp32.absBits a, 0)))
  | .fpuNeg x => some (x, 32, .one (fun a => (fp32.negBits a, 0)))
  | .fpuCvtb x => some (x.toFmtA, 32, .one (fun a => bf16.round (Rm.ofCode x.rm) (fp32.decode a)))
  | .fpuCvt8 x => some (x.toFmtA, 32, .one (fun a => fp8.round (Rm.ofCode x.rm) (fp32.decode a)))
  | .fpuCvtw x => some (x.toFmtA, 64, .one (fun a => fp32.round (Rm.ofCode x.rm) (fp64.decode a)))
  | .fpdAdd x => some (x.toFmtA, 64, .two (fp64.add (Rm.ofCode x.rm)))
  | .fpdSub x => some (x.toFmtA, 64, .two (fp64.sub (Rm.ofCode x.rm)))
  | .fpdMul x => some (x.toFmtA, 64, .two (fp64.mul (Rm.ofCode x.rm)))
  | .fpdDiv x => some (x.toFmtA, 64, .two (fp64.div (Rm.ofCode x.rm)))
  | .fpdSqrt x => some (x.toFmtA, 64, .one (fp64.sqrt (Rm.ofCode x.rm)))
  | .fpdFma x => some (x.toFmtA, 64, .three (fun a b z => fp64.fma (Rm.ofCode x.rm) z a b))
  | .fpdFms x => some (x.toFmtA, 64, .three (fun a b z => fp64.fms (Rm.ofCode x.rm) z a b))
  | .fpdMin x => some (x, 64, .two (fun a b => (fp64.min a b, 0)))
  | .fpdMax x => some (x, 64, .two (fun a b => (fp64.max a b, 0)))
  | .fpdAbs x => some (x, 64, .one (fun a => (fp64.absBits a, 0)))
  | .fpdNeg x => some (x, 64, .one (fun a => (fp64.negBits a, 0)))
  | .fpdCvtb x => some (x.toFmtA, 64, .one (fun a => bf16.round (Rm.ofCode x.rm) (fp64.decode a)))
  | .fpdCvt8 x => some (x.toFmtA, 64, .one (fun a => fp8.round (Rm.ofCode x.rm) (fp64.decode a)))
  | .fpdCvtw x => some (x.toFmtA, 32, .one (fun a => fp64.round (Rm.ofCode x.rm) (fp32.decode a)))
  | _ => none

/-- The conversions of Table 6.8 to INT64 (true) and from INT64 (false), with the floating format. -/
def fpInt : Instr → Option (FmtF × FFmt × Bool)
  | .fpuCvti x => some (x, fp32, true)
  | .fpdCvti x => some (x, fp64, true)
  | .fpuCvtf x => some (x, fp32, false)
  | .fpdCvtf x => some (x, fp64, false)
  | _ => none

/-! ### cmp (Table 6.9, R129) -/

/-- The condition of a compare on the integers: as < bs and so on. -/
def cmpInt : Instr → Option (FmtC × (Word → Word → Bool))
  | .cmpEq x => some (x, fun a b => decide (a.toNat = b.toNat))
  | .cmpNe x => some (x, fun a b => decide (a.toNat ≠ b.toNat))
  | .cmpLt x => some (x, fun a b => decide (a.toInt < b.toInt))
  | .cmpGe x => some (x, fun a b => decide (b.toInt ≤ a.toInt))
  | .cmpLo x => some (x, fun a b => decide (a.toNat < b.toNat))
  | .cmpHs x => some (x, fun a b => decide (b.toNat ≤ a.toNat))
  | _ => none

/-- The condition of a compare on two values of a floating format. -/
def cmpFp : Instr → Option (FmtC × (FV → FV → Bool))
  | .cmpEq x => some (x, fun a b => a.eqv b)
  | .cmpNe x => some (x, fun a b => !a.eqv b)
  | .cmpLt x => some (x, fun a b => a.lt b)
  | .cmpGe x => some (x, fun a b => b.lt a || a.eqv b)
  | .cmpUn x => some (x, fun a b => a.isNan || b.isNan)
  | _ => none

/-! ### mov (R130) -/

/-- The moves that form one register from one source. -/
def movOne : Instr → Option (FmtA × (Word → Int))
  | .movCp x => some (x, fun a => a.toNat)
  | .movSxb x => some (x, fun a => (a.truncate 8 : BitVec 8).toInt)
  | .movSxh x => some (x, fun a => (a.truncate 16 : BitVec 16).toInt)
  | .movSxw x => some (x, fun a => (a.truncate 32 : BitVec 32).toInt)
  | .movZxb x => some (x, fun a => a.toNat % 2 ^ 8)
  | .movZxh x => some (x, fun a => a.toNat % 2 ^ 16)
  | .movZxw x => some (x, fun a => a.toNat % 2 ^ 32)
  | _ => none

/-! ### vec (Tables 7.1 and 7.2, R136, R137, R142) -/

/-- A function of floating lanes of each format, and of two's-complement lanes of each width, on the lanes a, b and
the old c. Integer lanes set no flag; an FP8 lane sets no nv (notes/assumptions 64). -/
def laneFn (ff : FFmt → Nat → Nat → Nat → Nat × Fl) (fi : (w : Nat) → BitVec w → BitVec w → BitVec w → BitVec w) :
    Nat → Nat → Nat → Nat → Nat × Fl :=
  fun t a b c =>
    let w := laneBits t
    let r := ff (laneFmt t) a b c
    if t < 4 then (r.1, if t = 2 then r.2 &&& ~~~Flag.nv else r.2)
    else ((fi w (BitVec.ofNat w a) (BitVec.ofNat w b) (BitVec.ofNat w c)).toNat, 0)

/-- The lane-by-lane functions of Table 7.2: the lane result and its flags from the type and the lanes a, b and c. -/
def vecLane : Instr → Option (FmtV × (Nat → Nat → Nat → Nat → Nat × Fl))
  | .vecAdd x => some (x, laneFn (fun f a b _ => f.add .rne a b) (fun _ a b _ => a + b))
  | .vecSub x => some (x, laneFn (fun f a b _ => f.sub .rne a b) (fun _ a b _ => a - b))
  | .vecMul x => some (x, laneFn (fun f a b _ => f.mul .rne a b) (fun _ a b _ => a * b))
  | .vecFma x => some (x, laneFn (fun f a b c => f.fma .rne c a b) (fun _ a b c => c + a * b))
  | .vecMin x => some (x, laneFn (fun f a b _ => (f.min a b, 0)) (fun _ a b _ => if a.slt b then a else b))
  | .vecMax x => some (x, laneFn (fun f a b _ => (f.max a b, 0)) (fun _ a b _ => if a.slt b then b else a))
  | .vecAbs x => some (x, laneFn (fun f a _ _ => (f.absBits a, 0)) (fun _ a _ _ => if a.msb then -a else a))
  | .vecNeg x => some (x, laneFn (fun f a _ _ => (f.negBits a, 0)) (fun _ a _ _ => -a))
  | .vecAnd x => some (x, fun _ a b _ => (a &&& b, 0))
  | .vecOr x => some (x, fun _ a b _ => (a ||| b, 0))
  | .vecXor x => some (x, fun _ a b _ => (a ^^^ b, 0))
  | .vecShl x => some (x, fun t a b _ => (a * 2 ^ (b % laneBits t) % 2 ^ laneBits t, 0))
  | .vecShr x => some (x, fun t a b _ => (a / 2 ^ (b % laneBits t), 0))
  | .vecSra x => some (x, fun t a b _ =>
      (((BitVec.ofNat (laneBits t) a).sshiftRight (b % laneBits t)).toNat, 0))
  | .vecCeq x => some (x, fun t a b _ =>
      (if (if t < 4 then ((laneFmt t).decode a).eqv ((laneFmt t).decode b) else decide (a = b)) then
        2 ^ laneBits t - 1 else 0, 0))
  | .vecClt x => some (x, fun t a b _ =>
      (if (if t < 4 then ((laneFmt t).decode a).lt ((laneFmt t).decode b)
        else (BitVec.ofNat (laneBits t) a).slt (BitVec.ofNat (laneBits t) b)) then 2 ^ laneBits t - 1 else 0, 0))
  | _ => none

/-- The lanes that Table 7.2 takes from another lane: the source lane of lane i, given lane i of v[vb] (R138). -/
def vecMove : Instr → Option (FmtV × (Nat → Nat → Nat → Nat))
  | .vecShuf x => some (x, fun t i k => if t = 3 then 16 * (i / 16) + k else k % laneCount t)
  | .vecBcast x => some (x, fun _ _ _ => 0)
  | _ => none

/-- The pairwise tree of R37: at each level, neighbours are combined and an odd one out is kept. -/
def tree {α : Type} (f : α → α → α) : Nat → List α → Option α
  | 0, l => l.head?
  | n + 1, l => tree f n (pairs l)
where
  /-- One level. -/
  pairs : List α → List α
    | a :: b :: r => f a b :: pairs r
    | l => l

/-- A lane widened exactly to FP32 (R139). -/
def widened (t x : Nat) : Nat := if t = 0 then x else (fp32.round .rne ((laneFmt t).decode x)).1

/-- The reductions: of two FP32 patterns, and of two INT32 patterns. -/
def vecFold : Instr → Option (FmtV × (Nat → Nat → Nat × Fl) × (BitVec 32 → BitVec 32 → BitVec 32))
  | .vecRsum x => some (x, fp32.add .rne, fun a b => a + b)
  | .vecRmax x => some (x, fun a b => (fp32.max a b, 0), fun a b => if a.slt b then b else a)
  | .vecRmin x => some (x, fun a b => (fp32.min a b, 0), fun a b => if b.slt a then b else a)
  | _ => none

/-- The value of one lane converted from a type to another (R140). -/
def converted (st dt x : Nat) : Nat × Fl :=
  if st < 4 ∧ dt < 4 then (laneFmt dt).round .rne ((laneFmt st).decode x)
  else if dt < 4 then (laneFmt dt).round .rne (FV.ofInt (BitVec.ofNat (laneBits st) x).toInt)
  else
    let lo : Int := -(2 ^ (laneBits dt - 1))
    let hi : Int := 2 ^ (laneBits dt - 1) - 1
    let r := if st < 4 then ((laneFmt st).decode x).toInt .rne lo hi
      else (max lo (min hi (BitVec.ofNat (laneBits st) x).toInt),
        if (BitVec.ofNat (laneBits st) x).toInt < lo ∨ hi < (BitVec.ofNat (laneBits st) x).toInt then
          Flag.sat ||| Flag.nx else 0)
    ((BitVec.ofInt (laneBits dt) r.1).toNat, r.2)

/-- Lane j of a group of registers that starts at `n`, of lanes of `w` bits. -/
def groupLane (x : Slot) (n w j : Nat) : Nat := vget (x.vreg (n + j / (1024 / w))) (w * (j % (1024 / w))) w

/-- The OR of the flags of lanes 0 to n − 1. -/
def laneFlags (n : Nat) (f : Nat → Fl) : Fl := (List.range n).foldl (fun z j => z ||| f j) 0

/-! ### Vector memory (R143 to R146, R197) -/

/-- Addresses translate one after the other, from one state to another. -/
def translated (slot : Nat) (k : XKind) : State → List Word → List Xlat → State → Prop
  | s, [], [], s1 => s1 = s
  | s, va :: vas, t :: ts, s1 =>
    ∃ s2, s.xlate (coreOf slot) true (s.slot slot).user (s.slot slot).asid k va = (.ok t, s2) ∧
      translated slot k s2 vas ts s1
  | _, _, _, _ => False

/-- Every lane passes the checks of R145, its home takes accesses, and the lanes together may go (R177). -/
def lanesPass (s : State) (slot : Nat) (k : XKind) (n al : Nat) (tolOk : Bool) (ts : List Xlat) : Prop :=
  s.mayGo slot (ts.map (fun t => t.pa)) = true ∧ ∀ t ∈ ts, t.va.toNat % al = 0 ∧
    s.lockHit (clusterOf slot) (s.slot slot).asid t.va.toNat n (decide (k = .store)) = false ∧
    (t.tol = true → tolOk = true) ∧ s.targetCause slot k n t = none ∧
    (peerOf slot t.pa = none → s.home (dieOf slot) t.pa = .ok) ∧
    (k = .load → peerOf slot t.pa = none → s.readFault t.pa (t.width n) = none) ∧
    (k = .store → peerOf slot t.pa = none → s.writeError t.pa (t.width n) = none)

/-- The addresses of the lanes or blocks of a `vld` or `vst` (R143, R144). -/
def laneVas (t : Nat) (strided : Bool) (a b : Word) : List Word :=
  (List.range (if t = 3 then 8 else laneCount t)).map (fun i =>
    if strided then a + BitVec.ofNat 64 i * b else a + b + BitVec.ofNat 64 (i * (if t = 3 then 20 else laneBits t / 8)))

/-- The forms of `vld` and `vst`: the fields, whether a load, whether strided, whether relaxed. -/
def vecMem : Instr → Option (FmtV × Bool × Bool × Bool)
  | .vldC x => some (x, true, false, false)
  | .vldS x => some (x, true, true, false)
  | .vldCR x => some (x, true, false, true)
  | .vldSR x => some (x, true, true, true)
  | .vstC x => some (x, false, false, false)
  | .vstS x => some (x, false, true, false)
  | .vstCR x => some (x, false, false, true)
  | .vstSR x => some (x, false, true, true)
  | _ => none

/-- What an access of `n` bytes reads at its home: bytes beyond the range zero (R145, R156), on a tolerant page the two
bytes widened (R36, R259). -/
def loadedLane (s : State) (t : Xlat) (n : Nat) : Nat :=
  if t.tol then s.readN t.pa ((region t.pa).room 2) * 2 ^ 16 else s.readN t.pa ((region t.pa).room n)

/-- What lane i of a store writes (R143, R144): the lane of v[vd], narrowed on a tolerant page; or the scale word and
the nibbles of block i. -/
def storedLane (x : Slot) (d t i : Nat) (tol : Bool) : Nat :=
  if t = 3 then vget (x.vreg (d + 1)) (32 * i) 32 + 2 ^ 32 * vget (x.vreg d) (128 * i) 128
  else
    let v := vget (x.vreg d) (laneBits t * i) (laneBits t)
    if tol then (bf16.round .rne (fp32.decode v)).1 else v

/-- The lanes of a gather that are not done, with their addresses (R197). -/
def gatherLanes (base : Word) (idx : VWord) : List (Nat × Word) :=
  ((List.range 32).filter (fun i => decide (vget idx (32 * i) 32 ≠ 0xFFFFFFFF))).map
    (fun i => (i, base + BitVec.ofNat 64 (4 * vget idx (32 * i) 32)))

/-- The lanes of a `vgth.gt` looked up one after the other: one that translates is taken, one that misses starts a fill
and is left (R197). -/
def gathered (slot : Nat) : State → List (Nat × Word) → List (Nat × Option Xlat) → State → Prop
  | s, [], [], s1 => s1 = s
  | s, p :: ps, r :: rs, s1 =>
    r.1 = p.1 ∧
    ∃ s2, ((∃ t, s.xlate (coreOf slot) true (s.slot slot).user (s.slot slot).asid .load p.2 = (.ok t, s2) ∧
        r.2 = some t) ∨
      (∃ s3, s.xlate (coreOf slot) true (s.slot slot).user (s.slot slot).asid .load p.2 = (.miss, s3) ∧
        r.2 = none ∧ (s3.enqMiss (clusterOf slot) (s.slot slot).asid p.2.toNat 5 none (some slot)).2 = true ∧
        s2 = (s3.enqMiss (clusterOf slot) (s.slot slot).asid p.2.toNat 5 none (some slot)).1)) ∧
      gathered slot s2 ps rs s1
  | _, _, _, _ => False

end Sys2Proof.Claims
end

