-- ==== Sys2Proof/Certificates/Slice0/Obligations.lean ====
section
/-!
DEFINITION. The statements for the provers: what the rules of spec/ say of the machine, as propositions over the
model. Each docstring names the rules.
-/

open Sys2Proof Sys2Proof.Machine

/-! ### Scalar instructions -/

/-- R125, R126, Table 6.7: a division by a divisor that is not zero writes its quotient or remainder, and one by zero
takes the exception 0x63 at the instruction's own pc with dst not written. With a false guard a division raises nothing:
only the pc moves past it. -/
def Obligations.DivisionResultAndTrap : Prop :=
  (∀ (i : Instr) (s : State) (x : FmtA) (f : Word → Word → Int) (a b : Word) (q : Reading),
    Claims.aluDivision i = some (x, f) → Issues i s → s.reads2 x.a x.b a b q →
      (b ≠ 0 → s.canWrite s.cur x.d.toNat = true →
        exec i s = .next ((s.writeReg s.cur x.d.toNat (BitVec.ofInt 64 (f a b))).retired s.cur i.enc.len q)) ∧
      (b = 0 → exec i s = .next (s.takeTrap s.cur 0x63 0 (s.slot s.cur).pc false))) ∧
  ∀ (i : Instr) (s : State) (x : FmtA) (f : Word → Word → Int),
    Claims.aluDivision i = some (x, f) → decodeCause s s.cur i.enc = none → (s.slot s.cur).p i.enc.guard = false →
      exec i s = .next (s.onSlot s.cur (fun y => { y with pc := y.pc + BitVec.ofNat 64 i.enc.len }))

/-- R125, Table 6.7: `alu` with two operands writes the function's value modulo 2^64 into dst, sets sat only when adds
or subs clamps, and goes on.

R125, Table 6.7: clz, ctz and popc count the bits of one operand.

R127: `alui` has the effect of the alu function of its name, with b the sign-extended immediate, or for a shift
the immediate. -/
def Obligations.AluResults : Prop :=
  (∀ (i : Instr) (s : State) (x : FmtA) (f : Word → Word → Int × Bool) (a b : Word) (q : Reading),
    Claims.aluTwo i = some (x, f) → Issues i s → s.reads2 x.a x.b a b q → s.canWrite s.cur x.d.toNat = true →
      exec i s = .next
        (((s.writeReg s.cur x.d.toNat (BitVec.ofInt 64 (f a b).1)).flagged s.cur
          (if (f a b).2 then Flag.sat else 0)).retired s.cur i.enc.len q)) ∧
  (∀ (i : Instr) (s : State) (x : FmtA) (f : Word → Nat) (a : Word) (q : Reading),
    Claims.aluOne i = some (x, f) → Issues i s → s.reads1 x.a a q → s.canWrite s.cur x.d.toNat = true →
      exec i s = .next ((s.writeReg s.cur x.d.toNat (BitVec.ofNat 64 (f a))).retired s.cur i.enc.len q)) ∧
  (∀ (i : Instr) (s : State) (x : FmtI) (f : Word → Int → Int) (a : Word) (q : Reading),
    Claims.aluImm i = some (x, f) → Issues i s → s.reads1 x.a a q → s.canWrite s.cur x.d.toNat = true →
      exec i s = .next
        ((s.writeReg s.cur x.d.toNat (BitVec.ofInt 64 (f a x.imm.toInt))).retired s.cur i.enc.len q))

/-- R113, R128, Table 6.8: `fpu` and `fpd` read the low bits of their operands as patterns of their format, write the
pattern of the table's value zero-extended, and set its flags.

R26, R128, Table 6.8: cvti gives the value rounded under rm as an INT64, the nearest bound with sat and nx when it
lies out of range, and 0 with nv for a NaN; cvtf rounds the signed operand to the format.

Rests on the model's readings in notes/assumptions 75. -/
def Obligations.FloatingResults : Prop :=
  (∀ (i : Instr) (s : State) (x : FmtA) (w : Nat) (sh : Claims.FpShape) (q : Reading),
    Claims.fpTable i = some (x, w, sh) → Issues i s → s.canWrite s.cur x.d.toNat = true →
      (match sh with
      | .one f => ∀ a, s.reads1 x.a a q →
          exec i s = .next (((s.writeReg s.cur x.d.toNat (BitVec.ofNat 64 (f (a.toNat % 2 ^ w)).1)).flagged s.cur
            (f (a.toNat % 2 ^ w)).2).retired s.cur i.enc.len q)
      | .two f => ∀ a b, s.reads2 x.a x.b a b q →
          exec i s = .next (((s.writeReg s.cur x.d.toNat
            (BitVec.ofNat 64 (f (a.toNat % 2 ^ w) (b.toNat % 2 ^ w)).1)).flagged s.cur
            (f (a.toNat % 2 ^ w) (b.toNat % 2 ^ w)).2).retired s.cur i.enc.len q)
      | .three f => ∀ a b z, s.reads3 x.a x.b x.d.toNat a b z q →
          exec i s = .next (((s.writeReg s.cur x.d.toNat
            (BitVec.ofNat 64 (f (a.toNat % 2 ^ w) (b.toNat % 2 ^ w) (z.toNat % 2 ^ w)).1)).flagged s.cur
            (f (a.toNat % 2 ^ w) (b.toNat % 2 ^ w) (z.toNat % 2 ^ w)).2).retired s.cur i.enc.len q))) ∧
  (∀ (i : Instr) (s : State) (x : FmtF) (fmt : FFmt) (a : Word) (q : Reading),
    Issues i s → s.reads1 x.a a q → s.canWrite s.cur x.d.toNat = true →
      (Claims.fpInt i = some (x, fmt, true) →
        exec i s = .next (((s.writeReg s.cur x.d.toNat (BitVec.ofInt 64
          ((fmt.decode (a.toNat % 2 ^ fmt.width)).toInt (Rm.ofCode x.rm) (-(2 ^ 63)) (2 ^ 63 - 1)).1)).flagged s.cur
          ((fmt.decode (a.toNat % 2 ^ fmt.width)).toInt (Rm.ofCode x.rm) (-(2 ^ 63)) (2 ^ 63 - 1)).2).retired
            s.cur i.enc.len q)) ∧
      (Claims.fpInt i = some (x, fmt, false) →
        exec i s = .next (((s.writeReg s.cur x.d.toNat (BitVec.ofNat 64
          (fmt.round (Rm.ofCode x.rm) (FV.ofInt a.toInt)).1)).flagged s.cur
          (fmt.round (Rm.ofCode x.rm) (FV.ofInt a.toInt)).2).retired s.cur i.enc.len q)))

/-- R129: a compare of integers (type 0) or of FP32 or FP64 values (types 1 and 2) writes the condition into p[pd]
and its complement into p[pd + 1], and sets no flag; every other predicate keeps its value, and p0 and p1 stay true and
false whatever pair is named (R118). -/
def Obligations.CompareWritesPredicatePair : Prop :=
  (∀ (i : Instr) (s : State) (x : FmtC) (a b : Word) (q : Reading),
    Issues i s → s.reads2 x.a x.b a b q →
      (∀ c, Claims.cmpInt i = some (x, c) → x.t = 0 →
        exec i s = .next ((s.onSlot s.cur (fun y => y.setPair x.d.toNat (c a b))).retired s.cur i.enc.len q)) ∧
      (∀ c, Claims.cmpFp i = some (x, c) → x.t = 1 →
        exec i s = .next ((s.onSlot s.cur (fun y => y.setPair x.d.toNat
          (c (fp32.decode (a.toNat % 2 ^ 32)) (fp32.decode (b.toNat % 2 ^ 32))))).retired s.cur i.enc.len q)) ∧
      (∀ c, Claims.cmpFp i = some (x, c) → x.t = 2 →
        exec i s = .next ((s.onSlot s.cur (fun y => y.setPair x.d.toNat
          (c (fp64.decode a.toNat) (fp64.decode b.toNat)))).retired s.cur i.enc.len q))) ∧
  ∀ (y : Slot) (n j : Nat) (c : Bool), y.pred.getLsbD 0 = true → y.pred.getLsbD 1 = false → n % 2 = 0 → n < 16 →
    j < 16 →
      (y.setPair n c).p j = (if j = n ∧ n ≠ 0 then c else if j = n + 1 ∧ n ≠ 0 then !c else y.p j)

/-- R112, R115, R116, Table 3.2: a write of a destination code below 16 reaches that general register, code 0 writes
nothing. A write of an h register (codes 16 to 23) reads, at cycle u of the core, as the latest write of cycle u − 3 or
earlier where the reader's asid made it, and zero otherwise; before its third cycle it changes nothing that is read. A
port's word is sent to the neighbour. A result for mq or mqp, which only the dst of fma and fms can name, goes nowhere: the
model's choice (notes/assumptions 75).

Rests on the model's readings in notes/assumptions 65 and 75. -/
def Obligations.RegisterWriteByCode : Prop :=
  ∀ (s : State) (k c : Nat) (v : Word),
    (c < 16 → ∀ n, Tab.get 0 ((s.writeReg k c v).slot k).g n = if n = c ∧ c ≠ 0 then v else Tab.get 0 (s.slot k).g n) ∧
    (16 ≤ c → c < 24 → ∀ reader u, (s.core (coreOf k)).cycle ≤ u →
      hValue u reader (Tab.get [] ((s.writeReg k c v).core (coreOf k)).h (c - 16)) =
        (if (s.core (coreOf k)).cycle + 3 ≤ u then (if (s.slot k).asid = reader then v else 0)
        else hValue u reader (Tab.get [] (s.core (coreOf k)).h (c - 16)))) ∧
    (24 ≤ c → c < 26 → s.writeReg k c v = s) ∧
    (∀ n, 26 ≤ c → neighbour (coreOf k) c = some n →
      s.writeReg k c v = { s with agenda := s.agenda ++ [.portWordArrival n v] })

/-- The selectors that a write changes in the writing slot, but qctl, with their fields, in the order of Table 6.5: the
bits of Tables 2.5, 6.3, 8.4, 19.3, 19.5 and 11.1; a reserved bit reads zero. -/
def Sys2Proof.Claims.sysFields : List (Nat × Word) :=
  [(0x002, 0x7F), (0x003, 0xFFFFFFF80), (0x004, 0xFFFFFFF80), (0x006, 0xC1FFFFFFFFFFFFFF), (0x008, 0x8000003FFFFFFFCF),
   (0x009, 0x3FFFFFFFCF), (0x00A, 0x3FF), (0x00B, 0x1FFFFF001FFFFF), (0x010, 0x1FFFFFFFFFFFFFC), (0x011, 0x7FF),
   (0x012, 0x1FFFFFFFFFFFFFC), (0x013, 0xFFFFFFFFFFFFFFFF), (0x014, 0xFFFFFFFFFFFFFFFF), (0x015, 0x1FFFFFFFF),
   (0x018, 0x1FFFFFFFFFFFFFC), (0x019, 0x1FF), (0x01A, 0x1FFFFFFFFFFFFFD), (0x01B, 0xFFFFFFFFFFFFFFFF)]
/-- The selectors that are read-only in every mode (Table 6.5). -/
def Sys2Proof.Claims.sysReadOnly : List Nat := [0x000, 0x001, 0x007, 0x030, 0x031, 0x032, 0x033]

/-- R130, Table 6.9: the moves and extensions write their value; mov.rdp reads the predicate word with bit 0 set and
bit 1 clear; mov.wrp replaces the predicates of its mask, but p0 and p1.

R122: `sys.rw` puts the selector's old contents into dst and, when sa is not g0, writes the selector with the
value that sa read, as one exchange.

R11, R122 to R124, R403, Tables 1.3, 6.5, 6.6 and 23.1: a selector written reads the fields written, its reserved bits
zero, and no other selector's contents change; qctl keeps its count of words; sched's write is followed by its event; a
selector that is read-only in every mode keeps its value; and what each of those, and each trap register, holds. -/
def Obligations.MoveAndSystemRegisterResults : Prop :=
  ((∀ (i : Instr) (s : State) (x : FmtA) (f : Word → Int) (a : Word) (q : Reading),
    Claims.movOne i = some (x, f) → Issues i s → s.reads1 x.a a q → s.canWrite s.cur x.d.toNat = true →
      exec i s = .next ((s.writeReg s.cur x.d.toNat (BitVec.ofInt 64 (f a))).retired s.cur i.enc.len q)) ∧
  (∀ (s : State) (x : FmtA), Issues (.movRdp x) s → s.canWrite s.cur x.d.toNat = true →
    exec (.movRdp x) s = .next ((s.writeReg s.cur x.d.toNat
      (BitVec.ofNat 64 ((s.slot s.cur).pred.toNat / 4 * 4 + 1))).retired s.cur (Instr.movRdp x).enc.len {})) ∧
  (∀ (s : State) (x : FmtA) (a b : Word) (q : Reading), Issues (.movWrp x) s → s.reads2 x.a x.b a b q →
    ∃ p : BitVec 16, exec (.movWrp x) s =
        .next ((s.onSlot s.cur (fun y => { y with pred := p })).retired s.cur (Instr.movWrp x).enc.len q) ∧
      ∀ j < 16, p.getLsbD j = (if j = 0 then true else if j = 1 then false
        else if b.getLsbD j then a.getLsbD j else (s.slot s.cur).p j))) ∧
  (∀ (s : State) (x : FmtS) (v : Word) (q : Reading),
    Issues (.sysRw x) s → s.reads1 x.a v q → s.canWrite s.cur x.d.toNat = true →
      exec (.sysRw x) s = .next
        (((if x.a.code ≠ 0 then s.sysWrite s.cur x.sel.toNat v else s).writeReg s.cur x.d.toNat
          (s.sysRead s.cur x.sel.toNat)).retired s.cur (Instr.sysRw x).enc.len q)) ∧
  (∀ (s : State) (k : Nat) (v : Word),
    let x := s.slot k
    let c := s.core (coreOf k)
    let d := s.die (dieOf k)
    (∀ f ∈ Claims.sysFields, (s.sysWrite k f.1 v).sysRead k f.1 = v &&& f.2 ∧
      ∀ sel, sel ≠ f.1 → (s.sysWrite k f.1 v).sysRead k sel = s.sysRead k sel) ∧
    (s.sysWrite k 0x005 v).sysRead k 0x005 = BitVec.ofNat 64 (c.rq.length % 64 * 2 ^ 8 + v.toNat / 2 % 8 * 2) ∧
    (s.sysWrite k 0x020 v).sysRead k 0x020 = v &&& 0x3FFF ∧
    Event.schedWrite (dieOf k) (v.toNat % 2 ^ 14) ∈ (s.sysWrite k 0x020 v).agenda ∧
    (∀ sel ∈ Claims.sysReadOnly, ∀ n, (s.sysWrite k sel v).sysRead k n = s.sysRead k n) ∧
    (k < 2 ^ 24 → bits (s.sysRead k 0x000).toNat 0 24 = k ∧
      bits (s.sysRead k 0x000).toNat 24 40 = (if k / 8 % 16 = 15 then 3 else if 36 ≤ k / 128 % 64 then 1 else 0)) ∧
    s.sysRead k 0x001 = BitVec.ofNat 64 c.cycle ∧
    (bits (s.sysRead k 0x007).toNat 0 9 = x.asid.toNat ∧
      (∀ n < 16, (s.sysRead k 0x007).getLsbD (9 + n) = x.p n) ∧
      bits (s.sysRead k 0x007).toNat 25 7 = x.fmt.toNat ∧ bits (s.sysRead k 0x007).toNat 32 8 = x.aff.toNat ∧
      bits (s.sysRead k 0x007).toNat 40 16 = x.grp.toNat ∧ bits (s.sysRead k 0x007).toNat 56 8 = 0) ∧
    s.sysRead k 0x030 = (if isCompute (dieOf k % 32) then 520 else 90) ∧
    s.sysRead k 0x031 = BitVec.ofNat 64 ((d.loans.map (fun l => l.units)).sum % 2 ^ 16) ∧
    s.sysRead k 0x032 = BitVec.ofNat 64 ((d.lent.map (fun l => l.units)).sum % 2 ^ 16) ∧
    s.sysRead k 0x033 = BitVec.ofNat 64 d.throttle ∧
    (s.sysRead k 0x010, s.sysRead k 0x011, s.sysRead k 0x012, s.sysRead k 0x013, s.sysRead k 0x014, s.sysRead k 0x015) =
      (x.tvec, x.tcause, x.tepc, x.tval, x.tsave, x.tmask) ∧
    (s.sysRead k 0x018, s.sysRead k 0x019, s.sysRead k 0x01A, s.sysRead k 0x01B) = (x.uvec, x.ucause, x.uepc, x.uval))

/-- R98, R99, R119: a taken branch goes to pc + 4 × sext(off, 20), and with lk writes the next pc into g15 after the
dead bits that cvm names are set; a jump goes to the sum of its sources when that is 4-byte aligned, and jl writes the
next pc into dst. A misaligned target read from a queue takes 0x08, and dst is not written.

Rests on the model's readings in notes/assumptions 63. -/
def Obligations.BranchAndJump : Prop :=
  (∀ (s : State) (x : FmtB), Issues (.br x) s →
    exec (.br x) s = .next (s.jumped s.cur ((s.slot s.cur).pc + BitVec.ofInt 64 (4 * x.off.toInt)) {})) ∧
  (∀ (s : State) (x : FmtB), Issues (.brLink x) s → s.canWrite s.cur 15 = true →
    exec (.brLink x) s = .next
      ((s.onSlot s.cur (fun y => ({ y with dead := y.dead ||| y.cvm } : Slot).setG 15 (y.pc + 4))).jumped s.cur
        ((s.slot s.cur).pc + BitVec.ofInt 64 (4 * x.off.toInt)) {})) ∧
  (∀ (s : State) (x : FmtA) (a b : Word) (q : Reading), Issues (.jmpJr x) s → s.reads2 x.a x.b a b q →
    exec (.jmpJr x) s = .next
      (if (a + b).toNat % 4 = 0 then
        (if x.a = .reg 15 ∧ x.b = .reg 0 then s.onSlot s.cur (fun y => { y with dead := y.dead ||| y.cvm })
          else s).jumped s.cur (a + b) q
      else s.takeTrap s.cur 0x08 ((Instr.jmpJr x).firstWord.zeroExtend 64) (s.slot s.cur).pc false)) ∧
  (∀ (s : State) (x : FmtA) (a b : Word) (q : Reading), Issues (.jmpJl x) s → s.reads2 x.a x.b a b q →
    ((a + b).toNat % 4 = 0 → s.canWrite s.cur x.d.toNat = true →
      exec (.jmpJl x) s = .next
        (((if x.d = 15 then s.onSlot s.cur (fun y => { y with dead := y.dead ||| y.cvm }) else s).writeReg s.cur
          x.d.toNat ((s.slot s.cur).pc + BitVec.ofNat 64 (Instr.jmpJl x).enc.len)).jumped s.cur (a + b) q)) ∧
    ((a + b).toNat % 4 ≠ 0 → exec (.jmpJl x) s = .next
      (s.takeTrap s.cur 0x08 ((Instr.jmpJl x).firstWord.zeroExtend 64) (s.slot s.cur).pc false)))

/-! ### Wicks -/

/-- The record with which `wk.spawn` makes a wick (R101, R109): state 00, status 0, prio 1 for a user-mode wick of
prio 0, and in user mode the spawner's asid. -/
def Sys2Proof.Claims.spawned (x : Slot) (r : WickRec) : WickRec :=
  let r1 : WickRec := { r with w0 := putBits r.w0 0 2 0, w1 := putBits r.w1 56 8 0 }
  let r2 : WickRec := if r.sys = false ∧ r.prio = 0 then { r1 with w0 := putBits r1.w0 57 2 1 } else r1
  if x.user then { r2 with w1 := putBits r2.w1 0 9 x.asid.toNat } else r2

/-- R101: `wk.spawn` reads a record; in state 00 or 01, well formed and allowed in the slot's mode, with room in the
ready queue, it makes a ready wick of it in the die that its socket names; in another state it makes none; either way
dst receives the state.

R279: the record of a peer is asked for, and the slot waits where it is until the line has come. R97, R164: what its release
carries goes with the wick. -/
def Obligations.SpawnMakesReadyWick : Prop :=
  (∀ (s s1 : State) (x : FmtA) (va : Word) (t : Xlat) (q : Reading),
    Issues (.wkSpawn x) s → s.reads1 x.a va q → s.canWrite s.cur x.d.toNat = true → s.lineOk s.cur va t s1 →
      let s2 := s1.lineRead s.cur t
      let r := WickRec.ofNat (s1.lineValue s.cur t)
      let r2 := Claims.spawned (s.slot s.cur) r
      (r.state = 2 ∨ r.state = 3 →
        exec (.wkSpawn x) s = .next
          (((s2.linesDone s.cur).writeReg s.cur x.d.toNat (BitVec.ofNat 64 r.state)).retired s.cur
            (Instr.wkSpawn x).enc.len q)) ∧
      (r.state = 0 ∨ r.state = 1 → r.malformed = false → ((s.slot s.cur).user && r.privileged) = false →
        s2.released s.cur 4 (some (devOf s.cur)) true true = true → (s2.die (targetDie (dieOf s.cur) r2)).room = true →
        exec (.wkSpawn x) s =
          .next ((((s2.readyWick (dieOf s.cur) { rcd := r2, seen := s2.carriedBy s.cur } false).linesDone s.cur).writeReg s.cur x.d.toNat
            (BitVec.ofNat 64 r.state)).retired s.cur (Instr.wkSpawn x).enc.len q))) ∧
  ∀ (s s1 : State) (x : FmtA) (va : Word) (t : Xlat) (q : Reading),
    Issues (.wkSpawn x) s → s.reads1 x.a va q → s.canWrite s.cur x.d.toNat = true →
    s.accessed s.cur .load 64 false va t s1 → peerOf s.cur t.pa ≠ none → s1.lineOf s.cur t.pa = none →
    s1.homeOk s.cur t.pa →
      ∃ r : PeerReq, r.src = s.cur ∧ r.pa = t.pa ∧ r.kind = .load ∧ r.n = 64 ∧
        exec (.wkSpawn x) s =
          .next (((((s1.lineSent s.cur t false).post (.peerAccess r)).onSlot s.cur
            (fun y => { y with replies := 1 })).keepReads s.cur q.taken q.poll).setWait s.cur .reply)

/-- R93, R108: `wk.launch` reads a launch descriptor of two lines; where it raises no cause and every die that receives
ranks has room, the launch's entries are placed under the launcher's asid and group, and the wick goes on; a malformed
descriptor raises 0x0A and a privileged one in user mode 0x0B, with the instruction word.

R93: the ranks of a launch are shared out over the participating dies: every rank below count falls to exactly one
of the ranges that `launchParts` gives, and the ranges name participating dies. -/
def Obligations.LaunchPlacesEveryRank : Prop :=
  (∀ (s s1 s2 : State) (x : FmtA) (va : Word) (t u : Xlat) (q : Reading),
    Issues (.wkLaunch x) s → s.reads1 x.a va q → s.lineOk s.cur va t s1 →
    (s1.lineRead s.cur t).lineOk s.cur (va + 64) u s2 →
      let s3 := s2.lineRead s.cur u
      let v := s1.lineValue s.cur t + 2 ^ 512 * s2.lineValue s.cur u
      (descCause v (s.slot s.cur).user = none → s3.released s.cur 4 (some (devOf s.cur)) true true = true →
        s3.launchRoom (devOf s.cur) v = true →
        exec (.wkLaunch x) s = .next (((s3.launch (devOf s.cur) v (s.slot s.cur).asid.toNat
          (s.slot s.cur).grp.toNat (s3.carriedBy s.cur)).linesDone s.cur).retired s.cur (Instr.wkLaunch x).enc.len q)) ∧
      (∀ c, descCause v (s.slot s.cur).user = some c →
        exec (.wkLaunch x) s = .next (s3.takeTrap s.cur c ((Instr.wkLaunch x).firstWord.zeroExtend 64)
          (s.slot s.cur).pc false))) ∧
  (∀ (dev socket count r : Nat), r < count →
    ((launchParts dev socket count).filter (fun p => decide (p.2.1 ≤ r ∧ r < p.2.1 + p.2.2))).length = 1 ∧
    ∀ p ∈ launchParts dev socket count, p.1 ∈ launchDies dev socket ∧ p.2.1 + p.2.2 ≤ count)

/-- The state after the Taper entry of a tagged wick has been told that its wick ends (R387). -/
def Sys2Proof.Claims.tapered (s : State) (k : Nat) : State :=
  match (s.slot k).taper with
  | some t => s.post (.taperEntryEnd t)
  | none => s

/-- The scope at which a wick's leaving releases (R86, R388): pod when its Taper entry writes an output tile, dev
otherwise. -/
def Sys2Proof.Claims.leaveScope (s : State) (k : Nat) : Nat :=
  match (s.slot k).taper with
  | some t => if bits (leNat (((s.mod (t.die / 32)).taper.tbl.drop (32 * t.entry)).take 8)) 30 1 = 1 then 6 else 4
  | none => 4

/-- R86, R104, R106: `wk.done` and `wk.waitw` pass the suspension point and the wick leaves its slot, which holds no
wick from then on and after `wk.waitw` waits for another.

R105, R260: `wk.susp` writes the running wick's record, in state 01 at the next pc, or in state 10 with the fault's
cause at its resumption pc when the slot handles a page fault, to a 64-byte line, and empties the slot; the words that it
read have left the receive queue before, and a poll's pair is in the record (R116). A peer that
refuses the line counts the refusal, and the recorded fault is logged as the wick leaves (R229, R279).

Rests on the model's readings in notes/assumptions 39 and 70. -/
def Obligations.LeavingTheSlot : Prop :=
  ((∀ (s : State) (x : FmtA), Issues (.wkDone x) s → s.mayLeave s.cur (Claims.leaveScope s s.cur) = true →
    exec (.wkDone x) s = .next ((Claims.tapered s s.cur).leave s.cur) ∧
    (((Claims.tapered s s.cur).leave s.cur).slot s.cur).occ = false) ∧
  (∀ (s : State) (x : FmtA), Issues (.wkWaitw x) s → s.mayLeave s.cur (Claims.leaveScope s s.cur) = true →
    ∃ t, exec (.wkWaitw x) s = .next t ∧
      t = ((Claims.tapered s s.cur).onSlot s.cur (fun y => { y with waitw := true })).leave s.cur ∧
      (t.slot s.cur).occ = false ∧ (t.slot s.cur).waitw = true)) ∧
  (∀ (s s1 : State) (x : FmtA) (va : Word) (t : Xlat) (q : Reading),
    Issues (.wkSusp x) s → s.reads1 x.a va q → s.mayLeave s.cur (Claims.leaveScope s s.cur) = true →
    s.accessed s.cur .store 64 false va t s1 → s1.homeOk s.cur t.pa →
      let s2 := (s1.noted s.cur t true).readsTaken s.cur q
      let y := s2.slot s.cur
      let next := y.pc + BitVec.ofNat 64 (Instr.wkSusp x).enc.len
      let r : WickRec := match y.parked with
        | some p => y.record 2 p.1 p.2.1 p.2.2
        | none => y.record 1 0 next (!y.user)
      let s3 := if y.parked.isSome ∧ y.user then s2.onSlot s.cur (fun z => { z with uepc := 0 }) else s2
      let s4 := ((s3.serve t.pa true).storeHome (clusterOf s.cur) t.pa 64 r.toNat).releasedAt s.cur 4 t.pa
        (s3.carriedBy s.cur)
      (peerOf s.cur t.pa = none ∨
          (∃ d, peerOf s.cur t.pa = some d ∧ (s.grant d (devOf s.cur)).admits t.pa 64 .store = true) →
        exec (.wkSusp x) s = .next (((Claims.tapered s4 s.cur).logLatch s.cur).leave s.cur)) ∧
      (∀ d, peerOf s.cur t.pa = some d → (s.grant d (devOf s.cur)).admits t.pa 64 .store = false →
        let s5 := ((s3.refuse d (devOf s.cur) t.pa).countRefusal (devOf s.cur) d).onSlot s.cur
          (fun z => z.latchFault y.pc d)
        exec (.wkSusp x) s = .next (((Claims.tapered s5 s.cur).logLatch s.cur).leave s.cur)))

/-- R102: `wk.migr` to the owner of a scratchpad or local-memory address that the wick's affinity and mode allow sends
the record, in state 00 at the next pc, to the owner's cluster, and empties the slot; elsewhere it raises 0x0C.

Rests on the model's readings in notes/assumptions 38, 39 and 80. -/
def Obligations.MigrateSendsWick : Prop :=
  ∀ (s s1 : State) (x : FmtA) (va : Word) (t : Xlat) (q : Reading),
    Issues (.wkMigr x) s → s.reads1 x.a va q →
    s.xlate (coreOf s.cur) true (s.slot s.cur).user (s.slot s.cur).asid .load va = (.ok t, s1) → va.toNat % 64 = 0 →
      (∀ o, migrOwner t.pa = some o → migrOk (s.slot s.cur) s.cur o = true →
        s1.mayLeave s.cur (if devOfCluster o.1 = devOf s.cur then 4 else 6) = true →
        let s2 := s1.readsTaken s.cur q
        ∃ w : Wick, exec (.wkMigr x) s = .next
            ((s2.post (.migrationArrival o.1 w (devOf s.cur) (dieOf s.cur))).leave s.cur) ∧
          w.seen = s2.carriedBy s.cur ∧
          w.rcd = (s2.slot s.cur).record 0 0 ((s.slot s.cur).pc + BitVec.ofNat 64 (Instr.wkMigr x).enc.len)
            (!(s.slot s.cur).user) ∧
          w.tag = o.2.map (fun c => o.1 * 16 + c)) ∧
      ((∀ o, migrOwner t.pa = some o → migrOk (s.slot s.cur) s.cur o = false) →
        exec (.wkMigr x) s = .next (s1.takeTrap s.cur 0x0C ((Instr.wkMigr x).firstWord.zeroExtend 64)
          (s.slot s.cur).pc false))

/-- R107, R109: `wk.snuff` of a record in state 00 or 01 in range marks it failed with status 0xE0 + the code and
breaks its group; in another state it changes nothing; dst receives the state found. A record of a peer is asked for, and
the peer marks it (R279). `wk.prio` sets the priority, never
0 in user mode, and returns the old one.

R107, R231: `wk.snuff` with sa = g0 fails the running wick with status 0xE0 + the code at its own pc, the word that it read
taken (R116); with room in
the failure list or its buffer the slot then holds no wick, and the record follows to the list of its die. -/
def Obligations.SnuffAndPriorityResults : Prop :=
  ((∀ (s s1 : State) (x : FmtA) (va c : Word) (t : Xlat) (q : Reading),
    Issues (.wkSnuff x) s → s.reads2 x.a x.b va c q → s.canWrite s.cur x.d.toNat = true →
    s.accessed s.cur .atomic 64 false va t s1 →
      let st := 0xE0 + c.toNat % 16
      (peerOf s.cur t.pa = none → s1.lineOf s.cur t.pa = none → s1.homeOk s.cur t.pa → s1.readFault t.pa 64 = none →
        let s2 := (s1.noted s.cur t true).serve t.pa false
        let r := WickRec.ofNat (s2.loadHome t.pa 64)
        exec (.wkSnuff x) s = .next
          (((if r.state < 2 ∧ (region t.pa).inRange then
              (s2.storeHome (clusterOf s.cur) t.pa 64 (r.mark 3 st).toNat).breakGroup (devOf s.cur) r.asid r.grp st
            else s2).writeReg s.cur x.d.toNat (BitVec.ofNat 64 r.state)).retired s.cur (Instr.wkSnuff x).enc.len q)) ∧
      (∀ v, s1.lineOf s.cur t.pa = some v →
        let r := WickRec.ofNat v
        exec (.wkSnuff x) s = .next
          ((((if r.state < 2 then s1.breakGroup (devOf s.cur) r.asid r.grp st else s1).linesDone s.cur).writeReg s.cur
            x.d.toNat (BitVec.ofNat 64 r.state)).retired s.cur (Instr.wkSnuff x).enc.len q)) ∧
      (peerOf s.cur t.pa ≠ none → s1.lineOf s.cur t.pa = none → s1.homeOk s.cur t.pa →
        ∃ r : PeerReq, r.src = s.cur ∧ r.pa = t.pa ∧ r.kind = .atomic 11 ∧ r.v = st ∧
          exec (.wkSnuff x) s =
            .next (((((s1.lineSent s.cur t true).post (.peerAccess r)).onSlot s.cur
              (fun y => { y with replies := 1 })).keepReads s.cur q.taken q.poll).setWait s.cur .reply))) ∧
  (∀ (s : State) (x : FmtA) (v : Word) (q : Reading),
    Issues (.wkPrio x) s → s.reads1 x.a v q → s.canWrite s.cur x.d.toNat = true →
      exec (.wkPrio x) s = .next
        (((s.onSlot s.cur (fun y => { y with prio :=
            if y.user ∧ v.toNat % 4 = 0 then 1 else BitVec.ofNat 2 (v.toNat % 4) })).writeReg s.cur x.d.toNat
          (BitVec.ofNat 64 (s.slot s.cur).prio.toNat)).retired s.cur (Instr.wkPrio x).enc.len q))) ∧
  (∀ (s : State) (x : FmtA) (c : Word) (q : Reading),
    Issues (.wkSnuffSelf x) s → s.reads1 x.b c q →
      let u := (s.readsTaken s.cur q).failWick s.cur (0xE0 + c.toNat % 16) (s.slot s.cur).pc
      exec (.wkSnuffSelf x) s = .next u ∧
      ((s.failFull (dieOf s.cur) = false ∨ (s.die (dieOf s.cur)).overflow.length < 64) →
        (u.slot s.cur).occ = false ∧
        ∃ w : Wick, Event.wickFailure (dieOf s.cur) w ∈ u.agenda ∧
          w.rcd.state = 3 ∧ bits w.rcd.w1.toNat 56 8 = 0xE0 + c.toNat % 16))

/-! ### Memory -/

/-- The value that a load of `n` bytes takes from its home: on a tolerant page the two bytes widened (R36, R259), the
bytes as a little-endian number otherwise (R3), beyond the range zero (R156). -/
def Sys2Proof.Claims.loaded (s : State) (t : Xlat) (n : Nat) : Nat :=
  if (region t.pa).inRange then (if t.tol then s.readN t.pa 2 * 2 ^ 16 else s.readN t.pa n) else 0

/-- A value of `n` bytes as a register receives it (R165): zero-extended, or sign-extended from its top bit. -/
def Sys2Proof.Claims.extended (v n : Nat) (sx : Bool) : Word :=
  BitVec.ofInt 64 (if sx ∧ 2 ^ (8 * n - 1) ≤ v then (v : Int) - 2 ^ (8 * n) else v)

/-- R159, R165: a plain load or an acquire load whose access passes its checks reads its home in the module at once,
extends the value into dst, and goes on; one whose home lies in a peer sends the request, moves the pc on and leaves the
rotation until the answer. An acquire observes what precedes the releases that it reads (R164). R177: a load that leaves the
cluster while its core's turn has not come waits for it.

R160: a relaxed load with room under the outstanding counter leaves the core: its destination becomes pending, the
access is one more outstanding, and the slot goes on to the next instruction without leaving the rotation.

Rests on the model's readings in notes/assumptions 53, 77, 78 and 79. -/
def Obligations.LoadResults : Prop :=
  (∀ (i : Instr) (s s1 : State) (x : FmtA) (n : Nat) (sx : Bool) (acq : Option Nat) (a b : Word) (t : Xlat) (q : Reading),
    ((∃ w, i = .ld ⟨x, false, sx, w⟩ ∧ n = 2 ^ w.toNat ∧ (sx = true → w.toNat < 3) ∧ acq = none) ∨
      (∃ dbl sc, i = .ldAcq ⟨x, dbl, sc⟩ ∧ n = (if dbl then 8 else 4) ∧ sx = false ∧ acq = some sc.toNat)) →
    Issues i s → s.reads2 x.a x.b a b q → s.accessed s.cur .load n (decide (n = 4)) (a + b) t s1 →
    s1.canWrite s.cur x.d.toNat = true → (peerOf s.cur t.pa = none → s1.home (dieOf s.cur) t.pa = .ok) →
      let s0 := if peerOf s.cur t.pa = none then s1 else s1.kept s.cur
      let s2 := s0.noted s.cur t false
      (s1.mayGo s.cur [t.pa] = false → exec i s = .next ((s0.askTurn s.cur 1).awaiting s.cur q .turn)) ∧
      (s1.mayGo s.cur [t.pa] = true → peerOf s.cur t.pa = none → s1.readError t.pa = none →
        let s3 := s2.serve t.pa true
        let s4 := match acq with
          | some c => s3.acquiredAt s.cur c t.pa
          | none => s3
        exec i s = .next ((s4.writeReg s.cur x.d.toNat
          (Claims.extended (Claims.loaded s2 t n) n sx)).retired s.cur i.enc.len q)) ∧
      (∀ d, s1.mayGo s.cur [t.pa] = true → peerOf s.cur t.pa = some d →
        ∃ r : PeerReq, r.src = s.cur ∧ r.pa = t.pa ∧ r.kind = .load ∧ r.n = (if t.tol then n / 2 else n) ∧
          r.dst = .reg x.d.toNat n sx ∧ r.flight = none ∧
          exec i s = .next (((s2.post (.peerAccess r)).onSlot s.cur (fun y => { y with wait := .reply, replies := 1 })).retired
            s.cur i.enc.len q))) ∧
  (∀ (s s1 : State) (x : FmtA) (sx : Bool) (w : BitVec 2) (a b : Word) (t : Xlat) (q : Reading),
    let i : Instr := .ld ⟨x, true, sx, w⟩
    Issues i s → s.reads2 x.a x.b a b q → x.d.toNat < 26 →
    s.accessed s.cur .load (2 ^ w.toNat) (decide (2 ^ w.toNat = 4)) (a + b) t s1 →
    s1.canWrite s.cur x.d.toNat = true → s1.homeOk s.cur t.pa → (s1.core (coreOf s.cur)).flights.length < 32 →
    (s.slot s.cur).wait = .none →
      ∃ u, exec i s = .next u ∧ (u.slot s.cur).pc = (s.slot s.cur).pc + BitVec.ofNat 64 i.enc.len ∧
        (u.slot s.cur).pend = (s.slot s.cur).pend ++ (if x.d = 0 then [] else [⟨x.d.toNat, false, s.nextOp⟩]) ∧
        (u.core (coreOf s.cur)).flights.length = (s1.core (coreOf s.cur)).flights.length + 1 ∧
        (u.slot s.cur).wait = .none ∧ u.mem = s.mem)

/-- What a store of `n` bytes writes (R36, R165, R259): the low bytes, on a tolerant page the word rounded to two. -/
def Sys2Proof.Claims.stored (t : Xlat) (n : Nat) (v : Word) : Nat :=
  if t.tol then (bf16.round .rne (fp32.decode (v.toNat % 2 ^ 32))).1 else v.toNat % 2 ^ (8 * n)

/-- R159, R163, R165, R168: a plain store, or a release store whose earlier accesses are performed, writes its home in
the module at once when the word is not reserved, and goes on; behind a reservation it joins the word's queue, and the
slot leaves the rotation until it is performed; one to a peer sends the request, of which a release waits for the
answer. A release leaves at its location what precedes it and is not yet performed (R164).

Rests on the model's readings in notes/assumptions 53, 77 and 78. -/
def Obligations.StoresComplete : Prop :=
  ∀ (i : Instr) (s s1 : State) (x : FmtA) (n : Nat) (sc : Option Nat) (a b v : Word) (t : Xlat) (q : Reading),
    ((∃ w, i = .st ⟨x, false, false, w⟩ ∧ n = 2 ^ w.toNat ∧ sc = none) ∨
      (∃ dbl c, i = .stRel ⟨x, dbl, c⟩ ∧ n = (if dbl then 8 else 4) ∧ sc = some c.toNat)) →
    Issues i s → s.reads3 x.a x.b x.d.toNat a b v q → s.accessed s.cur .store n (decide (n = 4)) (a + b) t s1 →
    (∀ c, sc = some c → s1.released s.cur c (some ((peerOf s.cur t.pa).getD (devOf s.cur))) true true = true) →
    s1.homeOk s.cur t.pa →
      let s2 := s1.noted s.cur t true
      let w := if t.tol then n / 2 else n
      let s3 := match sc with
        | some c => s2.releasedAt s.cur c t.pa (s2.carriedBy s.cur)
        | none => s2
      (peerOf s.cur t.pa = none → s1.reserved t.pa = false → s1.writeError t.pa w = none →
        exec i s = .next (((s3.serve t.pa true).storeHome (clusterOf s.cur) t.pa w (Claims.stored t n v)).retired
          s.cur i.enc.len q)) ∧
      (peerOf s.cur t.pa = none → s1.reserved t.pa = true →
        ∃ r : PeerReq, r.src = s.cur ∧ r.pa = t.pa ∧ r.kind = .store ∧ r.n = w ∧ r.v = Claims.stored t n v ∧
          exec i s = .next (((s3.reserve (devOf s.cur) r).onSlot s.cur
            (fun y => { y with wait := .reservation, replies := 1 })).retired s.cur i.enc.len q)) ∧
      (∀ d, peerOf s.cur t.pa = some d →
        ∃ r : PeerReq, r.src = s.cur ∧ r.pa = t.pa ∧ r.kind = .store ∧ r.n = w ∧ r.v = Claims.stored t n v ∧
          r.num = s2.nextOp ∧
          let s4 : State := { s2 with nextOp := s2.nextOp + 1 }
          let u := (s4.onSlot s.cur (fun y => { y with peerOut := y.peerOut ++ [⟨d, s2.nextOp⟩] })).post (.peerAccess r)
          exec i s = .next ((if sc.isSome then u.onSlot s.cur (fun y => { y with wait := .reply, replies := 1 })
            else u).retired s.cur i.enc.len q))

/-- R3, R156, R165, R171, R306: after a store of `w` bytes at a home, the bytes of an in-range home hold the value in
little-endian order, every byte outside them reads as before, and beyond the range nothing changes; a write from another
cluster into a slot region changes no byte; every register of
every slot but its wait and its monitors' fired bits stays, and no core, cluster or module changes. -/
def Obligations.StoreChangesOnlyItsBytes : Prop :=
  ∀ (s : State) (ck pa w v : Nat),
    let u := s.storeHome ck pa w v
    (∀ a, a < pa ∨ pa + w ≤ a → u.byte a = s.byte a) ∧
    ((region pa).inRange = false → u = s) ∧
    ((region pa).room w = w →
      (∀ c off, region pa = .scratch c off → c = ck ∨ (s.cluster c).inRegion off w = false) →
      u.readN pa w = v % 256 ^ w) ∧
    (∀ c off, region pa = .scratch c off → c ≠ ck → (s.cluster c).inRegion off ((region pa).room w) = true →
      u.mem = s.mem) ∧
    u.cores = s.cores ∧ u.clusters = s.clusters ∧ u.mods = s.mods ∧ u.cur = s.cur ∧
    ∀ k, { u.slot k with wait := .none, mons := [] } = { s.slot k with wait := .none, mons := [] } ∧
      ∀ j, (Tab.find? j (u.slot k).mons).map (fun m => (m.line, m.vigil)) =
        (Tab.find? j (s.slot k).mons).map (fun m => (m.line, m.vigil))

/-- R167: the new value of each atomic operation on `n` bytes, from the old value, the operand and the second operand of
cas, over the integers; the floating add is the one rounded to nearest even. -/
def Sys2Proof.Claims.atomicNew : Instr → Option (FmtN × (Nat → Nat → Nat → Nat → Nat))
  | .amoAdd x => some (x, fun n o v _ => (o + v) % 2 ^ (8 * n))
  | .amoAnd x => some (x, fun _ o v _ => o &&& v)
  | .amoOr x => some (x, fun _ o v _ => o ||| v)
  | .amoXor x => some (x, fun _ o v _ => o ^^^ v)
  | .amoMin x => some (x, fun n o v _ => if (BitVec.ofNat (8 * n) o).toInt < (BitVec.ofNat (8 * n) v).toInt then o else v)
  | .amoMax x => some (x, fun n o v _ => if (BitVec.ofNat (8 * n) o).toInt < (BitVec.ofNat (8 * n) v).toInt then v else o)
  | .amoMinz x => some (x, fun _ o v _ => min o v)
  | .amoMaxz x => some (x, fun _ o v _ => max o v)
  | .amoSwap x => some (x, fun _ _ v _ => v)
  | .amoCas x => some (x, fun _ o v v2 => if o = v then v2 else o)
  | .amoFadd x => some (x, fun n o v _ => if n = 4 then (fp32.add .rne o v).1 else (fp64.add .rne o v).1)
  | _ => none

/-- R167, R168: a plain atomic whose home is a scratchpad or local memory of the module with no reservation reads the
old value into dst and writes the operation's value at once; cas reads its second operand from the register after dst
and writes only when the compare succeeds. -/
def Obligations.AtomicsComplete : Prop :=
  ∀ (i : Instr) (s s1 : State) (x : FmtN) (f : Nat → Nat → Nat → Nat → Nat) (a b v : Word) (t : Xlat) (q : Reading),
    Claims.atomicNew i = some (x, f) → x.rel = false → Issues i s →
    (∀ c, (s.slot s.cur).isPending c = false) → s.reads3 x.a x.b x.d.toNat a b v q →
      let n := if x.dbl then 8 else 4
      let v2 := Tab.get 0 (s.slot s.cur).g (x.d.toNat + 1)
      s.accessed s.cur .atomic n false (a + b) t s1 → s1.homeOk s.cur t.pa → atomicNear s1 s.cur t.pa = true →
      s1.readError t.pa = none → (region t.pa).inRange = true →
        let s2 := (s1.noted s.cur t true).serve t.pa false
        let old := s1.readN t.pa n
        let op := v.toNat % 2 ^ (8 * n)
        let miss : Bool := match i with | .amoCas _ => decide (old ≠ op) | _ => false
        let u := if miss then s2
          else s2.storeHome (clusterOf s.cur) t.pa n (f n old op (v2.toNat % 2 ^ (8 * n)))
        exec i s = .next ((u.writeReg s.cur x.d.toNat (BitVec.ofNat 64 old)).retired s.cur i.enc.len q)

/-- The scalar accesses: fields, kind and width in bytes (Table 8.6, R167). -/
def Sys2Proof.Claims.scalarAccess : Instr → Option (FmtA × XKind × Nat)
  | .ld x => some (x.toFmtA, .load, 2 ^ x.w.toNat)
  | .ldAcq x => some (x.toFmtA, .load, if x.dbl then 8 else 4)
  | .st x => some (x.toFmtA, .store, 2 ^ x.w.toNat)
  | .stRel x => some (x.toFmtA, .store, if x.dbl then 8 else 4)
  | i => (Claims.atomicNew i).map (fun p => (p.1.toFmtA, .atomic, if p.1.dbl then 8 else 4))

/-- R155: a scalar load, store or atomic at an address that translates and is not a multiple of its width takes the
exception 0x20 with the address as its value and its own pc, and nothing is read or written. -/
def Obligations.MisalignedAccessTraps : Prop :=
  ∀ (i : Instr) (s s1 : State) (x : FmtA) (k : XKind) (n : Nat) (a b v : Word) (t : Xlat) (q : Reading),
    Claims.scalarAccess i = some (x, k, n) → Issues i s → (∀ c, (s.slot s.cur).isPending c = false) →
    (if k = .load then s.reads2 x.a x.b a b q else s.reads3 x.a x.b x.d.toNat a b v q) →
    s.xlate (coreOf s.cur) true (s.slot s.cur).user (s.slot s.cur).asid k (a + b) = (.ok t, s1) →
    (a + b).toNat % n ≠ 0 →
      exec i s = .next (s1.takeTrap s.cur 0x20 (a + b) (s.slot s.cur).pc false) ∧ s1.mem = s.mem ∧ s1.slots = s.slots

/-- R160, R168: the forms that do not end at once. A relaxed store or atomic with room under the outstanding counter
leaves the core as one access more, an atomic with its register pending, and the slot goes on with memory as it was. A
plain atomic whose home is a Lantern, a peer, or a reserved word sends its request there, or joins the word's queue, and
the slot leaves the rotation until the answer.

Rests on the model's readings in notes/assumptions 65 and 77. -/
def Obligations.RelaxedAndAwayAccesses : Prop :=
  (∀ (s s1 : State) (x : FmtA) (sx : Bool) (w : BitVec 2) (a b v : Word) (t : Xlat) (q : Reading),
    let i : Instr := .st ⟨x, true, sx, w⟩
    let n := 2 ^ w.toNat
    Issues i s → s.reads3 x.a x.b x.d.toNat a b v q → s.accessed s.cur .store n (decide (n = 4)) (a + b) t s1 →
    s1.homeOk s.cur t.pa → (s1.core (coreOf s.cur)).flights.length < 32 →
      ∃ u r, exec i s = .next u ∧ (u.slot s.cur).pc = (s.slot s.cur).pc + BitVec.ofNat 64 i.enc.len ∧ u.mem = s.mem ∧
        (u.slot s.cur).pend = (s.slot s.cur).pend ∧
        (u.core (coreOf s.cur)).flights.length = (s1.core (coreOf s.cur)).flights.length + 1 ∧
        r.src = s.cur ∧ r.pa = t.pa ∧ r.kind = .store ∧ r.n = (if t.tol then n / 2 else n) ∧ r.v = Claims.stored t n v ∧
        r.flight = some s.nextOp ∧ r.num = s.nextOp ∧
        (∃ f ∈ (u.core (coreOf s.cur)).flights, f.id = s.nextOp ∧ f.req = r ∧ f.homes = [t.pa]) ∧
        (u.slot s.cur).peerOut = (s.slot s.cur).peerOut ++
          (match peerOf s.cur t.pa with | some d => [⟨d, s.nextOp⟩] | none => []) ∧
        (∀ d, peerOf s.cur t.pa = some d → Event.peerAccess r ∈ u.agenda) ∧
        (peerOf s.cur t.pa = none → s1.reserved t.pa = false →
          Event.relaxedAccessComplete (coreOf s.cur) s.nextOp t.pa .none none ∈ u.agenda)) ∧
  (∀ (i : Instr) (s s1 : State) (x : FmtN) (f : Nat → Nat → Nat → Nat → Nat) (a b v : Word) (t : Xlat) (q : Reading),
    Claims.atomicNew i = some (x, f) → Issues i s → (∀ c, (s.slot s.cur).isPending c = false) →
    s.reads3 x.a x.b x.d.toNat a b v q →
      let n := if x.dbl then 8 else 4
      s.accessed s.cur .atomic n false (a + b) t s1 → s1.homeOk s.cur t.pa →
      let sent := fun (u : State) (r : PeerReq) => r.src = s.cur ∧ r.pa = t.pa ∧ r.n = n ∧
        r.v = v.toNat % 2 ^ (8 * n) ∧ r.dst = .reg x.d.toNat n false ∧ u.mem = s.mem ∧
        (u.slot s.cur).pc = (s.slot s.cur).pc + BitVec.ofNat 64 i.enc.len ∧
        (∀ d, peerOf s.cur t.pa = some d → Event.peerAccess r ∈ u.agenda) ∧
        (∀ dev so off, peerOf s.cur t.pa = none → region t.pa = .dram dev so off →
          Event.lanternAtomic dev so (bits off 9 3) r ∈ u.agenda) ∧
        (peerOf s.cur t.pa = none → isDram t.pa = false →
          ∃ e ∈ u.resv, e.word = t.pa / 8 ∧ e.q.getLast? = some r)
      (x.rel = true → (s1.core (coreOf s.cur)).flights.length < 32 →
        ∃ u r, exec i s = .next u ∧ sent u r ∧ r.flight = some s.nextOp ∧
          (u.slot s.cur).pend = (s.slot s.cur).pend ++ [⟨x.d.toNat, false, s.nextOp⟩] ∧
          (u.core (coreOf s.cur)).flights.length = (s1.core (coreOf s.cur)).flights.length + 1) ∧
      (x.rel = false → atomicNear s1 s.cur t.pa = false →
        ∃ u r, exec i s = .next u ∧ sent u r ∧ r.flight = none ∧
          (u.slot s.cur).wait = if s1.reserved t.pa then .reservation else .reply))

/-- R169: a fence of a scope completes, changing nothing but the pc, when the slot's relaxed accesses of its kinds are
performed and, at peer scope and beyond, stores to peers are acknowledged and no fault is recorded; with such accesses
or acknowledgements outstanding the slot leaves the rotation and its pc stays.

R170, R171: `mon.arm` on a line that may be armed gives the monitor that holds the line, or the lowest free one,
with its fired bit clear; `mon.dis` frees a monitor; `mon.clr` clears the fired bits that it names; `mon.wait` with a
fired bit, or after its timeout, returns the fired bits and whether the timeout passed; with none it leaves the rotation,
until the cycle that a timeout names; with neither a monitor nor a timeout it raises 0x25.

Rests on the model's readings in notes/assumptions 77 and 78. -/
def Obligations.FencesAndMonitors : Prop :=
  (∀ (i : Instr) (s : State) (x : FmtZ) (l w : Bool),
    (i = .fenceAll x ∧ l = true ∧ w = true ∨ i = .fenceSt x ∧ l = false ∧ w = true ∨
      i = .fenceLd x ∧ l = true ∧ w = false) → Issues i s →
      (s.released s.cur x.scope.toNat none l w = true →
        exec i s = .next (s.onSlot s.cur (fun y => { y with pc := y.pc + 4 }))) ∧
      (s.drained s.cur x.scope.toNat none l w = false → exec i s = .next (s.setWait s.cur .flights)) ∧
      (s.drained s.cur x.scope.toNat none l w = true → peerScope x.scope.toNat = true →
        s.awaitsAcks s.cur x.scope.toNat none = true → exec i s = .next (s.setWait s.cur .acks))) ∧
  ((∀ (s s1 : State) (x : FmtA) (va : Word) (t : Xlat) (q : Reading) (vg : Bool) (m : Nat),
    Issues (.monArm x) s → s.reads1 x.a va q →
    s.xlate (coreOf s.cur) true (s.slot s.cur).user (s.slot s.cur).asid .load va = (.ok t, s1) →
    s1.armable s.cur (t.pa / 64 * 64) = some vg → s1.canWrite s.cur x.d.toNat = true →
    ((s.slot s.cur).monOf (t.pa / 64 * 64) = some m ∨
      (s.slot s.cur).monOf (t.pa / 64 * 64) = none ∧ (s.slot s.cur).freeMon = some m) →
      exec (.monArm x) s = .next
        (((s1.onSlot s.cur (fun y => { y with mons := Tab.put m ⟨t.pa / 64, vg, false⟩ y.mons })).writeReg s.cur
          x.d.toNat (BitVec.ofNat 64 m)).retired s.cur (Instr.monArm x).enc.len q)) ∧
  (∀ (s : State) (x : FmtA) (v : Word) (q : Reading), Issues (.monDis x) s → s.reads1 x.a v q →
      exec (.monDis x) s = .next
        ((s.onSlot s.cur (fun y => { y with mons := Tab.del (v.toNat % 4) y.mons })).retired s.cur
          (Instr.monDis x).enc.len q)) ∧
  (∀ (s : State) (x : FmtA) (v : Word) (q : Reading), Issues (.monClr x) s → s.reads1 x.a v q →
      ∃ ms, exec (.monClr x) s =
          .next ((s.onSlot s.cur (fun y => { y with mons := ms })).retired s.cur (Instr.monClr x).enc.len q) ∧
        ∀ j, Tab.find? j ms = (Tab.find? j (s.slot s.cur).mons).map
          (fun m => if v.getLsbD j then { m with fired := false } else m)) ∧
  (∀ (s : State) (x : FmtA) (v : Word) (q : Reading), Issues (.monWait x) s → s.reads1 x.a v q →
    s.canWrite s.cur x.d.toNat = true →
      let y := s.slot s.cur
      let n := v.toNat % 2 ^ 32
      (y.fired ≠ 0 ∨ y.heard = .expired →
        exec (.monWait x) s = .next
          (((s.onSlot s.cur (fun y => { y with wait := .none, met := .none })).writeReg s.cur x.d.toNat
            (BitVec.ofNat 64 (y.fired + if y.heard = .expired then 16 else 0))).retired s.cur (Instr.monWait x).enc.len q)) ∧
      (y.fired = 0 → y.heard ≠ .expired → y.mons ≠ [] ∨ n ≠ 0 →
        exec (.monWait x) s = .next ((s.keepReads s.cur q.taken q.poll).setWait s.cur
          (.monitor (if n = 0 then none else some ((s.core (coreOf s.cur)).cycle + n))))) ∧
      (y.mons = [] → n = 0 → y.heard ≠ .expired →
        exec (.monWait x) s = .next (s.takeTrap s.cur 0x25 0 y.pc false))))

/-! ### Vectors -/

/-- R136, R137, R142, Table 7.2: a lane-by-lane `vec` function writes into every lane of v[vd] the table's value of the
same lanes of v[va], v[vb] and the old v[vd], and ORs the lanes' flags into fflags (FP8 flags as notes/assumptions 64
reads them).

Rests on the model's readings in notes/assumptions 64. -/
def Obligations.VectorLanesResult : Prop :=
  ∀ (i : Instr) (s : State) (x : FmtV) (f : Nat → Nat → Nat → Nat → Nat × Fl),
    Claims.vecLane i = some (x, f) → Issues i s → (∀ c, (s.slot s.cur).isPending c = false) →
      let y := s.slot s.cur
      let t := x.t.toNat
      let w := laneBits t
      let r := fun j => f t (vget (y.vreg x.a.toNat) (w * j) w) (vget (y.vreg x.b.toNat) (w * j) w)
        (vget (y.vreg x.d.toNat) (w * j) w)
      ∃ v : VWord, exec i s = .next (((s.onSlot s.cur (fun z => z.setV x.d.toNat v)).flagged s.cur
          (Claims.laneFlags (laneCount t) (fun j => (r j).2))).retired s.cur i.enc.len {}) ∧
        ∀ j < laneCount t, vget v (w * j) w = (r j).1

/-- R137, R138, Table 7.2: shuf takes lane i from the lane that lane i of v[vb] names, for FP4 within its group of 16,
bcast takes every lane from lane 0; and sel chooses each bit of v[va] or v[vb] by the old v[vd]. No flag is set.

R139: a reduction folds all lanes along the tree of R37, floating lanes widened exactly to FP32 and integer lanes
sign-extended to 32 bits, writes the value to bits [31:0] of v[vd], zeroes the rest, and sets the flags of the tree's
roundings. -/
def Obligations.VectorMovesAndReductions : Prop :=
  ((∀ (i : Instr) (s : State) (x : FmtV) (f : Nat → Nat → Nat → Nat),
    Claims.vecMove i = some (x, f) → Issues i s → (∀ c, (s.slot s.cur).isPending c = false) →
      let y := s.slot s.cur
      let t := x.t.toNat
      let w := laneBits t
      ∃ v : VWord,
        exec i s = .next ((s.onSlot s.cur (fun z => z.setV x.d.toNat v)).retired s.cur i.enc.len {}) ∧
        ∀ j < laneCount t,
          vget v (w * j) w = vget (y.vreg x.a.toNat) (w * f t j (vget (y.vreg x.b.toNat) (w * j) w)) w) ∧
  (∀ (s : State) (x : FmtV), Issues (.vecSel x) s → (∀ c, (s.slot s.cur).isPending c = false) →
      let y := s.slot s.cur
      ∃ v : VWord, exec (.vecSel x) s =
          .next ((s.onSlot s.cur (fun z => z.setV x.d.toNat v)).retired s.cur (Instr.vecSel x).enc.len {}) ∧
        ∀ j < 1024, v.getLsbD j = if (y.vreg x.d.toNat).getLsbD j then (y.vreg x.a.toNat).getLsbD j
          else (y.vreg x.b.toNat).getLsbD j)) ∧
  (∀ (i : Instr) (s : State) (x : FmtV) (ff : Nat → Nat → Nat × Fl) (fi : BitVec 32 → BitVec 32 → BitVec 32),
    Claims.vecFold i = some (x, ff, fi) → Issues i s → (∀ c, (s.slot s.cur).isPending c = false) →
      let t := x.t.toNat
      let lane := fun j => vget ((s.slot s.cur).vreg x.a.toNat) (laneBits t * j) (laneBits t)
      (t < 4 → ∃ r, Claims.tree (fun p q => ((ff p.1 q.1).1, p.2 ||| q.2 ||| (ff p.1 q.1).2)) 8
            ((List.range (laneCount t)).map (fun j => (Claims.widened t (lane j), (0 : Fl)))) = some r ∧
          exec i s = .next (((s.onSlot s.cur (fun z => z.setV x.d.toNat (BitVec.ofNat 1024 r.1))).flagged s.cur
            r.2).retired s.cur i.enc.len {})) ∧
      (4 ≤ t → t < 7 → ∃ r, Claims.tree fi 8
            ((List.range (laneCount t)).map (fun j => (BitVec.ofNat (laneBits t) (lane j)).signExtend 32)) = some r ∧
          exec i s = .next ((s.onSlot s.cur (fun z => z.setV x.d.toNat (r.zeroExtend 1024))).retired
            s.cur i.enc.len {})))

/-- R135, R140: `vec.cvt` converts group lane j of the sources into group lane j of the destinations, all sources read
first, and ORs the flags; registers outside the destination group keep their values.

R28, R141: `vec.scale` multiplies lane j, widened exactly, by its block's scale under RNE into group lane j; a scale
in use that is not positive and finite takes 0x60 with nothing written. -/
def Obligations.VectorConversionAndScale : Prop :=
  (∀ (s : State) (x : FmtV), Issues (.vecCvt x) s → (∀ c, (s.slot s.cur).isPending c = false) →
      let st := x.b.toNat
      let dt := x.t.toNat
      let n := max (laneCount st) (laneCount dt)
      let r := fun j => Claims.converted st dt (Claims.groupLane (s.slot s.cur) x.a.toNat (laneBits st) j)
      ∃ (vs : Tab VWord) (dead : Word), exec (.vecCvt x) s =
          .next (((s.onSlot s.cur (fun z => { z with v := vs, dead := dead })).flagged s.cur
            (Claims.laneFlags n (fun j => (r j).2))).retired s.cur (Instr.vecCvt x).enc.len {}) ∧
        (∀ j < n, Claims.groupLane { s.slot s.cur with v := vs } x.d.toNat (laneBits dt) j = (r j).1) ∧
        ∀ m, m < x.d.toNat ∨ x.d.toNat + max 1 (laneCount st / laneCount dt) ≤ m →
          Tab.get 0 vs m = (s.slot s.cur).vreg m) ∧
  (∀ (s : State) (x : FmtV), Issues (.vecScale x) s → (∀ c, (s.slot s.cur).isPending c = false) →
      let y := s.slot s.cur
      let t := x.t.toNat
      let scale := fun j => vget (y.vreg x.b.toNat) (if t = 2 then 0 else 32 * (j / 32)) 32
      let r := fun j => fp32.mul .rne
        (Claims.widened t (vget (y.vreg x.a.toNat) (laneBits t * j) (laneBits t))) (scale j)
      ((∀ j < laneCount t, scaleValid (scale j) = true) →
        ∃ (vs : Tab VWord) (dead : Word), exec (.vecScale x) s =
            .next (((s.onSlot s.cur (fun z => { z with v := vs, dead := dead })).flagged s.cur
              (Claims.laneFlags (laneCount t) (fun j => (r j).2))).retired s.cur (Instr.vecScale x).enc.len {}) ∧
          (∀ j < laneCount t, Claims.groupLane { y with v := vs } x.d.toNat 32 j = (r j).1) ∧
          ∀ m, m < x.d.toNat ∨ x.d.toNat + laneCount t / 32 ≤ m → Tab.get 0 vs m = y.vreg m) ∧
      ((∃ j < laneCount t, scaleValid (scale j) = false) →
        exec (.vecScale x) s = .next (s.takeTrap s.cur 0x60 0 y.pc false)))

/-- R143 to R146: a `vld` or `vst` whose lanes translate and pass the checks completes. A plain load whose lane has its
home in the module writes that lane (an FP4 block writes 32 nibbles of v[vd] and a scale lane of v[vd + 1]); a plain
store performs such lanes in lane order; lanes at peers are sent as requests. A relaxed form leaves the core as one
access more and marks a load's registers pending, with memory as it was.

R197, R198: a gather reads the element at base + 4 × index for every lane whose index is not all ones; `vgth.g` for
all of them, `vgth.gt` for those that translate at once, whose indices it sets to all ones, while the others start
fills; p14 tells whether any index is left. Lanes that are not read keep their values. With a latched fault no lane of
whose page is touched the gather is as without one; a first lane in the latched page takes the latched fault and clears
the latch.

Rests on the model's readings in notes/assumptions 81 and 82. -/
def Obligations.VectorMemoryAndGathers : Prop :=
  (∀ (i : Instr) (s s1 : State) (x : FmtV) (ld strided relaxed : Bool) (a b : Word) (q1 q2 : Reading) (ts : List Xlat),
    Claims.vecMem i = some (x, ld, strided, relaxed) → Issues i s → (∀ c, (s.slot s.cur).isPending c = false) →
    s.readCode s.cur x.a.toNat {} = some (a, q1) → s.readCode s.cur x.b.toNat q1 = some (b, q2) →
      let t := x.t.toNat
      let d := x.d.toNat
      let k : XKind := if ld then .load else .store
      let n := if t = 3 then 20 else laneBits t / 8
      Claims.translated s.cur k s (Claims.laneVas t strided a b) ts s1 →
      Claims.lanesPass s1 s.cur k n (if t = 3 then 4 else n) (decide (t = 0) || decide (t = 4)) ts →
      (relaxed = true → (s1.core (coreOf s.cur)).flights.length < 32) →
      (relaxed = false → ld = false → ∀ u ∈ ts, peerOf s.cur u.pa = none → s1.reserved u.pa = false) →
      ∃ z, exec i s = .next z ∧ (z.slot s.cur).pc = (s.slot s.cur).pc + BitVec.ofNat 64 i.enc.len ∧
        (z.slot s.cur).g = (s.slot s.cur).g ∧ (ld = true ∨ relaxed = true → z.mem = s.mem) ∧
        (relaxed = false → ld = true → ∀ j u, ts[j]? = some u → peerOf s.cur u.pa = none →
          let v := Claims.loadedLane s u n
          if t = 3 then
            vget ((z.slot s.cur).vreg d) (128 * j) 128 = v / 2 ^ 32 ∧
              vget ((z.slot s.cur).vreg (d + 1)) (32 * j) 32 = v % 2 ^ 32
          else vget ((z.slot s.cur).vreg d) (laneBits t * j) (laneBits t) = v) ∧
        (ld = true → ∀ m, m ≠ d → (t = 3 → m ≠ d + 1) → (z.slot s.cur).vreg m = (s.slot s.cur).vreg m) ∧
        (ld = false → (z.slot s.cur).v = (s.slot s.cur).v) ∧
        (relaxed = false → ld = false → ∀ p, z.byte p =
          (((List.range ts.length).zip ts).foldl (fun st e =>
            if peerOf s.cur e.2.pa = none then
              st.storeHome (clusterOf s.cur) e.2.pa (e.2.width n) (Claims.storedLane (s.slot s.cur) d t e.1 e.2.tol)
            else st) s1).byte p) ∧
        (∀ u ∈ ts, peerOf s.cur u.pa ≠ none → ∃ r, Event.peerAccess r ∈ z.agenda ∧ r.src = s.cur ∧ r.pa = u.pa) ∧
        (relaxed = true →
          (z.core (coreOf s.cur)).flights.length = (s1.core (coreOf s.cur)).flights.length + 1 ∧
          (z.slot s.cur).isPending (32 + d) = ld ∧ (t = 3 → (z.slot s.cur).isPending (33 + d) = ld))) ∧
  ∀ (s s1 : State) (x : FmtV) (base : Word) (q : Reading), (∀ c, (s.slot s.cur).isPending c = false) →
    s.readCode s.cur x.a.toNat {} = some (base, q) →
      let y := s.slot s.cur
      let ps := Claims.gatherLanes base (y.vreg x.b.toNat)
      (∀ ts, Issues (.vgthG x) s → Claims.translated s.cur .load s (ps.map Prod.snd) ts s1 →
        Claims.lanesPass s1 s.cur .load 4 4 true ts → (∀ u ∈ ts, peerOf s.cur u.pa = none) →
        ∃ z, exec (.vgthG x) s = .next z ∧ (z.slot s.cur).pc = y.pc + BitVec.ofNat 64 (Instr.vgthG x).enc.len ∧
          z.mem = s.mem ∧
          ∀ j < 32, vget ((z.slot s.cur).vreg x.d.toNat) (32 * j) 32 =
            match ((ps.map Prod.fst).zip ts).find? (fun e => decide (e.1 = j)) with
            | some e => Claims.loadedLane s e.2 4
            | none => vget (y.vreg x.d.toNat) (32 * j) 32) ∧
      (∀ rs, Issues (.vgthGt x) s → (∀ g, y.glatch = some g → ∀ p ∈ ps, p.2.toNat / 2 ^ 16 ≠ g.1) → Claims.gathered s.cur s ps rs s1 →
        Claims.lanesPass s1 s.cur .load 4 4 true (rs.filterMap Prod.snd) →
        (∀ u ∈ rs.filterMap Prod.snd, peerOf s.cur u.pa = none) →
        ∃ z, exec (.vgthGt x) s = .next z ∧ (z.slot s.cur).pc = y.pc + BitVec.ofNat 64 (Instr.vgthGt x).enc.len ∧
          z.mem = s.mem ∧
          (∀ j < 32, vget ((z.slot s.cur).vreg x.b.toNat) (32 * j) 32 =
            if rs.any (fun e => decide (e.1 = j) && e.2.isSome) then 0xFFFFFFFF else vget (y.vreg x.b.toNat) (32 * j) 32) ∧
          (x.b ≠ x.d → ∀ j < 32, vget ((z.slot s.cur).vreg x.d.toNat) (32 * j) 32 =
            match rs.find? (fun e => decide (e.1 = j)) with
            | some (_, some u) => Claims.loadedLane s u 4
            | _ => vget (y.vreg x.d.toNat) (32 * j) 32) ∧
          ((z.slot s.cur).p 14 = true ↔
            ∃ j < 32, vget ((z.slot s.cur).vreg x.b.toNat) (32 * j) 32 ≠ 0xFFFFFFFF)) ∧
      (∀ g, Issues (.vgthGt x) s → y.glatch = some g → (ps.head?.map (fun p => p.2.toNat / 2 ^ 16)) = some g.1 →
        exec (.vgthGt x) s = .next ((s.onSlot s.cur (fun z => { z with glatch := none })).takeTrap s.cur g.2
          ((ps.map Prod.snd).headD 0) y.pc false))

/-! ### Exceptions -/

/-- R243 to R246: `trap.sw` raises 0xE0 + the code with g[sa] as its value and resumes past itself; `trap.brk` raises
0x0F at its own pc; `trap.ret` goes to tepc with the mode and tmask.ie that tcause holds, and changes nothing else of
the slot but what marks a handler, and a prio 0 in user mode, which is 1 (R109; notes/assumptions 106); `trap.msk` replaces the bits 0 to 32 of tmask that its mask names and returns the old
value. The causes of `trap.sw` have fate U and that of `trap.brk` fate T. -/
def Obligations.TrapInstructionsEffect : Prop :=
  (∀ n < 16, fateOf (0xE0 + n) = .up) ∧ fateOf 0x0F = .sys ∧
  (∀ (s : State) (x : FmtA) (v : Word) (q : Reading), Issues (.trapSw x) s → s.reads1 x.a v q →
    exec (.trapSw x) s = .next (s.takeTrap s.cur (0xE0 + v.toNat % 16) v
      ((s.slot s.cur).pc + BitVec.ofNat 64 (Instr.trapSw x).enc.len) false)) ∧
  (∀ (s : State) (x : FmtA), Issues (.trapBrk x) s →
    exec (.trapBrk x) s = .next (s.takeTrap s.cur 0x0F 0 (s.slot s.cur).pc false)) ∧
  (∀ (s : State) (x : FmtA), Issues (.trapRet x) s →
    ∃ t, exec (.trapRet x) s = .next t ∧
      let y := s.slot s.cur
      let z := t.slot s.cur
      z.pc = y.tepc ∧ z.user = y.tcause.getLsbD 8 ∧ z.ie = y.tcause.getLsbD 9 ∧
      z.prio = (if y.tcause.getLsbD 8 = true ∧ y.prio = 0 then 1 else y.prio) ∧
      (∀ j < 32, z.tmask.getLsbD j = y.tmask.getLsbD j) ∧
      { z with pc := y.pc, kind := y.kind, prio := y.prio, tmask := y.tmask, handler := y.handler, parkS := y.parkS } = y ∧
      t = s.setSlot s.cur z) ∧
  (∀ (s : State) (x : FmtA) (v m : Word) (q : Reading), Issues (.trapMsk x) s → s.reads2 x.a x.b v m q →
    s.canWrite s.cur x.d.toNat = true →
    ∃ w : Word, exec (.trapMsk x) s = .next (((s.onSlot s.cur (fun z => { z with tmask := w })).writeReg s.cur x.d.toNat
        (s.slot s.cur).tmask).retired s.cur (Instr.trapMsk x).enc.len q) ∧
      ∀ j < 64, w.getLsbD j =
        if j ≤ 32 ∧ m.getLsbD j = true then v.getLsbD j else (s.slot s.cur).tmask.getLsbD j)

/-- The instruction is one at which a recorded store fault is delivered, with what stands before that passed (R86, R102, R163,
R169, R228). -/
def Sys2Proof.Claims.deliveryPoint (i : Instr) (s : State) : Prop :=
  let fence := fun (x : FmtZ) (l w : Bool) => peerScope x.scope.toNat = true ∧
    s.drained s.cur x.scope.toNat none l w = true ∧ s.awaitsAcks s.cur x.scope.toNat none = false
  match i with
  | .fenceAll x => fence x true true
  | .fenceSt x => fence x false true
  | .fenceLd x => fence x true false
  | .stRel x => ∃ (a b v : Word) (t : Xlat) (q : Reading) (s1 : State), s.reads3 x.a x.b x.d.toNat a b v q ∧
      s.accessed s.cur .store (if x.dbl then 8 else 4) (decide (x.dbl = false)) (a + b) t s1 ∧
      peerScope x.scope.toNat = true ∧
      let home := some ((peerOf s.cur t.pa).getD (devOf s.cur))
      s1.drained s.cur x.scope.toNat home true true = true ∧ s1.awaitsAcks s.cur x.scope.toNat home = false
  | .wkDone _ | .wkWaitw _ => True
  | .wkSusp x => ∃ (va : Word) (q : Reading), s.reads1 x.a va q
  | .wkMigr x => ∃ (va : Word) (q : Reading) (t : Xlat) (s1 : State) (o : Nat × Option Nat), s.reads1 x.a va q ∧
      s.xlate (coreOf s.cur) true (s.slot s.cur).user (s.slot s.cur).asid .load va = (.ok t, s1) ∧ va.toNat % 64 = 0 ∧
      migrOwner t.pa = some o ∧ migrOk (s.slot s.cur) s.cur o = true
  | _ => False
/-- The recorded fault of a slot `y` has been delivered in `z` (R221 to R223, R227). -/
def Sys2Proof.Claims.delivered (y z : Slot) (l : Deferred) : Prop :=
  z.latch = none ∧
  (y.upcallOk = true → z.ucause = 0x190 ∧ z.uval = l.value ∧ z.uepc = (y.pc &&& 0x01FFFFFFFFFFFFFC) ||| 1 ∧ z.pc = y.uvec) ∧
  (y.upcallOk = false → y.tvec ≠ 0 → (y.user = false → y.ie = true) →
    z.tcause = BitVec.ofNat 64 (0x490 + (if y.ie then 2 ^ 9 else 0) + (if y.user then 2 ^ 8 else 0)) ∧ z.tval = l.value ∧
      z.tepc = (y.pc &&& 0x01FFFFFFFFFFFFFC) ∧ z.pc = y.tvec ∧ z.user = false)

/-- R220 to R223: a synchronous cause taken in a slot, `dfr` for a deferred store fault, whose latch clears and whose
peers are told first (R227). The instruction is given up first: what it holds of waits is forgotten, and words of the
receive queue that it had reserved go to other readers (R116); no register or byte of memory changes by that. With fate T, or with fate U or P when no upcall is allowed, it
enters the system handler: tepc, tcause, tval, the mode, tmask.ie and the pc change as R221 says and no other register
of the slot or unit of the machine does. With fate U or P in user mode, uvec ≠ 0 and uepc.act = 0 it is an upcall. In
system mode with tmask.ie = 0 the wick fails with 0x10, and with tvec = 0 it fails with the cause.

R227, R228: a fence of any kind or a release store at a scope that holds peers, its accesses performed and acknowledged,
and the instructions of a suspension point deliver a recorded store fault: cause 0x90 at the instruction with the latch's
value, `def` set in the cause register, and the latch clear, as an upcall, or in the system handler where none is
allowed. -/
def Obligations.ExceptionEntryAndDelivery : Prop :=
  (∀ (s0 : State) (k c : Nat) (tval resume : Word) (dfr : Bool), c < 256 → resume.toNat < 2 ^ 57 →
    resume.toNat % 4 = 0 →
    let s := if dfr then ((s0.giveUp k).onSlot k (fun x => { x with latch := none })).settleAll (devOf k)
        (match (s0.slot k).latch with | some l => l.owed | none => [])
      else s0.giveUp k
    let y := s.slot k
    let up := (fateOf c = .up ∨ fateOf c = .park) ∧ y.user = true ∧ y.uvec ≠ 0 ∧ y.uepc.getLsbD 0 = false
    (up → s0.takeTrap k c tval resume dfr = s.setSlot k { y with
        uepc := resume + 1, ucause := BitVec.ofNat 64 ((if dfr then 2 ^ 8 else 0) + c), uval := tval
        pc := y.uvec, wait := .none, parkU := if fateOf c = .park then some c else none }) ∧
    (fateOf c ≠ .fail → ¬up → (y.user = false → y.ie = true) → y.tvec ≠ 0 →
      s0.takeTrap k c tval resume dfr = s.setSlot k { y with
        tepc := resume
        tcause := BitVec.ofNat 64 ((if dfr then 2 ^ 10 else 0) + (if y.ie then 2 ^ 9 else 0) +
          (if y.user then 2 ^ 8 else 0) + c)
        tval := tval, kind := y.kind ||| 1, tmask := y.tmask &&& 0xFFFFFFFF, pc := y.tvec, wait := .none
        handler := true, held := none, parkS := if fateOf c = .park then some c else none }) ∧
    (fateOf c ≠ .fail → y.user = false → y.ie = false → s0.takeTrap k c tval resume dfr = s.failWick k 0x10 resume) ∧
    (fateOf c ≠ .fail → ¬up → (y.user = false → y.ie = true) → y.tvec = 0 →
      s0.takeTrap k c tval resume dfr = s.failWick k c resume)) ∧
  (∀ (s : State) (k : Nat), (s.giveUp k).mem = s.mem ∧
    (s.giveUp k).slot k = { s.slot k with
      polled := none, met := .none, undo := none, lines := [], mxIssue := none, begun := false, held := none
      firm := false, turn := false } ∧
    ∀ j ≠ k, (s.giveUp k).slot j = s.slot j ∨
      ((s.slot j).wait = .mq ∧ (s.giveUp k).slot j = { s.slot j with wait := .none })) ∧
  (∀ (i : Instr) (s : State) (l : Deferred), Issues i s → (s.slot s.cur).latch = some l → Claims.deliveryPoint i s →
    ∃ t, exec i s = .next t ∧ Claims.delivered (s.slot s.cur) (t.slot s.cur) l ∧ t.mem = s.mem)

/-- R50: the instructions that user mode may not issue, whatever their fields; and `enq` to the queues 3 and 4. -/
def Sys2Proof.Claims.systemOnly : Instr → Bool
  | .trapRet _ | .trapMsk _ => true
  | .tlbFill _ | .tlbInvr _ | .tlbInva _ | .tlbPrb _ => true
  | .fabConn _ | .fabClose _ | .fabSlot _ | .fabStat _ | .fabGnt _ => true
  | .lanInst _ | .lanDrop _ | .lanDflt _ => true
  | .tapLoad _ | .tapGo _ | .tapHalt _ => true
  | .enqWt x | .enqTry x => decide (x.eq = 3) || decide (x.eq = 4)
  | _ => false

/-- R44, R45, R50, R99: a decode cause of an encoded instruction is taken whatever the guard, with the instruction word and
its own pc, and the instruction has no effect; with none and a false guard only the pc moves past the instruction. A jump
whose target registers are pending waits for them first, since 0x08 depends on them; the model's order of that wait is
notes/assumptions 63. A
system-only instruction in user mode has a decode cause, 0x06 unless a lower-numbered one applies. -/
def Obligations.DecodeCauseAndGuard : Prop :=
  ∀ (i : Instr) (s : State), i.enc.encoded = true →
    (∀ c, decodeCause s s.cur i.enc = some c → encAwaits i.enc (s.slot s.cur) = none ∨ c ≤ 8 →
      exec i s = .next (s.takeTrap s.cur c (i.firstWord.zeroExtend 64) (s.slot s.cur).pc false)) ∧
    (∀ n, encAwaits i.enc (s.slot s.cur) = some n → (∀ c, decodeCause s s.cur i.enc = some c → 8 < c) →
      (s.slot s.cur).isPending n = true ∧ exec i s = .next (s.setWait s.cur (.reg n))) ∧
    (decodeCause s s.cur i.enc = none → encAwaits i.enc (s.slot s.cur) = none → (s.slot s.cur).p i.enc.guard = false →
      exec i s = .next (s.onSlot s.cur (fun y => { y with pc := y.pc + BitVec.ofNat 64 i.enc.len }))) ∧
    (Claims.systemOnly i = true → (s.slot s.cur).user = true →
      ∃ c, c ≤ 0x06 ∧ decodeCause s s.cur i.enc = some c ∧ (i.wordCause = none → 0x05 ≤ c))

/-! ### Vigils -/

/-- The checks of R210 on a vigil's address: it translates for the access to a line of a scratchpad or DRAM of the
slot's own module, is 64-byte aligned and not range-locked, the access may go (R177), and the line can be read. -/
def Sys2Proof.Claims.vigilAt (s : State) (k : XKind) (va : Word) (line : Nat) (s1 : State) : Prop :=
  ∃ t, s.xlate (coreOf s.cur) true (s.slot s.cur).user (s.slot s.cur).asid k va = (.ok t, s1) ∧ t.pa = line ∧
    t.tol = false ∧ va.toNat % 64 = 0 ∧ vigilHome (devOf s.cur) line = true ∧
    s1.lockHit (clusterOf s.cur) (s.slot s.cur).asid va.toNat 8 true = false ∧ s1.homeOk s.cur line ∧
    s1.readError line = none

/-- R211, Tables 10.1 and 10.2: `vg.init` with counts in range and room in the master's table arms the line: its epoch
is one more than that of the vigil found there, or 1, its group and asid and counts are those given, and with both
counts zero it is open at once; no wick counts as arrived at the new epoch.

R212: `vg.join` of a group from 1 to 2^16 − 1 by a wick of none sets its group and returns 0, and otherwise raises
0xA1; `vg.leave` returns the group and leaves it, and without one raises 0xA1.

Notes/assumptions 42, on which the epoch of a line that holds no vigil rests, is the model's reading. -/
def Obligations.VigilInitAndGroups : Prop :=
  (∀ (s s1 : State) (x : FmtA) (va b v : Word) (line : Nat) (q : Reading),
    Issues (.vgInit x) s → s.reads3 x.a x.b x.d.toNat va b v q → Claims.vigilAt s .store va line s1 →
    v.toNat < 2 ^ 48 → b.toNat < 2 ^ 63 →
    s1.home (dieOf s.cur) (masterPa line) = .ok →
    ((s.die (vigilMaster line)).armed.any (fun a => decide (a.line = line)) = true ∨
      (s.die (vigilMaster line)).armed.length < 4096) →
    ∃ t : State, exec (.vgInit x) s = .next (t.retired s.cur (Instr.vgInit x).enc.len q) ∧
      let n := v.toNat % 2 ^ 32
      let st := if n = 0 ∧ b = 0 then 2 else 1
      t.isVigil line = true ∧ vgState (t.readN line 8) = st ∧
      vgEpoch (t.readN line 8) = (if s.isVigil line then (vgEpoch (s.readN line 8) + 1) % 256 else 1) ∧
      vgGrp (t.readN line 8) = v.toNat / 2 ^ 32 ∧ vgAsid (t.readN (line + 8) 8) = (s.slot s.cur).asid.toNat ∧
      t.readN (line + 8) 8 % 2 ^ 32 = n ∧ t.readN (line + 16) 8 = b.toNat ∧
      ((t.die (vigilMaster line)).armed.any (fun a => decide (a.line = line)) = true ↔ st = 1) ∧
      (∀ k, (line, vgEpoch (t.readN line 8)) ∉ (t.slot k).arrived) ∧
      ∀ a, a < line ∨ line + 64 ≤ a → t.byte a = s.byte a) ∧
  ((∀ (s : State) (x : FmtA) (v : Word) (q : Reading), Issues (.vgJoin x) s → s.reads1 x.a v q →
    s.canWrite s.cur x.d.toNat = true →
    (v ≠ 0 → v.toNat < 2 ^ 16 → (s.slot s.cur).grp = 0 →
      exec (.vgJoin x) s = .next (((s.onSlot s.cur (fun y => { y with grp := v.truncate 16 })).writeReg s.cur
        x.d.toNat 0).retired s.cur (Instr.vgJoin x).enc.len q)) ∧
    (v = 0 ∨ 2 ^ 16 ≤ v.toNat ∨ (s.slot s.cur).grp ≠ 0 →
      exec (.vgJoin x) s = .next (s.takeTrap s.cur 0xA1 0 (s.slot s.cur).pc false))) ∧
  (∀ (s : State) (x : FmtA), Issues (.vgLeave x) s → s.canWrite s.cur x.d.toNat = true →
    ((s.slot s.cur).grp ≠ 0 →
      exec (.vgLeave x) s = .next (((s.onSlot s.cur (fun y => { y with grp := 0 })).writeReg s.cur x.d.toNat
        ((s.slot s.cur).grp.zeroExtend 64)).retired s.cur (Instr.vgLeave x).enc.len {})) ∧
    ((s.slot s.cur).grp = 0 →
      exec (.vgLeave x) s = .next (s.takeTrap s.cur 0xA1 0 (s.slot s.cur).pc false))))

/-- R210, R213 to R215: on a vigil of the wick's group and asid `vg.arr` adds one arrival at the current epoch to the
core stage, unless the vigil is broken or the latch says that the arrival has been made; `vg.wait` of a vigil that is not
armed writes word 0 into dst and into p12 whether it is not open, and of an armed one leaves the rotation; `vg.arrw` does
both; after a notice `vg.wait` and `vg.arrw` only read the line again, against the epoch that they wait for. `vg.brk` breaks
an armed vigil of the asid with 0xE0 + the code and leaves another unchanged, or sends the break of the wick's group to
every compute die; `vg.stat` reads a word. Each read or write of the line is a request that its home serves.

Rests on the model's readings in notes/assumptions 41 and 42. -/
def Obligations.VigilUseCompletes : Prop :=
  ∀ (s s1 : State) (x : FmtA) (va b : Word) (line : Nat) (q : Reading),
    let y := s.slot s.cur
    let w := s.readN line 8
    let sv := (s1.turnUsed s.cur [line]).serve line true
    let arr : Arrival := ⟨line, vgEpoch w, y.asid.toNat, y.grp.toNat, 1⟩
    let mine := s.isVigil line = true ∧ vgAsid (s.readN (line + 8) 8) = y.asid.toNat
    let member := mine ∧ vgGrp w = y.grp.toNat
    let arrived := if y.vlatch ≠ some (va.toNat, vgEpoch w) ∧ vgState w ≠ 3 then
        ((sv.releasedAt s.cur 4 (line + 8) (sv.carriedBy s.cur)).hold (.core (coreOf s.cur)) arr).onSlot s.cur (fun z =>
          { z with arrived := (line, vgEpoch w) :: z.arrived.filter (fun p => decide (p ≠ (line, vgEpoch w))) })
      else sv
    let waits := fun (z : State) (e : Nat) =>
      (z.onSlot s.cur (fun u => { u with wait := .none, met := .none })).awaiting s.cur q (.vigil line e)
    let ends := fun (z : State) (len : Nat) => (((if vgState w = 2 then z.acquiredAt s.cur 4 line else z).onSlot s.cur (fun u =>
      ({ u with wait := .none, met := .none, vlatch := none } : Slot).setPair 12 (decide (vgState w ≠ 2)))).writeReg
        s.cur x.d.toNat (BitVec.ofNat 64 w)).retired s.cur len q
    (Issues (.vgArr x) s → s.reads1 x.a va q → Claims.vigilAt s .load va line s1 → member →
      s1.released s.cur 4 (some (devOf s.cur)) true true = true →
      exec (.vgArr x) s = .next (arrived.retired s.cur (Instr.vgArr x).enc.len q)) ∧
    (Issues (.vgWait x) s → s.reads1 x.a va q → s.canWrite s.cur x.d.toNat = true → Claims.vigilAt s .load va line s1 →
      s.isVigil line = true → (∀ l e, y.heard ≠ .noticed l e) →
      exec (.vgWait x) s =
        .next (if vgState w = 1 then waits sv (vgEpoch w) else ends sv (Instr.vgWait x).enc.len)) ∧
    (Issues (.vgArrw x) s → s.reads1 x.a va q → s.canWrite s.cur x.d.toNat = true → Claims.vigilAt s .load va line s1 →
      s1.released s.cur 4 (some (devOf s.cur)) true true = true → member → (∀ l e, y.heard ≠ .noticed l e) →
      let again := (arrived.onSlot s.cur (fun z => { z with vlatch := some (va.toNat, vgEpoch w) })).serve line true
      exec (.vgArrw x) s =
        .next (if vgState w = 1 then waits again (vgEpoch w) else ends again (Instr.vgArrw x).enc.len)) ∧
    (∀ (i : Instr) (e : Nat), i = .vgWait x ∨ i = .vgArrw x → Issues i s → s.reads1 x.a va q →
      s.canWrite s.cur x.d.toNat = true → y.heard = .noticed line e → s.mayGo s.cur [line] = true →
      s.readError line = none →
      let sn := (s.turnUsed s.cur [line]).serve line true
      exec i s = .next (if vgState w = 1 ∧ vgEpoch w = e then waits sn e else ends sn i.enc.len)) ∧
    (Issues (.vgBrk x) s → s.reads2 x.a x.b va b q → Claims.vigilAt s .store va line s1 → mine →
      s1.released s.cur 4 (some (devOf s.cur)) true true = true →
      ∃ t : State, exec (.vgBrk x) s = .next (t.retired s.cur (Instr.vgBrk x).enc.len q) ∧
        (vgState w ≠ 1 → t = sv.serve line false) ∧
        (vgState w = 1 → vgState (t.readN line 8) = 3 ∧ bits (t.readN line 8) 8 8 = 0xE0 + b.toNat % 16 ∧
          vgEpoch (t.readN line 8) = vgEpoch w ∧
          ∀ d ∈ diesOf (bits line 49 6), Event.vigilNotice d line ∈ t.agenda)) ∧
    (Issues (.vgBrkGroup x) s → s.reads1 x.b b q → s.released s.cur 4 (some (devOf s.cur)) true true = true → y.grp ≠ 0 →
      exec (.vgBrkGroup x) s = .next ((s.postAll ((diesOf (devOf s.cur)).map (fun d =>
        .groupBreakNotice d y.asid.toNat y.grp.toNat (0xE0 + b.toNat % 16)))).retired s.cur
          (Instr.vgBrkGroup x).enc.len q)) ∧
    (Issues (.vgStat x) s → s.reads2 x.a x.b va b q → s.canWrite s.cur x.d.toNat = true →
      Claims.vigilAt s .load va line s1 →
      exec (.vgStat x) s = .next ((sv.writeReg s.cur x.d.toNat
        (BitVec.ofNat 64 (s.readN (line + 8 * (b.toNat % 8)) 8))).retired s.cur (Instr.vgStat x).enc.len q))

/-- R204, R206, R208, Table 10.3: what the master of a vigil does with an arrival of n, a byte decrement and a group
break. A count that falls below zero breaks the vigil with 0xA3, and so does an arrival or decrement at an open one;
with both counts zero it opens; another epoch, a broken vigil and a line that is none are left alone. A notice lets the
slots of the die that wait on the line read it again.

R205: a stage that forwards a key sends the sum that it holds: the die's stage to the master as one message, a
core's or a cluster's to the stage above, whose sum grows by it; it then holds none of that key. The timeout of a stage
does the same.

Rests on the model's readings in notes/assumptions 41 and 55. -/
def Obligations.VigilMasterAndStages : Prop :=
  ((∀ (s : State) (die n : Nat) (a : Arrival), a.n = n → n < 2 ^ 32 →
    ∃ t, exec .vigilArrivalMessage (s.given (.vigilArrivalMessage die a)) = .next t ∧
      let w := s.readN a.line 8
      let c := s.readN (a.line + 8) 8 % 2 ^ 32
      let st := vgState (t.readN a.line 8)
      (s.isVigil a.line = false ∨ vgEpoch w ≠ a.epoch ∨ vgState w = 3 → t.mem = s.mem) ∧
      (s.isVigil a.line = true → vgEpoch w = a.epoch →
        (vgState w = 2 → st = 3 ∧ bits (t.readN a.line 8) 8 8 = 0xA3) ∧
        (vgState w = 1 → c < n → st = 3 ∧ bits (t.readN a.line 8) 8 8 = 0xA3) ∧
        (vgState w = 1 → n ≤ c → t.readN (a.line + 8) 8 % 2 ^ 32 = c - n ∧
          st = if c = n ∧ s.readN (a.line + 16) 8 = 0 then 2 else 1))) ∧
  (∀ (s : State) (die line b ck op : Nat), b < 2 ^ 63 → s.isVigil line = true →
    ∃ t, exec .vigilByteDecrement (s.given (.vigilByteDecrement die line b ck op)) = .next t ∧
      let w := s.readN line 8
      let c := s.readN (line + 16) 8
      let st := vgState (t.readN line 8)
      (vgState w = 3 → t.mem = s.mem) ∧
      (vgState w = 2 → st = 3 ∧ bits (t.readN line 8) 8 8 = 0xA3) ∧
      (vgState w = 1 → c < b → st = 3 ∧ bits (t.readN line 8) 8 8 = 0xA3) ∧
      (vgState w = 1 → b ≤ c → t.readN (line + 16) 8 = c - b ∧
        st = if c = b ∧ s.readN (line + 8) 8 % 2 ^ 32 = 0 then 2 else 1)) ∧
  (∀ (s : State) (die asid grp cause : Nat), cause < 256 → (∀ a ∈ (s.die die).armed, a.line % 64 = 0) →
    ∃ t, exec .groupBreakNotice (s.given (.groupBreakNotice die asid grp cause)) = .next t ∧
      ∀ a ∈ (s.die die).armed, s.isVigil a.line = true → vgState (s.readN a.line 8) = 1 →
        (a.asid.toNat = asid → a.grp.toNat = grp →
          vgState (t.readN a.line 8) = 3 ∧ bits (t.readN a.line 8) 8 8 = cause) ∧
        ((∀ b ∈ (s.die die).armed, b.line = a.line → ¬(b.asid.toNat = asid ∧ b.grp.toNat = grp)) →
          t.readN a.line 8 = s.readN a.line 8)) ∧
  (∀ (s : State) (die line k e : Nat), dieOf k = die → (s.slot k).wait = .vigil line e →
    ∃ t, exec .vigilNotice (s.given (.vigilNotice die line)) = .next t ∧
      t.slot k = { s.slot k with wait := .noticed line e } ∧ t.mem = s.mem)) ∧
  (∀ (s : State) (st : VStage) (key a : Arrival), (s.held st).find? (sameVigil key) = some a →
    ∃ t, exec .arrivalForward (s.given (.arrivalForward st key)) = .next t ∧
      exec .arrivalForwardTimeout (s.given (.arrivalForwardTimeout st key)) =
        .next { t with ev := some (.arrivalForwardTimeout st key) } ∧
      (t.held st).find? (sameVigil key) = none ∧
      (match stageUp st with
      | none => Event.vigilArrivalMessage (vigilMaster a.line) a ∈ t.agenda
      | some up =>
        (((t.held up).find? (sameVigil key)).map (fun b => b.n)) =
          some (a.n + (((s.held up).find? (sameVigil key)).map (fun b => b.n)).getD 0)) ∧
      ∀ d, sameVigil key d = false → (t.held st).elem d = (s.held st).elem d)

/-! ### Translation buffers -/

/-- R251, R255, R265: `tlb.fill` with a valid, well-formed leaf puts an entry of the page, size and asid first in its
set of the cluster's TLB, removes from the set what it replaces, takes the answered entries out of the miss queue, and
returns the set and the way; with a malformed leaf it raises 0x49 with the page's address; with a leaf that is not valid
it takes the page's entries out of the miss queue and returns 0. Memory does not change.

Rests on the model's readings in notes/assumptions 67. -/
def Obligations.TlbFillCompletes : Prop :=
  ∀ (s : State) (x : FmtA) (a e : Word) (q : Reading), Issues (.tlbFill x) s → s.reads2 x.a x.b a e q →
    s.canWrite s.cur x.d.toNat = true →
      let ck := clusterOf s.cur
      let va := bits a.toNat 16 41 * 2 ^ 16
      let asid : BitVec 9 := a.truncate 9
      let z := leafSize e
      (e.getLsbD 0 = true → leafMalformed e = true → exec (.tlbFill x) s =
        .next (s.takeTrap s.cur 0x49 (BitVec.ofNat 64 va) (s.slot s.cur).pc false)) ∧
      (e.getLsbD 0 = true → leafMalformed e = false →
        (∀ f ∈ Tab.get [] (s.cluster ck).tlb (va / z % 512), f.way < 8) → ∃ (t : State) (w : Word) (n : TlbEntry) (es : List TlbEntry),
        exec (.tlbFill x) s = .next ((t.writeReg s.cur x.d.toNat w).retired s.cur (Instr.tlbFill x).enc.len q) ∧
        Tab.get [] (t.cluster ck).tlb (va / z % 512) = n :: es ∧
        n.asid = asid ∧ n.size = z ∧ n.vpage = va / z ∧ n.leaf = e ∧ w.toNat % 2 ^ 63 = va / z % 512 * 8 + n.way ∧
        (∀ f ∈ es, f ∈ Tab.get [] (s.cluster ck).tlb (va / z % 512) ∧
          ¬(f.size = z ∧ f.vpage = va / z ∧ (f.leaf.getLsbD 5 = true ∨ e.getLsbD 5 = true ∨ f.asid = asid))) ∧
        (t.cluster ck).missq = (s.cluster ck).missq.filter (fun m =>
          !((e.getLsbD 5 || decide (m.asid = asid)) && decide (m.page * 2 ^ 16 / z = va / z))) ∧
        t.mem = s.mem) ∧
      (e.getLsbD 0 = false → (s.cluster ck).missq.all (fun m => decide (m.asid ≠ asid ∨ m.page ≠ va / 2 ^ 16)) = true →
        ∃ t : State,
          exec (.tlbFill x) s = .next ((t.writeReg s.cur x.d.toNat 0).retired s.cur (Instr.tlbFill x).enc.len q) ∧
          (t.cluster ck).missq = (s.cluster ck).missq ∧ (t.cluster ck).tlb = (s.cluster ck).tlb ∧ t.mem = s.mem) ∧
      (∀ k va2 m, e.getLsbD 0 = false → bits e.toNat 8 8 ≠ 0x49 → (s.cluster ck).missq = [m] → m.asid = asid → m.page = va / 2 ^ 16 →
        m.slots = [k] → m.gather = [] → m.engine = false → (s.slot k).wait = .miss va2 → (s.slot k).asid = asid →
        va2.toNat / 2 ^ 16 = m.page → (s.slot k).upcallOk = true → k ≠ s.cur →
        ∃ t : State,
          exec (.tlbFill x) s = .next ((t.writeReg s.cur x.d.toNat 0).retired s.cur (Instr.tlbFill x).enc.len q) ∧
          (t.cluster ck).missq = [] ∧ (t.slot k).pc = (s.slot k).uvec ∧ (t.slot k).uval = va2 ∧
          (t.slot k).ucause = 0x40)

/-- R266: with nothing to wait for, `tlb.invr` removes from every TLB of the module the entries of the asid whose page
has a byte in the range, and with bit 9 the global ones; `tlb.inva` does so for the whole address space, with bit 10 for
every asid. No other entry goes, and memory and every register stay. An empty range does nothing.

R267: `tlb.prb` of an address returns the leaf entry that a lookup of the core under the asid would use, 0 where
none matches, and the counters under code 1; it neither counts nor reorders.

Rests on the model's readings in notes/assumptions 35 and 54. -/
def Obligations.TlbInvalidationAndProbe : Prop :=
  (∀ (i : Instr) (s : State) (x : FmtA) (a : Word) (all : Bool) (lo hi : Nat) (q : Reading),
    (i = .tlbInvr x ∧ all = false ∧ ∃ b, s.reads2 x.a x.b a b q ∧ lo = bits a.toNat 16 41 * 2 ^ 16 ∧
        hi = b.toNat % 2 ^ 57 ∨
      i = .tlbInva x ∧ s.reads1 x.a a q ∧ all = a.getLsbD 10 ∧ lo = 0 ∧ hi = 2 ^ 57 - 1) →
    Issues i s → s.invalBusy (devOf s.cur) ⟨a.truncate 9, a.getLsbD 9, all, lo, hi⟩ = false →
      let gone := fun (e : TlbEntry) => e.vpage * e.size ≤ hi ∧ lo < e.vpage * e.size + e.size ∧
        (all = true ∨ (if e.leaf.getLsbD 5 then a.getLsbD 9 = true else e.asid = a.truncate 9))
      (hi < lo → exec i s = .next (s.retired s.cur i.enc.len q)) ∧
      (lo ≤ hi → ∃ t : State, exec i s = .next (t.retired s.cur i.enc.len q) ∧
        (∀ ck set e, e ∈ Tab.get [] (t.cluster ck).tlb set ↔
          e ∈ Tab.get [] (s.cluster ck).tlb set ∧ ¬(devOfCluster ck = devOf s.cur ∧ gone e)) ∧
        (∀ k e, e ∈ (t.core k).micro ↔ e ∈ (s.core k).micro ∧ ¬(devOfCluster (k / 16) = devOf s.cur ∧ gone e)) ∧
        t.slots = s.slots ∧ t.mem = s.mem)) ∧
  (∀ (s : State) (x : FmtA) (a b : Word) (q : Reading), Issues (.tlbPrb x) s → s.reads2 x.a x.b a b q →
    s.canWrite s.cur x.d.toNat = true →
      let ck := clusterOf s.cur
      exec (.tlbPrb x) s = .next ((s.writeReg s.cur x.d.toNat
        (if b.toNat / 2 ^ 62 = 0 then
          (if a.toNat / 2 ^ 57 ≠ 0 ∨ isNear a = true then 0
          else match (s.lookup ck (some (coreOf s.cur)) (b.truncate 9) a.toNat).1 with
            | some e => e.leaf
            | none => 0)
        else if b.toNat / 2 ^ 62 = 1 then
          BitVec.ofNat 64 ((s.cluster ck).misses.toNat * 2 ^ 32 + (s.cluster ck).multi.toNat)
        else 0)).retired s.cur (Instr.tlbPrb x).enc.len q))

/-! ### Links -/

/-- A number of consecutive 64-byte lines that an instruction reads (R100, R101, R279): their values, and the state after. A
line at a peer is one that the peer has answered. -/
def Sys2Proof.Claims.linesRead (slot : Nat) : State → Word → List Nat → State → Prop
  | s, _, [], s1 => s1 = s
  | s, va, v :: vs, s1 =>
    ∃ t s2, s.lineOk slot va t s2 ∧ v = s2.lineValue slot t ∧ Claims.linesRead slot (s2.lineRead slot t) (va + 64) vs s1

/-- The bytes of such lines, in order. -/
def Sys2Proof.Claims.bytesOf (ls : List Nat) : List Byte := (ls.map (fun v => natLe v 64)).flatten

/-- R272, R289: `fab.conn` with a valid word, room for the connection and sub-links on every link of its path keeps the
connection under the lowest free number and returns it; a word out of its ranges, a second connection to a socket or a
fifth one raises 0x93. `fab.close` removes a connection. Both wait until the cluster's packets to the socket are delivered.

R281, R290 to R292: `fab.slot` reads a table of n entries from memory; when every entry is valid it becomes the
module's table, and one that is not raises 0x93. With no table before it each I/O die starts it at entry 0 in its guard
time; otherwise each die goes on with its entry, and the instruction waits until all four have switched. It then returns
the old count. `fab.stat` returns the device, grant words and multicast entries; `fab.gnt` writes a grant entry's image from
local memory with the count of refusals kept and the fence clear, or a multicast entry, for which it waits while an
operation holds a snapshot of it.

Rests on the model's readings in notes/assumptions 51, 85, 86 and 110. -/
def Obligations.FabricResults : Prop :=
  ((∀ (s : State) (x : FmtA) (v : Word) (q : Reading), Issues (.fabConn x) s → s.reads1 x.a v q →
    s.canWrite s.cur x.d.toNat = true →
      let ck := clusterOf s.cur
      let so := v.toNat % 32
      let rate := bits v.toNat 5 5
      let conns := (s.cluster ck).conns
      let ok := v.toNat < 2 ^ 11 ∧ so < 24 ∧ so ≠ ck / 64 % 32 ∧ 1 ≤ rate ∧ rate ≤ 16 ∧
        (∀ c ∈ conns, c.2.socket ≠ so) ∧ conns.length < 4
      (ok → s.admitsConn ck so rate = true → s.packetsTo ck so = true →
        exec (.fabConn x) s = .next (s.awaiting s.cur q .unit)) ∧
      (∀ i, ok → s.admitsConn ck so rate = true → s.packetsTo ck so = false → i < 4 → Tab.find? i conns = none →
        (∀ j < i, (Tab.find? j conns).isSome = true) →
        exec (.fabConn x) s = .next (((s.onCluster ck (fun c =>
          { c with conns := Tab.put i ⟨so, rate, bits v.toNat 10 1⟩ c.conns })).writeReg s.cur x.d.toNat
            (BitVec.ofNat 64 i)).retired s.cur (Instr.fabConn x).enc.len q)) ∧
      (¬ok ∨ s.admitsConn ck so rate = false →
        exec (.fabConn x) s = .next (s.takeTrap s.cur 0x93 0 (s.slot s.cur).pc false))) ∧
  (∀ (s : State) (x : FmtA) (v : Word) (q : Reading), Issues (.fabClose x) s → s.reads1 x.a v q →
    (∀ c, Tab.find? (v.toNat % 4) (s.cluster (clusterOf s.cur)).conns = some c →
      s.packetsTo (clusterOf s.cur) c.socket = true → exec (.fabClose x) s = .next (s.awaiting s.cur q .unit)) ∧
    ((∀ c, Tab.find? (v.toNat % 4) (s.cluster (clusterOf s.cur)).conns = some c →
      s.packetsTo (clusterOf s.cur) c.socket = false) → exec (.fabClose x) s = .next ((s.onCluster (clusterOf s.cur) (fun c =>
      { c with conns := Tab.del (v.toNat % 4) c.conns })).retired s.cur (Instr.fabClose x).enc.len q)))) ∧
  ((∀ (s s1 : State) (x : FmtA) (a b : Word) (ls : List Nat) (q : Reading), Issues (.fabSlot x) s →
    s.reads2 x.a x.b a b q → s.canWrite s.cur x.d.toNat = true →
      let n := b.toNat % 128
      let dev := devOf s.cur
      let m := s.mod dev
      m.slotBy ≠ some s.cur → (∀ k < 4, s.ioHome dev k = .ok) → s.switching dev = false →
      a.toNat % 64 = 0 → 1 ≤ n → n ≤ 64 → ls.length = 8 * n → Claims.linesRead s.cur s a ls s1 →
      ((∀ e < n, slotEntryOk (Claims.bytesOf ls) e dev = true) → ∃ t : State,
        (t.mod dev).slotTable = Claims.bytesOf ls ∧ (t.mod dev).slotCount = n ∧ t.mem = s.mem ∧
        (m.slotCount = 0 → exec (.fabSlot x) s = .next ((t.writeReg s.cur x.d.toNat 0).retired s.cur
            (Instr.fabSlot x).enc.len q) ∧
          ∀ d ∈ ioDies dev, (t.die d).entry = 0 ∧ (t.die d).guard = true ∧
            (s1.tick + 8 * slotGuard (Claims.bytesOf ls) 0, Event.slotGuardEnd d) ∈ t.timers) ∧
        (m.slotCount ≠ 0 → exec (.fabSlot x) s = .next (t.awaiting s.cur q .unit) ∧
          (t.mod dev).oldTable = m.slotTable ∧ (t.mod dev).oldCount = m.slotCount ∧ (t.mod dev).slotBy = some s.cur ∧
          ∀ d ∈ ioDies dev, (t.die d).switch = true ∧ (t.die d).entry = (s.die d).entry)) ∧
      ((∃ e < n, slotEntryOk (Claims.bytesOf ls) e dev = false) →
        exec (.fabSlot x) s = .next (s1.takeTrap s.cur 0x93 0 (s.slot s.cur).pc false))) ∧
  (∀ (s : State) (x : FmtA) (a b : Word) (q : Reading), Issues (.fabSlot x) s → s.reads2 x.a x.b a b q →
    s.canWrite s.cur x.d.toNat = true → (s.mod (devOf s.cur)).slotBy = some s.cur →
      let by' := fun (o : Option Nat) => s.onMod (devOf s.cur) (fun m => { m with slotBy := o })
      exec (.fabSlot x) s = .next (if s.switching (devOf s.cur) then (by' (some s.cur)).awaiting s.cur q .unit
        else ((by' none).writeReg s.cur x.d.toNat (BitVec.ofNat 64 (s.mod (devOf s.cur)).oldCount)).retired s.cur
          (Instr.fabSlot x).enc.len q)) ∧
  (∀ (s : State) (x : FmtA) (v : Word) (q : Reading), Issues (.fabStat x) s → s.reads1 x.a v q →
    s.canWrite s.cur x.d.toNat = true →
      let dev := devOf s.cur
      let sel := v.toNat % 2 ^ 16
      (∀ k, fabStatUnit sel = some k → s.ioHome dev k = .ok) →
      ∃ w : Word, exec (.fabStat x) s = .next ((s.writeReg s.cur x.d.toNat w).retired s.cur (Instr.fabStat x).enc.len q) ∧
        (sel = 0 → ∀ d < 64, w.getLsbD d = s.isMember dev d) ∧ (sel = 1 → w = BitVec.ofNat 64 dev) ∧
        (0x200 ≤ sel → sel ≤ 0x23F → w = Tab.get 0 (s.grant dev (sel - 0x200)).w 0) ∧
        (0x240 ≤ sel → sel ≤ 0x27F → w = Tab.get 0 (s.mod dev).mcast (sel - 0x240))) ∧
  (∀ (s : State) (x : FmtA) (a b : Word) (q : Reading), Issues (.fabGnt x) s → s.reads2 x.a x.b a b q →
    b.toNat % 64 = 0 → b.toNat < 0x10000 → a.toNat < 2 ^ 8 → a.getLsbD 6 = false → s.ioHome (devOf s.cur) 0 = .ok →
      let dev := devOf s.cur
      let k := a.toNat % 64
      let w := fun j => s.localN (coreOf s.cur) (b.toNat + 8 * j) 8
      (a.getLsbD 7 = false → grantImageOk w = true → ∃ t : State,
        exec (.fabGnt x) s = .next (t.retired s.cur (Instr.fabGnt x).enc.len q) ∧
        (∀ j, 1 ≤ j → j < 8 → Tab.get 0 (t.grant dev k).w j = BitVec.ofNat 64 (w j)) ∧
        bits (Tab.get 0 (t.grant dev k).w 0).toNat 32 32 = bits (Tab.get 0 (s.grant dev k).w 0).toNat 32 32 ∧
        (Tab.get 0 (t.grant dev k).w 0).getLsbD 13 = false ∧
        (∀ j, j < 13 ∨ (13 < j ∧ j < 32) → (Tab.get 0 (t.grant dev k).w 0).getLsbD j = (w 0).testBit j) ∧
        (∀ j, j ≠ k → t.grant dev j = s.grant dev j)) ∧
      (a.getLsbD 7 = true → s.snapshotHeld dev k = true →
        exec (.fabGnt x) s = .next (s.awaiting s.cur q .unit)) ∧
      (a.getLsbD 7 = true → s.snapshotHeld dev k = false → exec (.fabGnt x) s = .next ((s.onMod dev (fun m =>
        { m with mcast := Tab.put k (BitVec.ofNat 64 (w 0)) m.mcast })).retired s.cur (Instr.fabGnt x).enc.len q))))

/-! ### Lanterns and the Taper -/

/-- R372 to R376: `lan.inst` reads an image of 47 lines; one that passes every check fills the slot, whose installation
number advances, and the id of the image before is returned, 0 of an empty slot; one that does not raises its cause with
nothing installed. `lan.drop` empties a slot in the same way, `lan.dflt` empties slots 1 to 15 and clears the counters,
and `lan.stat` reads a slot or a counter.

R383, R395 to R397, R393: `tap.load` reads a control block and its table; when both are valid and the engine is idle
they are installed with every counter at its start and the entry count is returned, and otherwise 0x87 is raised; the
whole table is read before it is checked. Every tap instruction waits for X0 to be ready, and fails its wick when X0 has
failed (R410).
`tap.go` starts a loaded engine that has neither finished nor failed, under an asid, and its dispatch; `tap.halt` stops
it and returns the head; `tap.stat` and `tap.head` read counters and the head status word.

The Lantern instructions wait in the same way for the stacks whose Lanterns they change or read: the model's choice
(notes/assumptions 110).

Rests on the model's readings in notes/assumptions 36, 58, 87 and 110. -/
def Obligations.LanternAndTaperInstructions : Prop :=
  ((∀ (s s1 : State) (x : FmtA) (a n : Word) (ls : List Nat) (q : Reading), Issues (.lanInst x) s →
    s.reads2 x.a x.b a n q → s.canWrite s.cur x.d.toNat = true → 1 ≤ n.toNat → n.toNat ≤ 15 → a.toNat % 64 = 0 →
    (∀ so ∈ stackSockets, s.home (dieOf s.cur) (stackPa (devOf s.cur) so) = .ok) →
    ls.length = 47 → Claims.linesRead s.cur s a ls s1 →
      let dev := devOf s.cur
      let old := s.stream dev n.toNat
      (imageCause (Claims.bytesOf ls) = none → ∃ t : State,
        exec (.lanInst x) s = .next ((t.writeReg s.cur x.d.toNat (BitVec.ofNat 64
          (match old.image with | some i => (lheadOf i).id | none => 0))).retired s.cur (Instr.lanInst x).enc.len q) ∧
        t.stream dev n.toNat = ⟨(old.inst + 1) % 2 ^ 16, some (Claims.bytesOf ls)⟩ ∧
        (∀ m, m ≠ n.toNat → t.stream dev m = s.stream dev m) ∧ t.mem = s.mem) ∧
      (∀ c, imageCause (Claims.bytesOf ls) = some c →
        exec (.lanInst x) s = .next (s1.takeTrap s.cur c 0 (s.slot s.cur).pc false))) ∧
  (∀ (s : State) (x : FmtA) (v : Word) (q : Reading), Issues (.lanDrop x) s → s.reads1 x.a v q →
    s.canWrite s.cur x.d.toNat = true →
      let dev := devOf s.cur
      let n := v.toNat % 16
      let old := s.stream dev n
      (n ≠ 0 → (∀ so ∈ stackSockets, s.home (dieOf s.cur) (stackPa dev so) = .ok) → ∃ t : State, exec (.lanDrop x) s = .next ((t.writeReg s.cur x.d.toNat (BitVec.ofNat 64
          (match old.image with | some i => (lheadOf i).id | none => 0))).retired s.cur (Instr.lanDrop x).enc.len q) ∧
        t.stream dev n = ⟨(old.inst + 1) % 2 ^ 16, none⟩ ∧ ∀ m, m ≠ n → t.stream dev m = s.stream dev m) ∧
      (n = 0 → exec (.lanDrop x) s = .next (s.takeTrap s.cur 0x86 0 (s.slot s.cur).pc false))) ∧
  (∀ (s : State) (x : FmtA), Issues (.lanDflt x) s →
    (∀ so ∈ stackSockets, s.home (dieOf s.cur) (stackPa (devOf s.cur) so) = .ok) →
    ∃ t : State, exec (.lanDflt x) s = .next (t.retired s.cur (Instr.lanDflt x).enc.len {}) ∧
      (∀ n, 1 ≤ n → n ≤ 15 → t.stream (devOf s.cur) n = ⟨((s.stream (devOf s.cur) n).inst + 1) % 2 ^ 16, none⟩) ∧
      (∀ k, let l := Tab.get {} (t.mod (devOf s.cur)).lanterns k
        l.taken = 0 ∧ l.failed = 0 ∧ l.units = 0) ∧ t.mem = s.mem) ∧
  (∀ (s : State) (x : FmtA) (a b : Word) (q : Reading), Issues (.lanStat x) s → s.reads2 x.a x.b a b q →
    s.canWrite s.cur x.d.toNat = true →
      let sel := a.toNat % 2 ^ 16
      let k := b.toNat % 128
      let t := s.stream (devOf s.cur) sel
      let l := Tab.get {} (s.mod (devOf s.cur)).lanterns k
      (0x100 ≤ sel → sel ≤ 0x102 → k < 96 → s.home (dieOf s.cur) (stackPa (devOf s.cur) (lanternSocket k)) = .ok) →
      ∃ w : Nat, exec (.lanStat x) s = .next ((s.writeReg s.cur x.d.toNat (BitVec.ofNat 64 w)).retired s.cur
          (Instr.lanStat x).enc.len q) ∧
        (sel = 0 → w = 1) ∧
        (1 ≤ sel → sel ≤ 15 → w = (match t.image with | some i => (lheadOf i).id | none => 0) * 2 ^ 32 +
          t.inst * 2 ^ 16 + (if t.image.isSome then 1 else 0)) ∧
        (k < 96 → (sel = 0x100 → w = l.taken) ∧ (sel = 0x101 → w = l.failed) ∧ (sel = 0x102 → w = l.units)))) ∧
  ((∀ (s s1 s2 : State) (x : FmtA) (a : Word) (l1 l2 : List Nat) (q : Reading), Issues (.tapLoad x) s →
    s.reads1 x.a a q → (s.taperFree (devOf s.cur) s.cur = true → s.canWrite s.cur x.d.toNat = true) → a.toNat % 64 = 0 →
      let dev := devOf s.cur
      let s0 := s.onTaper dev (fun t => { t with loading := some s.cur })
      let cb := Claims.bytesOf l1
      s.ioHome dev 0 = .ok → s.loadRefused dev s.cur = false → l1.length = 9 → Claims.linesRead s.cur s0 a l1 s1 →
      l2.length = tableLines cb → Claims.linesRead s.cur s1 (BitVec.ofNat 64 (tableLine cb)) l2 s2 →
      (tableOk cb (Claims.bytesOf l2) = true →
        ∃ t : State, exec (.tapLoad x) s = .next ((t.writeReg s.cur x.d.toNat (BitVec.ofNat 64 (cbCount cb))).retired
            s.cur (Instr.tapLoad x).enc.len q) ∧
          let e := t.taper dev
          e.loaded = true ∧ e.cb = cb ∧ e.tbl = Claims.bytesOf l2 ∧ e.run = false ∧ e.fin = false ∧ e.failed = none ∧
          e.head = 0 ∧ e.pass = 0 ∧ e.dispatched = 0 ∧ e.ended = 0 ∧ e.loading = none ∧
          (∀ j < 16, Tab.get {} e.chans j = ⟨0, linkDepth (outWord1 cb j)⟩) ∧
          (∀ j, Tab.get {} e.rings j = {} ∧ Tab.get {} e.stash j = {} ∧ Tab.get 0 e.bubbles j = 0)) ∧
      (tableOk cb (Claims.bytesOf l2) = false →
        exec (.tapLoad x) s = .next ((s2.onTaper dev (fun t => { t with loading := none })).takeTrap s.cur 0x87 0
          (s.slot s.cur).pc false))) ∧
  (∀ (s : State) (x : FmtA) (a : Word) (q : Reading), Issues (.tapLoad x) s → s.reads1 x.a a q →
    s.canWrite s.cur x.d.toNat = true → a.toNat % 64 = 0 → s.ioHome (devOf s.cur) 0 = .ok →
    s.loadRefused (devOf s.cur) s.cur = true →
      exec (.tapLoad x) s = .next (s.takeTrap s.cur 0x87 0 (s.slot s.cur).pc false)) ∧
  (∀ (s : State) (x : FmtA) (v : Word) (q : Reading), Issues (.tapGo x) s → s.reads1 x.a v q →
    s.ioHome (devOf s.cur) 0 = .ok →
      let dev := devOf s.cur
      let e := s.taper dev
      let loading := s.loadUnderWay dev (2 ^ 40)
      (v.toNat < 2 ^ 9 → e.loaded = true → e.run = false → e.fin = false → e.failed = none → loading = false →
        ∃ t : State, exec (.tapGo x) s = .next (t.retired s.cur (Instr.tapGo x).enc.len q) ∧
          t.taper dev = { e with run := true, asid := BitVec.ofNat 9 v.toNat } ∧
          t.timers.any (fun z => decide (z.2 = .taperDispatch (dieKey dev 6))) = true) ∧
      (2 ^ 9 ≤ v.toNat ∨ e.loaded = false ∨ e.run = true ∨ e.fin = true ∨ e.failed.isSome = true ∨ loading = true →
        exec (.tapGo x) s = .next (s.takeTrap s.cur 0x87 0 (s.slot s.cur).pc false))) ∧
  (∀ (s : State) (x : FmtA), Issues (.tapHalt x) s → s.canWrite s.cur x.d.toNat = true →
    s.ioHome (devOf s.cur) 0 = .ok →
      exec (.tapHalt x) s = .next (((s.onTaper (devOf s.cur) (fun t => { t with run := false })).writeReg s.cur
        x.d.toNat (BitVec.ofNat 64 (s.taper (devOf s.cur)).head)).retired s.cur (Instr.tapHalt x).enc.len {})) ∧
  (∀ (s : State) (x : FmtA) (v : Word) (q : Reading), Issues (.tapStat x) s → s.reads1 x.a v q →
    s.canWrite s.cur x.d.toNat = true → s.ioHome (devOf s.cur) 0 = .ok →
      let e := s.taper (devOf s.cur)
      let sel := v.toNat % 2 ^ 16
      ∃ w : Nat, exec (.tapStat x) s = .next ((s.writeReg s.cur x.d.toNat (BitVec.ofNat 64 w)).retired s.cur
          (Instr.tapStat x).enc.len q) ∧
        (sel < 4 → w = Tab.get 0 e.bubbles sel % 2 ^ 64) ∧ (sel = 4 → w = e.dispatched % 2 ^ 64) ∧
        (sel = 5 → w = e.ended % 2 ^ 64) ∧ (sel = 6 → w = e.discarded) ∧ (sel = 7 → w = e.withheld) ∧
        (∀ n < 16, sel = 0x10 + n → let r := Tab.get {} e.rings n
          w = r.arr * 2 ^ 32 + r.taken * 2 ^ 16 + r.done) ∧
        (∀ n < 64, sel = 0x40 + n → let z := Tab.get {} e.stash n
          w = z.users % 2 ^ 8 * 2 ^ 8 + z.st)) ∧
  (∀ (i : Instr) (s : State) (x : FmtA) (v : Word) (q : Reading),
    (i = .tapLoad x ∧ s.reads1 x.a v q ∧ v.toNat % 64 = 0 ∨ i = .tapGo x ∧ s.reads1 x.a v q ∨
      i = .tapStat x ∧ s.reads1 x.a v q ∨ i = .tapHalt x ∧ q = {} ∨ i = .tapHead x ∧ q = {}) → Issues i s →
    s.canWrite s.cur x.d.toNat = true →
    (s.ioHome (devOf s.cur) 0 = .held →
      exec i s = .next (s.awaiting s.cur q (.router (ioPa (devOf s.cur) 0)))) ∧
    (s.ioHome (devOf s.cur) 0 = .failed →
      exec i s = .next (s.machineError s.cur 0xB2 (ioPa (devOf s.cur) 0) (s.slot s.cur).pc))) ∧
  (∀ (s : State) (x : FmtA), Issues (.tapHead x) s → s.canWrite s.cur x.d.toNat = true →
    s.ioHome (devOf s.cur) 0 = .ok →
      let e := s.taper (devOf s.cur)
      ∃ w : Nat, exec (.tapHead x) s = .next ((s.writeReg s.cur x.d.toNat (BitVec.ofNat 64 w)).retired s.cur
          (Instr.tapHead x).enc.len {}) ∧
        bits w 61 3 = (if e.loaded = false then 7 else if e.failed.isSome then 6 else if e.run = false then 5
          else s.taperWhy (devOf s.cur)) ∧
        bits w 60 1 = (if e.run then 1 else 0) ∧ bits w 59 1 = (if e.fin then 1 else 0) ∧
        bits w 32 24 = e.pass % 2 ^ 24 ∧ bits w 24 8 = (e.failed.getD e.head) % 2 ^ 8 ∧ bits w 0 16 = e.outCount % 2 ^ 16))

/-! ### Cochains -/

/-- R299, R300, R311 to R315, R327: `cx.load` reads a header, advances the slot's generation and makes it loading with the
region that the offset names; it then waits for the halo operations in flight on the old image, reads the image's lines
into the region and, when the image is valid and no longer than the region (R305), leaves the slot loaded and returns the generation; an invalid image raises
0x76 and leaves the slot empty. A `cx.load` that has begun goes on from there. `cx.drop` advances the generation and empties
a slot, waits in the same way, and then gives up the region. `cx.bind` writes a cochain register from two words, or raises
0x62 for a format that none takes; `cx.rebind` gives a register the current generation; `cx.gen` reads a slot's state and
generation, or a word of a cochain register.

Notes/assumptions 45, on the order of the header's checks and the generation, and 108, on the order of the reads and the
stores, are the model's readings. -/
def Obligations.ComplexSlots : Prop :=
  (∀ (s b : State) (x : FmtK) (a o : Word) (q1 q2 : Reading), Issues (.cxLoad x) s →
    s.readCode s.cur x.a.toNat {} = some (a, q1) → s.readCode s.cur x.b.toNat q1 = some (o, q2) →
    s.canWrite s.cur x.d.toNat = true →
      let ck := clusterOf s.cur
      let n := x.md.toNat % 4
      let c := s.cluster ck
      let begins := a.toNat % 64 = 0 ∧ o.toNat % 64 = 0 ∧ (c.cxSlot n).st ≠ 1 ∧ ∃ v s1,
        let hdr : Img := fun i => bits v (8 * i) 32
        Claims.linesRead s.cur s a [v] s1 ∧ headerOk hdr = true ∧ o.toNat + 64 * imgLines hdr ≤ 0x400000 ∧
        c.cxOverlap n o.toNat (64 * imgLines hdr) = false ∧
        b = (s1.onCx ck n (fun _ => {
          st := 1, gen := nextGen (c.cxSlot n).gen, off := o.toNat, lines := imgLines hdr, user := some s.cur })).onSlot s.cur (fun z => { z with begun := true })
      (if (s.slot s.cur).begun then b = s else begins) →
      let z := (b.cluster ck).cxSlot n
      (c.cxBusy n = true → exec (.cxLoad x) s = .next (b.awaiting s.cur q2 .busy)) ∧
      (∀ ls s2, c.cxBusy n = false → z.off + 64 * z.lines ≤ 0x400000 → ls.length = z.lines →
        Claims.linesRead s.cur b a ls s2 →
        let t := s2.storeLines ck z.off ls
        let ok := imageOk (t.image ck z.off) = true ∧ imgLines (t.image ck z.off) ≤ z.lines
        (ok → ∃ u : State,
          exec (.cxLoad x) s = .next ((u.writeReg s.cur x.d.toNat (BitVec.ofNat 64 z.gen)).retired
            s.cur (Instr.cxLoad x).enc.len q2) ∧
          (u.cluster ck).cxSlot n = { z with st := 2, user := none } ∧
          (∀ m, m ≠ n → (u.cluster ck).cxSlot m = c.cxSlot m) ∧
          ∀ j w, ls[j]? = some w → u.scratchN ck (z.off + 64 * j) 64 = w % 2 ^ 512) ∧
        (¬ok →
          let u := t.takeTrap s.cur 0x76 0 (s.slot s.cur).pc false
          exec (.cxLoad x) s = .next u ∧ (z.user = some s.cur → (u.cluster ck).cxSlot n = { gen := z.gen })))) ∧
  (∀ (s : State) (x : FmtK), Issues (.cxDrop x) s →
      let ck := clusterOf s.cur
      let n := x.md.toNat % 4
      let begun := (s.slot s.cur).begun
      let b := if begun then s else (s.onCx ck n (fun q => { q with
        st := 0, gen := nextGen q.gen, user := some s.cur })).onSlot s.cur (fun z => { z with begun := true })
      (begun = true ∨ ((s.cluster ck).cxSlot n).st ≠ 1 →
        ((s.cluster ck).cxBusy n = true → exec (.cxDrop x) s = .next (b.awaiting s.cur {} .busy)) ∧
        ((s.cluster ck).cxBusy n = false → ∃ t : State,
          exec (.cxDrop x) s = .next (t.retired s.cur (Instr.cxDrop x).enc.len {}) ∧ t.mem = s.mem ∧
          t.slot s.cur = { s.slot s.cur with begun := false } ∧
          ∀ m, let z := (b.cluster ck).cxSlot m
            (t.cluster ck).cxSlot m = if z.user = some s.cur then { gen := z.gen } else z)) ∧
      (begun = false → ((s.cluster ck).cxSlot n).st = 1 →
        exec (.cxDrop x) s = .next (s.takeTrap s.cur 0x77 0 (s.slot s.cur).pc false))) ∧
  (∀ (s : State) (x : FmtK) (a b : Word) (q1 q2 : Reading), Issues (.cxBind x) s →
    s.readCode s.cur x.a.toNat {} = some (a, q1) → s.readCode s.cur x.b.toNat q1 = some (b, q2) →
      let f := bits a.toNat 38 4
      (a.getLsbD 63 = false ∨ f = 3 ∨ f = 4 ∨ f = 9 → ∃ w0 w1 : Word,
        exec (.cxBind x) s = .next ((s.onSlot s.cur (fun z => z.setCoch x.d.toNat w0 w1)).retired s.cur
          (Instr.cxBind x).enc.len q2) ∧
        (∀ j < 64, w0.getLsbD j = (decide (14 ≤ j) && a.getLsbD j)) ∧
        (∀ j < 64, w1.getLsbD j = (decide (j ≠ 19) && b.getLsbD j))) ∧
      (a.getLsbD 63 = true → f ≠ 3 → f ≠ 4 → f ≠ 9 →
        exec (.cxBind x) s = .next (s.takeTrap s.cur 0x62 0 (s.slot s.cur).pc false))) ∧
  (∀ (s : State) (x : FmtK), Issues (.cxRebind x) s →
      let y := s.slot s.cur
      let c := y.coch x.a.toNat
      let z := (s.cluster (clusterOf s.cur)).cxSlot c.slot
      c.v = true → z.st = 2 → c.windowOk (s.image (clusterOf s.cur) z.off) = true → z.gen < 2 ^ 14 →
        ∃ t : State, exec (.cxRebind x) s = .next (t.retired s.cur (Instr.cxRebind x).enc.len {}) ∧
          (t.slot s.cur).coch x.d.toNat = { c with gen := z.gen } ∧
          (∀ j, j ≠ x.d.toNat → (t.slot s.cur).coch j = y.coch j) ∧ t.mem = s.mem ∧ (t.slot s.cur).g = y.g) ∧
  (∀ (s : State) (x : FmtK), Issues (.cxGen x) s → s.canWrite s.cur x.d.toNat = true →
      let z := (s.cluster (clusterOf s.cur)).cxSlot x.md.toNat
      exec (.cxGen x) s = .next ((s.writeReg s.cur x.d.toNat
        (if x.md.toNat < 4 then BitVec.ofNat 64 (z.st * 2 ^ 14 + z.gen)
          else if x.md.toNat = 4 then Tab.get 0 (s.slot s.cur).c0 x.a.toNat
          else Tab.get 0 (s.slot s.cur).c1 x.a.toNat)).retired s.cur (Instr.cxGen x).enc.len {}))

/-- R317: cochain registers are bound, to the current image of one loaded slot, whose words are `w`. -/
def Sys2Proof.Claims.onImage (s : State) (cs : List Coch) (w : Img) : Prop :=
  ∃ n, (∀ c ∈ cs, c.v = true ∧ c.slot = n ∧ ((s.cluster (clusterOf s.cur)).cxSlot n).gen = c.gen) ∧
    ((s.cluster (clusterOf s.cur)).cxSlot n).st = 2 ∧
    w = s.image (clusterOf s.cur) ((s.cluster (clusterOf s.cur)).cxSlot n).off

/-- R317: the elements read and written are not range-locked, no written one lies in a slot region, and every one that
is read can be read. -/
def Sys2Proof.Claims.elemsFree (s : State) (reads writes : List CElem) : Prop :=
  (∀ e ∈ reads, s.lockHit (clusterOf s.cur) (s.slot s.cur).asid (nearVa e.1).toNat e.2 false = false ∧
    ∀ o ∈ elemRows e, s.readError (scratchPa (clusterOf s.cur) o) = none) ∧
  ∀ e ∈ writes, s.lockHit (clusterOf s.cur) (s.slot s.cur).asid (nearVa e.1).toNat e.2 true = false ∧
    (s.cluster (clusterOf s.cur)).inRegion e.1 e.2 = false

/-- The mantissa that an AX64 element holds (R32). -/
def Sys2Proof.Claims.mantissa (s : State) (c : Coch) (j : Nat) : Int :=
  (BitVec.ofNat 64 (s.elemBits (clusterOf s.cur) c j)).toInt
/-- R32: an element as read is within ±(2^59 − 1), or its register saturates. -/
def Sys2Proof.Claims.fits (s : State) (c : Coch) (j : Nat) : Prop :=
  c.fmt = 9 → c.sat = false → (Claims.mantissa s c j).natAbs < 2 ^ 59

/-- R317: what a `ck` function that writes a window does once its registers stand on one loaded image and their fields are
related as it needs. When the windows are valid and hold what it reads, the owned targets are of its part and the elements
are free, it computes every result from the old elements and writes the window with it, the flags ORed, and no byte outside
the window changes; where an element read is out of range, or the results are not in range, it takes 0x73 and writes
nothing. -/
def Sys2Proof.Claims.computes (i : Instr) (s : State) (q : Reading) (w : Img) (d : Coch) (cs : List Coch)
    (reads : List (Coch × List Nat)) (inRange : Prop) (val : Nat → Nat × Fl) : Prop :=
  let elems := (reads.map (fun p => p.1.elems p.2)).flatten
  let fits := ∀ p ∈ reads, ∀ j ∈ p.2, Claims.fits s p.1 j
  (∀ c ∈ cs, c.windowOk w = true) → (∀ p ∈ reads, ∀ j ∈ p.2, p.1.has j = true) →
  (d.own = true → ∀ t ∈ d.range, simplexOwner w d.deg t = d.part) → Claims.elemsFree s elems (d.elems d.range) →
    (fits → inRange → ∃ u : State,
      exec i s = .next ((u.flagged s.cur (d.range.foldl (fun f t => f ||| (val t).2) 0)).retired s.cur i.enc.len q) ∧
      (∀ t ∈ d.range, u.elemBits (clusterOf s.cur) d t = (val t).1 % 2 ^ (8 * d.esize)) ∧
      ∀ p, p < scratchPa (clusterOf s.cur) (8 * d.base) ∨
        scratchPa (clusterOf s.cur) (8 * d.base + d.esize * d.count) ≤ p → u.byte p = s.byte p) ∧
    (¬fits ∨ ¬inRange →
      exec i s = .next ((s.readElems (clusterOf s.cur) elems).takeTrap s.cur 0x73 0 (s.slot s.cur).pc false))

/-- A result rounded once to a register's format, with its flags (R33, R35). -/
def Sys2Proof.Claims.rounded (d : Coch) (rm : Rm) (v : CVal) : Nat × Fl := ((d.round rm v).1, (d.round rm v).2.1)

/-- R317 to R321, R323, R324: the `ck` functions that write their target's window. The exterior derivative is the signed
sum over the boundary, of mantissas exactly when the source is AX64 and so the target too; the star multiplies and its
inverse divides by the weight, the codifferential is the weighted sum over the coboundary, the conversion copies, the wedge
follows R321, and axpy forms h × a + b; each exact value is rounded once.

R322 to R325: `ck.interp` writes the interpolated outputs of every point in order; `ck.anch` gives its register the
least anchor of R323 at which every element of the source, times 2^(4 × md) of headroom, has a mantissa in range, or the
nearest bound of the field; `ck.dot` writes the weighted sum
of the products of owned elements into an h register; `ck.hpack` copies the listed elements into the buffer, an AX64
element as R32 reads it, and `ck.hunp` the buffer into the listed elements, the later of two that name one simplex
remaining.

Each completes when its registers are bound to one loaded image, its fields are related as its rule says, its windows are
valid and hold what it reads, no element is locked or, when written, in a slot region, and every element read can be read
and is in range. Rests on the model's readings in notes/assumptions 43, 44, 89 and 90.

Rests on the model's readings in notes/assumptions 43, 44, 89 and 90. -/
def Obligations.CochainResults : Prop :=
  (∀ (s : State) (x : FmtK) (w : Img),
    let ck := clusterOf s.cur
    let rm := FmtK.rm x
    let d := (s.slot s.cur).coch x.d.toNat
    let a := (s.slot s.cur).coch x.a.toNat
    let b := (s.slot s.cur).coch x.b.toNat
    let va := s.cval ck a
    let vb := s.cval ck b
    let edges := (d.range.map (fun t => (bnd w d.deg t).map Prod.fst)).flatten
    let sum := fun t => ((bnd w d.deg t).map (fun e => if e.2 then -(s.axElem ck a e.1).1 else (s.axElem ck a e.1).1)).sum
    (Issues (.ckDx x) s → Claims.onImage s [d, a] w → a.dual = false → d.dual = false → a.deg < imgDim w →
      d.deg = a.deg + 1 → (a.fmt = 9 → d.fmt = 9 ∧ d.anch = a.anch) →
      Claims.computes (.ckDx x) s {} w d [d, a] [(a, edges)]
        (a.fmt = 9 → d.sat = false → ∀ t ∈ d.range, (sum t).natAbs < 2 ^ 59)
        (fun t => if a.fmt = 9 then ((dxAx s ck w d a t).1, (dxAx s ck w d a t).2.1)
          else Claims.rounded d rm (CVal.sum rm ((bnd w d.deg t).map (fun e => (va e.1).neg e.2))))) ∧
    (Issues (.ckStar x) s → Claims.onImage s [d, a] w → d.deg = a.deg → d.dual = true → a.dual = false →
      d.row0 = a.row0 → d.count = a.count →
      Claims.computes (.ckStar x) s {} w d [d, a] [(a, d.range)] True
        (fun t => Claims.rounded d rm ((va t).mul (weightOf w d.deg t)))) ∧
    (Issues (.ckIstar x) s → Claims.onImage s [d, a] w → d.deg = a.deg → d.dual = false → a.dual = true →
      d.row0 = a.row0 → d.count = a.count →
      Claims.computes (.ckIstar x) s {} w d [d, a] [(a, d.range)] True
        (fun t => Claims.rounded d rm ((va t).div (weightOf w d.deg t)))) ∧
    (Issues (.ckCodif x) s → Claims.onImage s [d, a] w → 1 ≤ a.deg → d.deg + 1 = a.deg → a.dual = false → d.dual = false →
      Claims.computes (.ckCodif x) s {} w d [d, a] [(a, (d.range.map (fun t => (cobnd w d.deg t).map Prod.fst)).flatten)] True
        (fun t => Claims.rounded d rm ((CVal.sum rm ((cobnd w d.deg t).map (fun e =>
          ((va e.1).mul (weightOf w a.deg e.1)).neg e.2))).div (weightOf w d.deg t)))) ∧
    (Issues (.ckCvt x) s → Claims.onImage s [d, a] w → d.deg = a.deg → d.dual = a.dual → d.count = a.count →
      Claims.computes (.ckCvt x) s {} w d [d, a] [(a, a.range)] True
        (fun t => Claims.rounded d rm (va (a.row0 + (t - d.row0))))) ∧
    (Issues (.ckWedge x) s → Claims.onImage s [d, a, b] w → a.dual = false → b.dual = false → d.dual = false →
      (a.deg = 0 ∧ d.deg = b.deg ∨ a.deg = 1 ∧ b.deg = 1 ∧ d.deg = 2 ∧ ∀ t ∈ d.range, simplicial w 2 t = true) →
      Claims.computes (.ckWedge x) s {} w d [d, a, b]
        [(a, (d.range.map (fun t => if a.deg = 0 then vertsOf w d.deg t else cornerEdges w 2 t)).flatten),
          (b, (d.range.map (fun t => if a.deg = 0 then [t] else cornerEdges w 2 t)).flatten)] True
        (fun t => Claims.rounded d rm (wedgeValue rm w va vb a d t))) ∧
    (∀ h q, Issues (.ckAxpy x) s → s.readCode s.cur (16 + x.md.toNat / 4) {} = some (h, q) → Claims.onImage s [d, a, b] w →
      d.deg = a.deg → a.deg = b.deg → d.dual = a.dual → a.dual = b.dual → d.count = a.count → a.count = b.count →
      Claims.computes (.ckAxpy x) s q w d [d, a, b] [(a, a.range), (b, b.range)] True
        (fun t => Claims.rounded d rm (((CVal.pure (fp64.decode h.toNat)).mul (va (a.row0 + (t - d.row0)))).add rm
          (vb (b.row0 + (t - d.row0))))))) ∧
  (∀ (s : State) (x : FmtK) (w : Img),
    let ck := clusterOf s.cur
    let rm := FmtK.rm x
    let d := (s.slot s.cur).coch x.d.toNat
    let a := (s.slot s.cur).coch x.a.toNat
    let b := (s.slot s.cur).coch x.b.toNat
    let trapped := fun es => (s.readElems ck es).takeTrap s.cur 0x73 0 (s.slot s.cur).pc false
    (∀ (m : Nat), Issues (.ckInterp x) s → Claims.onImage s [d, a, b] w → m = b.deg → a.deg ≤ 1 → a.dual = false →
      1 ≤ m → m ≤ imgDim w → b.fmt = 3 →
      let n := if a.deg = 0 then 1 else m + 1
      let ps := (List.range b.count).map (s.point ck b)
      let out : Coch := { d with row0 := 0 }
      let vs := (ps.map (pointValues rm w (s.cval ck a) a.deg m)).flatten
      let rs := (ps.map (fun p => pointReads w a.deg m p.cell)).flatten
      let es := (List.range b.count).map (fun p => (8 * b.base + 16 * p, 16)) ++ a.elems rs
      d.count = b.count * n → (∀ p ∈ ps, p.cell < imgN w m ∧
        if m = 1 then (bnd w 1 p.cell).length = 2 else simplicial w m p.cell = true) →
      1 ≤ b.count → 8 * b.base + 16 * b.count ≤ 0x400000 → 8 * d.base + d.esize * d.count ≤ 0x400000 →
      a.windowOk w = true → (∀ j ∈ rs, a.has j = true) → Claims.elemsFree s es (out.elems out.range) →
      ((∀ j ∈ rs, Claims.fits s a j) → ∃ u : State,
        exec (.ckInterp x) s = .next ((u.flagged s.cur (vs.foldl (fun f v => f ||| (Claims.rounded out rm v).2) 0)).retired
          s.cur (Instr.ckInterp x).enc.len {}) ∧
        ∀ j v, vs[j]? = some v → u.elemBits ck out j = (Claims.rounded out rm v).1 % 2 ^ (8 * d.esize)) ∧
      ((∃ j ∈ rs, ¬Claims.fits s a j) → exec (.ckInterp x) s = .next (trapped es))) ∧
    (Issues (.ckAnch x) s → Claims.onImage s [d, a] w → d.fmt = 9 → d.windowOk w = true → a.windowOk w = true →
      Claims.elemsFree s (a.elems a.range) [] →
      let fitsAt := fun (an : Int) => ∀ j ∈ a.range, ∀ sg n e, (s.cval ck a j).v = .fin sg n e → 0 < e →
        n * 2 ^ (4 * (x.md.toNat % 4)) * (scale2 axMax.natAbs 1 an).2 ≤ e * (scale2 axMax.natAbs 1 an).1
      ((∀ j ∈ a.range, Claims.fits s a j) → ∃ (t : State) (an : Int),
        exec (.ckAnch x) s = .next ((t.flagged s.cur (a.range.foldl (fun f j => f ||| (s.cval ck a j).fl) 0)).retired s.cur
          (Instr.ckAnch x).enc.len {}) ∧
        (t.slot s.cur).coch x.d.toNat = { d with anch := an } ∧ -32768 ≤ an ∧ an ≤ 32767 ∧
        (fitsAt an ∨ an = 32767) ∧ (an = -32768 ∨ ¬fitsAt (an - 1)) ∧ t.mem = s.mem) ∧
      ((∃ j ∈ a.range, ¬Claims.fits s a j) → exec (.ckAnch x) s = .next (trapped (a.elems a.range)))) ∧
    (Issues (.ckDot x) s → Claims.onImage s [a, b] w → a.deg = b.deg → a.dual = b.dual → a.count = b.count →
      a.windowOk w = true → b.windowOk w = true →
      let js := (List.range a.count).filter (fun j => !a.own || decide (simplexOwner w a.deg (a.row0 + j) = a.part))
      let term := fun j =>
        let p := (s.cval ck a (a.row0 + j)).mul (s.cval ck b (b.row0 + j))
        if a.dual then p.div (weightOf w a.deg (a.row0 + j)) else p.mul (weightOf w a.deg (a.row0 + j))
      let t := CVal.sum rm (js.map term)
      let es := a.elems (js.map (fun j => a.row0 + j)) ++ b.elems (js.map (fun j => b.row0 + j))
      let fits := ∀ j ∈ js, Claims.fits s a (a.row0 + j) ∧ Claims.fits s b (b.row0 + j)
      Claims.elemsFree s es [] →
      (fits → exec (.ckDot x) s = .next ((((s.readElems ck es).writeReg s.cur (16 + x.md.toNat / 4)
          (BitVec.ofNat 64 (fp64.round rm t.v).1)).flagged s.cur
            (t.fl ||| (fp64.round rm t.v).2)).retired s.cur (Instr.ckDot x).enc.len {})) ∧
      (¬fits → exec (.ckDot x) s = .next (trapped es))) ∧
    (∀ h q, s.readCode s.cur (16 + x.md.toNat / 4) {} = some (h, q) →
      let ls := s.simplexList (coreOf s.cur) (hList h) (hCount h)
      (∀ j < hCount h, s.readError (localPa (coreOf s.cur) (4 * (hList h + j))) = none) →
      (Issues (.ckHpack x) s → Claims.onImage s [a] w → a.windowOk w = true → hWordOk h a.esize = true →
        (∀ j ∈ ls, j < 2 ^ 20 ∧ a.has j = true) → Claims.elemsFree s (a.elems ls) (bufElems h a.esize) →
        ((∀ j ∈ ls, Claims.fits s a j) → ∃ u : State,
          exec (.ckHpack x) s = .next ((u.flagged s.cur
            (if a.fmt = 9 ∧ ∃ j ∈ ls, 2 ^ 59 ≤ (Claims.mantissa s a j).natAbs then Flag.rg ||| Flag.nx else 0)).retired s.cur
              (Instr.ckHpack x).enc.len q) ∧
          ∀ j e, ls[j]? = some e → u.scratchN ck (hBuf h + a.esize * j) a.esize =
            if a.fmt = 9 then
              (BitVec.ofInt 64 (max (-(2 ^ 59 - 1)) (min (2 ^ 59 - 1) (Claims.mantissa s a e)))).toNat
            else s.elemBits ck a e) ∧
        ((∃ j ∈ ls, ¬Claims.fits s a j) → exec (.ckHpack x) s = .next (trapped (a.elems ls)))) ∧
      (Issues (.ckHunp x) s → Claims.onImage s [d] w → d.windowOk w = true → hWordOk h d.esize = true →
        (∀ j ∈ ls, j < 2 ^ 20 ∧ d.has j = true) → (d.own = true → ∀ j ∈ ls, simplexOwner w d.deg j = d.part) →
        Claims.elemsFree s (bufElems h d.esize) (d.elems ls) → ∃ u : State,
          exec (.ckHunp x) s = .next (u.retired s.cur (Instr.ckHunp x).enc.len q) ∧
          ∀ j e, ls[j]? = some e → (∀ k, j < k → ls[k]? ≠ some e) →
            u.elemBits ck d e = s.scratchN ck (hBuf h + d.esize * j) d.esize)))

/-! ### The matrix unit -/

/-- A matrix instruction's operation finds the unit idle and room for its ranges, which conflict with nothing (R350,
R352). -/
def Sys2Proof.Claims.unitFree (s : State) (rs : List Range) : Prop :=
  (s.slot s.cur).occ = true ∧ (s.core (coreOf s.cur)).mx = [] ∧
    (s.cluster (clusterOf s.cur)).conflict (s.slot s.cur).asid rs = false ∧
    (s.cluster (clusterOf s.cur)).regionConflict rs = false ∧
    (s.cluster (clusterOf s.cur)).locks.length + rs.length ≤ 64 ∧
    ∀ l ∈ (s.cluster (clusterOf s.cur)).locks, l.op ≠ s.nextOp

/-- `n` bytes at a scratchpad offset can be read where they lie in range (R156, R234). -/
def Sys2Proof.Claims.tileOk (s : State) (off n : Nat) : Prop :=
  ∀ j < n, off + j < 0x400000 → s.readError (scratchPa (clusterOf s.cur) (off + j)) = none

/-- A matrix instruction runs: its operation is under way after the step, with the slot out of the rotation and the pc
past it, and `t` is the state after the operation retires, with the slot back, the unit idle and its ranges freed. -/
def Sys2Proof.Claims.runsOnUnit (i : Instr) (s t : State) (cycles : Nat) : Prop :=
  ∃ u, exec i s = .next u ∧ (u.slot s.cur).wait = .matrix ∧
    (u.slot s.cur).pc = (s.slot s.cur).pc + BitVec.ofNat 64 i.enc.len ∧
    (s.tick + cycles, Event.matrixOperationRetire (coreOf s.cur)) ∈ u.timers ∧
    exec .matrixOperationRetire (u.given (.matrixOperationRetire (coreOf s.cur))) = .next t ∧
    (t.slot s.cur).wait = .none ∧ (t.core (coreOf s.cur)).mx = [] ∧
    (t.cluster (clusterOf s.cur)).locks = (s.cluster (clusterOf s.cur)).locks

/-- Element (i, j) of an accumulator after a multiply-accumulate (R29 to R31, R344): the products of the present K-blocks
summed exactly and rounded once, scaled, and added; for FP32 each product in turn by a fused multiply-add; for FP4 each
block of 32 in turn. `sc` gives the combined scale of a row, a column and a block. -/
def Sys2Proof.Claims.mmaElement (f : Nat) (present : List Bool) (a b : List Byte) (sc : Nat → Nat → Nat → Nat) (i j acc : Nat) : Nat :=
  let ks := (List.range (mmaDepth f)).filter (fun k => present.getD (k / 16) true)
  let prods := ks.map (fun k => (mmaA f a i k, mmaB f present b k j))
  if f = 0 then rneAdd32 acc (rneMul32 (rne32 (dotSum prods)) (sc i j 0))
  else if f = 1 then
    (List.range 4).foldl (fun c q =>
      rneAdd32 c (rneMul32 (rne32 (dotSum ((List.range 32).map (fun e => (mmaF4 a i q e, mmaF4 b j q e))))) (sc i j q))) acc
  else if f = 2 then rneAdd32 acc (rne32 (dotSum prods))
  else prods.foldl (fun c p => (fp32.finish .rne (FV.fma .rne (fp32.decode c) p.1 p.2)).1) acc

/-- The K-blocks that are present, and fs after the walk where there is one (R343): all of them in the dense form, as the
skip list says in a sparse form, whose words can be read. -/
def Sys2Proof.Claims.skipped (s : State) (sparse : Option Nat) (f : Nat) (present : List Bool) (fs : Option Word) : Prop :=
  match sparse with
  | none => present = List.replicate (mmaBlocks f) true ∧ fs = none
  | some q => ∃ p,
    skipWalk (fun o => s.localN (coreOf s.cur) o 1) (mmaBlocks f) (skipOf (s.slot s.cur).fs q) = some (present, p) ∧
    fs = some (skipPut (s.slot s.cur).fs q p) ∧
    ∀ k, (skipOf (s.slot s.cur).fs q).off / 8 ≤ k → k ≤ skipLast (some (present, p)) / 8 →
      s.readError (localPa (coreOf s.cur) (8 * k)) = none

/-- R338, R342 to R346, R350: a multiply-accumulate whose formats agree and are the core's, whose rings hold whole tiles
and whose scale words are valid, with every product of two in range, runs on the idle unit: each element of the accumulator
takes the sum of R344 over the K-blocks that are present, all of them in the dense form, as the skip list says in the
sparse forms, whose stream position advances in fs; the rings that mx names are popped. It runs so at its issue, and again
after a wait, when its checks stand as made.

Rests on the model's readings in notes/assumptions 60. -/
def Obligations.MatrixMultiplyAccumulates : Prop :=
  ∀ (i : Instr) (s : State) (x : FmtM) (sparse : Option Nat) (f : Nat) (present : List Bool) (fs : Option Word),
    (i = .mxMma x ∧ sparse = none ∨ i = .mxMmaz0 x ∧ sparse = some 0 ∨ i = .mxMmaz1 x ∧ sparse = some 1) →
    Issues i s →
      let y := s.slot s.cur
      let ck := clusterOf s.cur
      let blocks := (present.filter id).length
      let bn := blocks * mmaBlockBytes f
      let ra := s.ring s.cur x.a.toNat
      let rb := s.ring s.cur x.b.toNat
      let ao := ra.tileOff ra.tail
      let bo := rb.tileOff rb.tail
      let a := s.spadBytes ck ao (mmaABytes f)
      let b := s.spadBytes ck bo bn
      let block := fun (w : Word) (r : Ring) => bits w.toNat 4 22 + r.tail % r.depth * bits w.toNat 26 12
      let scA := fun i q => if f = 0 then leNat (s.spadBytes ck (block y.fa ra + 4 * i) 4) else mmaF4Scale a i q
      let scB := fun j q => if f = 0 then leNat (s.spadBytes ck (block y.fb rb) 4) else mmaF4Scale b j q
      y.mxIssue = none ∨ y.mxIssue = some ⟨f, present, fs⟩ →
      y.fa.getLsbD 63 = false → bits y.fa.toNat 0 4 = f → bits y.fb.toNat 0 4 = f → f < 10 → mmaTakes (isW ck) f = true →
      (f = 1 → sparse = none) → Claims.skipped s sparse f present fs →
      ringHolds ra (mmaABytes f) = true → ringHolds rb bn = true → ra.occupancy ≠ 0 → rb.occupancy ≠ 0 →
      Claims.tileOk s ao (mmaABytes f) → Claims.tileOk s bo bn →
      (f = 0 → Claims.tileOk s (block y.fa ra) 128 ∧ Claims.tileOk s (block y.fb rb) 4) →
      (f ≤ 1 → ∀ i < 32, ∀ q < 4, scaleValid (scA i q) = true ∧ scaleValid (scB i q) = true) →
      (f ≤ 1 → ∀ i < 32, ∀ j < 32, ∀ q < 4, combinedBad (rneMul32 (scA i q) (scB j q)) = false) →
      Claims.unitFree s (tileRange ao (mmaABytes f) false ++ tileRange bo bn false) →
      ∃ t, Claims.runsOnUnit i s t (max 1 (blocks * mmaBlockCycles f)) ∧ (t.slot s.cur).fs = fs.getD y.fs ∧
        (∀ r < 32, ∀ c < 32, Tab.get 0 ((t.core (coreOf s.cur)).tile x.d.toNat y.asid) (32 * r + c) =
          Claims.mmaElement f present a b (fun i j q => rneMul32 (scA i q) (scB j q)) r c
            (Tab.get 0 ((s.core (coreOf s.cur)).tile x.d.toNat y.asid) (32 * r + c))) ∧
        (t.slot s.cur).dead.getLsbD (32 + x.d.toNat) = false ∧
        (t.ring s.cur x.a.toNat).tail = (ra.tail + if x.mx.getLsbD 7 then 1 else 0) % 2 ^ 16 ∧
        (t.ring s.cur x.b.toNat).tail = (rb.tail + if x.mx.getLsbD 6 then 1 else 0) % 2 ^ 16

/-- R347 to R350: `mx.clr` leaves every element of the accumulator +0; `mx.ld` replaces it with the input tile's BF16
elements widened or FP32 elements, and pops the ring when mx says so; `mx.st` writes the accumulator, rounded to FP8 or
BF16 under fc's rounding code or as FP32, into the output tile where it lies in range, and advances the ring's head. Beyond
the scratchpad an input tile reads zero.

Rests on the model's readings in notes/assumptions 60. -/
def Obligations.MatrixTileInstructions : Prop :=
  ∀ (s : State) (x : FmtM),
    let y := s.slot s.cur
    let ck := clusterOf s.cur
    let r := s.ring s.cur x.a.toNat
    let tile := fun (t : State) => (t.core (coreOf s.cur)).tile x.d.toNat y.asid
    y.fa.getLsbD 63 = false →
    (Issues (.mxClr x) s → Claims.unitFree s [] → ∃ t, Claims.runsOnUnit (.mxClr x) s t 1 ∧
      ∀ n < 1024, Tab.get 0 (tile t) n = 0) ∧
    (∀ z f, Issues (.mxLd x) s → f = bits y.fc.toNat 4 4 → (f = 2 ∧ z = 2 ∨ f = 3 ∧ z = 4) →
      y.mxIssue = none ∨ y.mxIssue = some { fmt := f } → ringHolds r (1024 * z) = true → r.occupancy ≠ 0 →
      Claims.tileOk s (r.tileOff r.tail) (1024 * z) →
      Claims.unitFree s (tileRange (r.tileOff r.tail) (1024 * z) false) → ∃ t, Claims.runsOnUnit (.mxLd x) s t 32 ∧
        (∀ n < 1024, Tab.get 0 (tile t) n =
          leNat (s.spadBytes ck (r.tileOff r.tail + z * n) z) * (if z = 2 then 2 ^ 16 else 1)) ∧
        (t.ring s.cur x.a.toNat).tail = (r.tail + if x.mx.getLsbD 7 then 1 else 0) % 2 ^ 16) ∧
    (∀ z f, Issues (.mxSt x) s → f = bits y.fc.toNat 0 4 → (f = 0 ∧ z = 1 ∨ f = 2 ∧ z = 2 ∨ f = 3 ∧ z = 4) →
      y.mxIssue = none ∨ y.mxIssue = some { fmt := f } →
      ringHolds r (1024 * z) = true → r.occupancy < r.depth → (s.cluster ck).pushing s.cur x.a.toNat = false →
      Claims.unitFree s (tileRange (r.tileOff r.head) (1024 * z) true) → ∃ t, Claims.runsOnUnit (.mxSt x) s t 32 ∧
        (∀ n < 1024, r.tileOff r.head + z * n + z ≤ 0x400000 → t.scratchN ck (r.tileOff r.head + z * n) z =
          (if f = 0 then (fp8.round (Rm.ofCode (BitVec.ofNat 2 (bits y.fc.toNat 8 2)))
              (fp32.decode (Tab.get 0 (tile s) n))).1
            else if f = 2 then (bf16.round (Rm.ofCode (BitVec.ofNat 2 (bits y.fc.toNat 8 2)))
              (fp32.decode (Tab.get 0 (tile s) n))).1
            else Tab.get 0 (tile s) n % 2 ^ 32)) ∧
        (t.ring s.cur x.a.toNat).head = (r.head + 1) % 2 ^ 16)

/-! ### Engines -/

/-- The command that `enq` copies at issue (R54, R195): the 32 bytes at its offset of the core's local memory, the
dimension block, the stream image, and for a halo operation the cochain register and the simplex list. -/
def Sys2Proof.Claims.command (s : State) (x : FmtE) (len : Nat) (off : Word) : EngOp :=
  let core := coreOf s.cur
  let y := s.slot s.cur
  let o : EngOp :=
    { id := 0, eq := x.eq.toNat, core := coreNo core, slot := s.cur, wick := y.wick, asid := y.asid, sys := !y.user
      tok := x.tok.toNat, tcw := BitVec.ofNat 256 (s.localN core off.toNat 32), len := len }
  let m := Tab.get {} (s.mod (devOf s.cur)).streams o.strm
  { o with
    blk := BitVec.ofNat 512 (s.localN core (64 * o.doff) 64)
    image := if o.strm = 0 ∨ x.eq = 5 then none else m.image
    inst := m.inst, c0 := Tab.get 0 y.c0 o.hreg, c1 := Tab.get 0 y.c1 o.hreg
    idx := if x.eq = 5 then (List.range o.hcount).map (fun j => s.localN core (4 * (o.hlist + j)) 4) else [] }

/-- The cause of a command's body (R179 to R188, R284, R286, R326, R377, R398). -/
def Sys2Proof.Claims.bodyCause (s : State) (o : EngOp) : Option Cause :=
  let m := s.mod (devOf s.cur)
  let empty := decide (o.strm ≠ 0) && (Tab.get {} m.streams o.strm).image.isNone
  let c := s.cluster (clusterOf s.cur)
  match o.eq with
  | 0 => copyCause o (s.slot s.cur).user empty (s.ring s.cur o.rk)
  | 2 => fabricCause o empty
  | 3 => lanternCause o
  | 4 => taperCause o
  | 5 => haloCause o c.cxSlot (s.image (clusterOf s.cur) (c.cxSlot o.coch.slot).off)
  | _ => multicastCause o empty

/-- A registered operation: its ranges stand in the range-lock table, its token register is pending, and it is the last
of its core's ring, or under way with its command's event to come (R176, R194, R195). -/
def Sys2Proof.Claims.queued (s u : State) (o : EngOp) (rs : List Range) : Prop :=
  let ck := clusterOf o.slot
  let q : EngOp := { o with id := s.nextOp, total := o.count, seen := s.carriedBy o.slot }
  (u.cluster ck).locks = (s.cluster ck).locks ++
    rs.map (fun r => ⟨o.asid, r.1.toNat, r.2.1.toNat, r.2.2, s.nextOp⟩) ∧
  (u.slot o.slot).pend = (s.slot o.slot).pend ++ (if o.tok = 0 then [] else [⟨o.tok, true, s.nextOp⟩]) ∧
  u.nextOp = s.nextOp + 1 ∧ u.mem = s.mem ∧ (u.slot o.slot).g = (s.slot o.slot).g ∧
  (o.eq = 0 → Tab.get [] (u.cluster ck).rings o.core = Tab.get [] (s.cluster ck).rings o.core ++ [q] ∧
    u.visiting ck = true) ∧
  (o.eq ≠ 0 → (u.cluster ck).ops = (s.cluster ck).ops ++ [{ q with granted := q.total }] ∧
    ∃ n, (n, q.event ck) ∈ u.timers)

/-- A copy-engine command that pushes a tile into a ring (R188). -/
def Sys2Proof.Claims.pushes (o : EngOp) : Prop := o.eq = 0 ∧ o.cmd ≠ 7 ∧ o.ringBit = true
/-- Tiles of a command's ring that are on their way (R188): pushes of the engine and of the matrix unit. -/
def Sys2Proof.Claims.onTheWay (s : State) (o : EngOp) : Nat :=
  (s.cluster (clusterOf o.slot)).pushes o.slot o.rk + (s.core (coreOf o.slot)).mxPushes o.slot o.rk
/-- A command as it is registered: a push takes the ring's next tile slot (R188). -/
def Sys2Proof.Claims.placed (s : State) (o : EngOp) : EngOp :=
  let r := s.ring o.slot o.rk
  if o.eq = 0 ∧ o.cmd ≠ 7 ∧ o.ringBit = true then
    { o with push := some ⟨o.slot, o.rk, 0x01FFFFFF00000000 + r.tileOff (r.head + Claims.onTheWay s o)⟩ }
  else o
/-- The ranges that it registers (R191). -/
def Sys2Proof.Claims.rangesFor (s : State) (o : EngOp) : List Range := (Claims.placed s o).allRanges (s.ring o.slot o.rk).size
/-- A push whose tile slot reaches past the addresses that there are (R181). -/
def Sys2Proof.Claims.farTile (s : State) (o : EngOp) : Prop := Claims.pushes o ∧ rangesIn (Claims.rangesFor s o) = false
/-- None of them conflicts with a registered range, with another of the command, or with a slot region (R192, R306). -/
def Sys2Proof.Claims.conflicts (s : State) (o : EngOp) : Bool × Bool :=
  ((s.cluster (clusterOf o.slot)).conflict o.asid (Claims.rangesFor s o),
    (s.cluster (clusterOf o.slot)).regionConflict (Claims.rangesFor s o))
/-- There is room for a command (R176, R188, R192): a free tile slot for a push, at most 64 ranges, and for the copy
engine fewer than 16 commands in the core's ring. -/
def Sys2Proof.Claims.roomFor (s : State) (o : EngOp) : Prop :=
  let c := s.cluster (clusterOf o.slot)
  let r := s.ring o.slot o.rk
  (Claims.pushes o → r.occupancy + Claims.onTheWay s o < r.depth) ∧
    c.locks.length + (Claims.rangesFor s o).length ≤ 64 ∧ (o.eq = 0 → (Tab.get [] c.rings o.core).length < 16)

/-- The words of local memory that a command is copied from can be read (R54, R234). -/
def Sys2Proof.Claims.copied (s : State) (o : EngOp) (off : Nat) : Prop :=
  let ok := fun (a n : Nat) => a + n ≤ 0x10000 → s.readFault (localPa (coreOf s.cur) a) n = none
  ok off 32 ∧ (o.eq = 0 → o.cmd ≠ 7 → ok (64 * o.doff) 64 ∧ (o.ringBit = true → ok (ringOff s.cur o.rk) 16)) ∧
    (o.eq = 5 → ok (4 * o.hlist) (4 * o.hcount))
/-- The laser check of a fabric send over the slotted planes passes (R284): the destination's page is translated and an
entry of the slot table serves its device from the I/O die; no other command has it. `s1` is the state after it. -/
def Sys2Proof.Claims.laserOk (s : State) (o : EngOp) (s1 : State) : Prop :=
  (¬(o.eq = 2 ∧ o.stc = false) → s1 = s) ∧
  (o.eq = 2 → o.stc = false → isNear (BitVec.ofNat 64 (o.f 148 57)) = false ∧ ∃ e,
    s.lookup (clusterOf s.cur) (some (coreOf s.cur)) (s.slot s.cur).asid (BitVec.ofNat 64 (o.f 148 57)).toNat = (some e, s1) ∧
    (s.mod (devOf s.cur)).serves o.iod (if e.leaf.getLsbD 9 then bits e.leaf.toNat 10 6 else devOf s.cur) = true)

/-- R54, R192 to R196: `enq` of an aligned command in a queue that exists, whose body raises no cause: with no conflict
and room it is registered and queued; an `enq` that has waited goes on with the command as copied at its issue. A push
whose tile slot lies out of reach raises 0x84 (R181); a conflict raises 0x83, one with a slot region 0x77; without room `enq.try` returns
the token of code 0x01 and registers nothing, and `enq.wt` leaves the rotation with the command as copied. A body's cause
is raised, and 0x80 for a queue that does not exist.

A waiting `enq` that rechecks registers in the same way, after which the words that it had read of the receive queue are
gone (R116); it takes the cause of a ring that is not as it was, of a halo register whose generation has passed, of a tile
slot out of reach, or of a conflict, and otherwise waits on.

Rests on the model's readings in notes/assumptions 46, 53 and 84. -/
def Obligations.EnqueueCompletes : Prop :=
  (∀ (i : Instr) (s : State) (x : FmtE) (off : Word) (q : Reading),
    (i = .enqWt x ∨ i = .enqTry x) → Issues i s → s.reads1 x.a off q → s.canWrite s.cur x.tok.toNat = true →
      let held := (s.slot s.cur).held
      let o := held.getD (Claims.command s x i.enc.len off)
      let exists_ := x.eq = 0 ∨ 2 ≤ x.eq.toNat ∧ x.eq.toNat ≤ 6
      let readable := off.toNat % 32 = 0 ∧ exists_ ∧ Claims.copied s o off.toNat
      (held = none → off.toNat % 32 = 0 → ¬exists_ →
        exec i s = .next (s.takeTrap s.cur 0x80 0 (s.slot s.cur).pc false)) ∧
      (∀ c, held = none → readable → Claims.bodyCause s o = some c →
        exec i s = .next (s.takeTrap s.cur c 0 (s.slot s.cur).pc false)) ∧
      (∀ s0 s1 ov, o.slot = s.cur → (held = none → readable ∧ Claims.bodyCause s o = none) →
        (held.isSome = true → (Claims.pushes o → o.badRing (s.ring s.cur o.rk) = false) ∧
          (o.eq = 5 → (s.cluster (clusterOf s.cur)).haloFresh o = true)) → Claims.laserOk s o s0 →
        (o.vg = false ∧ s1 = s0 ∧ ov = o.vigil ∨ o.vg = true ∧ ∃ t, ov = some t.pa ∧
          s0.xlate (coreOf s.cur) true (s.slot s.cur).user (s.slot s.cur).asid .load (BitVec.ofNat 64 (o.vaddr * 64)) =
            (.ok t, s1)) →
        let o1 : EngOp := { o with vigil := ov }
        let goneOn := fun (z : State) => if held.isSome then (z.onSlot s.cur (fun y => { y with held := none })).readsDone s.cur
          else z
        (Claims.farTile s o1 → exec i s = .next (s1.takeTrap s.cur 0x84 0 (s.slot s.cur).pc false)) ∧
        (¬Claims.farTile s o1 → Claims.conflicts s o1 = (false, false) → Claims.roomFor s o1 →
          ∃ u, exec i s = .next (u.retired s.cur i.enc.len q) ∧
            Claims.queued s1 u (Claims.placed s o1) (Claims.rangesFor s o1)) ∧
        (¬Claims.farTile s o1 → Claims.conflicts s o1 ≠ (false, false) → exec i s = .next (s1.takeTrap s.cur
          (if (Claims.conflicts s o1).1 then 0x83 else 0x77) 0 (s.slot s.cur).pc false)) ∧
        (¬Claims.farTile s o1 → Claims.conflicts s o1 = (false, false) → ¬Claims.roomFor s o1 →
          (i = .enqTry x →
            exec i s = .next ((goneOn (s1.writeReg s.cur x.tok.toNat 0x0100000000000000)).retired s.cur i.enc.len q)) ∧
          (i = .enqWt x → exec i s = .next (((s1.onSlot s.cur (fun y => { y with held := some o1 })).after 64
            (.enqRoomRetry s.cur)).awaiting s.cur q .room))))) ∧
  (∀ (s : State) (k : Nat) (o : EngOp), (s.slot k).wait = .room → (s.slot k).held = some o → o.slot = k →
    let s0 := s.given (.enqRoomRetry k)
    let traps := fun c => exec .enqRoomRetry s0 = .next (s0.takeTrap k c 0 (s.slot k).pc false)
    let ringOk := Claims.pushes o → o.badRing (s.ring k o.rk) = false
    let fresh := o.eq = 5 → (s.cluster (clusterOf k)).haloFresh o = true
    (¬ringOk → traps 0x85) ∧ (ringOk → ¬fresh → traps 0x70) ∧
    (ringOk → fresh → Claims.farTile s o → traps 0x84) ∧
    (ringOk → fresh → ¬Claims.farTile s o → Claims.conflicts s o ≠ (false, false) → traps (if (Claims.conflicts s o).1 then 0x83 else 0x77)) ∧
    (ringOk → fresh → ¬Claims.farTile s o → Claims.conflicts s o = (false, false) → Claims.roomFor s o → ∃ u,
      exec .enqRoomRetry s0 = .next u ∧ Claims.queued s u (Claims.placed s o) (Claims.rangesFor s o) ∧
      (u.slot k).wait = .none ∧ (u.slot k).held = none ∧ (u.core (coreOf k)).ownWords k = [] ∧
      (u.slot k).pc = (s.slot k).pc + BitVec.ofNat 64 o.len) ∧
    (ringOk → fresh → ¬Claims.farTile s o → Claims.conflicts s o = (false, false) → ¬Claims.roomFor s o → ∃ u,
      exec .enqRoomRetry s0 = .next u ∧ u.slots = s.slots ∧ u.mem = s.mem ∧
      u.timers = s.timers ++ [(s.tick + 64, .enqRoomRetry k)]))

/-- `n` bytes of the near window's scratchpad at an address, within its range and one 64 KiB page. -/
def Sys2Proof.Claims.nearRun (a n : Nat) : Prop :=
  0x01FFFFFF00000000 ≤ a ∧ a + n ≤ 0x01FFFFFF00400000 ∧ a % 2 ^ 16 + n ≤ 2 ^ 16
/-- The scratchpad offset of such an address. -/
def Sys2Proof.Claims.offOf (a : Nat) : Nat := a - 0x01FFFFFF00000000
/-- An operation in flight that goes on: the one of its number, not failed and not ended. -/
def Sys2Proof.Claims.running (s : State) (ck : Nat) (o : EngOp) : Prop :=
  (s.cluster ck).op o.id = some o ∧ o.code = none ∧ o.ended = false
/-- No uncorrectable word lies under `n` bytes of a scratchpad. -/
def Sys2Proof.Claims.clean (s : State) (ck off n : Nat) : Prop :=
  ∀ j < n, s.readError (scratchPa ck (off + j)) = none

/-- R176, R182 to R187, R189: a copy-engine command's event performs the next granted request of its operation. For a
request of one element on the identity stream between places of the cluster's scratchpad, the destination receives the
source element that R182 to R186 name, or the fill, padding or zero pattern; nothing else in memory changes; the operation
counts the bytes, and ends with its completion to follow when that was the last and no earlier push into its ring is
still in flight.

R326: a halo operation's event moves one element, from the window to the buffer when it packs and from the buffer to
the window when it unpacks; here with the buffer in the cluster's scratchpad. It counts the bytes, and goes on with the
next element or ends.

Rests on the model's readings in notes/assumptions 47 and 48. -/
def Obligations.EngineMovesElement : Prop :=
  (∀ (s : State) (ck : Nat) (o : EngOp), Claims.running s ck o → o.eq = 0 → 1 ≤ o.cmd → o.cmd ≤ 6 → o.image = none →
    o.next < o.granted → o.miss = none → (s.request ck o o.next).1 = o.next + 1 → o.vigil = none → clusterOk ck = true →
      let e := o.elem (s.indexAt ck o) o.next
      (∀ a, e.src = some a → Claims.nearRun a o.e ∧ Claims.clean s ck (Claims.offOf a) o.e) →
      (∀ d, e.dst = some d → Claims.nearRun d o.e ∧ (s.cluster ck).inRegion (Claims.offOf d) o.e = false) →
      ∃ t, exec (o.event ck).instr (s.given (o.event ck)) = .next t ∧
        (∀ d, e.dst = some d → t.scratchN ck (Claims.offOf d) o.e =
          (match e.src with
          | some a => s.scratchN ck (Claims.offOf a) o.e
          | none => leNat e.pat % 256 ^ o.e)) ∧
        (∀ p, (∀ d, e.dst = some d → p < scratchPa ck (Claims.offOf d) ∨ scratchPa ck (Claims.offOf d) + o.e ≤ p) →
          t.byte p = s.byte p) ∧
        (((t.cluster ck).op o.id).map (fun z => (z.next, z.bytes))) =
          some (o.next + 1, o.bytes + (if e.dst.isSome then o.e else 0)) ∧
        (o.total = o.next + 1 → o.acks = 0 → s.pushBefore ck o = false →
          Event.engineOpComplete ck o.id 0 ∈ t.agenda ∧ ((t.cluster ck).op o.id).map (fun z => z.ended) = some true)) ∧
  (∀ (s : State) (ck : Nat) (o : EngOp), Claims.running s ck o → o.eq = 5 → (o.cmd = 1 ∨ o.cmd = 2) → o.next < o.total →
    o.vigil = none → clusterOk ck = true →
      let z := o.coch.esize
      let b := o.f 148 57 + z * o.next
      let w := o.coch.off (o.idx.getD o.next 0)
      let dst := if o.cmd = 1 then Claims.offOf b else w
      Claims.nearRun b z → w + z ≤ 0x400000 → Claims.clean s ck w z → Claims.clean s ck (Claims.offOf b) z →
      (s.cluster ck).inRegion dst z = false →
      ∃ t, exec (o.event ck).instr (s.given (o.event ck)) = .next t ∧
        t.scratchN ck dst z = s.scratchN ck (if o.cmd = 1 then w else Claims.offOf b) z ∧
        (((t.cluster ck).op o.id).map (fun y => (y.next, y.bytes))) = some (o.next + 1, o.bytes + z) ∧
        (o.next + 1 < o.total → o.event ck ∈ t.agenda) ∧
        (o.total = o.next + 1 → o.acks = 0 → s.pushBefore ck o = false → Event.engineOpComplete ck o.id 0 ∈ t.agenda))

/-- A destination address of a fabric send or a multicast, on an aperture page of the cluster's TLB that the operation
may write: its physical address, and the state after the lookup (R285, R287). A multicast's page may name a device that is
no member (R286). -/
def Sys2Proof.Claims.aperture (s : State) (ck : Nat) (o : EngOp) (va n pa : Nat) (s1 : State) : Prop :=
  ∃ e, s.lookup ck none o.asid va = (some e, s1) ∧ va < 2 ^ 57 ∧ isNear (BitVec.ofNat 64 va) = false ∧
    va % 2 ^ 16 + n ≤ 2 ^ 16 ∧
    (leafCheck s1 (devOfCluster ck) (!o.sys) .store e.leaf = none ∨
      (o.eq = 6 ∧ leafCheck s1 (devOfCluster ck) (!o.sys) .store e.leaf = some 0x48)) ∧
    e.leaf.getLsbD 9 = true ∧ e.leaf.getLsbD 8 = false ∧ pa = leafPa (devOfCluster ck) e.leaf va ∧
    bits pa 55 1 = 0 ∧ region pa ≠ .noSocket ∧ region pa ≠ .reserved

/-- R284 to R287: with the I/O die ready, one chunk of a fabric send over the static channel leaves for the destination's
device as an access of its bytes, over the slotted planes it joins the die's send queue while the entry's guard runs, and
its bytes stay unacknowledged; one chunk of a multicast leaves for every member of the entry's snapshot that is a pod
member, whatever device its page names, the others counting as failed; each operation goes on with its next chunk.

Rests on the model's readings in notes/assumptions 52. -/
def Obligations.FabricAndMulticastSend : Prop :=
  ∀ (s s1 : State) (ck pa : Nat) (o : EngOp), Claims.running s ck o → clusterOk ck = true → o.image = none → o.next < o.total →
    o.vigil = none → o.push = none →
      let off := 512 * o.next
      let n := min 512 (o.len32 - 512 * o.next)
      let dev := devOfCluster ck
      0 < n → Claims.nearRun (o.saddr + off) n → Claims.clean s1 ck (Claims.offOf (o.saddr + off)) n →
      Claims.aperture s ck o (o.daddr + off) n pa s1 →
      (∀ d, o.eq = 2 → s.ioHome dev o.iod = .ok → bits pa 49 6 = d → d ≠ dev → s.isMember dev d = true →
        (o.dest = none ∨ o.dest = some d) →
        let die := dieKey dev (ioSocket o.iod)
        (o.stc = true ∨ (s.die die).guard = true) →
        ∃ t r, exec .fabricSend (s.given (.fabricSend ck o.id)) = .next t ∧
          (o.stc = true → Event.peerAccess r ∈ t.agenda) ∧
          (o.stc = false → (t.die die).sendq = (s.die die).sendq ++ [⟨d, r⟩]) ∧
          r.pa = pa ∧ r.n = n ∧ r.kind = .store ∧ r.v = s.scratchN ck (Claims.offOf (o.saddr + off)) n ∧
          (((t.cluster ck).op o.id).map (fun z => (z.next, z.acks, z.dest))) =
            some (o.next + 1, o.acks + n, some d) ∧
          (o.next + 1 < o.total → Event.fabricSend ck o.id ∈ t.agenda)) ∧
      (∀ mask, o.eq = 6 → s.ioHome dev 0 = .ok → mask = (Tab.get 0 (s.mod dev).mcast o.mcix).toNat → o.snap = none →
        ∃ t, exec .multicastStore (s.given (.multicastStore ck o.id)) = .next t ∧
          (∀ d < 64, mask.testBit d = true → d ≠ dev → s.isMember dev d = true → ∃ r, Event.peerAccess r ∈ t.agenda ∧
            r.pa = setBits pa 49 6 d ∧ r.n = n ∧ r.kind = .store ∧
            r.v = s.scratchN ck (Claims.offOf (o.saddr + off)) n) ∧
          (∀ z, (t.cluster ck).op o.id = some z → z.next = o.next + 1 ∧ z.snap = some mask ∧
            ∀ d < 64, z.failed.testBit d =
              (o.failed.testBit d || (mask.testBit d && decide (d ≠ dev) && !s.isMember dev d))) ∧
          (o.next + 1 < o.total → Event.multicastStore ck o.id ∈ t.agenda))

/-- The token word of a completed operation (Table 9.5): code, the out-of-range bit and the bytes. -/
def Sys2Proof.Claims.token (code bytes : Nat) (oob : Bool) : Word :=
  BitVec.ofNat 64 (code % 256 * 2 ^ 56 + (if oob then 2 ^ 48 else 0) + bytes % 2 ^ 41)

/-- R178, R188, R189, R287: QUANTUM sets the cores' quanta and its operation ends; the completion of an operation frees
its ranges, advances the head of the ring that it pushed into, and writes its token into the register of the slot whose
wick queued it, no longer pending; a multicast's reply writes the mask of the members that failed into local memory and
completes with code 0 or 0x11.

R177: a visit of a core gives it 256 bytes for each unit of its quantum, sends a waiting thread access, whose slot then goes on,
for 64 bytes first, and grants its operation's requests while the deficit covers their charge in units of 64 bytes; a core with nothing to
send loses its deficit, at once when it is visited, and with its last request sent when no other core has anything
waiting.

Rests on the model's readings in notes/assumptions 52 and 53. -/
def Obligations.EngineGrantsAndEnds : Prop :=
  ((∀ (s : State) (ck : Nat) (o : EngOp), Claims.running s ck o → o.acks = 0 → o.eq = 0 → s.pushBefore ck o = false →
    ∃ t, exec .quantum (s.given (.quantum ck o.id)) = .next t ∧
      (∀ k < 16, Tab.get 16 (t.cluster ck).quantum k = o.f (32 + 10 * k) 10) ∧
      Event.engineOpComplete ck o.id 0 ∈ t.agenda ∧ t.mem = s.mem) ∧
  (∀ (s : State) (ck code : Nat) (o : EngOp), (s.cluster ck).op o.id = some o → o.code = none →
    ∃ t, exec .engineOpComplete (s.given (.engineOpComplete ck o.id code)) = .next t ∧
      (t.cluster ck).op o.id = none ∧
      (t.cluster ck).locks = (s.cluster ck).locks.filter (fun l => decide (l.op ≠ o.id)) ∧
      (0 < o.tok → o.tok < 16 → (s.slot o.slot).occ = true → (s.slot o.slot).wick = o.wick →
        Tab.get 0 (t.slot o.slot).g o.tok = Claims.token code o.bytes o.oob ∧
        (t.slot o.slot).pend = (s.slot o.slot).pend.filter (fun p => !(p.engine && decide (p.id = o.id)))) ∧
      (∀ p, o.push = some p → p.ring < 8 → code = 0 →
        (t.ring p.slot p.ring).head = ((s.ring p.slot p.ring).head + 1) % 2 ^ 16) ∧
      (∀ line, o.vigil = some line → code ≠ 0 → code ≠ 0x14 →
        Event.vigilByteDecrement (vigilMaster line) line (2 ^ 64 + 0x80 + code) ck o.id ∈ t.agenda)) ∧
  (∀ (s : State) (ck failed : Nat) (o : EngOp), (s.cluster ck).op o.id = some o → o.code = none →
    8 * o.roff + 8 ≤ 0x10000 → failed < 2 ^ 64 → o.push = none → 0 < o.tok → o.tok < 16 → (s.slot o.slot).occ = true →
    (s.slot o.slot).wick = o.wick →
    ∃ t n, exec .multicastReply (s.given (.multicastReply ck o.id failed)) = .next t ∧
      t.localN (ck * 16 + o.core) (8 * o.roff) 8 = failed ∧ (t.cluster ck).op o.id = none ∧
      Tab.get 0 (t.slot o.slot).g o.tok = Claims.token (if failed = 0 then 0 else 0x11) n o.oob ∧
      n = o.len32 * ((List.range 64).filter (fun d =>
        (o.snap.getD 0).testBit d && decide (d ≠ devOfCluster ck) && !failed.testBit d)).length)) ∧
  (∀ (s : State) (ck core : Nat), core < 16 → (∀ k, Tab.get [] (s.cluster ck).rings k = []) →
    ∃ t, exec .engineGrantVisit (s.given (.engineGrantVisit ck core)) = .next t ∧ t.mem = s.mem ∧
      (∀ k, Tab.get [] (s.cluster ck).thread core = [k] →
        64 ≤ Tab.get 0 (s.cluster ck).deficit core + 256 * Tab.get 16 (s.cluster ck).quantum core →
        Tab.get [] (t.cluster ck).thread core = [] ∧
        ((s.slot k).wait = .turn → (t.slot k).wait = .none ∧ (t.slot k).turn = true)) ∧
      (Tab.get [] (s.cluster ck).thread core = [] → (s.cluster ck).ops.all (fun o => decide (o.core ≠ core)) = true →
        Tab.get 0 (t.cluster ck).deficit core = 0 ∧ (t.cluster ck).ops = (s.cluster ck).ops) ∧
      (∀ o n, Tab.get [] (s.cluster ck).thread core = [] → (s.cluster ck).ops = [o] → o.eq = 0 → o.core = core →
        o.code = none → o.granted < o.total → s.request ck o o.granted = (o.total, n) →
        let d := Tab.get 0 (s.cluster ck).deficit core + 256 * Tab.get 16 (s.cluster ck).quantum core
        let charge := (n + 63) / 64 * 64
        (charge ≤ d →
          ((∃ k < 16, Tab.get [] (s.cluster ck).thread k ≠ []) → Tab.get 0 (t.cluster ck).deficit core = d - charge) ∧
          ((∀ k < 16, Tab.get [] (s.cluster ck).thread k = []) → Tab.get 0 (t.cluster ck).deficit core = 0) ∧
          (t.cluster ck).ops = [{ o with granted := o.total }] ∧ ∃ m, (m, o.event ck) ∈ t.timers) ∧
        (d < charge → Tab.get 0 (t.cluster ck).deficit core = d ∧ (t.cluster ck).ops = [o])))

/-- R377, R398: the queued forms. An install from the cluster's scratchpad of an image that passes every check fills the
stream slot, a drop empties it, a reset empties slots 1 to 15; a queued go starts a loaded engine and a queued halt stops
it; a queued load installs a block and table that it may read and that are valid. Each operation then ends with its
completion; one that its instruction would refuse fails with 0x17 or 0x18 and changes no slot or engine. The Taper's
commands wait for the I/O die X0 to be ready and fail with 0x12 when it has failed (R410), as the Lantern's do for the
stacks.

Rests on the model's readings in notes/assumptions 57, 58 and 110. -/
def Obligations.QueuedLanternAndTaperCommands : Prop :=
  ∀ (s : State) (ck : Nat) (o : EngOp), Claims.running s ck o → clusterOk ck = true → (o.eq = 3 ∨ o.eq = 4) →
    o.acks = 0 → o.image = none → o.push = none →
    let dev := devOfCluster ck
    let ends := fun (t : State) (code : Nat) => Event.engineOpComplete ck o.id code ∈ t.agenda
    let allStacks := fun (h : Home) => ∀ so ∈ stackSockets, s.home (dieOfCluster ck) (stackPa dev so) = h
    let img := (List.range 3008).map (fun j => s.byte (scratchPa ck (Claims.offOf o.daddr + j)))
    (Claims.nearRun o.daddr 3008 → Claims.clean s ck (Claims.offOf o.daddr) 3008 → o.daddr % 64 = 0 →
      allStacks .ok → ∃ t, exec .lanternInstallCmd (s.given (.lanternInstallCmd ck o.id)) = .next t ∧
        (o.f 144 4 ≠ 0 → imageCause img = none →
          t.stream dev (o.f 144 4) = ⟨((s.stream dev (o.f 144 4)).inst + 1) % 2 ^ 16, some img⟩ ∧ ends t 0) ∧
        (o.f 144 4 = 0 ∨ (imageCause img).isSome = true → (∀ n, t.stream dev n = s.stream dev n) ∧ ends t 0x17)) ∧
    (allStacks .ok → ∃ t, exec .lanternDropCmd (s.given (.lanternDropCmd ck o.id)) = .next t ∧
      (o.f 144 4 ≠ 0 → t.stream dev (o.f 144 4) = ⟨((s.stream dev (o.f 144 4)).inst + 1) % 2 ^ 16, none⟩ ∧ ends t 0) ∧
      (o.f 144 4 = 0 → (∀ n, t.stream dev n = s.stream dev n) ∧ ends t 0x17)) ∧
    (allStacks .ok → ∃ t, exec .lanternResetCmd (s.given (.lanternResetCmd ck o.id)) = .next t ∧ ends t 0 ∧
      ∀ n, 1 ≤ n → n ≤ 15 → (t.stream dev n).image = none) ∧
    (∃ t, exec .lanternResetCmd (s.given (.lanternResetCmd ck o.id)) = .next t ∧
      (allStacks .held → (s.tick + 64, o.event ck) ∈ t.timers) ∧ (allStacks .failed → ends t 0x12)) ∧
    (∀ ev ∈ [Event.taperLoadCmd ck o.id, .taperGoCmd ck o.id, .taperHaltCmd ck o.id], s.ioHome dev 0 ≠ .ok →
      ∃ t, exec ev.instr (s.given ev) = .next t ∧ t.taper dev = s.taper dev ∧
        (s.ioHome dev 0 = .held → (s.tick + 64, o.event ck) ∈ t.timers) ∧ (s.ioHome dev 0 = .failed → ends t 0x12)) ∧
    (s.ioHome dev 0 = .ok → ∃ t, exec .taperGoCmd (s.given (.taperGoCmd ck o.id)) = .next t ∧
      let e := s.taper dev
      (e.loaded = true → e.run = false → e.fin = false → e.failed = none → e.loading = none →
        t.taper dev = { e with run := true, asid := BitVec.ofNat 9 (o.f 32 9) } ∧ ends t 0) ∧
      (e.loaded = false ∨ e.run = true ∨ e.fin = true ∨ e.failed.isSome = true ∨ s.loadUnderWay dev (2 ^ 40) = true →
        t.taper dev = e ∧ ends t 0x18)) ∧
    (s.ioHome dev 0 = .ok → ∃ t, exec .taperHaltCmd (s.given (.taperHaltCmd ck o.id)) = .next t ∧
      t.taper dev = { s.taper dev with run := false } ∧ ends t 0) ∧
    (s.ioHome dev 0 = .ok → o.daddr % 64 = 0 → s.loadRefused dev (2 ^ 30 + o.id) = false → Claims.nearRun o.daddr 576 →
      Claims.clean s ck (Claims.offOf o.daddr) 576 →
      let cb := (List.range 576).map (fun j => s.byte (scratchPa ck (Claims.offOf o.daddr + j)))
      let n := 64 * tableLines cb
      let tbl := (List.range n).map (fun j => s.byte (scratchPa ck (Claims.offOf (tableLine cb) + j)))
      Claims.nearRun (tableLine cb) n → Claims.clean s ck (Claims.offOf (tableLine cb)) n →
      ∃ t, exec .taperLoadCmd (s.given (.taperLoadCmd ck o.id)) = .next t ∧
        (tableOk cb tbl = true → ends t 0 ∧
          (t.taper dev).loaded = true ∧ (t.taper dev).cb = cb ∧ (t.taper dev).tbl = tbl ∧ (t.taper dev).head = 0 ∧
          (t.taper dev).run = false) ∧
        (tableOk cb tbl = false → ends t 0x18 ∧
          { t.taper dev with loading := none } = { s.taper dev with loading := none })) ∧
    (s.ioHome dev 0 = .ok → o.daddr % 64 ≠ 0 ∨ s.loadRefused dev (2 ^ 30 + o.id) = true →
      ∃ t, exec .taperLoadCmd (s.given (.taperLoadCmd ck o.id)) = .next t ∧ ends t 0x18 ∧ t.taper dev = s.taper dev)

/-! ### Events of the scheduler -/

/-- A steal series starts (R91): a request, carrying the free reserved entries, to the first neighbour in socket order
that holds a compute die. -/
def Sys2Proof.Claims.seriesStarts (die r : Nat) (t : State) : Prop :=
  ∃ n, (neighbours (die % 32)).find? isCompute = some n ∧ Event.stealRequest die (die / 32 * 32 + n) r ∈ t.agenda
/-- Wicks that the entries of a ready queue still yield. -/
def Sys2Proof.Claims.wicks (es : List RqEntry) : Nat := (es.map (fun e => e.ranks.getD 1)).sum
/-- No dispenser to which an entry's wick may go has room (R87, R89, R92). -/
def Sys2Proof.Claims.noRoom (s : State) (die : Nat) (e : RqEntry) : Prop :=
  ∀ c ∈ clustersFor die e.w, 64 ≤ (s.cluster c).disp.length

/-- R87 to R89, R91, R123: what the events of a die's ready queue do. A write of the control word sets the mark and
compares; a dispatch takes the oldest entry of the highest level that some dispenser has room for, to the cluster with
the most free entries, the lowest number on a tie, and ages the others, or does nothing; a neighbour gives half the
stealable wicks of its lowest such level, at most what the thief has room for; a reply's wicks enter the reserved
entries, and the next neighbour is asked or a round that brought nothing starts the back-off; a round that brought
something ends the series, and its last reply, should it bring nothing, starts no other; the end of the back-off compares
again.

Rests on the model's readings in notes/assumptions 14, 17 and 88. -/
def Obligations.ReadyQueueEvents : Prop :=
  (∀ (s : State) (die v : Nat), ∃ t, exec .schedWrite (s.given (.schedWrite die v)) = .next t ∧
    (t.die die).mark = v % 2 ^ 14 ∧ (t.die die).ready = (s.die die).ready ∧ t.mem = s.mem ∧ t.slots = s.slots ∧
    (isCompute (die % 32) = true → (s.die die).ready.length < v % 2 ^ 14 → (s.die die).steal = none →
      (s.die die).backoff = false → Claims.seriesStarts die (1024 - (s.die die).count true) t)) ∧
  (∀ (s : State) (die : Nat), (s.die die).readyWord.getLsbD 1 = true →
    ((∀ e ∈ (s.die die).ready, Claims.noRoom s die e) →
      exec .schedDispatch (s.given (.schedDispatch die)) = .next (s.given (.schedDispatch die))) ∧
    (∀ l1 e l2 ck, (s.die die).ready = l1 ++ e :: l2 → e.eff < 4 →
      (∀ x ∈ l1, x.eff ≤ e.eff → Claims.noRoom s die x) → (∀ x ∈ l2, x.eff < e.eff → Claims.noRoom s die x) →
      ck ∈ clustersFor die e.w → (s.cluster ck).disp.length < 64 →
      (∀ c ∈ clustersFor die e.w, (s.cluster ck).disp.length ≤ (s.cluster c).disp.length ∧
        (c < ck → (s.cluster ck).disp.length < (s.cluster c).disp.length)) →
      ∃ t, exec .schedDispatch (s.given (.schedDispatch die)) = .next t ∧
        (let w := match e.ranks with
          | none => e.w
          | some _ => { e.w with rcd := { e.w.rcd with g1 := BitVec.ofNat 64 e.first } }
        (t.cluster ck).disp = (s.cluster ck).disp ++ [{ w with due := s.tick + dispatchLatency }]) ∧
        (s.tick + dispatchLatency, Event.dispenserPass ck) ∈ t.timers ∧ Event.schedDispatch die ∈ t.agenda ∧ t.mem = s.mem ∧
        (e.ranks = none ∨ e.ranks = some 1 → (s.die die).arriving = [] → (∀ c ∈ s.clusters, c.2.arriving = []) →
          (t.die die).ready = (l1 ++ l2).map (fun x => x.age e.eff)) ∧
        (∀ n, e.ranks = some n → 1 < n → (t.die die).ready =
          (l1 ++ { e with first := e.first + 1, ranks := some (n - 1) } :: l2).map (fun x => x.age e.eff)))) ∧
  (∀ (s : State) (thief victim room : Nat), (s.die victim).readyWord.getLsbD 7 = false →
    (s.die victim).readyWord.getLsbD 1 = true → (∀ e ∈ (s.die victim).ready, e.ranks ≠ some 0) →
    ∃ t given n, exec .stealRequest (s.given (.stealRequest thief victim room)) = .next t ∧
      (n, Event.stealReply thief victim given) ∈ t.timers ∧ t.mem = s.mem ∧
      let es := (s.die victim).ready
      let free := fun (e : RqEntry) => e.w.rcd.pinned = false ∧ e.w.tag = none
      let total := (given.map (fun x => if x.count = 0 then 1 else x.count)).sum
      ((∀ e ∈ es, ¬free e) → given = []) ∧
      Claims.wicks es ≤ Claims.wicks (t.die victim).ready + total ∧
      ∀ p < 4, (∃ e ∈ es, free e ∧ e.eff = p) → (∀ e ∈ es, free e → e.eff ≤ p) →
        total = min (Claims.wicks (es.filter (fun e => !e.w.rcd.pinned && e.w.tag.isNone && decide (e.eff = p))) / 2) room ∧
        ∀ x ∈ given, x.level = p ∧ x.w.rcd.pinned = false ∧ x.w.tag = none) ∧
  (∀ (s : State) (thief victim : Nat) (given : List StolenWick), (s.die thief).count true + given.length ≤ 1024 →
    ∃ t, exec .stealReply (s.given (.stealReply thief victim given)) = .next t ∧ t.mem = s.mem ∧
      (t.die thief).ready = (s.die thief).ready ++ given.map (fun x =>
        (⟨x.w, x.level, 0, true, x.first, if x.count = 0 then none else some x.count⟩ : RqEntry)) ∧
      (∀ n rest got, (s.die thief).steal = some ⟨n :: rest, got⟩ →
        Event.stealRequest thief (thief / 32 * 32 + n) (1024 - ((s.die thief).count true + given.length)) ∈ t.agenda) ∧
      ((s.die thief).steal = some ⟨[], true⟩ → given = [] →
        (t.die thief).steal = none ∧ (t.die thief).backoff = (s.die thief).backoff ∧
          ∀ n, Event.stealRequest thief n (1024 - (s.die thief).count true) ∈ t.agenda →
            Event.stealRequest thief n (1024 - (s.die thief).count true) ∈ s.agenda) ∧
      ((s.die thief).steal = some ⟨[], false⟩ → given = [] →
        (t.die thief).backoff = true ∧ (t.die thief).steal = none ∧ ∃ n, (n, Event.stealBackoffEnd thief) ∈ t.timers)) ∧
  (∀ (s : State) (die : Nat), ∃ t, exec .stealBackoffEnd (s.given (.stealBackoffEnd die)) = .next t ∧
    (t.die die).backoff = false ∧ t.mem = s.mem ∧
    (isCompute (die % 32) = true → (s.die die).ready.length < (s.die die).mark → (s.die die).steal = none →
      Claims.seriesStarts die (1024 - (s.die die).count true) t))

/-- R83, R92, R96, R103, R120, R134, R154: what the events that place a wick do. A dispenser passes its oldest wick to a
core whose slot waits, otherwise to the shortest run queue, with a launch's shape record first; a run queue's oldest wick
enters its slot, whose registers are those of the record, kept or cleared, with its ring block written zero when they are
cleared; an arriving wick enters the dispenser, the
reserved entries, or waits, and one from a peer is first checked against its grant; a die that has failed refuses it, and
one not yet ready holds it with the asid that its grant gave; a refused one goes to the failure list; an
empty slot is gated and its ring block written zero; a refresh keeps its row, or fails the slot's wick when the row is uncorrectable.

Rests on the model's readings in notes/assumptions 19, 20, 70 and 83. -/
def Obligations.WickPlacementEvents : Prop :=
  (∀ (s : State) (ck k : Nat) (w : Wick) (rest : List Wick), (s.cluster ck).disp = w :: rest → rest.length < 64 →
    w.due ≤ s.tick → (s.cluster ck).arriving = [] → k ∈ s.coresFor ck w →
    (∀ j, s.fillable j = true → coreOf j ∈ s.coresFor ck w → (s.slot j).waitw = false) → (s.core k).runq.length < 8 →
    (∀ c ∈ s.coresFor ck w, (s.core k).runq.length ≤ (s.core c).runq.length ∧
      (c < k → (s.core k).runq.length < (s.core c).runq.length)) →
    ∃ t, exec .dispenserPass (s.given (.dispenserPass ck)) = .next t ∧ (t.cluster ck).disp = rest ∧
      (t.core k).runq = (s.core k).runq ++ [{ w with due := 0 }] ∧ Event.wickEntry (k * 8) ∈ t.agenda ∧
      (w.launch = none → t.mem = s.mem) ∧
      (∀ l, w.launch = some l → (t.core k).window = some l.id ∧
        ((s.core k).window ≠ some l.id → t.localN k 0x40 64 = l.shape.toNat))) ∧
  (∀ (s : State) (ck k j : Nat) (w : Wick) (rest : List Wick), (s.cluster ck).disp = w :: rest → rest.length < 64 →
    w.due ≤ s.tick → (s.cluster ck).arriving = [] → k ∈ s.coresFor ck w → (s.core k).runq = [] → j < 8 →
    s.fillable (k * 8 + j) = true → (s.slot (k * 8 + j)).waitw = true → (∀ i < j, (s.slot (k * 8 + i)).waitw = false) →
    (∀ c ∈ s.coresFor ck w, c < k → ∀ i < 8, (s.slot (c * 8 + i)).waitw = false) →
    ∃ t, exec .dispenserPass (s.given (.dispenserPass ck)) = .next t ∧ (t.cluster ck).disp = rest ∧
      (t.core k).runq = [{ w with due := 0 }] ∧ Event.wickEntry (k * 8 + j) ∈ t.agenda) ∧
  (∀ (s : State) (ck : Nat), (∀ w ∈ (s.cluster ck).disp, s.tick < w.due) →
    exec .dispenserPass (s.given (.dispenserPass ck)) = .next (s.given (.dispenserPass ck))) ∧
  (∀ (s : State) (slot j : Nat) (w : Wick) (rest : List Wick), (s.core (coreOf slot)).fenced = false →
    (s.core (coreOf slot)).runq = w :: rest →
    ((s.slot slot).waitw = true ∧ s.fillable slot = true ∧ j = slot ∨
      (s.slot slot).waitw = false ∧ coreOf j = coreOf slot ∧ s.fillable j = true ∧
        ∀ i < j, coreOf i = coreOf slot → s.fillable i = false) →
    ∃ t, exec .wickEntry (s.given (.wickEntry slot)) = .next t ∧ (t.core (coreOf slot)).runq = rest ∧
      t.turn.elem (coreOf slot) = true ∧
      let x := s.slot j
      let y := t.slot j
      let r := w.rcd
      let clears := x.gated = true ∨ x.lastAsid.toNat ≠ r.asid
      y.occ = true ∧ y.waitw = false ∧ y.wait = .none ∧ y.gated = false ∧ y.pc = r.pc ∧ y.kind.toNat = r.kind ∧
      y.prio.toNat = r.prio ∧ y.asid.toNat = r.asid ∧ y.aff.toNat = r.aff ∧ y.grp.toNat = r.grp ∧ y.fmt.toNat = r.fmt ∧
      y.fflags = 0 ∧ y.launch = w.launch ∧ y.taper = w.taper ∧ y.seen = w.seen ∧
      (∀ n < 16, y.p n = if n = 0 then true else if n = 1 then false else r.pred.testBit n) ∧
      (∀ n < 16, Tab.get 0 y.g n = if 1 ≤ n ∧ n ≤ 6 then r.word (n + 1) else
        if n = 0 then Tab.get 0 y.g 0 else if x.gated ∨ x.lastAsid.toNat ≠ r.asid then 0 else Tab.get 0 x.g n) ∧
      (clears → y.v = [] ∧ y.c0 = [] ∧ y.c1 = [] ∧ t.localN (coreOf slot) (0x100 + 0x80 * (j % 8)) 128 = 0) ∧
      (¬clears → y.v = x.v ∧ y.c0 = x.c0 ∧ y.c1 = x.c1 ∧ t.mem = s.mem) ∧
      y.tvec = x.tvec ∧ y.tmask = x.tmask ∧ y.tsave = x.tsave ∧
      y.uvec = (if x.lastAsid.toNat ≠ r.asid then 0 else x.uvec)) ∧
  (∀ (s : State) (ck srcDev srcDie : Nat) (w : Wick), w.granted = none →
    let d := s.die (dieOfCluster ck)
    let up := d.readyWord.getLsbD 7 = false ∧ (d.readyWord.getLsbD 1 = true ∨ dieOfCluster ck = srcDie)
    ∃ t, exec .migrationArrival (s.given (.migrationArrival ck w srcDev srcDie)) = .next t ∧ t.mem = s.mem ∧
      let c := s.cluster ck
      let g0 := (Tab.get 0 (s.grant (devOfCluster ck) srcDev).w 0).toNat
      (up → w.fromPeer = false → c.disp.length < 64 → (t.cluster ck).disp = c.disp ++ [w] ∧
        Event.dispenserPass ck ∈ t.agenda) ∧
      (up → w.fromPeer = false → 64 ≤ c.disp.length → d.count true < 1024 →
        (t.die (dieOfCluster ck)).ready = d.ready ++ [{ w := w, eff := w.rcd.prio, reserved := true }]) ∧
      (up → w.fromPeer = false → 64 ≤ c.disp.length → 1024 ≤ d.count true →
        (t.cluster ck).arriving = c.arriving ++ [w] ∧ (t.cluster ck).disp = c.disp) ∧
      (up → w.fromPeer = true → g0.testBit 0 = true → g0.testBit 13 = false → g0.testBit 12 = true → c.disp.length < 64 →
        ∃ w2 : Wick, (t.cluster ck).disp = c.disp ++ [w2] ∧ w2.rcd.asid = g0 / 2 % 2 ^ 9 ∧
          { w2 with rcd := { w2.rcd with w1 := w.rcd.w1 } } = w) ∧
      (d.readyWord.getLsbD 7 = true →
        (w.fromPeer = true → g0.testBit 0 = true ∧ g0.testBit 13 = false ∧ g0.testBit 12 = true) →
        Event.wickRefusalReturn srcDie w 0xB2 ∈ t.agenda ∧ (t.cluster ck).disp = c.disp) ∧
      (d.readyWord.getLsbD 7 = false → d.readyWord.getLsbD 1 = false → dieOfCluster ck ≠ srcDie →
        (w.fromPeer = true → g0.testBit 0 = true ∧ g0.testBit 13 = false ∧ g0.testBit 12 = true) →
        (t.cluster ck).disp = c.disp ∧ ∃ n w2, (n, Event.migrationArrival ck w2 srcDev srcDie) ∈ t.timers ∧
          w2 = { w with granted := if w.fromPeer then some (g0 / 2 % 2 ^ 9) else none }) ∧
      (w.fromPeer = true → (g0.testBit 0 = false ∨ g0.testBit 13 = true ∨ g0.testBit 12 = false) →
        Event.wickRefusalReturn srcDie w 0x91 ∈ t.agenda ∧ (t.cluster ck).disp = c.disp ∧
          (Tab.get 0 (t.grant (devOfCluster ck) srcDev).w 0).toNat / 2 ^ 32 = (g0 / 2 ^ 32 + 1) % 2 ^ 32)) ∧
  (∀ (s : State) (die cause : Nat) (w : Wick), cause < 256 →
    ∃ t w2, exec .wickRefusalReturn (s.given (.wickRefusalReturn die w cause)) = .next t ∧
      Event.wickFailure die w2 ∈ t.agenda ∧ w2.rcd.state = 3 ∧ bits w2.rcd.w1.toNat 56 8 = cause ∧
      w2.rcd.pc = w.rcd.pc ∧ w2.rcd.asid = w.rcd.asid ∧
      (w.rcd.grp ≠ 0 → ∀ d ∈ diesOf (die / 32), Event.groupBreakNotice d w.rcd.asid w.rcd.grp cause ∈ t.agenda)) ∧
  (∀ (s : State) (slot : Nat), ∃ t, exec .slotGating (s.given (.slotGating slot)) = .next t ∧
    (((s.slot slot).occ = true ∨ (s.slot slot).waitw = true) → t.mem = s.mem ∧ t.slots = s.slots) ∧
    ((s.slot slot).occ = false → (s.slot slot).waitw = false → (t.slot slot).gated = true ∧
      t.localN (coreOf slot) (0x100 + 0x80 * (slot % 8)) 128 = 0 ∧
      (∀ p, (p < localPa (coreOf slot) (0x100 + 0x80 * (slot % 8)) ∨
        localPa (coreOf slot) (0x100 + 0x80 * (slot % 8)) + 128 ≤ p) → t.byte p = s.byte p) ∧
      ∀ j, j ≠ slot → (t.slot j).gated = (s.slot j).gated)) ∧
  (∀ (s : State) (slot row : Nat) (err : RowError), row < 16 →
    ∃ t, exec .vectorRefresh (s.given (.vectorRefresh slot row err)) = .next t ∧ t.mem = s.mem ∧
      (err ≠ .uncorrectable ∨ (s.slot slot).gated = true → t.slots = s.slots) ∧
      (err = .corrected → (s.slot slot).gated = false →
        (t.die (dieOf slot)).corrected = (s.die (dieOf slot)).corrected + 1) ∧
      (err = .uncorrectable → (s.slot slot).gated = false →
        (t.slot slot).vreg row = 0 ∧ (∀ n, n ≠ row → (t.slot slot).vreg n = (s.slot slot).vreg n) ∧
        ((s.slot slot).occ = true → s.failFull (dieOf slot) = false → (t.slot slot).occ = false ∧
          ∃ w : Wick, Event.wickFailure (dieOf slot) w ∈ t.agenda ∧ w.rcd.state = 3 ∧
            bits w.rcd.w1.toNat 56 8 = 0xB1)))

/-! ### Events of accesses and peers -/

/-- R116, R159, R160, R168, R171, R371: what the answers of accesses do. A port's word enters the neighbour's queue
and lets the first slot that waits on mq go on, or waits in the link while the queue is full; a plain access's value
lands and its last answer ends the wait; a relaxed access's value lands and the register is no longer pending; a granted
word goes to the first requester, whose atomic is performed with the current value, or is free again; an atomic unit
performs one; a monitor's wait ends at its timeout.

Rests on the model's readings in notes/assumptions 65. -/
def Obligations.AccessAnswerEvents : Prop :=
  (∀ (s : State) (c : Nat) (w : Word),
    let k := s.core c
    ∃ t, exec .portWordArrival (s.given (.portWordArrival c w)) = .next t ∧ t.mem = s.mem ∧
      (k.fenced = false → k.rq.length < 32 → k.link = [] → (t.core c).link = [] ∧
        (k.mqWait = [] → (t.core c).rq = k.rq ++ [⟨w, none⟩]) ∧
        ∀ j js, k.mqWait = j :: js → k.freeWords = [] → (t.core c).rq = k.rq ++ [⟨w, some j⟩] ∧
          (t.core c).mqWait = js ∧ ((s.slot j).wait = .mq → t.slot j = { s.slot j with wait := .none })) ∧
      (k.fenced = false → 32 ≤ k.rq.length → (k.mqWait = [] ∨ k.freeWords = []) →
        t.core c = { k with link := k.link ++ [w] } ∧ t.slots = s.slots) ∧
      (k.fenced = true → t.core c = k ∧ t.slots = s.slots ∧ (t.die (c / 1024)).log.length = (s.die (c / 1024)).log.length + 1)) ∧
  (∀ (s : State) (k n bytes v : Nat) (sx : Bool), n < 16 → 1 ≤ bytes → bytes ≤ 8 → v < 2 ^ (8 * bytes) →
    let x := s.slot k
    let e := Event.accessComplete k (.reg n bytes sx) v
    ∃ t, exec .accessComplete (s.given e) = .next t ∧ t.mem = s.mem ∧
      (x.occ = true → (x.wait = .reply ∨ x.wait = .reservation) →
        (x.replies ≤ 1 → (t.core (coreOf k)).ownWords k = []) ∧ (t.slot k).replies = x.replies - 1 ∧ (t.slot k).wait = (if x.replies ≤ 1 then .none else x.wait) ∧
        ∀ m < 16, Tab.get 0 (t.slot k).g m =
          if m = n ∧ n ≠ 0 then Claims.extended v bytes sx else Tab.get 0 x.g m) ∧
      (x.occ = false ∨ (x.wait ≠ .reply ∧ x.wait ≠ .reservation) → t = s.given e)) ∧
  (∀ (s : State) (c id pa n bytes : Nat) (sx : Bool) (f : Flight), f ∈ (s.core c).flights → f.id = id →
    (∀ g ∈ (s.core c).flights, g.id = id → g = f) → coreOf f.slot = c → f.req.src = f.slot → n < 16 → 1 ≤ bytes →
    bytes ≤ 8 →
    let x := s.slot f.slot
    let ended := fun (t : State) => (t.core c).flights = (s.core c).flights.filter (fun g => decide (g.id ≠ id)) ∧
      (t.slot f.slot).pend = x.pend.filter (fun p => p.engine || decide (p.id ≠ id))
    let lands := fun (t : State) (v : Nat) => ∀ m < 16, Tab.get 0 (t.slot f.slot).g m =
      if m = n ∧ n ≠ 0 then Claims.extended v bytes sx else Tab.get 0 x.g m
    (∀ v < 2 ^ (8 * bytes), ∃ t, exec .relaxedAccessComplete
        (s.given (.relaxedAccessComplete c id pa (.reg n bytes sx) (some v))) = .next t ∧ t.mem = s.mem ∧
      (s.holds f.req = true → lands t v) ∧ (s.holds f.req = false → (t.slot f.slot).g = x.g) ∧
      (f.homes.erase pa = [] → ended t) ∧
      (f.homes.erase pa ≠ [] → (t.slot f.slot).pend = x.pend ∧
        ∃ g ∈ (t.core c).flights, g.id = id ∧ g.homes = f.homes.erase pa)) ∧
    (∀ q, f.near = [q] → f.homes = [q.pa] → q.src = f.slot → q.flight = some id → q.kind = .load →
      q.dst = .reg n bytes sx → q.n = bytes → s.readFault q.pa q.n = none → s.holds q = true →
      (region q.pa).room bytes = bytes →
      ∃ t, exec .relaxedAccessComplete (s.given (.relaxedAccessComplete c id pa .none none)) = .next t ∧ ended t ∧
        lands t (s.readN q.pa bytes) ∧ t.mem = s.mem) ∧
    (∀ q, f.near = [q] → f.homes = [q.pa] → q.src = f.slot → q.flight = some id → q.kind = .store →
      s.reserved q.pa q.n = false → s.writeError q.pa q.n = none →
      ∃ t, exec .relaxedAccessComplete (s.given (.relaxedAccessComplete c id pa .none none)) = .next t ∧ ended t ∧
        ∀ a, t.byte a = (s.storeHome (clusterOf f.slot) q.pa q.n q.v).byte a)) ∧
  (∀ (s : State) (dev word : Nat) (r : Resv), s.resv.find? (fun r => decide (r.word = word)) = some r →
    (r.q = [] → ∃ t, exec .atomicReservationGrant (s.given (.atomicReservationGrant dev word)) = .next t ∧
      t.resv = s.resv.filter (fun r => decide (r.word ≠ word)) ∧ t.mem = s.mem ∧ t.slots = s.slots) ∧
    (∀ q rest op d, r.q = q :: rest → q.kind = .atomic op → q.flight = none → q.dst = .reg d q.n false → 0 < q.n →
      devOf q.src = dev → s.holds q = true → s.readFault q.pa q.n = none → (region q.pa).inRange = true →
      ∃ t, exec .atomicReservationGrant (s.given (.atomicReservationGrant dev word)) = .next t ∧
        Event.accessComplete q.src q.dst (s.readN q.pa q.n) ∈ t.agenda ∧
        Event.atomicReservationGrant dev word ∈ t.agenda ∧
        t.resv.find? (fun r => decide (r.word = word)) = some { r with q := rest } ∧
        ∀ a, t.byte a = (s.atomicHome (clusterOf q.src) q.pa q.n op q.v q.v2).2.byte a) ∧
    (∀ q rest, r.q = q :: rest → q.kind = .store → q.flight = none → devOf q.src = dev → s.holds q = true →
      s.writeError q.pa q.n = none →
      ∃ t v, exec .atomicReservationGrant (s.given (.atomicReservationGrant dev word)) = .next t ∧
        Event.accessComplete q.src q.dst v ∈ t.agenda ∧ Event.atomicReservationGrant dev word ∈ t.agenda ∧
        ∀ a, t.byte a = (s.storeHome (clusterOf q.src) q.pa q.n q.v).byte a)) ∧
  (∀ (s : State) (dev so c op d : Nat) (q : PeerReq), q.kind = .atomic op → q.flight = none → q.dst = .reg d q.n false →
    0 < q.n → s.holds q = true → s.readFault q.pa q.n = none → isDram q.pa = true →
    ∃ t, exec .lanternAtomic (s.given (.lanternAtomic dev so c q)) = .next t ∧
      Event.accessComplete q.src q.dst (s.readN q.pa q.n) ∈ t.agenda ∧
      ∀ a, t.byte a = (s.atomicHome (clusterOf q.src) q.pa q.n op q.v q.v2).2.byte a) ∧
  (∀ (s : State) (k : Nat) (d : Option Nat), (s.slot k).wait = .monitor d →
    ∃ t, exec .monWaitTimeout (s.given (.monWaitTimeout k)) = .next t ∧
      t.slot k = { s.slot k with wait := .expired } ∧ t.mem = s.mem)

/-- A grant entry admits an access of `n` bytes (R277, Table 13.2): valid, no fence, and one window holds every byte and
grants the kind by a bit of its base word. -/
def Sys2Proof.Claims.grants (g : Grant) (pa n bit : Nat) : Prop :=
  (Tab.get 0 g.w 0).getLsbD 0 = true ∧ (Tab.get 0 g.w 0).getLsbD 13 = false ∧
  ∃ j < 3, (Tab.get 0 g.w (1 + 2 * j)).toNat % 2 ^ 49 ≤ pa % 2 ^ 49 ∧
    pa % 2 ^ 49 + n ≤ (Tab.get 0 g.w (2 + 2 * j)).toNat % 2 ^ 49 + 1 ∧ (Tab.get 0 g.w (1 + 2 * j)).getLsbD bit = true
/-- The bit of a window that grants a kind of access. -/
def Sys2Proof.Claims.kindBit : AccKind → Nat
  | .load => 63
  | .store => 62
  | .atomic _ => 61

/-- R168, R173, R227, R229, R273, R277 to R279: what a peer access meets, and what comes back. An access that the grant
table refuses has no effect, counts, and sets the fence; one that it admits is performed at its home, held while the
home is not ready, or joins the word's queue. An acknowledgement ends the wait for it; a refusal is recorded in the
slot's latch or, its wick gone, logged and posted as 0xC5; a fence marker clears the fence. A peer that leaves is no
member: plain loads outstanding there raise 0x92, with no effect of what they asked of other peers, and other accesses
count as refused; a trained link makes a member.

Rests on the model's readings in notes/assumptions 56. -/
def Obligations.PeerEvents : Prop :=
  (∀ (s : State) (q : PeerReq), 0 < q.n →
    let d := bits q.pa 49 6
    let g := s.grant d (devOf q.src)
    let bit := Claims.kindBit q.kind
    d ≠ devOf q.src → ∃ t, exec .peerAccess (s.given (.peerAccess q)) = .next t ∧
      (¬Claims.grants g q.pa q.n bit →
        let w := Tab.get 0 (t.grant d (devOf q.src)).w 0
        Event.peerRefusal q ∈ t.agenda ∧ t.mem = s.mem ∧ t.slots = s.slots ∧ w.getLsbD 13 = true ∧
        w.toNat / 2 ^ 32 = ((Tab.get 0 g.w 0).toNat / 2 ^ 32 + 1) % 2 ^ 32 ∧
        ((Tab.get 0 g.w 0).getLsbD 13 = true → t.dies = s.dies)) ∧
      (Claims.grants g q.pa q.n bit → s.home (2 ^ 30) q.pa = .ok →
        (q.kind = .load → q.flight = none → s.holds q = true → s.readFault q.pa q.n = none →
          Event.accessComplete q.src q.dst (landValue q.dst q.n (s.loadHome q.pa q.n)) ∈ t.agenda ∧ t.mem = s.mem) ∧
        (q.kind = .store → (q.v2 ≠ 2 ∧ q.v2 ≠ 3 ∧ s.reserved q.pa q.n = false ∨ (q.v2 = 2 ∨ q.v2 = 3) ∧ isDram q.pa = false) →
          s.writeError q.pa q.n = none → Event.peerAck q ∈ t.agenda ∧
          ∀ a, t.byte a = (s.storeHome (2 ^ 30) q.pa q.n q.v).byte a) ∧
        (q.kind = .store → (q.v2 = 2 ∨ q.v2 = 3) → isDram q.pa = true → s.writeError q.pa q.n = none →
          Event.peerAck q ∈ t.agenda ∧ t.mem = s.mem ∧
          ∃ r, Event.lanternRequest d (bits q.pa 44 5) (bits q.pa 9 3) r ∈ t.agenda ∧ r.pa = q.pa ∧ r.store = true) ∧
        (∀ op, q.kind = .atomic op →
          (∀ dev so off, region q.pa = .dram dev so off → Event.lanternAtomic dev so (bits off 9 3) q ∈ t.agenda) ∧
          (isDram q.pa = false → ∃ r ∈ t.resv, r.word = (s.reservedWord q.pa q.n).getD (q.pa / 8) ∧ r.q.getLast? = some q) ∧ t.mem = s.mem)) ∧
      (Claims.grants g q.pa q.n bit → s.home (2 ^ 30) q.pa = .held → t.mem = s.mem ∧
        (t.die (dieKey d (bits q.pa 44 5))).router = (s.die (dieKey d (bits q.pa 44 5))).router ++ [q])) ∧
  (∀ (s : State) (q : PeerReq), q.kind = .store →
    ∃ t, exec .peerAck (s.given (.peerAck q)) = .next t ∧ t.mem = s.mem ∧
      (q.v2 ≠ 2 → q.v2 ≠ 3 → (t.slot q.src).peerOut = (s.slot q.src).peerOut.erase ⟨bits q.pa 49 6, q.num⟩ ∧
        ((s.slot q.src).wait = .acks → (t.slot q.src).wait = .none) ∧
        (q.v2 = 1 → q.flight = none → s.holds q = true → ∃ v, Event.accessComplete q.src .none v ∈ t.agenda)) ∧
      (∀ o, (q.v2 = 2 ∨ q.v2 = 3) → (s.cluster (clusterOf q.src)).op (q.flight.getD 0) = some o → o.eq = 2 → o.vigil = none →
        ((t.cluster (clusterOf q.src)).op o.id).map (fun z => (z.acks, z.bytes)) =
          some (o.acks - (if q.v2 = 3 then 2 * q.n else q.n), o.bytes + (if q.v2 = 3 then 2 * q.n else q.n)))) ∧
  (∀ (s : State) (q : PeerReq), q.kind ≠ .store ∨ (q.v2 ≠ 2 ∧ q.v2 ≠ 3) →
    let d := bits q.pa 49 6
    let m := fun (s : State) => Tab.get 0 (s.mod (devOf q.src)).refusals d
    ∃ t, exec .peerRefusal (s.given (.peerRefusal q)) = .next t ∧ t.mem = s.mem ∧
      (s.holds q = true → m t = m s + 1 ∧
        (t.slot q.src).latch = (match (s.slot q.src).latch with
          | none => some ⟨q.pc, d, false, [d]⟩
          | some l => some ⟨l.pc, l.dev, true, l.owed ++ [d]⟩) ∧
        (q.kind ≠ .store → q.flight = none → Event.accessComplete q.src q.dst 0 ∈ t.agenda)) ∧
      (s.holds q = false → m t = m s ∧ (m s = 0 → Event.fenceMarker d (devOf q.src) ∈ t.agenda) ∧
        (t.slot q.src).latch = (s.slot q.src).latch ∧
        (Tab.find? 0xC5 (t.core (dieOf q.src * 1024 + 15)).irq).isSome = true) ∧
      (q.kind = .store → (t.slot q.src).peerOut = (s.slot q.src).peerOut.erase ⟨d, q.num⟩)) ∧
  (∀ (s : State) (dev src : Nat), ∃ t, exec .fenceMarker (s.given (.fenceMarker dev src)) = .next t ∧ t.mem = s.mem ∧
    ∀ i j, (Tab.get 0 (t.grant dev src).w i).getLsbD j =
      if i = 0 ∧ j = 13 then false else (Tab.get 0 (s.grant dev src).w i).getLsbD j) ∧
  (∀ (s : State) (dev peer : Nat), dev ≠ peer →
    ∃ t, exec .peerLeft (s.given (.peerLeft dev peer)) = .next t ∧ t.mem = s.mem ∧ t.isMember dev peer = false ∧
      ∀ q, devOf q.src = dev → bits q.pa 55 1 = 0 → bits q.pa 49 6 = peer →
        (∀ rest, q.kind = .load → q.flight = none → s.agenda = .peerAccess q :: rest →
          (∀ e ∈ rest, ∃ r : PeerReq, e = .peerAccess r ∧ r.kind = .load ∧ r.flight = none ∧ r.src = q.src ∧ r.wick = q.wick) →
          s.timers = [] → s.holds q = true → (s.slot q.src).wait = .reply → (s.slot q.src).upcallOk = true →
          (t.slot q.src).pc = (s.slot q.src).uvec ∧ (t.slot q.src).ucause = 0x92 ∧
            (t.slot q.src).uepc = (q.pc &&& 0x01FFFFFFFFFFFFFC) ||| 1 ∧ ∀ r, Event.peerAccess r ∉ t.agenda) ∧
        (q.kind = .store → Event.peerAccess q ∈ s.agenda → Event.peerRefusal q ∈ t.agenda)) ∧
  (∀ (s : State) (dev peer : Nat), ∃ t, exec .linkTrained (s.given (.linkTrained dev peer)) = .next t ∧
    t.isMember dev peer = true ∧ (∀ p, p ≠ peer → t.isMember dev p = s.isMember dev p) ∧ t.mem = s.mem ∧
    t.slots = s.slots)

/-! ### Events of Lanterns, slot tables and Tapers -/

/-- R263, R282, R283, R290, R358, R359, R370, R376: what a Lantern does with a request of its own and at the end of a
Beacon interval, and how an I/O die runs its slot table. A write on the identity stream to lines without an error stores
its bytes and is counted; one on an empty slot, or bound to an installation that the slot no longer holds, fails and
changes nothing. A ready controller writes its candidates in descending estimate, clears its counters, and advances seq.
After its guard an entry sends what its lasers serve, in order; the rest stays. At its duration's end, or once the queues
that it serves are empty and sent, it closes and opens the next one with its guard, or entry 0 of a table installed since.

Rests on the model's readings in notes/assumptions 14, 51 and 61. -/
def Obligations.LanternAndSlotEvents : Prop :=
  (∀ (s : State) (dev so ctl d stack off : Nat) (q : LanternReq), q.store = true →
    region q.pa = .dram d stack off →
    let l := fun (s : State) => Tab.get {} (s.mod d).lanterns ((if stack < 6 then stack else stack - 12) * 8 + off / 512 % 8)
    ∃ t, exec .lanternRequest (s.given (.lanternRequest dev so ctl q)) = .next t ∧ (l t).taken = (l s).taken + 1 ∧
      (q.stream = 0 → (∀ i < q.data.length, isDram (q.pa + i) = true) →
        (∀ w ∈ s.bad, 64 * (w / 8) + 64 ≤ q.pa ∨ q.pa + q.data.length ≤ 64 * (w / 8)) → (l t).failed = (l s).failed ∧
        ∀ a, t.byte a = if q.pa ≤ a ∧ a < q.pa + q.data.length then q.data.getD (a - q.pa) 0 else s.byte a) ∧
      (q.stream ≠ 0 → ((s.stream dev q.stream).image = none ∨ (s.stream dev q.stream).inst ≠ q.inst) → t.mem = s.mem ∧ (l t).failed = (l s).failed + 1)) ∧
  (∀ (s : State) (dev stack ctl : Nat),
    let k := (if stack < 6 then stack else stack - 12) * 8 + ctl
    let a := (s.mod dev).beaconBase + 2048 * k
    let l := Tab.get {} (s.mod dev).lanterns k
    let r := (s.die (dieKey dev stack)).readyWord
    ∃ t n, exec .beaconInterval (s.given (.beaconInterval dev stack ctl)) = .next t ∧
      (n, Event.beaconInterval dev stack ctl) ∈ t.timers ∧
      ((r.getLsbD 7 = true ∨ r.getLsbD 2 = false) → t.mem = s.mem ∧ t.mods = s.mods) ∧
      (r.getLsbD 7 = false → r.getLsbD 2 = true → l.cand.length ≤ 64 →
        (∃ cs : List (Nat × Nat), cs.Perm l.cand ∧ cs.Pairwise (fun x y => y.2 ≤ x.2) ∧
          ∀ j < 64, t.readN (a + 16 * j) 8 = (match cs[j]? with
              | some c => ((dev * 2 + stack / 16) * 2 ^ 32 + c.1) % 2 ^ 64
              | none => 0) ∧
            t.readN (a + 16 * j + 8) 8 = (match cs[j]? with | some c => c.2 % 2 ^ 64 | none => 0)) ∧
        t.readN (a + 1024) 8 = (l.seq + 1) % 2 ^ 64 ∧
        (let z := Tab.get {} (t.mod dev).lanterns k
        z.seq = l.seq + 1 ∧ z.failed = l.failed ∧ l.taken ≤ z.taken ∧
          ((∀ j < 3, ∀ so off, region (a + 512 * j) = .dram dev so off → lanternOf so off ≠ k) →
            z = { l with sketch := [], cand := [], seq := l.seq + 1 })) ∧
        ∀ p, p < a ∨ a + 1032 ≤ p → t.byte p = s.byte p)) ∧
  (∀ (s : State) (die : Nat),
    let tb := s.dieTable die
    let d := s.die die
    let lasers := fun p => lasersFor tb.1 d.entry (ioNumber (die % 32)) p
    ∃ t, exec .slotGuardEnd (s.given (.slotGuardEnd die)) = .next t ∧ t.mem = s.mem ∧
      (tb.2 = 0 → t = s.given (.slotGuardEnd die)) ∧
      (tb.2 ≠ 0 → (t.die die).guard = false ∧ (t.die die).entry = d.entry ∧
        ((∀ i ∈ d.sendq, lasers i.dst = 0) → (t.die die).sendq = d.sendq ∧ t.agenda = s.agenda ∧
          ∃ n, (n, Event.slotQueuesEmpty die) ∈ t.timers) ∧
        (∀ i, d.sendq = [i] → d.sending = [] → s.isMember (die / 32) i.dst = true →
          0 < i.q.n → i.q.n ≤ lasers i.dst * (5 * (64 * slotDur tb.1 d.entry - 8 * slotGuard tb.1 d.entry)) →
          Event.peerAccess i.q ∈ t.agenda ∧ (t.die die).sendq = [] ∧ ∃ n, (n, Event.slotQueuesEmpty die) ∈ t.timers))) ∧
  (∀ (s : State) (die : Nat) (e : Event),
    let d := s.die die
    let empty := d.guard = false ∧ d.sending.all (fun x => decide (x.2 ≤ s.tick)) = true ∧
      ∀ i ∈ d.sendq, lasersFor (s.dieTable die).1 d.entry (ioNumber (die % 32)) i.dst = 0
    (e = .slotDurationExpiry die ∨ e = .slotQueuesEmpty die ∧ empty →
      ∃ t, exec e.instr (s.given e) = .next t ∧ t.mem = s.mem ∧ (t.die die).guard = true ∧
        (t.die die).sendq = d.sendq ∧ (t.die die).switch = false ∧
        (d.switch = false → (t.die die).entry = (if d.entry + 1 < (s.dieTable die).2 then d.entry + 1 else 0)) ∧
        (d.switch = true → (t.die die).entry = 0) ∧
        ((s.mod (die / 32)).slotCount ≠ 0 → ∃ n, (n, Event.slotGuardEnd die) ∈ t.timers)) ∧
    (e = .slotQueuesEmpty die → ¬empty →
      ∃ t, exec e.instr (s.given e) = .next t ∧ t.mem = s.mem ∧ (t.die die).entry = d.entry ∧
        (t.die die).guard = d.guard ∧ (t.die die).sendq = d.sendq))

/-- R384, R386 to R388, R392, Tables 21.5 and 21.6: what the Taper engine does in a cycle, at an entry's end, and with
the messages. An eligible head becomes a ready wick of the launch or named die and the next entry is head; otherwise a
bubble counts for the first condition that fails. An entry that ends updates its stash slot and sends its free-slot
count and its arrival once no earlier entry on the same ring or channel is open; behind a failed entry of its ring it
retires all the same, its count withheld. A message advances its ring or channel,
or is counted as discarded.

Rests on the model's readings in notes/assumptions 14. -/
def Obligations.TaperEvents : Prop :=
  (∀ (s : State) (die : Nat),
    let dev := die / 32
    let e := s.taper dev
    let h := e.at e.head
    let so := cbAff e.cb % 32
    let target := dieKey dev (if isCompute so then so else 7)
    let input : Prop := h.iv = true → ((Tab.get {} e.rings h.iring).arr + 2 ^ 16 - (Tab.get {} e.rings h.iring).taken) % 2 ^ 16 ≠ 0
    let stash : Prop := (h.sact = 1 → (Tab.get {} e.stash h.sslot).st = 0) ∧
      (2 ≤ h.sact → (Tab.get {} e.stash h.sslot).st = 2)
    let down : Prop := h.ov = true → (Tab.get {} e.chans ((chanOf e.cb h.opeer h.oring).getD 0)).cred ≠ 0
    let room : Prop := (s.die target).count false < 15360
    ∃ t, exec .taperDispatch (s.given (.taperDispatch die)) = .next t ∧ t.mem = s.mem ∧
      (e.run = false → t = s.given (.taperDispatch die)) ∧
      (e.run = true → input → stash → down → room → cbFmt e.cb ≤ 127 →
        (t.taper dev).dispatched = e.dispatched + 1 ∧
        (t.taper dev).head = (if e.head + 1 = cbCount e.cb then 0 else e.head + 1) ∧
        ∃ x ∈ (t.die target).ready, x.w.taper = some ⟨x0Of dev, e.head, e.dispatched⟩ ∧ x.eff = max 1 h.prio ∧
          x.w.rcd.pc.toNat = h.pc ∧ x.w.rcd.kind = 0 ∧ x.w.rcd.prio = max 1 h.prio ∧ x.w.rcd.grp = 0 ∧
          x.w.rcd.pred = 1 ∧ x.w.rcd.asid = e.asid.toNat ∧ x.w.rcd.fmt = cbFmt e.cb ∧ x.w.rcd.aff = cbAff e.cb ∧
          x.w.rcd.g5 = BitVec.ofNat 64 h.arg0 ∧ x.w.rcd.g6 = BitVec.ofNat 64 h.arg1) ∧
      (e.run = true → ¬(input ∧ stash ∧ down ∧ room) →
        (t.taper dev).dispatched = e.dispatched ∧ (t.taper dev).head = e.head ∧ t.dies = s.dies ∧
        ∃ n, (input → 1 ≤ n) ∧ (¬input → n = 0) ∧ (input → ¬stash → n = 1) ∧ (input → stash → ¬down → n = 2) ∧
          (input → stash → down → n = 3) ∧
          ∀ j, Tab.get 0 (t.taper dev).bubbles j = Tab.get 0 e.bubbles j + (if j = n then 1 else 0)) ∧
      ((t.taper dev).run = true → ∃ n, (n, Event.taperDispatch (x0Of dev)) ∈ t.timers)) ∧
  (∀ (s : State) (g : TaperTag) (o : TapOut),
    let dev := g.die / 32
    let e := s.taper dev
    let h := e.at o.entry
    e.out = [o] → o.seq = g.seq → o.ended = false → o.failed = false →
    ∃ t, exec .taperEntryEnd (s.given (.taperEntryEnd g)) = .next t ∧ t.mem = s.mem ∧ (t.taper dev).out = [] ∧
      (t.taper dev).ended = e.ended + 1 ∧
      (h.sact = 1 → (Tab.get {} e.stash h.sslot).st = 1 → (Tab.get {} (t.taper dev).stash h.sslot).st = 2) ∧
      (h.sact = 3 → Tab.get {} e.stash h.sslot = ⟨3, 1⟩ → Tab.get {} (t.taper dev).stash h.sslot = ⟨0, 0⟩) ∧
      (o.owesIn = true →
        (Tab.get {} (t.taper dev).rings h.iring).done = ((Tab.get {} e.rings h.iring).done + 1) % 2 ^ 16 ∧
        (e.badIn.elem h.iring = true → o.owesOut = false →
          (t.taper dev).withheld = e.withheld + 1 ∧ t.agenda = s.agenda) ∧
        (e.badIn.elem h.iring = false → s.isMember dev (linkDev (inWord1 e.cb h.iring)) = true →
          Event.taperFreeSlotCount (x0Of (linkDev (inWord1 e.cb h.iring))) dev h.iring ∈ t.agenda)) ∧
      (o.owesOut = true → e.badOut.elem ((chanOf e.cb h.opeer h.oring).getD 0) = false →
        s.isMember dev h.opeer = true → Event.taperArrival (x0Of h.opeer) dev h.oring ∈ t.agenda)) ∧
  (∀ (s : State) (g : TaperTag) (o1 o2 : TapOut),
    let dev := g.die / 32
    let e := s.taper dev
    e.out = [o1, o2] → o2.seq = g.seq → o1.seq ≠ g.seq → o1.ended = false → o2.ended = false →
    (e.at o1.entry).iring = (e.at o2.entry).iring → o1.owesIn = true → o2.owesIn = true → o1.owesOut = false →
    o2.owesOut = false →
    ∃ t, exec .taperEntryEnd (s.given (.taperEntryEnd g)) = .next t ∧ t.agenda = s.agenda ∧
      (t.taper dev).rings = e.rings ∧ (t.taper dev).ended = e.ended + 1) ∧
  (∀ (s : State) (die src ring : Nat),
    let e := s.taper (die / 32)
    let w := inWord1 e.cb ring
    let mine := e.loaded = true ∧ ring < 16 ∧ linkDepth w ≠ 0 ∧ linkDev w = src
    ∃ t, exec .taperArrival (s.given (.taperArrival die src ring)) = .next t ∧ t.mem = s.mem ∧
      (mine → (t.taper (die / 32)).discarded = e.discarded ∧ (Tab.get {} (t.taper (die / 32)).rings ring).arr =
        ((Tab.get {} e.rings ring).arr + 1) % 2 ^ 16) ∧
      (¬mine → (t.taper (die / 32)).rings = e.rings ∧ (t.taper (die / 32)).discarded = e.discarded + 1)) ∧
  (∀ (s : State) (die src ring : Nat),
    let e := s.taper (die / 32)
    let names := fun j => linkDepth (outWord1 e.cb j) ≠ 0 ∧ linkDev (outWord1 e.cb j) = src ∧
      bits (outWord1 e.cb j) 46 4 = ring
    ∃ t, exec .taperFreeSlotCount (s.given (.taperFreeSlotCount die src ring)) = .next t ∧ t.mem = s.mem ∧
      (∀ j < 16, e.loaded = true → names j → (∀ i < j, ¬names i) →
        (Tab.get {} (t.taper (die / 32)).chans j).cred = ((Tab.get {} e.chans j).cred + 1) % 2 ^ 16 ∧
        (t.taper (die / 32)).discarded = e.discarded) ∧
      ((e.loaded = false ∨ ∀ j < 16, ¬names j) → (t.taper (die / 32)).chans = e.chans ∧
        (t.taper (die / 32)).discarded = e.discarded + 1))

/-! ### Events of failures, interrupts and fetches -/

/-- R152, R231, R233, R235, R412: what the failure events do. A failed wick's record goes into the ring of its die, at
the head, or into the buffer, with 0xC6 posted, or waits behind those that failed before it; an advanced tail lets the oldest buffered record into the ring. A core
in error is fenced, loses its shared state, and its wicks fail one by one, the one at fault with 0xB6, the others with
0xB5; a re-admitted core is fed again. One bank of a scratchpad can be marked.

Rests on the model's readings in notes/assumptions 21, 22 and 66. -/
def Obligations.FailureEvents : Prop :=
  (∀ (s : State) (die : Nat) (w : Wick), w.taper = none → 64 ≤ (s.die die).failBase →
    let d := s.die die
    let head := s.readN (d.failBase - 56) 8
    ∃ t, exec .wickFailure (s.given (.wickFailure die w)) = .next t ∧
      (d.overflow = [] → s.failFull die = false →
        t.readN (d.failBase + 64 * (head % d.failSize)) 64 = w.rcd.toNat ∧
        t.readN (d.failBase - 56) 8 = (head + 1) % 2 ^ 64 ∧ (t.die die).overflow = []) ∧
      ((d.overflow ≠ [] ∨ s.failFull die = true) → d.overflow.length < 64 →
        (t.die die).overflow = d.overflow ++ [w.rcd] ∧ t.mem = s.mem ∧
        (Tab.find? 0xC6 (t.core (die * 1024 + 15)).irq).isSome = true) ∧
      (64 ≤ d.overflow.length → t.mem = s.mem ∧ (t.die die).overflow = d.overflow ∧
        (t.die die).waitFails = d.waitFails ++ [.record w.rcd])) ∧
  (∀ (s : State) (die tail : Nat) (r : WickRec), 64 ≤ (s.die die).failBase → 0 < (s.die die).failSize →
    (s.die die).waitFails = [] → (s.die die).overflow = [r] → tail < 2 ^ 64 →
    let d := s.die die
    let head := s.readN (d.failBase - 56) 8
    ∃ t, exec .failureListTailAdvance (s.given (.failureListTailAdvance die tail)) = .next t ∧
      t.readN (d.failBase - 48) 8 = tail ∧
      (head - tail ≠ d.failSize → (t.die die).overflow = [] ∧
        t.readN (d.failBase + 64 * (head % d.failSize)) 64 = r.toNat ∧
        t.readN (d.failBase - 56) 8 = (head + 1) % 2 ^ 64) ∧
      (head - tail = d.failSize → (t.die die).overflow = [r])) ∧
  (∀ (s : State) (k : Nat), (s.core (coreOf k)).fenced = false → s.failFull (dieOf k) = false →
    ∃ t, exec .coreError (s.given (.coreError k)) = .next t ∧ Event.coreError k ∈ t.agenda ∧ t.mem = s.mem ∧
      let c := t.core (coreOf k)
      c.fenced = true ∧ c.h = [] ∧ c.acc = [] ∧ c.rq = [] ∧ c.link = [] ∧ c.mx = [] ∧
      ((s.slot k).occ = false →
        (t.die (dieOf k)).log.length = (s.die (dieOf k)).log.length + (s.core (coreOf k)).link.length + 1) ∧
      ((s.slot k).occ = true → (t.slot k).occ = false ∧ ∃ w : Wick, Event.wickFailure (dieOf k) w ∈ t.agenda ∧
        w.rcd.state = 3 ∧ bits w.rcd.w1.toNat 56 8 = 0xB6)) ∧
  (∀ (s : State) (k j : Nat), (s.core (coreOf k)).fenced = true → s.failFull (dieOf k) = false →
    ((∀ i, coreOf i = coreOf k → ∀ c, (s.slot i).wait ≠ .failing c) → coreOf j = coreOf k → (s.slot j).occ = true →
      (∀ i < j, coreOf i = coreOf k → (s.slot i).occ = false) →
      ∃ t w, exec .coreError (s.given (.coreError k)) = .next t ∧ (t.slot j).occ = false ∧
        Event.wickFailure (dieOf k) w ∈ t.agenda ∧ bits w.rcd.w1.toNat 56 8 = 0xB5 ∧ Event.coreError k ∈ t.agenda ∧
        (t.die (dieOf k)).log.length = (s.die (dieOf k)).log.length + 1) ∧
    (∀ w rest, (∀ i, coreOf i = coreOf k → (s.slot i).occ = false) → (s.core (coreOf k)).runq = w :: rest →
      ∃ t w2, exec .coreError (s.given (.coreError k)) = .next t ∧ (t.core (coreOf k)).runq = rest ∧
        Event.wickFailure (dieOf k) w2 ∈ t.agenda ∧ w2.rcd.state = 3 ∧ bits w2.rcd.w1.toNat 56 8 = 0xB5 ∧
        Event.coreError k ∈ t.agenda ∧ (t.die (dieOf k)).log.length = (s.die (dieOf k)).log.length + 1)) ∧
  (∀ (s : State) (k : Nat), ∃ t, exec .coreReadmit (s.given (.coreReadmit k)) = .next t ∧
    t.core k = { s.core k with fenced := false } ∧ Event.dispenserPass (k / 16) ∈ t.agenda ∧ t.mem = s.mem) ∧
  (∀ (s : State) (ck bank : Nat), ∃ t, exec .bankFailMark (s.given (.bankFailMark ck bank)) = .next t ∧ t.mem = s.mem ∧
    (t.cluster ck).failedBanks =
      if (s.cluster ck).failedBanks = [] ∧ bank < 34 then [bank] else (s.cluster ck).failedBanks)

/-- R221, R224, R230, R236 to R239, R408: the interrupt sources and the taking of an interrupt. An all-slots source is
pending once for every slot that holds a wick, with the core's dispenser stopped by a pre-emption; its withdrawal lets
held slots go on. A one-slot source is pending for the core, and a second post merges; a doorbell waits until its die's
service cores run (R410). A slot with a handler enters it
with its pc saved and the source no longer pending; one without is held; one with peer stores outstanding waits; one with
a recorded fault takes 0x90 first, with the interrupt still pending.

Rests on the model's readings in notes/assumptions 23, 24 and 25. -/
def Obligations.InterruptEvents : Prop :=
  (∀ (s : State) (k c : Nat) (e : Event) (v : Word),
    (e = .preemptionRequest k v ∧ c = 0xC0 ∨ e = .debugHalt k ∧ c = 0xC3 ∧ v = 0) →
    (∀ j, coreOf j = k → ∀ p ∈ (s.slot j).irqAll, p.1 ≠ c) →
    ∃ t, exec e.instr (s.given e) = .next t ∧ t.mem = s.mem ∧ (c = 0xC0 → (t.core k).halted = true) ∧
      (c = 0xC3 → (t.core k).debug = true) ∧
      ∀ j, t.slot j = if coreOf j = k ∧ (s.slot j).occ = true then
        { s.slot j with irqAll := (s.slot j).irqAll ++ [(c, v)] } else s.slot j) ∧
  (∀ (s : State) (k c : Nat) (e : Event), (e = .preemptionWithdraw k ∧ c = 0xC0 ∨ e = .debugHaltEnd k ∧ c = 0xC3) →
    ∃ t, exec e.instr (s.given e) = .next t ∧ t.mem = s.mem ∧ (c = 0xC0 → (t.core k).halted = false) ∧
      (c = 0xC3 → (t.core k).debug = false) ∧ Event.dispenserPass (k / 16) ∈ t.agenda ∧
      ∀ j, coreOf j = k → (∀ p ∈ (t.slot j).irqAll, p.1 ≠ c) ∧
        (t.slot j).wait = (if (s.slot j).wait = .held c then .none else (s.slot j).wait) ∧
        (t.slot j).pc = (s.slot j).pc) ∧
  (∀ (s : State) (dev c k : Nat) (v : Word),
    (∃ t, exec .serviceSignal (s.given (.serviceSignal k v)) = .next t ∧ t.mem = s.mem ∧ t.slots = s.slots ∧
      Tab.find? 0xC2 (t.core k).irq = some ((Tab.find? 0xC2 (s.core k).irq).getD v)) ∧
    (c < 8 → ∃ t, exec .hostDoorbell (s.given (.hostDoorbell dev c v)) = .next t ∧ t.mem = s.mem ∧ t.slots = s.slots ∧
      let die := dev * 32 + [7, 8, 9, 10, 13, 14, 15, 16].getD c 7
      let r := (s.die die).readyWord
      (r.getLsbD 7 = false → r.getLsbD 2 = true → Tab.find? 0xC1 (t.core (die * 1024 + 15)).irq =
        some ((Tab.find? 0xC1 (s.core (die * 1024 + 15)).irq).getD v)) ∧
      (r.getLsbD 7 = false → r.getLsbD 2 = false → t.cores = s.cores ∧
        (s.tick + 64, .hostDoorbell dev c v) ∈ t.timers) ∧
      (r.getLsbD 7 = true → t.cores = s.cores ∧ t.timers = s.timers))) ∧
  (∀ (s : State) (k c : Nat) (v : Word) (all : Bool), s.interruptFor k = some (c, v, all) → c < 256 →
    let y := s.slot k
    ∃ t, exec .interruptTake (s.given (.interruptTake k)) = .next t ∧ t.mem = s.mem ∧
      let z := t.slot k
      (y.tvec ≠ 0 → y.peerOut = [] → y.latch = none →
        z.pc = y.tvec ∧ z.tepc = y.pc &&& 0x01FFFFFFFFFFFFFC ∧ z.tval = v ∧ z.user = false ∧ z.ie = false ∧
        z.tcause = BitVec.ofNat 64 ((if y.ie then 2 ^ 9 else 0) + (if y.user then 2 ^ 8 else 0) + c) ∧
        z.g = y.g ∧ z.v = y.v ∧ z.pred = y.pred ∧ z.wait = .none ∧ z.handler = true ∧
        (all = true → ∀ p ∈ z.irqAll, p.1 ≠ c) ∧
        (all = false → Tab.find? c (t.core (coreOf k)).irq = none)) ∧
      (y.tvec = 0 → z.wait = .held c ∧ z.pc = y.pc ∧ z.irqAll = y.irqAll) ∧
      (y.tvec ≠ 0 → y.peerOut ≠ [] → z.wait = .acks ∧ z.pc = y.pc ∧ z.irqAll = y.irqAll) ∧
      (∀ l, y.tvec ≠ 0 → y.peerOut = [] → y.latch = some l → y.user = true → y.uvec = 0 →
        z.pc = y.tvec ∧ z.tval = l.value ∧ z.tepc = y.pc &&& 0x01FFFFFFFFFFFFFC ∧ z.latch = none ∧
        z.irqAll = y.irqAll ∧ (t.core (coreOf k)).irq = (s.core (coreOf k)).irq))

/-- R45, R48, R63, R85, R121, R254, R256: a word that decodes to no instruction, or to one that its slot may not execute,
takes the lowest of its decode causes, with the word as its value; the answer of a fetch that missed lets the slot go on, with the line of its home in the instruction cache, or
takes 0x43, or starts a walk; a debugger's read returns the register and changes nothing else.

Rests on the model's readings in notes/assumptions 7, 34 and 62. -/
def Obligations.FetchAndDebugEvents : Prop :=
  (∀ (s : State) (w l1 l2 : IWord) (c : Nat), illegalCause s s.cur w l1 l2 = some c →
    exec .illegalInstruction (s.given (.illegalInstruction w l1 l2)) =
      .next ((s.given (.illegalInstruction w l1 l2)).takeTrap s.cur c (w.zeroExtend 64) (s.slot s.cur).pc false)) ∧
  (∀ (s : State) (w l1 l2 : IWord) (c : Nat), decode w l1 l2 = .error c →
    ∃ c2, illegalCause s s.cur w l1 l2 = some c2 ∧ c2 ≤ c ∧
      (∀ i, parse w l1 l2 = .ok i → decodeCause s s.cur i.enc = some c2)) ∧
  (∀ (s : State) (k : Nat) (va : Word), (s.slot k).wait = .fetch va →
    let y := s.slot k
    ∃ t, exec .instructionCacheMissFill (s.given (.instructionCacheMissFill k)) = .next t ∧ t.mem = s.mem ∧
      (va.toNat < 2 ^ 57 → isNear va = true → s.readError (nearPa (coreOf k) va) = none →
        t.slot k = { y with wait := .none } ∧
        ∀ c off, region (nearPa (coreOf k) va) = .scratch c off → ∀ e ∈ t.syms, e.row ≠ nearPa (coreOf k) va / 256) ∧
      (2 ^ 57 ≤ va.toNat → y.upcallOk = true → (t.slot k).pc = y.uvec ∧ (t.slot k).ucause = 0x43 ∧ (t.slot k).uval = va) ∧
      (∀ x s1, va.toNat < 2 ^ 57 → isNear va = false →
        s.xlate (coreOf k) true y.user y.asid .fetch va = (.ok x, s1) → s1.targetCause k .fetch 4 x = none →
        s1.home (dieOf k) x.pa = .ok → s1.readFault (x.pa - va.toNat % 64) 64 = none → peerOf k x.pa = none →
        (region (x.pa - va.toNat % 64)).inRange = true →
        t.slot k = { y with wait := .none } ∧ ∃ l ∈ (t.core (coreOf k)).icache, l.asid = y.asid ∧
          l.line = va.toNat / 64 ∧ l.bytes = (List.range 64).map (fun j => s.byte (x.pa - va.toNat % 64 + j))) ∧
      (∀ s1, va.toNat < 2 ^ 57 → isNear va = false → s.xlate (coreOf k) true y.user y.asid .fetch va = (.miss, s1) →
        (s.cluster (clusterOf k)).missq = [] → (s.cluster (clusterOf k)).disp.length < 64 →
        (t.slot k).wait = .fetchMiss va ∧ ∃ m ∈ (t.cluster (clusterOf k)).missq, m.asid = y.asid ∧
          m.page = va.toNat / 2 ^ 16 ∧ m.kind = 2 ∧ k ∈ m.slots)) ∧
  (∀ (s : State) (k : Nat) (r : SideReg), let y := s.slot k
    let read := fun (v : Nat) => exec .sidebandRead (s.given (.sidebandRead k r)) =
      .next { s.given (.sidebandRead k r) with sideband := BitVec.ofNat 1024 v }
    (∀ n, r = .g n → y.isPending n = false → read (if y.gated then 0 else (Tab.get 0 y.g n).toNat)) ∧
    (∀ n, r = .vec n → y.isPending (32 + n) = false → read (if y.gated then 0 else (y.vreg n).toNat)) ∧
    (r = .pred → read (if y.gated then 0 else y.pred.toNat)) ∧
    (∀ n, r = .sys n →
      read (if y.gated = true ∧ n ∈ [0x002, 0x003, 0x008, 0x009, 0x00A, 0x00B] then 0 else (s.sysRead k n).toNat)) ∧
    (∀ n, r = .ring n →
      read (if y.gated then 0 else s.localN (coreOf k) (0x100 + 0x80 * (k % 8) + 16 * n) 16)) ∧
    (∀ n, r = .sparse n → read (if y.gated then 0 else y.fs.toNat / 2 ^ (32 * n) % 2 ^ 32)) ∧
    (∀ n, (r = .g n ∧ y.isPending n = true ∨ r = .h n ∧ y.isPending (16 + n) = true) → ∃ t m, exec .sidebandRead (s.given (.sidebandRead k r)) = .next t ∧
      (m, Event.sidebandRead k r) ∈ t.timers ∧ t.slots = s.slots ∧ t.sideband = s.sideband))

/-! ### Events of power, the host link and reset -/

/-- R403 to R406: what the power events do. A demand above the held units starts a throttle episode, with 0xC4 posted
to every core of a compute die, and asks the first neighbour for the shortfall; one below repays what was borrowed; a
lender short of its own units recalls them. A request is lent the lesser of itself and the unused own units; units that
arrive are borrowed, and the next neighbour is asked for what is still short or the episode ends; a repayment reaches
its lender, where it comes off the loan that it repays; a recall takes the units from the borrower and repays them.

Rests on the model's readings in notes/assumptions 27 and 95. -/
def Obligations.PowerEvents : Prop :=
  (∀ (s : State) (die demand : Nat),
    let d := s.die die
    let allot := if isCompute (die % 32) then 520 else 90
    d.recalled = 0 → d.asking = false → d.throttled = false →
    ∃ t, exec .demandChange (s.given (.demandChange die demand)) = .next t ∧ t.mem = s.mem ∧
      (t.die die).demand = demand ∧
      (d.loans = [] → d.lent = [] → demand ≤ allot → t.agenda = s.agenda ∧ (t.die die).throttled = false ∧
        t.cores = s.cores) ∧
      (d.loans = [] → d.lent = [] → allot < demand → (t.die die).throttled = true ∧
        (∀ n rest, neighbours (die % 32) = n :: rest →
          Event.powerBorrowRequest die (die / 32 * 32 + n) (demand - allot) ∈ t.agenda) ∧
        (isCompute (die % 32) = true → ∀ j < 768, (Tab.find? 0xC4 (t.core (die * 1024 + j)).irq).isSome = true)) ∧
      (∀ id l u c, d.loans = [⟨id, l, u, c⟩] → 0 < u → d.lent = [] → demand ≤ allot →
        Event.powerRepay die l u id false ∈ t.agenda ∧ (t.die die).loans = []) ∧
      (∀ id b u, d.loans = [] → d.lent = [⟨id, b, u, 0⟩] → u ≤ allot → allot < demand + u →
        Event.powerRecall b die (min (demand - (allot - u)) u) id ∈ t.agenda)) ∧
  (∀ (s : State) (borrower lender units : Nat),
    let d := s.die lender
    let u := min units ((if isCompute (lender % 32) then 520 else 90) - d.lentOut - d.demand)
    ∃ t, exec .powerBorrowRequest (s.given (.powerBorrowRequest borrower lender units)) = .next t ∧
      Event.powerLend borrower lender u s.nextOp ∈ t.agenda ∧ (t.die lender).lentOut = d.lentOut + u ∧
      (t.die lender).borrowed = d.borrowed ∧ t.mem = s.mem ∧ t.slots = s.slots) ∧
  (∀ (s : State) (borrower lender units loan : Nat),
    let d := s.die borrower
    let held := (if isCompute (borrower % 32) then 520 else 90) + d.borrowed + units - d.lentOut
    d.recalled = 0 → d.throttled = true → held ≤ d.demand →
    ∃ t, exec .powerLend (s.given (.powerLend borrower lender units loan)) = .next t ∧ t.mem = s.mem ∧
      (t.die borrower).borrowed = d.borrowed + units ∧
      (t.die borrower).throttled = decide (held < d.demand) ∧
      (∀ n rest, held < d.demand → (neighbours (borrower % 32)).filter (fun n => decide (lender % 32 < n)) = n :: rest →
        Event.powerBorrowRequest borrower (borrower / 32 * 32 + n) (d.demand - held) ∈ t.agenda)) ∧
  (∀ (s : State) (borrower lender u c units id : Nat) (recalled : Bool),
    (s.die lender).lent = [⟨id, borrower, u, c⟩] → units ≤ u →
    ∃ t, exec .powerRepay (s.given (.powerRepay borrower lender units id recalled)) = .next t ∧
      (t.die lender).lentOut = u - units ∧ t.mem = s.mem) ∧
  (∀ (s : State) (borrower lender u1 u2 c units id1 id2 : Nat), id1 ≠ id2 → units ≤ u2 → u2 ≤ 520 → 0 < u1 →
    (s.die lender).lent = [⟨id1, borrower, u1, 0⟩, ⟨id2, borrower, u2, c⟩] → (s.die lender).demand = 0 →
    (s.die lender).loans = [] →
    ∃ t, exec .powerRepay (s.given (.powerRepay borrower lender units id2 true)) = .next t ∧
      (t.die lender).lent = ⟨id1, borrower, u1, 0⟩ ::
        if units = u2 then [] else [⟨id2, borrower, u2 - units, min (u2 - units) (c - units)⟩]) ∧
  (∀ (s : State) (borrower lender u c units id : Nat),
    let d := s.die borrower
    let v := min units u
    d.loans = [⟨id, lender, u, c⟩] → d.lent = [] → 0 < v →
    (if isCompute (borrower % 32) then 520 else 90) + u ≤ d.demand + v →
    ∃ t, exec .powerRecall (s.given (.powerRecall borrower lender units id)) = .next t ∧
      Event.powerRepay borrower lender v id true ∈ t.agenda ∧ (t.die borrower).borrowed = u - v ∧ t.mem = s.mem)

/-- R407 to R410, R413 to R415, R271, Tables 23.2 to 23.7: what the events of the host link and of bring-up do. A tail
is written and stops an overfull queue; an entry is skipped with its cause or placed with result 0, and head advances.
An attestation request is ignored while busy; its report holds the nonce that stood at the request, the socket and the
ready word; the sideband's goes to the sideband. A host's write reaches only what its tables name. A die whose firmware
verifies, and which passes its self-test, sets its ready bits with its slots and cores in reset state, a compute die with
its failure list's size word written, a stack with its memory zero, and what waited at its router, or for its functions, goes on; one that fails
sets bit 7 alone. The other link events count or set the one bit that their rules name.

Rests on the model's readings in notes/assumptions 29, 30, 31, 32, 73 and 91. -/
def Obligations.HostAndResetEvents : Prop :=
  (∀ (s : State) (die tail : Nat), ∃ t, exec .launchTailWrite (s.given (.launchTailWrite die tail)) = .next t ∧
    (t.die die).lq.tail = tail % 2 ^ 16 ∧ (t.die die).lq.head = (s.die die).lq.head ∧ t.mem = s.mem ∧
    (t.die die).lq.stopped = decide (32 < (tail % 2 ^ 16 + 2 ^ 16 - (s.die die).lq.head) % 2 ^ 16) ∧
    Event.launchEntryTake die ∈ t.agenda) ∧
  (∀ (s : State) (die : Nat),
    let q := (s.die die).lq
    let v := leNat ((List.range 128).map (fun i => Tab.get 0 q.entries (128 * (q.head % 32) + i)))
    q.stopped = false → (q.tail + 2 ^ 16 - q.head) % 2 ^ 16 ≠ 0 → (s.die die).readyWord.getLsbD 1 = true →
    ∃ t, exec .launchEntryTake (s.given (.launchEntryTake die)) = .next t ∧ t.mem = s.mem ∧
      (∀ c, descCause v true = some c → (c = 0x0A ∨ c = 0x0B) ∧ (t.die die).lq.head = (q.head + 1) % 2 ^ 16 ∧
        Tab.get 0 (t.die die).lq.results (q.head % 32) = c ∧ (t.die die).lq.cause = c ∧
        ∀ d, (t.die d).ready = (s.die d).ready) ∧
      (descCause v true = none → s.launchRoom (die / 32) v = true → (t.die die).lq.head = (q.head + 1) % 2 ^ 16 ∧
        Tab.get 0 (t.die die).lq.results (q.head % 32) = 0 ∧
        ∀ d, (t.die d).ready =
          ((s.launch (die / 32) v (bits q.qctl.toNat 0 9) (bits q.qctl.toNat 16 16)).die d).ready)) ∧
  (∀ (s : State) (dev : Nat) (v : Word),
    let m := s.mod dev
    let so := v.toNat % 32
    let answers := 24 ≤ so ∨ (s.die (dieKey dev so)).readyWord.getLsbD 0 = true ∨
      (s.die (dieKey dev so)).readyWord.getLsbD 7 = true
    (∀ n, ∃ t, exec .attestationRequest (s.given (.attestationRequest dev v (some n))) = .next t ∧ t.mem = s.mem ∧
      t.mods = s.mods ∧ (answers → Event.attestationAnswer dev so (some n) ∈ t.agenda) ∧
      (¬answers → ∃ m, (m, Event.attestationRequest dev v (some n)) ∈ t.timers)) ∧
    ∃ t, exec .attestationRequest (s.given (.attestationRequest dev v none)) = .next t ∧ t.mem = s.mem ∧
      (m.attStatus.getLsbD 0 = true → t = s.given (.attestationRequest dev v none)) ∧
      (m.attStatus.getLsbD 0 = false → (t.mod dev).attReq.toNat = so ∧
        (v.getLsbD 8 = false → (t.mod dev).attStatus = m.attStatus ∧ t.agenda = s.agenda) ∧
        (v.getLsbD 8 = true → (t.mod dev).attStatus = 1 ∧ (t.mod dev).asked = m.nonce ∧
          (answers → Event.attestationAnswer dev so none ∈ t.agenda)))) ∧
  (∀ (s : State) (dev so : Nat) (n : List Byte), so ≤ 24 →
    ∃ t, exec .attestationAnswer (s.given (.attestationAnswer dev so (some n))) = .next t ∧ t.mem = s.mem ∧
      (t.mod dev).report = (s.mod dev).report ∧ (t.mod dev).attStatus = (s.mod dev).attStatus ∧
      let r := (t.mod dev).sideReport
      (so < 24 → (s.die (dieKey dev so)).readyWord.getLsbD 7 = true → r = []) ∧
      ((so = 24 ∨ (s.die (dieKey dev so)).readyWord.getLsbD 7 = false) → r.length = 218 ∧
        (∀ j < 32, r.getD j 0 = n.getD j 0) ∧ r.getD 96 0 = BitVec.ofNat 8 so)) ∧
  (∀ (s : State) (dev so : Nat), (s.mod dev).attStatus.getLsbD 0 = true → so ≤ 24 →
    ∃ t, exec .attestationAnswer (s.given (.attestationAnswer dev so none)) = .next t ∧ t.mem = s.mem ∧
      (so < 24 → (s.die (dieKey dev so)).readyWord.getLsbD 7 = true →
        (t.mod dev).attStatus = 6 ∧ (t.mod dev).report = (s.mod dev).report) ∧
      ((so = 24 ∨ (s.die (dieKey dev so)).readyWord.getLsbD 7 = false) → (t.mod dev).attStatus = 2 ∧
        let r := (t.mod dev).report
        r.length = 218 ∧ r.getD 96 0 = BitVec.ofNat 8 so ∧
        r.getD 97 0 = (if so < 24 then (s.die (dieKey dev so)).readyWord else 0) ∧
        (∀ j < 32, r.getD j 0 = (s.mod dev).asked.getD j 0) ∧ ∀ j, 98 ≤ j → j < 104 → r.getD j 0 = 0)) ∧
  (∀ (s : State) (dev off : Nat) (v : Word),
    let e := Event.hostRegisterWrite dev off v
    ∃ t, exec .hostRegisterWrite (s.given e) = .next t ∧ t.mem = s.mem ∧ t.slots = s.slots ∧
      (off % 8 ≠ 0 ∨ off < 0x1020 ∨ 0x1040 ≤ off ∧ off < 2 ^ 16 → t = s.given e) ∧
      (off % 8 = 0 → 0x1020 ≤ off → off < 0x1040 → ∀ j < 8,
        (t.mod dev).nonce.getD (off - 0x1020 + j) 0 = BitVec.ofNat 8 (v.toNat / 256 ^ j)) ∧
      (∀ die base, (base = 2 ^ 16 ∧ die = dieKey dev 6 ∨ base = 2 ^ 17 ∧ die = dieKey dev 12) → off % 8 = 0 →
        (base ≤ off → off < base + 0x1000 → ∀ j < 8,
          Tab.get 0 (t.die die).lq.entries (off - base + j) = BitVec.ofNat 8 (v.toNat / 256 ^ j)) ∧
        (off = base + 0x1000 → ((s.die die).lq.tail + 2 ^ 16 - (s.die die).lq.head) % 2 ^ 16 = 0 →
          (t.die die).lq.qctl = v &&& 0xFFFF01FF) ∧
        (base + 0x1000 < off → off < base + 2 ^ 16 → t.dies = s.dies ∨ (t.die die).lq = (s.die die).lq))) ∧
  (∀ (s : State) (die : Nat) (image : List Byte) (tested signed : Bool),
    let so := die % 32
    let e := Event.dieReset die image tested signed
    let ok := tested && Gnonik.firmwareOk (Config.firmwareKeys die) image
    let inside := fun pa => ∃ dev sk off, region pa = .dram dev sk off ∧ dieKey dev sk = die
    ((s.die die).router = [] → ∃ t, exec .dieReset (s.given e) = .next t ∧
      (∀ k, dieOf k = die → t.slot k = {}) ∧ (∀ k, dieOfCluster (k / 16) = die → t.core k = {}) ∧
      (t.die die).mark = 512 ∧
      (ok = false → (t.die die).readyWord = 0x80 ∧ t.mem = s.mem) ∧
      (ok = true → (t.die die).measured = Crypto.shake256 image 64 ∧ (t.die die).readyWord =
        (if isIo so then (if so = 6 then 0x0B else 0x03)
          else if isStack so = true ∧ linkAgrees die signed = false then 0x05 else 0x07) ∧
        (isCompute so = true → Event.schedDispatch die ∈ t.agenda ∧
          (s.home die (64 * Config.failBase die - 64) = .ok → t.readN (64 * Config.failBase die - 64) 8 =
            2 ^ (6 + Config.failSize die % 15))) ∧
        ∀ a, (∀ d ∈ diesOf (die / 32), a < (t.die d).failBase - 64 ∨ (t.die d).failBase - 64 + 8 ≤ a) →
          (inside a → isStack so = true → t.byte a = 0) ∧ (¬inside a → t.byte a = s.byte a)) ∧
      ∀ k, dieOf k ≠ die → { t.slot k with wait := .none, mons := [] } = { s.slot k with wait := .none, mons := [] } ∧
        ∀ pa, (t.slot k).wait = .router pa → t.routerHome k pa = .held) ∧
    (∀ q, (s.die die).router = [q] → isCompute so = true → ok = true → q.kind = .load → q.flight = none →
      s.holds q = true → dieOf q.src ≠ die → s.readFault q.pa q.n = none → s.reserved q.pa q.n = false → (∃ c off, region q.pa = .scratch c off ∧ dieOfCluster c = die) →
      s.home die (64 * Config.failBase die - 64) ≠ .ok →
      ∃ t, exec .dieReset (s.given e) = .next t ∧
        Event.accessComplete q.src q.dst (landValue q.dst q.n (s.loadHome q.pa q.n)) ∈ t.agenda)) ∧
  (∀ (s : State) (die : Nat) (up : Bool),
    ∃ t, exec .hostLinkTrained (s.given (.hostLinkTrained die up)) = .next t ∧ t.mem = s.mem ∧
      ((die % 32 = 6 ∨ die % 32 = 12) → (s.die die).readyWord.getLsbD 7 = false →
        (∀ j, (t.die die).readyWord.getLsbD j = if j = 2 then up else (s.die die).readyWord.getLsbD j) ∧
        ∀ k pa, (t.slot k).wait = .router pa → t.routerHome k pa = .held) ∧
      ((die % 32 ≠ 6 ∧ die % 32 ≠ 12 ∨ (s.die die).readyWord.getLsbD 7 = true) →
        t = s.given (.hostLinkTrained die up))) ∧
  (∀ (s : State) (die link : Nat),
    (∃ t, exec .flitAuthFail (s.given (.flitAuthFail die link)) = .next t ∧ t.mem = s.mem ∧ t.slots = s.slots ∧
      (t.die die).log.length = (s.die die).log.length + 1 ∧ (t.die die).readyWord = (s.die die).readyWord) ∧
    (∃ t, exec .escapeTimeout (s.given (.escapeTimeout die)) = .next t ∧ t.mem = s.mem ∧ t.slots = s.slots ∧
      (t.die die).escapes = (s.die die).escapes + 1))

/-! ### The machine as a whole -/

/-- R27, R91, R112, R118, R123, R176, R178, R219, R267, R276, R299, R339, R359, R410: the values that the spec gives for
reset, and that memory is in its canonical form and the fixed register bits read as they must (notes/assumptions 8 to 13
name the values that the model chose; none is claimed here). -/
def Obligations.ResetValues : Prop :=
  State.reset.memOk = true ∧ State.reset.regsOk = true ∧
  (∀ k, (State.reset.slot k).tvec = 0 ∧ (State.reset.slot k).tsave = 0 ∧ (State.reset.slot k).tmask = 0x100000000 ∧
    (State.reset.slot k).occ = false ∧ (State.reset.slot k).p 0 = true ∧ (State.reset.slot k).p 1 = false) ∧
  (∀ k n, State.reset.readCode k (16 + n % 8) {} = some (0, {}) ∧ (State.reset.core k).cycle = 0 ∧
    Tab.get {} (State.reset.core k).acc n = ⟨0, []⟩) ∧
  (∀ d, (State.reset.die d).mark = 512 ∧ (State.reset.die d).readyWord = 0 ∧ (State.reset.die d).throttle = 0) ∧
  (∀ ck n, Tab.get 16 (State.reset.cluster ck).quantum n = 16 ∧ (State.reset.cluster ck).misses = 0 ∧
    (State.reset.cluster ck).multi = 0 ∧ (Tab.get {} (State.reset.cluster ck).cx n).st = 0 ∧
    (Tab.get {} (State.reset.cluster ck).cx n).gen = 0) ∧
  ∀ m n i, Tab.get 0 (State.reset.grant m n).w i = 0 ∧ (State.reset.stream m n).inst = 0 ∧
    (State.reset.stream m n).image = none ∧ (State.reset.mod m).members = []

/-- R84, R45, R149: a step with nothing else to do runs the next core's cycle: the slot that the barrel picks executes
the instruction that its words decode to, or takes the decode cause of words that are none, or takes the interrupt that it
may take, but not before an instruction that goes on after a wait that no interrupt abandons; the words of a near-window pc
are those of memory; a step with an event on the agenda executes it.

Rests on the model's readings in notes/assumptions 1, 2, 15 and 76. -/
def Obligations.StepRunsDecodedInstruction : Prop :=
  (∀ (s : State) (k slot : Nat) (rest : List Nat) (w l1 l2 : IWord), s.agenda = [] → (∀ t ∈ s.timers, s.tick < t.1) →
    s.turn = k :: rest → ({ s with turn := rest ++ [k] } : State).coreEvent k = none →
    let s1 := { ({ s with turn := rest ++ [k] } : State).onCore k (fun c => { c with cycle := c.cycle + 1 }) with
      tick := s.tick + 1 }
    let s2 := s1.issueFrom k slot
    (s1.core k).fenced = false → s1.withholds k = false → s1.pick k = some slot →
    (s1.goesOn slot = false → s2.interrupted slot = true → step s = exec .interruptTake (s2.given (.interruptTake slot))) ∧
    ((s1.goesOn slot = true ∨ s2.interrupted slot = false) → s2.fetch slot = .ok (w, l1, l2) →
      s2.cur = slot ∧ (s2.slot slot).pc = (s.slot slot).pc ∧ s2.mem = s.mem ∧
      (∀ i, decode w l1 l2 = .ok i → step s = exec i s2) ∧
      (∀ c, decode w l1 l2 = .error c → step s = exec .illegalInstruction (s2.given (.illegalInstruction w l1 l2))))) ∧
  (∀ (s : State) (slot : Nat),
    let pc := (s.slot slot).pc
    let word := fun j => BitVec.ofNat 32 (s.readN (nearPa (coreOf slot) pc + 4 * j) 4)
    clusterOk (clusterOf slot) = true → isNear pc = true → bits pc.toNat 0 31 + 12 ≤ 0x10000 →
    (∀ j < 3, s.readError (nearPa (coreOf slot) pc + 4 * j) = none ∧ s.rowMarked (nearPa (coreOf slot) pc + 4 * j) = false) →
    s.fetch slot = .ok (word 0, if 1 ≤ literalWords (word 0) then word 1 else 0,
      if 2 ≤ literalWords (word 0) then word 2 else 0)) ∧
  ∀ (s : State) (e : Event) (rest : List Event), s.agenda = e :: rest →
    step s = exec e.instr { s with agenda := rest, ev := some e, tick := s.tick + 1 }

/-- Tables 3.1 to 3.3 and the encoding tables of the chapters: a few words, written out from the spec, decode to the
instructions that they stand for, and a word of an unassigned opcode to none. -/
def Obligations.WordsDecode : Prop :=
  decodeTableWord 32 0x02000000 = some (.aluAdd ⟨0, .reg 0, .reg 0, 0⟩) ∧
  decodeTableWord 32 0x10307FFB = some (.aluiAdd ⟨3, .reg 0, 0x7FFB⟩) ∧
  decodeTableWord 32 0x06610C31 = some (.cmpUn ⟨⟨6, .reg 2, .reg 3, 0⟩, 1⟩) ∧
  decodeTableWord 64 0x3640F0000 = some (.trapSw ⟨0, .lit32 3, .reg 0, 0⟩) ∧
  decodeTableWord 32 0x64000001 = some (.trapRet ⟨0, .reg 0, .reg 0, 0⟩) ∧
  decodeTableWord 32 0x640000C1 = some (.trapRet ⟨0, .reg 0, .reg 0, 3⟩) ∧
  decodeTableWord 32 0x64000002 = some (.trapBrk ⟨0, .reg 0, .reg 0, 0⟩) ∧
  decodeTableWord 32 0xFE000000 = none

/-- Table 3.1, R39 to R42: for every well-formed instruction of every family, decoding its encoded words gives it back,
with every operand at every value that the encoding admits. -/
def Obligations.DecodeOfEncode : Prop :=
  ∀ i : Instr, i.WellFormed → decode ((encode i).getD 0 0) ((encode i).getD 1 0) ((encode i).getD 2 0) = .ok i

/-- The canonical form of memory is an invariant of every step: addresses strictly rising, and no byte listed that an
unlisted address reads as.

Rests on the model's readings in notes/assumptions 3. -/
def Obligations.StepKeepsMemoryForm : Prop :=
  ∀ s t : State, s.memOk = true → step s = .next t → t.memOk = true

/-- R27, R112, R118: an invariant of every step: in every slot p0 is true, p1 is false, g0 reads zero, and bit 7 of
fflags is clear. -/
def Obligations.StepKeepsFixedRegisters : Prop :=
  ∀ s t : State, s.regsOk = true → step s = .next t → t.regsOk = true

/-- The major opcode of an instruction's word. -/
def Sys2Proof.Claims.opcode (i : Instr) : Nat := i.enc.word / 2 ^ 25 % 128
/-- The opcodes of the families that store nothing: scalar arithmetic, moves, system registers, branches and jumps, loads,
fences, monitors, vector arithmetic, loads and gathers, traps, and translation buffers. -/
def Sys2Proof.Claims.storesNothing : List Nat :=
  [1, 2, 3, 4, 5, 6, 8, 9, 10, 11, 12, 13, 14, 15, 16, 17, 24, 27, 28, 32, 33, 35, 50, 51]

/-- R112 to R118, R125 to R131: the frame of the instructions that store nothing: whatever they come to, every byte of
memory reads as before. One that completes with one register result, no access of it outstanding, changes only its
destination, the flags that it sets, the poll's predicate pair, dead marks and the pc, and the words that it has read leave
the receive queue: every other register of the slot, every register of other slots, and every other unit keep their
values. -/
def Obligations.RegisterInstructionFrame : Prop :=
  (∀ (i : Instr) (s t : State), i.enc.encoded = true → Claims.opcode i ∈ Claims.storesNothing → exec i s = .next t →
    ∀ a, t.byte a = s.byte a) ∧
  (∀ (s : State) (d len : Nat) (v : Word) (f : Fl) (q : Reading), d < 32 → (s.slot s.cur).regsOk = true →
    (s.slot s.cur).replies = 0 → (s.slot s.cur).polled = none →
    let t := ((s.writeReg s.cur d v).flagged s.cur f).retired s.cur len q
    let y := s.slot s.cur
    let z := t.slot s.cur
    t.mem = s.mem ∧ t.clusters = s.clusters ∧ t.dies = s.dies ∧ t.mods = s.mods ∧ t.resv = s.resv ∧ t.bad = s.bad ∧
    (d < 24 → t.agenda = s.agenda) ∧ z.pc = y.pc + BitVec.ofNat 64 len ∧
    (∀ n < 16, Tab.get 0 z.g n = if n = d ∧ d ≠ 0 then v else Tab.get 0 y.g n) ∧
    (∀ j < 7, z.fflags.getLsbD j = (y.fflags.getLsbD j || f.getLsbD j)) ∧
    (∀ j < 16, (∀ p, q.poll = some p → j ≠ p.1 ∧ j ≠ p.1 + 1) → z.p j = y.p j) ∧
    { z with pc := y.pc, g := y.g, dead := y.dead, fflags := y.fflags, pred := y.pred, wait := y.wait } = y ∧
    (∀ k, k ≠ s.cur → { t.slot k with wait := .none } = { s.slot k with wait := .none }) ∧
    (∀ c, c ≠ coreOf s.cur → t.core c = s.core c) ∧
    ((d < 16 ∨ 24 ≤ d) → (t.core (coreOf s.cur)).h = (s.core (coreOf s.cur)).h) ∧
    { t.core (coreOf s.cur) with h := [], rq := [], link := [], mqWait := [] } =
      { s.core (coreOf s.cur) with h := [], rq := [], link := [], mqWait := [] })
end

