-- ==== Sys2Proof/Laws/Tab.lean ====
section
/-!
SUPPORT. Laws of finite tables: what a lookup gives after each update, and that every update keeps the canonical
form.
-/

namespace Sys2Proof.Machine

variable {α β : Type}

@[simp] theorem Tab.find?_nil (k : Nat) : Tab.find? k ([] : Tab α) = none := rfl

theorem Tab.find?_cons (k k' : Nat) (v : α) (t : Tab α) :
    Tab.find? k ((k', v) :: t) = if k = k' then some v else Tab.find? k t := rfl

@[simp] theorem Tab.find?_put_self (k : Nat) (v : α) (t : Tab α) : Tab.find? k (Tab.put k v t) = some v := by
  induction t with
  | nil => simp [Tab.put, Tab.find?]
  | cons e t ih => obtain ⟨k', v'⟩ := e; simp only [Tab.put]; split <;> (try split) <;> simp_all [Tab.find?]

@[simp] theorem Tab.find?_put_ne {k j : Nat} (v : α) (t : Tab α) (h : j ≠ k) :
    Tab.find? j (Tab.put k v t) = Tab.find? j t := by
  induction t with
  | nil => simp [Tab.put, Tab.find?, h]
  | cons e t ih => obtain ⟨k', v'⟩ := e; simp only [Tab.put]; split <;> (try split) <;> simp_all [Tab.find?]

@[simp] theorem Tab.find?_del_self (k : Nat) (t : Tab α) : Tab.find? k (Tab.del k t) = none := by
  induction t with
  | nil => rfl
  | cons e t ih => obtain ⟨k', v'⟩ := e; simp only [Tab.del]; split <;> simp_all [Tab.find?]

@[simp] theorem Tab.find?_del_ne {k j : Nat} (t : Tab α) (h : j ≠ k) :
    Tab.find? j (Tab.del k t) = Tab.find? j t := by
  induction t with
  | nil => rfl
  | cons e t ih => obtain ⟨k', v'⟩ := e; simp only [Tab.del]; split <;> simp_all [Tab.find?]

@[simp] theorem Tab.get_put_self (d v : α) (k : Nat) (t : Tab α) : Tab.get d (Tab.put k v t) k = v := by
  simp [Tab.get]

@[simp] theorem Tab.get_put_ne {k j : Nat} (d v : α) (t : Tab α) (h : j ≠ k) :
    Tab.get d (Tab.put k v t) j = Tab.get d t j := by simp [Tab.get, h]

theorem Tab.get_put (d v : α) (k j : Nat) (t : Tab α) :
    Tab.get d (Tab.put k v t) j = if j = k then v else Tab.get d t j := by
  split <;> simp_all

@[simp] theorem Tab.get_set_self [DecidableEq α] (d v : α) (k : Nat) (t : Tab α) : Tab.get d (Tab.set d t k v) k = v := by
  unfold Tab.set; split <;> simp_all [Tab.get]

@[simp] theorem Tab.get_set_ne [DecidableEq α] {k j : Nat} (d v : α) (t : Tab α) (h : j ≠ k) :
    Tab.get d (Tab.set d t k v) j = Tab.get d t j := by
  unfold Tab.set; split <;> simp [Tab.get, h]

theorem Tab.get_set [DecidableEq α] (d v : α) (k j : Nat) (t : Tab α) :
    Tab.get d (Tab.set d t k v) j = if j = k then v else Tab.get d t j := by
  split <;> simp_all

theorem Tab.above_mono {m n : Nat} (h : m ≤ n) (t : Tab α) (ht : Tab.above n t) : Tab.above m t := by
  cases t with
  | nil => rfl
  | cons e t =>
    obtain ⟨k, v⟩ := e
    simp only [Tab.above, Bool.and_eq_true, decide_eq_true_eq] at ht ⊢
    exact ⟨by omega, ht.2⟩

theorem Tab.above_put {n k : Nat} (v : α) (t : Tab α) (hk : n ≤ k) (ht : Tab.above n t) : Tab.above n (Tab.put k v t) := by
  induction t generalizing n with
  | nil => simp [Tab.put, Tab.above, hk]
  | cons e t ih =>
    obtain ⟨k', v'⟩ := e
    simp only [Tab.above, Bool.and_eq_true, decide_eq_true_eq, Tab.put] at *
    split
    · simp [Tab.above, hk]; simp_all
    · split
      · simp [Tab.above, hk]; exact ⟨by omega, ht.2⟩
      · simp [Tab.above]; exact ⟨ht.1, ih (by omega) ht.2⟩

theorem Tab.above_del {n : Nat} (k : Nat) (t : Tab α) (ht : Tab.above n t) : Tab.above n (Tab.del k t) := by
  induction t generalizing n with
  | nil => rfl
  | cons e t ih =>
    obtain ⟨k', v'⟩ := e
    simp only [Tab.above, Bool.and_eq_true, decide_eq_true_eq, Tab.del] at *
    split
    · exact ih (Tab.above_mono (by omega) t ht.2)
    · simp [Tab.above]; exact ⟨ht.1, ih ht.2⟩

theorem Tab.noDefault_put [DecidableEq α] {d v : α} (k : Nat) (t : Tab α) (hv : v ≠ d) (ht : Tab.noDefault d t) :
    Tab.noDefault d (Tab.put k v t) := by
  induction t with
  | nil => simp [Tab.put, Tab.noDefault, hv]
  | cons e t ih =>
    obtain ⟨k', v'⟩ := e
    simp only [Tab.noDefault, Bool.and_eq_true, decide_eq_true_eq, Tab.put] at *
    split
    · simp [Tab.noDefault, hv, ht.2]
    · split <;> simp [Tab.noDefault, hv, ht.1, ht.2, ih ht.2]

theorem Tab.noDefault_del [DecidableEq α] {d : α} (k : Nat) (t : Tab α) (ht : Tab.noDefault d t) :
    Tab.noDefault d (Tab.del k t) := by
  induction t with
  | nil => rfl
  | cons e t ih =>
    obtain ⟨k', v'⟩ := e
    simp only [Tab.noDefault, Bool.and_eq_true, decide_eq_true_eq, Tab.del] at *
    split
    · exact ih ht.2
    · simp [Tab.noDefault, ht.1, ih ht.2]

/-- A write keeps the canonical form. -/
theorem Tab.wf_set [DecidableEq α] (d v : α) (k : Nat) (t : Tab α) (ht : Tab.wf d t) : Tab.wf d (Tab.set d t k v) := by
  simp only [Tab.wf, Bool.and_eq_true] at *
  unfold Tab.set
  split
  · exact ⟨Tab.above_del k t ht.1, Tab.noDefault_del k t ht.2⟩
  · exact ⟨Tab.above_put v t (by omega) ht.1, Tab.noDefault_put k t ‹_› ht.2⟩

theorem Tab.above_filter {n : Nat} (p : Nat × α → Bool) (t : Tab α) (ht : Tab.above n t) : Tab.above n (t.filter p) := by
  induction t generalizing n with
  | nil => rfl
  | cons e t ih =>
    obtain ⟨k', v'⟩ := e
    simp only [Tab.above, Bool.and_eq_true, decide_eq_true_eq] at ht
    by_cases hp : p (k', v')
    · simp only [List.filter_cons, hp, if_true, Tab.above, Bool.and_eq_true, decide_eq_true_eq]
      exact ⟨ht.1, ih ht.2⟩
    · simpa [List.filter_cons, hp] using ih (Tab.above_mono (by omega) t ht.2)

theorem Tab.noDefault_filter [DecidableEq α] {d : α} (p : Nat × α → Bool) (t : Tab α) (ht : Tab.noDefault d t) :
    Tab.noDefault d (t.filter p) := by
  induction t with
  | nil => rfl
  | cons e t ih =>
    obtain ⟨k', v'⟩ := e
    simp only [Tab.noDefault, Bool.and_eq_true, decide_eq_true_eq] at ht
    by_cases hp : p (k', v') <;> simp [hp, Tab.noDefault, ih ht.2, ht.1]

/-- Unlisting entries keeps the canonical form. -/
theorem Tab.wf_filter [DecidableEq α] {d : α} (p : Nat × α → Bool) (t : Tab α) (ht : Tab.wf d t) :
    Tab.wf d (t.filter p) := by
  simp only [Tab.wf, Bool.and_eq_true] at *
  exact ⟨Tab.above_filter p t ht.1, Tab.noDefault_filter p t ht.2⟩

/-! A property of every listed value. -/

theorem Tab.all_put (p : α → Bool) (k : Nat) (v : α) (t : Tab α) (hv : p v) (ht : t.all (fun e => p e.2)) :
    (Tab.put k v t).all (fun e => p e.2) := by
  induction t with
  | nil => simp [Tab.put, hv]
  | cons e t ih =>
    obtain ⟨k', v'⟩ := e
    simp only [List.all_cons, Bool.and_eq_true, Tab.put] at *
    split
    · simp [hv, ht.2]
    · split
      · simp [hv, ht.1, ht.2]
      · simp [ht.1, ih ht.2]

theorem Tab.get_of_all (p : α → Bool) (d : α) (k : Nat) (t : Tab α) (hd : p d) (ht : t.all (fun e => p e.2)) :
    p (Tab.get d t k) := by
  induction t with
  | nil => simpa [Tab.get, Tab.find?] using hd
  | cons e t ih =>
    obtain ⟨k', v'⟩ := e
    simp only [List.all_cons, Bool.and_eq_true] at ht
    by_cases hk : k = k'
    · simp [Tab.get, Tab.find?, hk, ht.1]
    · simpa [Tab.get, Tab.find?, hk] using ih ht.2

end Sys2Proof.Machine
end

