-- ==== Sys2Proof/Laws/State.lean ====
section
/-!
SUPPORT. Laws of the state's updates: what each field holds after each update, one lemma per field and update, and
what a unit holds after a unit is written.
-/

namespace Sys2Proof.Machine

variable (s : State)

@[simp] theorem State.setSlot_mem (k : Nat) (x : Slot) : (s.setSlot k x).mem = s.mem := rfl
@[simp] theorem State.setSlot_cur (k : Nat) (x : Slot) : (s.setSlot k x).cur = s.cur := rfl
@[simp] theorem State.setSlot_cores (k : Nat) (x : Slot) : (s.setSlot k x).cores = s.cores := rfl
@[simp] theorem State.setSlot_clusters (k : Nat) (x : Slot) : (s.setSlot k x).clusters = s.clusters := rfl
@[simp] theorem State.setSlot_dies (k : Nat) (x : Slot) : (s.setSlot k x).dies = s.dies := rfl
@[simp] theorem State.setSlot_mods (k : Nat) (x : Slot) : (s.setSlot k x).mods = s.mods := rfl
@[simp] theorem State.setSlot_bad (k : Nat) (x : Slot) : (s.setSlot k x).bad = s.bad := rfl
@[simp] theorem State.setSlot_syms (k : Nat) (x : Slot) : (s.setSlot k x).syms = s.syms := rfl
@[simp] theorem State.setSlot_lost (k : Nat) (x : Slot) : (s.setSlot k x).lost = s.lost := rfl
@[simp] theorem State.setSlot_resv (k : Nat) (x : Slot) : (s.setSlot k x).resv = s.resv := rfl
@[simp] theorem State.setSlot_releases (k : Nat) (x : Slot) : (s.setSlot k x).releases = s.releases := rfl
@[simp] theorem State.setSlot_agenda (k : Nat) (x : Slot) : (s.setSlot k x).agenda = s.agenda := rfl
@[simp] theorem State.setSlot_timers (k : Nat) (x : Slot) : (s.setSlot k x).timers = s.timers := rfl
@[simp] theorem State.setSlot_ev (k : Nat) (x : Slot) : (s.setSlot k x).ev = s.ev := rfl
@[simp] theorem State.setSlot_turn (k : Nat) (x : Slot) : (s.setSlot k x).turn = s.turn := rfl
@[simp] theorem State.setSlot_tick (k : Nat) (x : Slot) : (s.setSlot k x).tick = s.tick := rfl
@[simp] theorem State.setSlot_nextWick (k : Nat) (x : Slot) : (s.setSlot k x).nextWick = s.nextWick := rfl
@[simp] theorem State.setSlot_nextOp (k : Nat) (x : Slot) : (s.setSlot k x).nextOp = s.nextOp := rfl
@[simp] theorem State.setSlot_nextLaunch (k : Nat) (x : Slot) : (s.setSlot k x).nextLaunch = s.nextLaunch := rfl
@[simp] theorem State.setSlot_sideband (k : Nat) (x : Slot) : (s.setSlot k x).sideband = s.sideband := rfl
@[simp] theorem State.setSlot_freeCtr (k : Nat) (x : Slot) : (s.setSlot k x).freeCtr = s.freeCtr := rfl

@[simp] theorem State.setCore_mem (k : Nat) (x : Core) : (s.setCore k x).mem = s.mem := rfl
@[simp] theorem State.setCore_cur (k : Nat) (x : Core) : (s.setCore k x).cur = s.cur := rfl
@[simp] theorem State.setCore_slots (k : Nat) (x : Core) : (s.setCore k x).slots = s.slots := rfl
@[simp] theorem State.setCore_clusters (k : Nat) (x : Core) : (s.setCore k x).clusters = s.clusters := rfl
@[simp] theorem State.setCore_dies (k : Nat) (x : Core) : (s.setCore k x).dies = s.dies := rfl
@[simp] theorem State.setCore_mods (k : Nat) (x : Core) : (s.setCore k x).mods = s.mods := rfl
@[simp] theorem State.setCore_bad (k : Nat) (x : Core) : (s.setCore k x).bad = s.bad := rfl
@[simp] theorem State.setCore_syms (k : Nat) (x : Core) : (s.setCore k x).syms = s.syms := rfl
@[simp] theorem State.setCore_lost (k : Nat) (x : Core) : (s.setCore k x).lost = s.lost := rfl
@[simp] theorem State.setCore_resv (k : Nat) (x : Core) : (s.setCore k x).resv = s.resv := rfl
@[simp] theorem State.setCore_releases (k : Nat) (x : Core) : (s.setCore k x).releases = s.releases := rfl
@[simp] theorem State.setCore_agenda (k : Nat) (x : Core) : (s.setCore k x).agenda = s.agenda := rfl
@[simp] theorem State.setCore_timers (k : Nat) (x : Core) : (s.setCore k x).timers = s.timers := rfl
@[simp] theorem State.setCore_ev (k : Nat) (x : Core) : (s.setCore k x).ev = s.ev := rfl
@[simp] theorem State.setCore_turn (k : Nat) (x : Core) : (s.setCore k x).turn = s.turn := rfl
@[simp] theorem State.setCore_tick (k : Nat) (x : Core) : (s.setCore k x).tick = s.tick := rfl
@[simp] theorem State.setCore_nextWick (k : Nat) (x : Core) : (s.setCore k x).nextWick = s.nextWick := rfl
@[simp] theorem State.setCore_nextOp (k : Nat) (x : Core) : (s.setCore k x).nextOp = s.nextOp := rfl
@[simp] theorem State.setCore_nextLaunch (k : Nat) (x : Core) : (s.setCore k x).nextLaunch = s.nextLaunch := rfl
@[simp] theorem State.setCore_sideband (k : Nat) (x : Core) : (s.setCore k x).sideband = s.sideband := rfl
@[simp] theorem State.setCore_freeCtr (k : Nat) (x : Core) : (s.setCore k x).freeCtr = s.freeCtr := rfl

@[simp] theorem State.setCluster_mem (k : Nat) (x : Cluster) : (s.setCluster k x).mem = s.mem := rfl
@[simp] theorem State.setCluster_cur (k : Nat) (x : Cluster) : (s.setCluster k x).cur = s.cur := rfl
@[simp] theorem State.setCluster_slots (k : Nat) (x : Cluster) : (s.setCluster k x).slots = s.slots := rfl
@[simp] theorem State.setCluster_cores (k : Nat) (x : Cluster) : (s.setCluster k x).cores = s.cores := rfl
@[simp] theorem State.setCluster_dies (k : Nat) (x : Cluster) : (s.setCluster k x).dies = s.dies := rfl
@[simp] theorem State.setCluster_mods (k : Nat) (x : Cluster) : (s.setCluster k x).mods = s.mods := rfl
@[simp] theorem State.setCluster_bad (k : Nat) (x : Cluster) : (s.setCluster k x).bad = s.bad := rfl
@[simp] theorem State.setCluster_syms (k : Nat) (x : Cluster) : (s.setCluster k x).syms = s.syms := rfl
@[simp] theorem State.setCluster_lost (k : Nat) (x : Cluster) : (s.setCluster k x).lost = s.lost := rfl
@[simp] theorem State.setCluster_resv (k : Nat) (x : Cluster) : (s.setCluster k x).resv = s.resv := rfl
@[simp] theorem State.setCluster_releases (k : Nat) (x : Cluster) : (s.setCluster k x).releases = s.releases := rfl
@[simp] theorem State.setCluster_agenda (k : Nat) (x : Cluster) : (s.setCluster k x).agenda = s.agenda := rfl
@[simp] theorem State.setCluster_timers (k : Nat) (x : Cluster) : (s.setCluster k x).timers = s.timers := rfl
@[simp] theorem State.setCluster_ev (k : Nat) (x : Cluster) : (s.setCluster k x).ev = s.ev := rfl
@[simp] theorem State.setCluster_turn (k : Nat) (x : Cluster) : (s.setCluster k x).turn = s.turn := rfl
@[simp] theorem State.setCluster_tick (k : Nat) (x : Cluster) : (s.setCluster k x).tick = s.tick := rfl
@[simp] theorem State.setCluster_nextWick (k : Nat) (x : Cluster) : (s.setCluster k x).nextWick = s.nextWick := rfl
@[simp] theorem State.setCluster_nextOp (k : Nat) (x : Cluster) : (s.setCluster k x).nextOp = s.nextOp := rfl
@[simp] theorem State.setCluster_nextLaunch (k : Nat) (x : Cluster) : (s.setCluster k x).nextLaunch = s.nextLaunch := rfl
@[simp] theorem State.setCluster_sideband (k : Nat) (x : Cluster) : (s.setCluster k x).sideband = s.sideband := rfl
@[simp] theorem State.setCluster_freeCtr (k : Nat) (x : Cluster) : (s.setCluster k x).freeCtr = s.freeCtr := rfl

@[simp] theorem State.setDie_mem (k : Nat) (x : Die) : (s.setDie k x).mem = s.mem := rfl
@[simp] theorem State.setDie_cur (k : Nat) (x : Die) : (s.setDie k x).cur = s.cur := rfl
@[simp] theorem State.setDie_slots (k : Nat) (x : Die) : (s.setDie k x).slots = s.slots := rfl
@[simp] theorem State.setDie_cores (k : Nat) (x : Die) : (s.setDie k x).cores = s.cores := rfl
@[simp] theorem State.setDie_clusters (k : Nat) (x : Die) : (s.setDie k x).clusters = s.clusters := rfl
@[simp] theorem State.setDie_mods (k : Nat) (x : Die) : (s.setDie k x).mods = s.mods := rfl
@[simp] theorem State.setDie_bad (k : Nat) (x : Die) : (s.setDie k x).bad = s.bad := rfl
@[simp] theorem State.setDie_syms (k : Nat) (x : Die) : (s.setDie k x).syms = s.syms := rfl
@[simp] theorem State.setDie_lost (k : Nat) (x : Die) : (s.setDie k x).lost = s.lost := rfl
@[simp] theorem State.setDie_resv (k : Nat) (x : Die) : (s.setDie k x).resv = s.resv := rfl
@[simp] theorem State.setDie_releases (k : Nat) (x : Die) : (s.setDie k x).releases = s.releases := rfl
@[simp] theorem State.setDie_agenda (k : Nat) (x : Die) : (s.setDie k x).agenda = s.agenda := rfl
@[simp] theorem State.setDie_timers (k : Nat) (x : Die) : (s.setDie k x).timers = s.timers := rfl
@[simp] theorem State.setDie_ev (k : Nat) (x : Die) : (s.setDie k x).ev = s.ev := rfl
@[simp] theorem State.setDie_turn (k : Nat) (x : Die) : (s.setDie k x).turn = s.turn := rfl
@[simp] theorem State.setDie_tick (k : Nat) (x : Die) : (s.setDie k x).tick = s.tick := rfl
@[simp] theorem State.setDie_nextWick (k : Nat) (x : Die) : (s.setDie k x).nextWick = s.nextWick := rfl
@[simp] theorem State.setDie_nextOp (k : Nat) (x : Die) : (s.setDie k x).nextOp = s.nextOp := rfl
@[simp] theorem State.setDie_nextLaunch (k : Nat) (x : Die) : (s.setDie k x).nextLaunch = s.nextLaunch := rfl
@[simp] theorem State.setDie_sideband (k : Nat) (x : Die) : (s.setDie k x).sideband = s.sideband := rfl
@[simp] theorem State.setDie_freeCtr (k : Nat) (x : Die) : (s.setDie k x).freeCtr = s.freeCtr := rfl

@[simp] theorem State.setMod_mem (k : Nat) (x : Module) : (s.setMod k x).mem = s.mem := rfl
@[simp] theorem State.setMod_cur (k : Nat) (x : Module) : (s.setMod k x).cur = s.cur := rfl
@[simp] theorem State.setMod_slots (k : Nat) (x : Module) : (s.setMod k x).slots = s.slots := rfl
@[simp] theorem State.setMod_cores (k : Nat) (x : Module) : (s.setMod k x).cores = s.cores := rfl
@[simp] theorem State.setMod_clusters (k : Nat) (x : Module) : (s.setMod k x).clusters = s.clusters := rfl
@[simp] theorem State.setMod_dies (k : Nat) (x : Module) : (s.setMod k x).dies = s.dies := rfl
@[simp] theorem State.setMod_bad (k : Nat) (x : Module) : (s.setMod k x).bad = s.bad := rfl
@[simp] theorem State.setMod_syms (k : Nat) (x : Module) : (s.setMod k x).syms = s.syms := rfl
@[simp] theorem State.setMod_lost (k : Nat) (x : Module) : (s.setMod k x).lost = s.lost := rfl
@[simp] theorem State.setMod_resv (k : Nat) (x : Module) : (s.setMod k x).resv = s.resv := rfl
@[simp] theorem State.setMod_releases (k : Nat) (x : Module) : (s.setMod k x).releases = s.releases := rfl
@[simp] theorem State.setMod_agenda (k : Nat) (x : Module) : (s.setMod k x).agenda = s.agenda := rfl
@[simp] theorem State.setMod_timers (k : Nat) (x : Module) : (s.setMod k x).timers = s.timers := rfl
@[simp] theorem State.setMod_ev (k : Nat) (x : Module) : (s.setMod k x).ev = s.ev := rfl
@[simp] theorem State.setMod_turn (k : Nat) (x : Module) : (s.setMod k x).turn = s.turn := rfl
@[simp] theorem State.setMod_tick (k : Nat) (x : Module) : (s.setMod k x).tick = s.tick := rfl
@[simp] theorem State.setMod_nextWick (k : Nat) (x : Module) : (s.setMod k x).nextWick = s.nextWick := rfl
@[simp] theorem State.setMod_nextOp (k : Nat) (x : Module) : (s.setMod k x).nextOp = s.nextOp := rfl
@[simp] theorem State.setMod_nextLaunch (k : Nat) (x : Module) : (s.setMod k x).nextLaunch = s.nextLaunch := rfl
@[simp] theorem State.setMod_sideband (k : Nat) (x : Module) : (s.setMod k x).sideband = s.sideband := rfl
@[simp] theorem State.setMod_freeCtr (k : Nat) (x : Module) : (s.setMod k x).freeCtr = s.freeCtr := rfl

@[simp] theorem State.onSlot_mem (k : Nat) (f : Slot → Slot) : (s.onSlot k f).mem = s.mem := rfl
@[simp] theorem State.onSlot_cur (k : Nat) (f : Slot → Slot) : (s.onSlot k f).cur = s.cur := rfl
@[simp] theorem State.onSlot_cores (k : Nat) (f : Slot → Slot) : (s.onSlot k f).cores = s.cores := rfl
@[simp] theorem State.onSlot_clusters (k : Nat) (f : Slot → Slot) : (s.onSlot k f).clusters = s.clusters := rfl
@[simp] theorem State.onSlot_dies (k : Nat) (f : Slot → Slot) : (s.onSlot k f).dies = s.dies := rfl
@[simp] theorem State.onSlot_mods (k : Nat) (f : Slot → Slot) : (s.onSlot k f).mods = s.mods := rfl
@[simp] theorem State.onSlot_bad (k : Nat) (f : Slot → Slot) : (s.onSlot k f).bad = s.bad := rfl
@[simp] theorem State.onSlot_syms (k : Nat) (f : Slot → Slot) : (s.onSlot k f).syms = s.syms := rfl
@[simp] theorem State.onSlot_lost (k : Nat) (f : Slot → Slot) : (s.onSlot k f).lost = s.lost := rfl
@[simp] theorem State.onSlot_resv (k : Nat) (f : Slot → Slot) : (s.onSlot k f).resv = s.resv := rfl
@[simp] theorem State.onSlot_releases (k : Nat) (f : Slot → Slot) : (s.onSlot k f).releases = s.releases := rfl
@[simp] theorem State.onSlot_agenda (k : Nat) (f : Slot → Slot) : (s.onSlot k f).agenda = s.agenda := rfl
@[simp] theorem State.onSlot_timers (k : Nat) (f : Slot → Slot) : (s.onSlot k f).timers = s.timers := rfl
@[simp] theorem State.onSlot_ev (k : Nat) (f : Slot → Slot) : (s.onSlot k f).ev = s.ev := rfl
@[simp] theorem State.onSlot_turn (k : Nat) (f : Slot → Slot) : (s.onSlot k f).turn = s.turn := rfl
@[simp] theorem State.onSlot_tick (k : Nat) (f : Slot → Slot) : (s.onSlot k f).tick = s.tick := rfl
@[simp] theorem State.onSlot_nextWick (k : Nat) (f : Slot → Slot) : (s.onSlot k f).nextWick = s.nextWick := rfl
@[simp] theorem State.onSlot_nextOp (k : Nat) (f : Slot → Slot) : (s.onSlot k f).nextOp = s.nextOp := rfl
@[simp] theorem State.onSlot_nextLaunch (k : Nat) (f : Slot → Slot) : (s.onSlot k f).nextLaunch = s.nextLaunch := rfl
@[simp] theorem State.onSlot_sideband (k : Nat) (f : Slot → Slot) : (s.onSlot k f).sideband = s.sideband := rfl
@[simp] theorem State.onSlot_freeCtr (k : Nat) (f : Slot → Slot) : (s.onSlot k f).freeCtr = s.freeCtr := rfl

@[simp] theorem State.onCore_mem (k : Nat) (f : Core → Core) : (s.onCore k f).mem = s.mem := rfl
@[simp] theorem State.onCore_cur (k : Nat) (f : Core → Core) : (s.onCore k f).cur = s.cur := rfl
@[simp] theorem State.onCore_slots (k : Nat) (f : Core → Core) : (s.onCore k f).slots = s.slots := rfl
@[simp] theorem State.onCore_clusters (k : Nat) (f : Core → Core) : (s.onCore k f).clusters = s.clusters := rfl
@[simp] theorem State.onCore_dies (k : Nat) (f : Core → Core) : (s.onCore k f).dies = s.dies := rfl
@[simp] theorem State.onCore_mods (k : Nat) (f : Core → Core) : (s.onCore k f).mods = s.mods := rfl
@[simp] theorem State.onCore_bad (k : Nat) (f : Core → Core) : (s.onCore k f).bad = s.bad := rfl
@[simp] theorem State.onCore_syms (k : Nat) (f : Core → Core) : (s.onCore k f).syms = s.syms := rfl
@[simp] theorem State.onCore_lost (k : Nat) (f : Core → Core) : (s.onCore k f).lost = s.lost := rfl
@[simp] theorem State.onCore_resv (k : Nat) (f : Core → Core) : (s.onCore k f).resv = s.resv := rfl
@[simp] theorem State.onCore_releases (k : Nat) (f : Core → Core) : (s.onCore k f).releases = s.releases := rfl
@[simp] theorem State.onCore_agenda (k : Nat) (f : Core → Core) : (s.onCore k f).agenda = s.agenda := rfl
@[simp] theorem State.onCore_timers (k : Nat) (f : Core → Core) : (s.onCore k f).timers = s.timers := rfl
@[simp] theorem State.onCore_ev (k : Nat) (f : Core → Core) : (s.onCore k f).ev = s.ev := rfl
@[simp] theorem State.onCore_turn (k : Nat) (f : Core → Core) : (s.onCore k f).turn = s.turn := rfl
@[simp] theorem State.onCore_tick (k : Nat) (f : Core → Core) : (s.onCore k f).tick = s.tick := rfl
@[simp] theorem State.onCore_nextWick (k : Nat) (f : Core → Core) : (s.onCore k f).nextWick = s.nextWick := rfl
@[simp] theorem State.onCore_nextOp (k : Nat) (f : Core → Core) : (s.onCore k f).nextOp = s.nextOp := rfl
@[simp] theorem State.onCore_nextLaunch (k : Nat) (f : Core → Core) : (s.onCore k f).nextLaunch = s.nextLaunch := rfl
@[simp] theorem State.onCore_sideband (k : Nat) (f : Core → Core) : (s.onCore k f).sideband = s.sideband := rfl
@[simp] theorem State.onCore_freeCtr (k : Nat) (f : Core → Core) : (s.onCore k f).freeCtr = s.freeCtr := rfl

@[simp] theorem State.onCluster_mem (k : Nat) (f : Cluster → Cluster) : (s.onCluster k f).mem = s.mem := rfl
@[simp] theorem State.onCluster_cur (k : Nat) (f : Cluster → Cluster) : (s.onCluster k f).cur = s.cur := rfl
@[simp] theorem State.onCluster_slots (k : Nat) (f : Cluster → Cluster) : (s.onCluster k f).slots = s.slots := rfl
@[simp] theorem State.onCluster_cores (k : Nat) (f : Cluster → Cluster) : (s.onCluster k f).cores = s.cores := rfl
@[simp] theorem State.onCluster_dies (k : Nat) (f : Cluster → Cluster) : (s.onCluster k f).dies = s.dies := rfl
@[simp] theorem State.onCluster_mods (k : Nat) (f : Cluster → Cluster) : (s.onCluster k f).mods = s.mods := rfl
@[simp] theorem State.onCluster_bad (k : Nat) (f : Cluster → Cluster) : (s.onCluster k f).bad = s.bad := rfl
@[simp] theorem State.onCluster_syms (k : Nat) (f : Cluster → Cluster) : (s.onCluster k f).syms = s.syms := rfl
@[simp] theorem State.onCluster_lost (k : Nat) (f : Cluster → Cluster) : (s.onCluster k f).lost = s.lost := rfl
@[simp] theorem State.onCluster_resv (k : Nat) (f : Cluster → Cluster) : (s.onCluster k f).resv = s.resv := rfl
@[simp] theorem State.onCluster_releases (k : Nat) (f : Cluster → Cluster) : (s.onCluster k f).releases = s.releases := rfl
@[simp] theorem State.onCluster_agenda (k : Nat) (f : Cluster → Cluster) : (s.onCluster k f).agenda = s.agenda := rfl
@[simp] theorem State.onCluster_timers (k : Nat) (f : Cluster → Cluster) : (s.onCluster k f).timers = s.timers := rfl
@[simp] theorem State.onCluster_ev (k : Nat) (f : Cluster → Cluster) : (s.onCluster k f).ev = s.ev := rfl
@[simp] theorem State.onCluster_turn (k : Nat) (f : Cluster → Cluster) : (s.onCluster k f).turn = s.turn := rfl
@[simp] theorem State.onCluster_tick (k : Nat) (f : Cluster → Cluster) : (s.onCluster k f).tick = s.tick := rfl
@[simp] theorem State.onCluster_nextWick (k : Nat) (f : Cluster → Cluster) : (s.onCluster k f).nextWick = s.nextWick := rfl
@[simp] theorem State.onCluster_nextOp (k : Nat) (f : Cluster → Cluster) : (s.onCluster k f).nextOp = s.nextOp := rfl
@[simp] theorem State.onCluster_nextLaunch (k : Nat) (f : Cluster → Cluster) : (s.onCluster k f).nextLaunch = s.nextLaunch := rfl
@[simp] theorem State.onCluster_sideband (k : Nat) (f : Cluster → Cluster) : (s.onCluster k f).sideband = s.sideband := rfl
@[simp] theorem State.onCluster_freeCtr (k : Nat) (f : Cluster → Cluster) : (s.onCluster k f).freeCtr = s.freeCtr := rfl

@[simp] theorem State.onDie_mem (k : Nat) (f : Die → Die) : (s.onDie k f).mem = s.mem := rfl
@[simp] theorem State.onDie_cur (k : Nat) (f : Die → Die) : (s.onDie k f).cur = s.cur := rfl
@[simp] theorem State.onDie_slots (k : Nat) (f : Die → Die) : (s.onDie k f).slots = s.slots := rfl
@[simp] theorem State.onDie_cores (k : Nat) (f : Die → Die) : (s.onDie k f).cores = s.cores := rfl
@[simp] theorem State.onDie_clusters (k : Nat) (f : Die → Die) : (s.onDie k f).clusters = s.clusters := rfl
@[simp] theorem State.onDie_mods (k : Nat) (f : Die → Die) : (s.onDie k f).mods = s.mods := rfl
@[simp] theorem State.onDie_bad (k : Nat) (f : Die → Die) : (s.onDie k f).bad = s.bad := rfl
@[simp] theorem State.onDie_syms (k : Nat) (f : Die → Die) : (s.onDie k f).syms = s.syms := rfl
@[simp] theorem State.onDie_lost (k : Nat) (f : Die → Die) : (s.onDie k f).lost = s.lost := rfl
@[simp] theorem State.onDie_resv (k : Nat) (f : Die → Die) : (s.onDie k f).resv = s.resv := rfl
@[simp] theorem State.onDie_releases (k : Nat) (f : Die → Die) : (s.onDie k f).releases = s.releases := rfl
@[simp] theorem State.onDie_agenda (k : Nat) (f : Die → Die) : (s.onDie k f).agenda = s.agenda := rfl
@[simp] theorem State.onDie_timers (k : Nat) (f : Die → Die) : (s.onDie k f).timers = s.timers := rfl
@[simp] theorem State.onDie_ev (k : Nat) (f : Die → Die) : (s.onDie k f).ev = s.ev := rfl
@[simp] theorem State.onDie_turn (k : Nat) (f : Die → Die) : (s.onDie k f).turn = s.turn := rfl
@[simp] theorem State.onDie_tick (k : Nat) (f : Die → Die) : (s.onDie k f).tick = s.tick := rfl
@[simp] theorem State.onDie_nextWick (k : Nat) (f : Die → Die) : (s.onDie k f).nextWick = s.nextWick := rfl
@[simp] theorem State.onDie_nextOp (k : Nat) (f : Die → Die) : (s.onDie k f).nextOp = s.nextOp := rfl
@[simp] theorem State.onDie_nextLaunch (k : Nat) (f : Die → Die) : (s.onDie k f).nextLaunch = s.nextLaunch := rfl
@[simp] theorem State.onDie_sideband (k : Nat) (f : Die → Die) : (s.onDie k f).sideband = s.sideband := rfl
@[simp] theorem State.onDie_freeCtr (k : Nat) (f : Die → Die) : (s.onDie k f).freeCtr = s.freeCtr := rfl

@[simp] theorem State.onMod_mem (k : Nat) (f : Module → Module) : (s.onMod k f).mem = s.mem := rfl
@[simp] theorem State.onMod_cur (k : Nat) (f : Module → Module) : (s.onMod k f).cur = s.cur := rfl
@[simp] theorem State.onMod_slots (k : Nat) (f : Module → Module) : (s.onMod k f).slots = s.slots := rfl
@[simp] theorem State.onMod_cores (k : Nat) (f : Module → Module) : (s.onMod k f).cores = s.cores := rfl
@[simp] theorem State.onMod_clusters (k : Nat) (f : Module → Module) : (s.onMod k f).clusters = s.clusters := rfl
@[simp] theorem State.onMod_dies (k : Nat) (f : Module → Module) : (s.onMod k f).dies = s.dies := rfl
@[simp] theorem State.onMod_bad (k : Nat) (f : Module → Module) : (s.onMod k f).bad = s.bad := rfl
@[simp] theorem State.onMod_syms (k : Nat) (f : Module → Module) : (s.onMod k f).syms = s.syms := rfl
@[simp] theorem State.onMod_lost (k : Nat) (f : Module → Module) : (s.onMod k f).lost = s.lost := rfl
@[simp] theorem State.onMod_resv (k : Nat) (f : Module → Module) : (s.onMod k f).resv = s.resv := rfl
@[simp] theorem State.onMod_releases (k : Nat) (f : Module → Module) : (s.onMod k f).releases = s.releases := rfl
@[simp] theorem State.onMod_agenda (k : Nat) (f : Module → Module) : (s.onMod k f).agenda = s.agenda := rfl
@[simp] theorem State.onMod_timers (k : Nat) (f : Module → Module) : (s.onMod k f).timers = s.timers := rfl
@[simp] theorem State.onMod_ev (k : Nat) (f : Module → Module) : (s.onMod k f).ev = s.ev := rfl
@[simp] theorem State.onMod_turn (k : Nat) (f : Module → Module) : (s.onMod k f).turn = s.turn := rfl
@[simp] theorem State.onMod_tick (k : Nat) (f : Module → Module) : (s.onMod k f).tick = s.tick := rfl
@[simp] theorem State.onMod_nextWick (k : Nat) (f : Module → Module) : (s.onMod k f).nextWick = s.nextWick := rfl
@[simp] theorem State.onMod_nextOp (k : Nat) (f : Module → Module) : (s.onMod k f).nextOp = s.nextOp := rfl
@[simp] theorem State.onMod_nextLaunch (k : Nat) (f : Module → Module) : (s.onMod k f).nextLaunch = s.nextLaunch := rfl
@[simp] theorem State.onMod_sideband (k : Nat) (f : Module → Module) : (s.onMod k f).sideband = s.sideband := rfl
@[simp] theorem State.onMod_freeCtr (k : Nat) (f : Module → Module) : (s.onMod k f).freeCtr = s.freeCtr := rfl

@[simp] theorem State.post_mem (e : Event) : (s.post e).mem = s.mem := rfl
@[simp] theorem State.post_cur (e : Event) : (s.post e).cur = s.cur := rfl
@[simp] theorem State.post_slots (e : Event) : (s.post e).slots = s.slots := rfl
@[simp] theorem State.post_cores (e : Event) : (s.post e).cores = s.cores := rfl
@[simp] theorem State.post_clusters (e : Event) : (s.post e).clusters = s.clusters := rfl
@[simp] theorem State.post_dies (e : Event) : (s.post e).dies = s.dies := rfl
@[simp] theorem State.post_mods (e : Event) : (s.post e).mods = s.mods := rfl
@[simp] theorem State.post_bad (e : Event) : (s.post e).bad = s.bad := rfl
@[simp] theorem State.post_syms (e : Event) : (s.post e).syms = s.syms := rfl
@[simp] theorem State.post_lost (e : Event) : (s.post e).lost = s.lost := rfl
@[simp] theorem State.post_resv (e : Event) : (s.post e).resv = s.resv := rfl
@[simp] theorem State.post_releases (e : Event) : (s.post e).releases = s.releases := rfl
@[simp] theorem State.post_timers (e : Event) : (s.post e).timers = s.timers := rfl
@[simp] theorem State.post_ev (e : Event) : (s.post e).ev = s.ev := rfl
@[simp] theorem State.post_turn (e : Event) : (s.post e).turn = s.turn := rfl
@[simp] theorem State.post_tick (e : Event) : (s.post e).tick = s.tick := rfl
@[simp] theorem State.post_nextWick (e : Event) : (s.post e).nextWick = s.nextWick := rfl
@[simp] theorem State.post_nextOp (e : Event) : (s.post e).nextOp = s.nextOp := rfl
@[simp] theorem State.post_nextLaunch (e : Event) : (s.post e).nextLaunch = s.nextLaunch := rfl
@[simp] theorem State.post_sideband (e : Event) : (s.post e).sideband = s.sideband := rfl
@[simp] theorem State.post_freeCtr (e : Event) : (s.post e).freeCtr = s.freeCtr := rfl

@[simp] theorem State.postNext_mem (e : Event) : (s.postNext e).mem = s.mem := rfl
@[simp] theorem State.postNext_cur (e : Event) : (s.postNext e).cur = s.cur := rfl
@[simp] theorem State.postNext_slots (e : Event) : (s.postNext e).slots = s.slots := rfl
@[simp] theorem State.postNext_cores (e : Event) : (s.postNext e).cores = s.cores := rfl
@[simp] theorem State.postNext_clusters (e : Event) : (s.postNext e).clusters = s.clusters := rfl
@[simp] theorem State.postNext_dies (e : Event) : (s.postNext e).dies = s.dies := rfl
@[simp] theorem State.postNext_mods (e : Event) : (s.postNext e).mods = s.mods := rfl
@[simp] theorem State.postNext_bad (e : Event) : (s.postNext e).bad = s.bad := rfl
@[simp] theorem State.postNext_syms (e : Event) : (s.postNext e).syms = s.syms := rfl
@[simp] theorem State.postNext_lost (e : Event) : (s.postNext e).lost = s.lost := rfl
@[simp] theorem State.postNext_resv (e : Event) : (s.postNext e).resv = s.resv := rfl
@[simp] theorem State.postNext_releases (e : Event) : (s.postNext e).releases = s.releases := rfl
@[simp] theorem State.postNext_timers (e : Event) : (s.postNext e).timers = s.timers := rfl
@[simp] theorem State.postNext_ev (e : Event) : (s.postNext e).ev = s.ev := rfl
@[simp] theorem State.postNext_turn (e : Event) : (s.postNext e).turn = s.turn := rfl
@[simp] theorem State.postNext_tick (e : Event) : (s.postNext e).tick = s.tick := rfl
@[simp] theorem State.postNext_nextWick (e : Event) : (s.postNext e).nextWick = s.nextWick := rfl
@[simp] theorem State.postNext_nextOp (e : Event) : (s.postNext e).nextOp = s.nextOp := rfl
@[simp] theorem State.postNext_nextLaunch (e : Event) : (s.postNext e).nextLaunch = s.nextLaunch := rfl
@[simp] theorem State.postNext_sideband (e : Event) : (s.postNext e).sideband = s.sideband := rfl
@[simp] theorem State.postNext_freeCtr (e : Event) : (s.postNext e).freeCtr = s.freeCtr := rfl

@[simp] theorem State.postAll_mem (es : List Event) : (s.postAll es).mem = s.mem := rfl
@[simp] theorem State.postAll_cur (es : List Event) : (s.postAll es).cur = s.cur := rfl
@[simp] theorem State.postAll_slots (es : List Event) : (s.postAll es).slots = s.slots := rfl
@[simp] theorem State.postAll_cores (es : List Event) : (s.postAll es).cores = s.cores := rfl
@[simp] theorem State.postAll_clusters (es : List Event) : (s.postAll es).clusters = s.clusters := rfl
@[simp] theorem State.postAll_dies (es : List Event) : (s.postAll es).dies = s.dies := rfl
@[simp] theorem State.postAll_mods (es : List Event) : (s.postAll es).mods = s.mods := rfl
@[simp] theorem State.postAll_bad (es : List Event) : (s.postAll es).bad = s.bad := rfl
@[simp] theorem State.postAll_syms (es : List Event) : (s.postAll es).syms = s.syms := rfl
@[simp] theorem State.postAll_lost (es : List Event) : (s.postAll es).lost = s.lost := rfl
@[simp] theorem State.postAll_resv (es : List Event) : (s.postAll es).resv = s.resv := rfl
@[simp] theorem State.postAll_releases (es : List Event) : (s.postAll es).releases = s.releases := rfl
@[simp] theorem State.postAll_timers (es : List Event) : (s.postAll es).timers = s.timers := rfl
@[simp] theorem State.postAll_ev (es : List Event) : (s.postAll es).ev = s.ev := rfl
@[simp] theorem State.postAll_turn (es : List Event) : (s.postAll es).turn = s.turn := rfl
@[simp] theorem State.postAll_tick (es : List Event) : (s.postAll es).tick = s.tick := rfl
@[simp] theorem State.postAll_nextWick (es : List Event) : (s.postAll es).nextWick = s.nextWick := rfl
@[simp] theorem State.postAll_nextOp (es : List Event) : (s.postAll es).nextOp = s.nextOp := rfl
@[simp] theorem State.postAll_nextLaunch (es : List Event) : (s.postAll es).nextLaunch = s.nextLaunch := rfl
@[simp] theorem State.postAll_sideband (es : List Event) : (s.postAll es).sideband = s.sideband := rfl
@[simp] theorem State.postAll_freeCtr (es : List Event) : (s.postAll es).freeCtr = s.freeCtr := rfl

@[simp] theorem State.after_mem (n : Nat) (e : Event) : (s.after n e).mem = s.mem := rfl
@[simp] theorem State.after_cur (n : Nat) (e : Event) : (s.after n e).cur = s.cur := rfl
@[simp] theorem State.after_slots (n : Nat) (e : Event) : (s.after n e).slots = s.slots := rfl
@[simp] theorem State.after_cores (n : Nat) (e : Event) : (s.after n e).cores = s.cores := rfl
@[simp] theorem State.after_clusters (n : Nat) (e : Event) : (s.after n e).clusters = s.clusters := rfl
@[simp] theorem State.after_dies (n : Nat) (e : Event) : (s.after n e).dies = s.dies := rfl
@[simp] theorem State.after_mods (n : Nat) (e : Event) : (s.after n e).mods = s.mods := rfl
@[simp] theorem State.after_bad (n : Nat) (e : Event) : (s.after n e).bad = s.bad := rfl
@[simp] theorem State.after_syms (n : Nat) (e : Event) : (s.after n e).syms = s.syms := rfl
@[simp] theorem State.after_lost (n : Nat) (e : Event) : (s.after n e).lost = s.lost := rfl
@[simp] theorem State.after_resv (n : Nat) (e : Event) : (s.after n e).resv = s.resv := rfl
@[simp] theorem State.after_releases (n : Nat) (e : Event) : (s.after n e).releases = s.releases := rfl
@[simp] theorem State.after_agenda (n : Nat) (e : Event) : (s.after n e).agenda = s.agenda := rfl
@[simp] theorem State.after_ev (n : Nat) (e : Event) : (s.after n e).ev = s.ev := rfl
@[simp] theorem State.after_turn (n : Nat) (e : Event) : (s.after n e).turn = s.turn := rfl
@[simp] theorem State.after_tick (n : Nat) (e : Event) : (s.after n e).tick = s.tick := rfl
@[simp] theorem State.after_nextWick (n : Nat) (e : Event) : (s.after n e).nextWick = s.nextWick := rfl
@[simp] theorem State.after_nextOp (n : Nat) (e : Event) : (s.after n e).nextOp = s.nextOp := rfl
@[simp] theorem State.after_nextLaunch (n : Nat) (e : Event) : (s.after n e).nextLaunch = s.nextLaunch := rfl
@[simp] theorem State.after_sideband (n : Nat) (e : Event) : (s.after n e).sideband = s.sideband := rfl
@[simp] theorem State.after_freeCtr (n : Nat) (e : Event) : (s.after n e).freeCtr = s.freeCtr := rfl

@[simp] theorem State.log_mem (d c : Nat) (ws : List Word) : (s.log d c ws).mem = s.mem := rfl
@[simp] theorem State.log_cur (d c : Nat) (ws : List Word) : (s.log d c ws).cur = s.cur := rfl
@[simp] theorem State.log_slots (d c : Nat) (ws : List Word) : (s.log d c ws).slots = s.slots := rfl
@[simp] theorem State.log_cores (d c : Nat) (ws : List Word) : (s.log d c ws).cores = s.cores := rfl
@[simp] theorem State.log_clusters (d c : Nat) (ws : List Word) : (s.log d c ws).clusters = s.clusters := rfl
@[simp] theorem State.log_mods (d c : Nat) (ws : List Word) : (s.log d c ws).mods = s.mods := rfl
@[simp] theorem State.log_bad (d c : Nat) (ws : List Word) : (s.log d c ws).bad = s.bad := rfl
@[simp] theorem State.log_syms (d c : Nat) (ws : List Word) : (s.log d c ws).syms = s.syms := rfl
@[simp] theorem State.log_lost (d c : Nat) (ws : List Word) : (s.log d c ws).lost = s.lost := rfl
@[simp] theorem State.log_resv (d c : Nat) (ws : List Word) : (s.log d c ws).resv = s.resv := rfl
@[simp] theorem State.log_releases (d c : Nat) (ws : List Word) : (s.log d c ws).releases = s.releases := rfl
@[simp] theorem State.log_agenda (d c : Nat) (ws : List Word) : (s.log d c ws).agenda = s.agenda := rfl
@[simp] theorem State.log_timers (d c : Nat) (ws : List Word) : (s.log d c ws).timers = s.timers := rfl
@[simp] theorem State.log_ev (d c : Nat) (ws : List Word) : (s.log d c ws).ev = s.ev := rfl
@[simp] theorem State.log_turn (d c : Nat) (ws : List Word) : (s.log d c ws).turn = s.turn := rfl
@[simp] theorem State.log_tick (d c : Nat) (ws : List Word) : (s.log d c ws).tick = s.tick := rfl
@[simp] theorem State.log_nextWick (d c : Nat) (ws : List Word) : (s.log d c ws).nextWick = s.nextWick := rfl
@[simp] theorem State.log_nextOp (d c : Nat) (ws : List Word) : (s.log d c ws).nextOp = s.nextOp := rfl
@[simp] theorem State.log_nextLaunch (d c : Nat) (ws : List Word) : (s.log d c ws).nextLaunch = s.nextLaunch := rfl
@[simp] theorem State.log_sideband (d c : Nat) (ws : List Word) : (s.log d c ws).sideband = s.sideband := rfl
@[simp] theorem State.log_freeCtr (d c : Nat) (ws : List Word) : (s.log d c ws).freeCtr = s.freeCtr := rfl

@[simp] theorem State.slot_setSlot_self (k : Nat) (x : Slot) : (s.setSlot k x).slot k = x := by
  simp [State.slot, State.setSlot]
@[simp] theorem State.slot_setSlot_ne {j k : Nat} (x : Slot) (h : j ≠ k) : (s.setSlot k x).slot j = s.slot j := by
  simp [State.slot, State.setSlot, h]
@[simp] theorem State.slot_onSlot_self (k : Nat) (f : Slot → Slot) : (s.onSlot k f).slot k = f (s.slot k) := by
  simp [State.onSlot]
@[simp] theorem State.slot_onSlot_ne {j k : Nat} (f : Slot → Slot) (h : j ≠ k) : (s.onSlot k f).slot j = s.slot j := by
  simp [State.onSlot, h]
@[simp] theorem State.slot_setCore (j : Nat) (k : Nat) (x : Core) : (s.setCore k x).slot j = s.slot j := rfl
@[simp] theorem State.slot_setCluster (j : Nat) (k : Nat) (x : Cluster) : (s.setCluster k x).slot j = s.slot j := rfl
@[simp] theorem State.slot_setDie (j : Nat) (k : Nat) (x : Die) : (s.setDie k x).slot j = s.slot j := rfl
@[simp] theorem State.slot_setMod (j : Nat) (k : Nat) (x : Module) : (s.setMod k x).slot j = s.slot j := rfl
@[simp] theorem State.slot_onCore (j : Nat) (k : Nat) (f : Core → Core) : (s.onCore k f).slot j = s.slot j := rfl
@[simp] theorem State.slot_onCluster (j : Nat) (k : Nat) (f : Cluster → Cluster) : (s.onCluster k f).slot j = s.slot j := rfl
@[simp] theorem State.slot_onDie (j : Nat) (k : Nat) (f : Die → Die) : (s.onDie k f).slot j = s.slot j := rfl
@[simp] theorem State.slot_onMod (j : Nat) (k : Nat) (f : Module → Module) : (s.onMod k f).slot j = s.slot j := rfl
@[simp] theorem State.slot_post (j : Nat) (e : Event) : (s.post e).slot j = s.slot j := rfl
@[simp] theorem State.slot_postNext (j : Nat) (e : Event) : (s.postNext e).slot j = s.slot j := rfl
@[simp] theorem State.slot_postAll (j : Nat) (es : List Event) : (s.postAll es).slot j = s.slot j := rfl
@[simp] theorem State.slot_after (j : Nat) (n : Nat) (e : Event) : (s.after n e).slot j = s.slot j := rfl
@[simp] theorem State.slot_log (j : Nat) (d c : Nat) (ws : List Word) : (s.log d c ws).slot j = s.slot j := rfl

@[simp] theorem State.core_setCore_self (k : Nat) (x : Core) : (s.setCore k x).core k = x := by
  simp [State.core, State.setCore]
@[simp] theorem State.core_setCore_ne {j k : Nat} (x : Core) (h : j ≠ k) : (s.setCore k x).core j = s.core j := by
  simp [State.core, State.setCore, h]
@[simp] theorem State.core_onCore_self (k : Nat) (f : Core → Core) : (s.onCore k f).core k = f (s.core k) := by
  simp [State.onCore]
@[simp] theorem State.core_onCore_ne {j k : Nat} (f : Core → Core) (h : j ≠ k) : (s.onCore k f).core j = s.core j := by
  simp [State.onCore, h]
@[simp] theorem State.core_setSlot (j : Nat) (k : Nat) (x : Slot) : (s.setSlot k x).core j = s.core j := rfl
@[simp] theorem State.core_setCluster (j : Nat) (k : Nat) (x : Cluster) : (s.setCluster k x).core j = s.core j := rfl
@[simp] theorem State.core_setDie (j : Nat) (k : Nat) (x : Die) : (s.setDie k x).core j = s.core j := rfl
@[simp] theorem State.core_setMod (j : Nat) (k : Nat) (x : Module) : (s.setMod k x).core j = s.core j := rfl
@[simp] theorem State.core_onSlot (j : Nat) (k : Nat) (f : Slot → Slot) : (s.onSlot k f).core j = s.core j := rfl
@[simp] theorem State.core_onCluster (j : Nat) (k : Nat) (f : Cluster → Cluster) : (s.onCluster k f).core j = s.core j := rfl
@[simp] theorem State.core_onDie (j : Nat) (k : Nat) (f : Die → Die) : (s.onDie k f).core j = s.core j := rfl
@[simp] theorem State.core_onMod (j : Nat) (k : Nat) (f : Module → Module) : (s.onMod k f).core j = s.core j := rfl
@[simp] theorem State.core_post (j : Nat) (e : Event) : (s.post e).core j = s.core j := rfl
@[simp] theorem State.core_postNext (j : Nat) (e : Event) : (s.postNext e).core j = s.core j := rfl
@[simp] theorem State.core_postAll (j : Nat) (es : List Event) : (s.postAll es).core j = s.core j := rfl
@[simp] theorem State.core_after (j : Nat) (n : Nat) (e : Event) : (s.after n e).core j = s.core j := rfl
@[simp] theorem State.core_log (j : Nat) (d c : Nat) (ws : List Word) : (s.log d c ws).core j = s.core j := rfl

@[simp] theorem State.cluster_setCluster_self (k : Nat) (x : Cluster) : (s.setCluster k x).cluster k = x := by
  simp [State.cluster, State.setCluster]
@[simp] theorem State.cluster_setCluster_ne {j k : Nat} (x : Cluster) (h : j ≠ k) : (s.setCluster k x).cluster j = s.cluster j := by
  simp [State.cluster, State.setCluster, h]
@[simp] theorem State.cluster_onCluster_self (k : Nat) (f : Cluster → Cluster) : (s.onCluster k f).cluster k = f (s.cluster k) := by
  simp [State.onCluster]
@[simp] theorem State.cluster_onCluster_ne {j k : Nat} (f : Cluster → Cluster) (h : j ≠ k) : (s.onCluster k f).cluster j = s.cluster j := by
  simp [State.onCluster, h]
@[simp] theorem State.cluster_setSlot (j : Nat) (k : Nat) (x : Slot) : (s.setSlot k x).cluster j = s.cluster j := rfl
@[simp] theorem State.cluster_setCore (j : Nat) (k : Nat) (x : Core) : (s.setCore k x).cluster j = s.cluster j := rfl
@[simp] theorem State.cluster_setDie (j : Nat) (k : Nat) (x : Die) : (s.setDie k x).cluster j = s.cluster j := rfl
@[simp] theorem State.cluster_setMod (j : Nat) (k : Nat) (x : Module) : (s.setMod k x).cluster j = s.cluster j := rfl
@[simp] theorem State.cluster_onSlot (j : Nat) (k : Nat) (f : Slot → Slot) : (s.onSlot k f).cluster j = s.cluster j := rfl
@[simp] theorem State.cluster_onCore (j : Nat) (k : Nat) (f : Core → Core) : (s.onCore k f).cluster j = s.cluster j := rfl
@[simp] theorem State.cluster_onDie (j : Nat) (k : Nat) (f : Die → Die) : (s.onDie k f).cluster j = s.cluster j := rfl
@[simp] theorem State.cluster_onMod (j : Nat) (k : Nat) (f : Module → Module) : (s.onMod k f).cluster j = s.cluster j := rfl
@[simp] theorem State.cluster_post (j : Nat) (e : Event) : (s.post e).cluster j = s.cluster j := rfl
@[simp] theorem State.cluster_postNext (j : Nat) (e : Event) : (s.postNext e).cluster j = s.cluster j := rfl
@[simp] theorem State.cluster_postAll (j : Nat) (es : List Event) : (s.postAll es).cluster j = s.cluster j := rfl
@[simp] theorem State.cluster_after (j : Nat) (n : Nat) (e : Event) : (s.after n e).cluster j = s.cluster j := rfl
@[simp] theorem State.cluster_log (j : Nat) (d c : Nat) (ws : List Word) : (s.log d c ws).cluster j = s.cluster j := rfl

@[simp] theorem State.die_setDie_self (k : Nat) (x : Die) : (s.setDie k x).die k = x := by
  simp [State.die, State.setDie]
@[simp] theorem State.die_setDie_ne {j k : Nat} (x : Die) (h : j ≠ k) : (s.setDie k x).die j = s.die j := by
  simp [State.die, State.setDie, h]
@[simp] theorem State.die_onDie_self (k : Nat) (f : Die → Die) : (s.onDie k f).die k = f (s.die k) := by
  simp [State.onDie]
@[simp] theorem State.die_onDie_ne {j k : Nat} (f : Die → Die) (h : j ≠ k) : (s.onDie k f).die j = s.die j := by
  simp [State.onDie, h]
@[simp] theorem State.die_setSlot (j : Nat) (k : Nat) (x : Slot) : (s.setSlot k x).die j = s.die j := rfl
@[simp] theorem State.die_setCore (j : Nat) (k : Nat) (x : Core) : (s.setCore k x).die j = s.die j := rfl
@[simp] theorem State.die_setCluster (j : Nat) (k : Nat) (x : Cluster) : (s.setCluster k x).die j = s.die j := rfl
@[simp] theorem State.die_setMod (j : Nat) (k : Nat) (x : Module) : (s.setMod k x).die j = s.die j := rfl
@[simp] theorem State.die_onSlot (j : Nat) (k : Nat) (f : Slot → Slot) : (s.onSlot k f).die j = s.die j := rfl
@[simp] theorem State.die_onCore (j : Nat) (k : Nat) (f : Core → Core) : (s.onCore k f).die j = s.die j := rfl
@[simp] theorem State.die_onCluster (j : Nat) (k : Nat) (f : Cluster → Cluster) : (s.onCluster k f).die j = s.die j := rfl
@[simp] theorem State.die_onMod (j : Nat) (k : Nat) (f : Module → Module) : (s.onMod k f).die j = s.die j := rfl
@[simp] theorem State.die_post (j : Nat) (e : Event) : (s.post e).die j = s.die j := rfl
@[simp] theorem State.die_postNext (j : Nat) (e : Event) : (s.postNext e).die j = s.die j := rfl
@[simp] theorem State.die_postAll (j : Nat) (es : List Event) : (s.postAll es).die j = s.die j := rfl
@[simp] theorem State.die_after (j : Nat) (n : Nat) (e : Event) : (s.after n e).die j = s.die j := rfl

@[simp] theorem State.mod_setMod_self (k : Nat) (x : Module) : (s.setMod k x).mod k = x := by
  simp [State.mod, State.setMod]
@[simp] theorem State.mod_setMod_ne {j k : Nat} (x : Module) (h : j ≠ k) : (s.setMod k x).mod j = s.mod j := by
  simp [State.mod, State.setMod, h]
@[simp] theorem State.mod_onMod_self (k : Nat) (f : Module → Module) : (s.onMod k f).mod k = f (s.mod k) := by
  simp [State.onMod]
@[simp] theorem State.mod_onMod_ne {j k : Nat} (f : Module → Module) (h : j ≠ k) : (s.onMod k f).mod j = s.mod j := by
  simp [State.onMod, h]
@[simp] theorem State.mod_setSlot (j : Nat) (k : Nat) (x : Slot) : (s.setSlot k x).mod j = s.mod j := rfl
@[simp] theorem State.mod_setCore (j : Nat) (k : Nat) (x : Core) : (s.setCore k x).mod j = s.mod j := rfl
@[simp] theorem State.mod_setCluster (j : Nat) (k : Nat) (x : Cluster) : (s.setCluster k x).mod j = s.mod j := rfl
@[simp] theorem State.mod_setDie (j : Nat) (k : Nat) (x : Die) : (s.setDie k x).mod j = s.mod j := rfl
@[simp] theorem State.mod_onSlot (j : Nat) (k : Nat) (f : Slot → Slot) : (s.onSlot k f).mod j = s.mod j := rfl
@[simp] theorem State.mod_onCore (j : Nat) (k : Nat) (f : Core → Core) : (s.onCore k f).mod j = s.mod j := rfl
@[simp] theorem State.mod_onCluster (j : Nat) (k : Nat) (f : Cluster → Cluster) : (s.onCluster k f).mod j = s.mod j := rfl
@[simp] theorem State.mod_onDie (j : Nat) (k : Nat) (f : Die → Die) : (s.onDie k f).mod j = s.mod j := rfl
@[simp] theorem State.mod_post (j : Nat) (e : Event) : (s.post e).mod j = s.mod j := rfl
@[simp] theorem State.mod_postNext (j : Nat) (e : Event) : (s.postNext e).mod j = s.mod j := rfl
@[simp] theorem State.mod_postAll (j : Nat) (es : List Event) : (s.postAll es).mod j = s.mod j := rfl
@[simp] theorem State.mod_after (j : Nat) (n : Nat) (e : Event) : (s.after n e).mod j = s.mod j := rfl
@[simp] theorem State.mod_log (j : Nat) (d c : Nat) (ws : List Word) : (s.log d c ws).mod j = s.mod j := rfl

end Sys2Proof.Machine
end

