-- ==== Sys2Proof/Laws/Memory.lean ====
section
/-!
SUPPORT. Laws of memory: every write keeps the canonical form; a byte outside a write reads as before; a read of
what was written gives the value written.
-/

namespace Sys2Proof.Machine

/-- `writeBytes` keeps the canonical form. -/
theorem writeBytes_wf (m : List Host.Cell) (pa v n : Nat) (h : Memory.wf m) : Memory.wf (writeBytes m pa v n) := by
  induction n generalizing m pa v with
  | zero => exact h
  | succ n ih => exact ih _ _ _ (Tab.wf_set _ _ _ _ h)

/-- A byte after `writeBytes`: byte `a − pa` of the value inside the write, the old byte outside it. -/
theorem get_writeBytes (m : List Host.Cell) (pa v n a : Nat) :
    Tab.get memDefault (writeBytes m pa v n) a =
      if pa ≤ a ∧ a < pa + n then BitVec.ofNat 8 (v / 256 ^ (a - pa)) else Tab.get memDefault m a := by
  induction n generalizing m pa v with
  | zero => simp [writeBytes] <;> omega
  | succ n ih =>
    rw [writeBytes, ih]
    by_cases h1 : a = pa
    · subst h1; simp <;> omega
    · by_cases h2 : pa + 1 ≤ a ∧ a < pa + 1 + n
      · rw [if_pos h2, if_pos (by omega), Nat.div_div_eq_div_mul]
        congr 2
        rw [← Nat.pow_succ', show (a - (pa + 1)).succ = a - pa by omega]
      · rw [if_neg h2, if_neg (by omega), Tab.get_set_ne _ _ _ h1]

@[simp] theorem State.fireLine_mem (s : State) (l : Nat) (v : Bool) : (s.fireLine l v).mem = s.mem := rfl

@[simp] theorem State.fireLines_mem (s : State) (l n : Nat) : (s.fireLines l n).mem = s.mem := by
  induction n generalizing s l with
  | zero => rfl
  | succ n ih => rw [State.fireLines, ih, State.fireLine_mem]

@[simp] theorem State.storeN_mem (s : State) (pa n v : Nat) : (s.storeN pa n v).mem = writeBytes s.mem pa v n := by
  rw [State.storeN, State.fireLines_mem, State.rewrote]

/-- A byte after a store of `n` bytes at `pa`. -/
theorem State.byte_storeN (s : State) (pa n v a : Nat) :
    (s.storeN pa n v).byte a =
      if pa ≤ a ∧ a < pa + n then BitVec.ofNat 8 (v / 256 ^ (a - pa)) else s.byte a := by
  simp [State.byte, get_writeBytes]

/-- A store leaves every byte outside its `n` bytes alone. -/
theorem State.byte_storeN_out (s : State) {pa n v a : Nat} (h : a < pa ∨ pa + n ≤ a) :
    (s.storeN pa n v).byte a = s.byte a := by
  rw [State.byte_storeN, if_neg (by omega)]

/-- Reads of the same bytes give the same number. -/
theorem State.readN_congr (s t : State) (pa n : Nat) (h : ∀ a, pa ≤ a → a < pa + n → t.byte a = s.byte a) :
    t.readN pa n = s.readN pa n := by
  induction n generalizing pa with
  | zero => rfl
  | succ n ih =>
    rw [State.readN, State.readN, h pa (by omega) (by omega), ih (pa + 1) (fun a h1 h2 => h a (by omega) (by omega))]

/-- A number of little-endian bytes is below 256 to their count. -/
theorem State.readN_lt (s : State) (pa n : Nat) : s.readN pa n < 256 ^ n := by
  induction n generalizing pa with
  | zero => simp [State.readN]
  | succ n ih =>
    have h1 := ih (pa + 1)
    have h2 := (s.byte pa).isLt
    rw [State.readN, Nat.pow_succ']; omega

/-- A read whose bytes are those of `v` gives `v` narrowed. -/
theorem State.readN_of_bytes (s : State) (pa v n : Nat)
    (h : ∀ i, i < n → s.byte (pa + i) = BitVec.ofNat 8 (v / 256 ^ i)) : s.readN pa n = v % 256 ^ n := by
  induction n generalizing pa v with
  | zero => simp [State.readN, Nat.mod_one]
  | succ n ih =>
    have h0 := h 0 (by omega)
    simp only [Nat.add_zero, Nat.pow_zero, Nat.div_one] at h0
    rw [State.readN, h0, ih (pa + 1) (v / 256) (fun i hi => by
      have := h (i + 1) (by omega)
      rw [show pa + 1 + i = pa + (i + 1) by omega, this, Nat.div_div_eq_div_mul, Nat.pow_succ'])]
    rw [Nat.pow_succ', Nat.mod_mul]
    simp

/-- A read of what was stored gives the value stored, narrowed to the width. -/
theorem State.readN_storeN (s : State) (pa n v : Nat) : (s.storeN pa n v).readN pa n = v % 256 ^ n := by
  apply State.readN_of_bytes
  intro i hi
  rw [State.byte_storeN, if_pos (by omega), show pa + i - pa = i by omega]

/-- A store keeps the canonical form of memory. -/
theorem State.storeN_wf (s : State) (pa n v : Nat) (h : Memory.wf s.mem) : Memory.wf (s.storeN pa n v).mem := by
  rw [State.storeN_mem]; exact writeBytes_wf _ _ _ _ h

/-- A store of a list of bytes keeps the canonical form of memory. -/
theorem State.storeList_wf (s : State) (pa : Nat) (bs : List Byte) (h : Memory.wf s.mem) :
    Memory.wf (s.storeList pa bs).mem :=
  State.storeN_wf _ _ _ _ h

theorem State.setScratchN_wf (s : State) (ck off n v : Nat) (h : Memory.wf s.mem) :
    Memory.wf (s.setScratchN ck off n v).mem := by
  unfold State.setScratchN; split
  · exact State.storeN_wf s _ _ _ h
  · exact h

theorem State.setLocalN_wf (s : State) (corek off n v : Nat) (h : Memory.wf s.mem) :
    Memory.wf (s.setLocalN corek off n v).mem := by
  unfold State.setLocalN; split
  · exact State.storeN_wf s _ _ _ h
  · exact h

/-- Reset memory has the canonical form. -/
theorem State.reset_wf : Memory.wf State.reset.mem := rfl

/-! What a table gives after every listed value is changed. -/

theorem Tab.find?_mapVals {α : Type} (f : Nat → α → α) (k : Nat) (t : Tab α) :
    Tab.find? k (Tab.mapVals f t) = (Tab.find? k t).map (f k) := by
  induction t with
  | nil => rfl
  | cons e t ih =>
    obtain ⟨k', v⟩ := e
    by_cases hk : k = k' <;> simp [Tab.mapVals, Tab.find?, hk, ih]

theorem Tab.get_mapVals {α : Type} (d : α) (f : Nat → α → α) (k : Nat) (t : Tab α) (hd : f k d = d) :
    Tab.get d (Tab.mapVals f t) k = f k (Tab.get d t k) := by
  simp only [Tab.get, Tab.find?_mapVals]
  cases Tab.find? k t <;> simp [hd]

end Sys2Proof.Machine
end

