-- ==== Sys2Proof/Laws/Run.lean ====
section
/-!
SUPPORT. Laws of instruction bodies: what running each primitive of `M` gives, what `runInstr` answers, and the
reading of each register code.
-/

namespace Sys2Proof.Machine

variable {α β : Type}

/-- Run a body on a context. -/
def M.go (m : M α) (c : Ctx) : Except Stop α × Ctx := (m.run c).run

/-- What follows a part of a body: the rest on success, nothing after a stop. -/
def M.andThen (r : Except Stop α × Ctx) (f : α → M β) : Except Stop β × Ctx :=
  match r with
  | (.ok a, c) => (f a).go c
  | (.error e, c) => (.error e, c)

@[simp] theorem M.andThen_ok (a : α) (c : Ctx) (f : α → M β) : M.andThen (.ok a, c) f = (f a).go c := rfl
@[simp] theorem M.andThen_error (e : Stop) (c : Ctx) (f : α → M β) : M.andThen (.error e, c) f = (.error e, c) := rfl

@[simp] theorem M.go_pure (a : α) (c : Ctx) : (pure a : M α).go c = (.ok a, c) := rfl
@[simp] theorem M.go_bind (m : M α) (f : α → M β) (c : Ctx) : (m >>= f).go c = M.andThen (m.go c) f := by
  change (ExceptT.run (ExceptT.bind m f) c).run = _
  simp only [M.andThen, M.go, ExceptT.run, ExceptT.bind, ExceptT.mk, ExceptT.bindCont, StateT.bind, bind, Id.run]
  rcases m c with ⟨_ | _, _⟩ <;> rfl
@[simp] theorem M.go_map (m : M α) (f : α → β) (c : Ctx) : (f <$> m).go c = M.andThen (m.go c) (fun a => pure (f a)) := by
  rw [← M.go_bind, bind_pure_comp]
@[simp] theorem M.go_throw (e : Stop) (c : Ctx) : (throw e : M α).go c = (.error e, c) := rfl
@[simp] theorem M.go_get (c : Ctx) : (get : M Ctx).go c = (.ok c, c) := rfl
@[simp] theorem M.go_modify (f : Ctx → Ctx) (c : Ctx) : (modify f : M Unit).go c = (.ok (), f c) := rfl
@[simp] theorem M.go_ite (p : Prop) [Decidable p] (m n : M α) (c : Ctx) :
    (if p then m else n).go c = if p then m.go c else n.go c := by split <;> rfl

@[simp] theorem getS_go (c : Ctx) : getS.go c = (.ok c.st, c) := rfl
@[simp] theorem setS_go (s : State) (c : Ctx) : (setS s).go c = (.ok (), { c with st := s }) := rfl
@[simp] theorem modS_go (f : State → State) (c : Ctx) : (modS f).go c = (.ok (), { c with st := f c.st }) := rfl
@[simp] theorem here_go (c : Ctx) : here.go c = (.ok c.slot, c) := rfl
@[simp] theorem slotM_go (c : Ctx) : slotM.go c = (.ok (c.st.slot c.slot), c) := rfl
@[simp] theorem coreM_go (c : Ctx) : coreM.go c = (.ok (c.st.core (coreOf c.slot)), c) := rfl
@[simp] theorem clusterM_go (c : Ctx) : clusterM.go c = (.ok (c.st.cluster (clusterOf c.slot)), c) := rfl
@[simp] theorem onSlotM_go (f : Slot → Slot) (c : Ctx) :
    (onSlotM f).go c = (.ok (), { c with st := c.st.onSlot c.st.cur f }) := rfl
@[simp] theorem trapM_go (k : Cause) (v : Word) (c : Ctx) :
    (trapM k v : M α).go c = (.error (.trap { cause := k, tval := v }), c) := rfl
@[simp] theorem waitM_go (w : Wait) (c : Ctx) : (waitM w : M α).go c = (.error (.wait w), c) := rfl
@[simp] theorem failM_go (k a : Nat) (c : Ctx) : (failM k a : M α).go c = (.error (.fail k a), c) := rfl
theorem needM_go (b : Bool) (k : Cause) (v : Word) (c : Ctx) :
    (needM b k v).go c = if b then (.ok (), c) else (.error (.trap { cause := k, tval := v }), c) := by
  unfold needM; split <;> rfl
@[simp] theorem needM_true_go (k : Cause) (v : Word) (c : Ctx) : (needM true k v).go c = (.ok (), c) := rfl

/-- A wick of a slot fails: by a machine error, which is logged, or by another cause (R231, R234). -/
def State.failBy (s : State) (slot k a : Nat) (pc : Word) : State :=
  if 0xB0 ≤ k ∧ k ≤ 0xB6 then s.machineError slot k a pc else s.failWick slot k pc

/-- `runInstr` where no decode cause stands, the guard is true and no jump's target is waited for. -/
theorem runInstr_go (i : Instr) (s : State) (body : M Flow) (hd : decodeCause s s.cur i.enc = none)
    (hg : (s.slot s.cur).p i.enc.guard = true) (ha : encAwaits i.enc (s.slot s.cur) = none) :
    runInstr i s body = .next
      (match body.go { slot := s.cur, st := s } with
      | (.ok f, c) => finish i.enc.len c f
      | (.error (.trap t), c) =>
        c.st.takeTrap s.cur t.cause t.tval
          (if t.past then (s.slot s.cur).pc + BitVec.ofNat 64 i.enc.len else (s.slot s.cur).pc) t.dfr
      | (.error (.wait w), c) => (c.st.keepReads s.cur c.taken c.poll).setWait s.cur w
      | (.error (.fail k a), c) => c.st.failBy s.cur k a (s.slot s.cur).pc) := by
  simp only [runInstr, hd, hg, ha, if_true, M.go]
  rcases (body.run { slot := s.cur, st := s }).run with ⟨(_ | _ | _) | _, _⟩ <;> rfl

/-- A body that completes: its state, finished. -/
theorem runInstr_ok {i : Instr} {s : State} {body : M Flow} {f : Flow} {c : Ctx}
    (hd : decodeCause s s.cur i.enc = none) (hg : (s.slot s.cur).p i.enc.guard = true)
    (ha : encAwaits i.enc (s.slot s.cur) = none)
    (h : body.go { slot := s.cur, st := s } = (.ok f, c)) : runInstr i s body = .next (finish i.enc.len c f) := by
  rw [runInstr_go i s body hd hg ha, h]

/-- A body that traps: the exception is taken. -/
theorem runInstr_trap {i : Instr} {s : State} {body : M Flow} {t : Trap} {c : Ctx}
    (hd : decodeCause s s.cur i.enc = none) (hg : (s.slot s.cur).p i.enc.guard = true)
    (ha : encAwaits i.enc (s.slot s.cur) = none)
    (h : body.go { slot := s.cur, st := s } = (.error (.trap t), c)) :
    runInstr i s body = .next (c.st.takeTrap s.cur t.cause t.tval
      (if t.past then (s.slot s.cur).pc + BitVec.ofNat 64 i.enc.len else (s.slot s.cur).pc) t.dfr) := by
  rw [runInstr_go i s body hd hg ha, h]

/-- A jump waits for its target's registers whatever the guard, unless a cause that does not need the target traps
(R99). -/
theorem runInstr_await {i : Instr} {s : State} {body : M Flow} {n : Nat}
    (hd : ∀ k, decodeCause s s.cur i.enc = some k → 8 < k) (ha : encAwaits i.enc (s.slot s.cur) = some n) :
    runInstr i s body = .next (s.setWait s.cur (.reg n)) := by
  cases hk : decodeCause s s.cur i.enc with
  | none => simp [runInstr, hk, ha]
  | some k => simp [runInstr, hk, ha, hd k hk]

/-- A decode cause traps whatever the guard (R44, R45). -/
theorem runInstr_cause {i : Instr} {s : State} {body : M Flow} {k : Cause} (hd : decodeCause s s.cur i.enc = some k)
    (ha : encAwaits i.enc (s.slot s.cur) = none ∨ k ≤ 8) :
    runInstr i s body =
      .next (s.takeTrap s.cur k (i.firstWord.zeroExtend 64) (s.slot s.cur).pc false) := by
  cases he : encAwaits i.enc (s.slot s.cur) with
  | none => simp [runInstr, hd, he]
  | some n =>
    have hk : ¬8 < k := by rcases ha with h | h <;> simp_all
    simp [runInstr, hd, he, hk]

/-- A false guard only moves the pc on (R44). -/
theorem runInstr_false {i : Instr} {s : State} {body : M Flow} (hd : decodeCause s s.cur i.enc = none)
    (hg : (s.slot s.cur).p i.enc.guard = false) (ha : encAwaits i.enc (s.slot s.cur) = none) :
    runInstr i s body = .next (s.onSlot s.cur (fun x => { x with pc := x.pc + BitVec.ofNat 64 i.enc.len })) := by
  simp [runInstr, hd, hg, ha]

/-- An encoded instruction always answers a next state. -/
theorem runInstr_next (i : Instr) (s : State) (body : M Flow) : ∃ t, runInstr i s body = .next t := by
  cases ha : encAwaits i.enc (s.slot s.cur) with
  | some n =>
    cases hd : decodeCause s s.cur i.enc with
    | none => exact ⟨_, runInstr_await (by simp [hd]) ha⟩
    | some k =>
      by_cases hk : k ≤ 8
      · exact ⟨_, runInstr_cause hd (.inr hk)⟩
      · exact ⟨_, runInstr_await (fun _ h => by rw [hd] at h; cases h; exact Nat.lt_of_not_le hk) ha⟩
  | none =>
    cases hd : decodeCause s s.cur i.enc with
    | some k => exact ⟨_, runInstr_cause hd (.inl ha)⟩
    | none =>
      cases hg : (s.slot s.cur).p i.enc.guard with
      | false => exact ⟨_, runInstr_false hd hg ha⟩
      | true => exact ⟨_, runInstr_go i s body hd hg ha⟩

end Sys2Proof.Machine
end

