-- ==== Sys2Proof/Laws/Operands.lean ====
section
/-!
SUPPORT. Reading and writing operands: the bodies' reads and writes are the pure ones of Sys2Proof/Safety.lean, and
the scalar shapes answer the state that those give.
-/

namespace Sys2Proof.Machine

/-- The context of a body with what has been read so far. -/
def ctx (slot : Nat) (s : State) (q : Reading) : Ctx := ⟨slot, s, q.taken, q.poll⟩

@[simp] theorem ctx_start (slot : Nat) (s : State) : (⟨slot, s, 0, none⟩ : Ctx) = ctx slot s {} := rfl
@[simp] theorem ctx_st (slot : Nat) (s : State) (q : Reading) : (ctx slot s q).st = s := rfl
@[simp] theorem ctx_slot (slot : Nat) (s : State) (q : Reading) : (ctx slot s q).slot = slot := rfl
@[simp] theorem ctx_with (slot : Nat) (s t : State) (q : Reading) : { ctx slot s q with st := t } = ctx slot t q := rfl
@[simp high] theorem setS_ctx (slot : Nat) (s t : State) (q : Reading) : (setS t).go (ctx slot s q) = (.ok (), ctx slot t q) := rfl
@[simp high] theorem modS_ctx (slot : Nat) (s : State) (q : Reading) (f : State → State) :
    (modS f).go (ctx slot s q) = (.ok (), ctx slot (f s) q) := rfl
@[simp high] theorem onSlotM_ctx (slot : Nat) (s : State) (q : Reading) (f : Slot → Slot) :
    (onSlotM f).go (ctx slot s q) = (.ok (), ctx slot (s.onSlot s.cur f) q) := rfl
theorem finish_ctx (len slot : Nat) (s : State) (q : Reading) : finish len (ctx slot s q) .next = s.retired slot len q := rfl

/-- A body that completes and goes on. -/
theorem runInstr_retired {i : Instr} {s t : State} {body : M Flow} {q : Reading} (hi : Issues i s)
    (h : body.go (ctx s.cur s {}) = (.ok .next, ctx s.cur t q)) :
    runInstr i s body = .next (t.retired s.cur i.enc.len q) := runInstr_ok hi.1 hi.2.1 hi.2.2 h
/-- A body that completes and jumps. -/
theorem runInstr_jumped {i : Instr} {s t : State} {body : M Flow} {q : Reading} {w : Word} (hi : Issues i s)
    (h : body.go (ctx s.cur s {}) = (.ok (.jump w), ctx s.cur t q)) :
    runInstr i s body = .next (t.jumped s.cur w q) := runInstr_ok hi.1 hi.2.1 hi.2.2 h
/-- A body after which the slot no longer holds the wick. -/
theorem runInstr_gone {i : Instr} {s t : State} {body : M Flow} {q : Reading} (hi : Issues i s)
    (h : body.go (ctx s.cur s {}) = (.ok .gone, ctx s.cur t q)) :
    runInstr i s body = .next (t.gone s.cur q) := runInstr_ok hi.1 hi.2.1 hi.2.2 h
/-- A body that raises a trap at the instruction's own pc. -/
theorem runInstr_raises {i : Instr} {s t : State} {body : M Flow} {q : Reading} {k : Cause} {v : Word} (hi : Issues i s)
    (h : body.go (ctx s.cur s {}) = (.error (.trap { cause := k, tval := v }), ctx s.cur t q)) :
    runInstr i s body = .next (t.takeTrap s.cur k v (s.slot s.cur).pc false) := runInstr_trap hi.1 hi.2.1 hi.2.2 h

/-- Reading a register code. -/
theorem rdCode_go {s : State} {slot c : Nat} {q q' : Reading} {v : Word} (h : s.readCode slot c q = some (v, q')) :
    (rdCode c).go (ctx slot s q) = (.ok v, ctx slot s q') := by
  simp only [State.readCode] at h
  simp only [rdCode, M.go_bind, slotM_go, M.andThen_ok, M.go_ite, coreM_go, here_go, M.go_get, M.go_pure, waitM_go,
    ctx_slot, ctx_st]
  by_cases h0 : (s.slot slot).isPending c = true
  · rw [if_pos h0] at h; cases h
  rw [if_neg h0] at h ⊢
  by_cases h1 : c = 0
  · rw [if_pos h1] at h ⊢; injection h with h; injection h with h h'; subst h h'; rfl
  rw [if_neg h1] at h ⊢
  by_cases h2 : c < 16
  · rw [if_pos h2] at h ⊢; injection h with h; injection h with h h'; subst h h'; rfl
  rw [if_neg h2] at h ⊢
  by_cases h3 : c < 24
  · rw [if_pos h3] at h ⊢; injection h with h; injection h with h h'; subst h h'; rfl
  rw [if_neg h3] at h ⊢
  by_cases h4 : c = 24
  · rw [if_pos h4] at h ⊢
    cases hw : (s.core (coreOf slot)).mqWord slot q.taken with
    | none => simp [hw] at h
    | some w => simp only [hw, Option.map_some, Option.some.injEq, Prod.mk.injEq] at h; obtain ⟨rfl, rfl⟩ := h; simp [ctx, hw]
  · rw [if_neg h4] at h ⊢
    cases hw : (s.core (coreOf slot)).pollWord slot q.taken <;> simp only [hw, Option.some.injEq, Prod.mk.injEq] at h <;>
      obtain ⟨rfl, rfl⟩ := h <;> simp [ctx, hw]

/-- Reading a source field. -/
theorem rd_go {s : State} {slot : Nat} {a : Src} {q q' : Reading} {v : Word} (h : s.readSrc slot a q = some (v, q')) :
    (rd a).go (ctx slot s q) = (.ok v, ctx slot s q') := by
  cases a with
  | reg n => exact rdCode_go h
  | lit32 w => simp only [State.readSrc, Option.some.injEq, Prod.mk.injEq] at h; obtain ⟨rfl, rfl⟩ := h; rfl
  | lit64 w => simp only [State.readSrc, Option.some.injEq, Prod.mk.injEq] at h; obtain ⟨rfl, rfl⟩ := h; rfl

/-- A destination that can be written is not waited for. -/
theorem prepDst_go {s : State} {slot d : Nat} (q : Reading) (h : s.canWrite slot d = true) :
    (prepDst d).go (ctx slot s q) = (.ok (), ctx slot s q) := by
  simp only [State.canWrite, Bool.and_eq_true, Bool.not_eq_true'] at h
  simp only [prepDst, M.go_bind, slotM_go, M.andThen_ok, M.go_ite, ctx_slot, ctx_st, h.1, Bool.false_eq_true, if_false]
  by_cases hd : 26 ≤ d
  · simp only [hd, if_true, here_go, M.andThen_ok, ctx_slot] at h ⊢
    cases hn : neighbour (coreOf slot) d with
    | none => simp
    | some n =>
      simp only [hn] at h
      simp only [M.go_bind, getS_go, M.andThen_ok, M.go_ite, ctx_st]
      rw [if_neg]
      · simp
      · rcases Bool.or_eq_true _ _ ▸ h.2 with h2 | h2 <;> simp [h2]
  · simp [hd]

@[simp] theorem wr_go (slot : Nat) (s : State) (q : Reading) (d : BitVec 5) (v : Word) :
    (wr d v).go (ctx slot s q) = (.ok (), ctx slot (s.writeReg slot d.toNat v) q) := rfl

@[simp] theorem flagM_go (slot : Nat) (s : State) (q : Reading) (f : Fl) :
    (flagM f).go (ctx slot s q) = (.ok (), ctx slot (s.flagged slot f) q) := by
  simp only [flagM, State.flagged, M.go_bind, here_go, M.andThen_ok, M.go_ite, ctx_slot]
  split <;> simp

/-- A result written with its flags. -/
theorem result_go {s : State} {slot : Nat} {d : BitVec 5} (v : Word) (f : Fl) (q : Reading)
    (h : s.canWrite slot d.toNat = true) :
    (result d v f).go (ctx slot s q) = (.ok .next, ctx slot ((s.writeReg slot d.toNat v).flagged slot f) q) := by
  simp [result, prepDst_go q h]

/-- A scalar instruction of two sources answers its result and flags. -/
theorem binary_next {i : Instr} {x : FmtA} {f : Word → Word → Word × Fl} {s : State} {a b : Word} {q : Reading}
    (hi : Issues i s) (hr : s.reads2 x.a x.b a b q) (hw : s.canWrite s.cur x.d.toNat = true) :
    binary i x f s = .next
      (((s.writeReg s.cur x.d.toNat (f a b).1).flagged s.cur (f a b).2).retired s.cur i.enc.len q) := by
  obtain ⟨q1, h1, h2⟩ := hr
  exact runInstr_retired hi (by simp [rd_go h1, rd_go h2, result_go _ _ q hw])

/-- A scalar instruction of one source answers its result and flags. -/
theorem unary_next {i : Instr} {x : FmtA} {f : Word → Word × Fl} {s : State} {a : Word} {q : Reading}
    (hi : Issues i s) (hr : s.reads1 x.a a q) (hw : s.canWrite s.cur x.d.toNat = true) :
    unary i x f s = .next
      (((s.writeReg s.cur x.d.toNat (f a).1).flagged s.cur (f a).2).retired s.cur i.enc.len q) :=
  runInstr_retired hi (by simp [rd_go hr, result_go _ _ q hw])

/-- A fused instruction answers its result and flags. -/
theorem ternary_next {i : Instr} {x : FmtA} {f : Word → Word → Word → Word × Fl} {s : State} {a b z : Word} {q : Reading}
    (hi : Issues i s) (hr : s.reads3 x.a x.b x.d.toNat a b z q) (hw : s.canWrite s.cur x.d.toNat = true) :
    ternary i x f s = .next
      (((s.writeReg s.cur x.d.toNat (f a b z).1).flagged s.cur (f a b z).2).retired s.cur i.enc.len q) := by
  obtain ⟨q2, ⟨q1, h1, h2⟩, h3⟩ := hr
  exact runInstr_retired hi (by simp [rd_go h1, rd_go h2, rdCode_go h3, result_go _ _ q hw])

/-- An immediate instruction answers its result. -/
theorem immediate_next {i : Instr} {x : FmtI} {f : Word → BitVec 15 → Word} {s : State} {a : Word} {q : Reading}
    (hi : Issues i s) (hr : s.reads1 x.a a q) (hw : s.canWrite s.cur x.d.toNat = true) :
    immediate i x f s = .next ((s.writeReg s.cur x.d.toNat (f a x.imm)).retired s.cur i.enc.len q) :=
  runInstr_retired hi (by simp [rd_go hr, result_go _ _ q hw, State.flagged])

end Sys2Proof.Machine
end

