-- ==== Sys2Proof/Laws/Access.lean ====
section
/-!
SUPPORT. Accesses: what a translation changes, and what each check of an access gives when its condition, in the
terms of Sys2Proof/Safety.lean, holds.
-/

namespace Sys2Proof.Machine

/-- A TLB lookup changes TLBs and their counters only. -/
theorem State.lookup_frame (s : State) (ck : Nat) (co : Option Nat) (asid : BitVec 9) (va : Nat) :
    ∃ cl ks, (s.lookup ck co asid va).2 = { s with clusters := cl, cores := ks } := by
  unfold State.lookup
  simp only
  split
  · exact ⟨_, _, rfl⟩
  · unfold State.useEntry
    cases co <;> split <;> (try split) <;> exact ⟨_, _, rfl⟩

/-- A translation changes TLBs and their counters only. -/
theorem State.xlate_frame (s : State) (corek : Nat) (micro user : Bool) (asid : BitVec 9) (k : XKind) (va : Word) :
    ∃ cl ks, (s.xlate corek micro user asid k va).2 = { s with clusters := cl, cores := ks } := by
  unfold State.xlate
  split
  · exact ⟨_, _, rfl⟩
  split
  · exact ⟨_, _, rfl⟩
  obtain ⟨cl, ks, h⟩ := s.lookup_frame (corek / 16) (if micro then some corek else none) asid va.toNat
  simp only
  split
  · exact ⟨cl, ks, h⟩
  · split <;> exact ⟨cl, ks, h⟩

/-- A translation that succeeds keeps the address as formed. -/
theorem State.xlate_va {s s1 : State} {corek : Nat} {micro user : Bool} {asid : BitVec 9} {k : XKind} {va : Word} {t : Xlat}
    (h : s.xlate corek micro user asid k va = (.ok t, s1)) : t.va = va := by
  unfold State.xlate at h
  split at h
  · cases h
  split at h
  · injection h with h; injection h with h; rw [← h]
  simp only at h
  split at h
  · cases h
  · split at h
    · cases h
    · injection h with h; injection h with h; rw [← h]

/-- An access that passes its checks changes TLBs and their counters only. -/
theorem State.accessed_frame {s s1 : State} {slot n : Nat} {k : XKind} {tolOk : Bool} {va : Word} {t : Xlat}
    (h : s.accessed slot k n tolOk va t s1) : ∃ cl ks, s1 = { s with clusters := cl, cores := ks } := by
  have := s.xlate_frame (coreOf slot) true (s.slot slot).user (s.slot slot).asid k va
  rw [h.1] at this; exact this

theorem State.accessed_slot {s s1 : State} {slot n j : Nat} {k : XKind} {tolOk : Bool} {va : Word} {t : Xlat}
    (h : s.accessed slot k n tolOk va t s1) : s1.slot j = s.slot j := by
  obtain ⟨cl, ks, rfl⟩ := State.accessed_frame h; rfl

theorem State.accessed_cur {s s1 : State} {slot n : Nat} {k : XKind} {tolOk : Bool} {va : Word} {t : Xlat}
    (h : s.accessed slot k n tolOk va t s1) : s1.cur = s.cur := by
  obtain ⟨cl, ks, rfl⟩ := State.accessed_frame h; rfl

theorem xlateM_go {s s1 : State} {slot : Nat} {k : XKind} {va : Word} {t : Xlat} (q : Reading)
    (h : s.xlate (coreOf slot) true (s.slot slot).user (s.slot slot).asid k va = (.ok t, s1)) :
    (xlateM k va).go (ctx slot s q) = (.ok t, ctx slot s1 q) := by
  simp [xlateM, h]

/-- The checks after translation all pass. -/
theorem checkM_go {s : State} {slot n : Nat} {k : XKind} {tolOk : Bool} {t : Xlat} (q : Reading)
    (h1 : t.va.toNat % n = 0)
    (h2 : s.lockHit (clusterOf slot) (s.slot slot).asid t.va.toNat n (decide (k = .store) || decide (k = .atomic)) = false)
    (h3 : t.tol = true → tolOk = true) (h4 : s.targetCause slot k n t = none) :
    (checkM k n tolOk t).go (ctx slot s q) = (.ok (), ctx slot s q) := by
  have h5 : (!t.tol || tolOk) = true := by cases ht : t.tol <;> simp_all
  simp [checkM, h1, h2, h4, h5]

/-- An access that passes its checks gives its translation. -/
theorem accessM_go {s s1 : State} {slot n : Nat} {k : XKind} {tolOk : Bool} {va : Word} {t : Xlat} (q : Reading)
    (h : s.accessed slot k n tolOk va t s1) :
    (accessM k n tolOk va).go (ctx slot s q) = (.ok t, ctx slot s1 q) := by
  have hs := State.accessed_slot (j := slot) h
  have hv := State.xlate_va h.1
  obtain ⟨h1, h2, h3, h4, h5⟩ := h
  have := checkM_go (s := s1) (slot := slot) (n := n) (k := k) (tolOk := tolOk) (t := t) q (by rw [hv]; exact h2)
    (by rw [hv, hs]; exact h3) h4 h5
  simp [accessM, xlateM_go q h1, this]

theorem readyM_go {s : State} {slot pa : Nat} (q : Reading) (h : s.homeOk slot pa) :
    (readyM pa).go (ctx slot s q) = (.ok (), ctx slot s q) := by
  replace h := h.1
  cases hp : peerOf slot pa with
  | none => simp [readyM, hp, h hp]
  | some d => simp [readyM, hp]

theorem errorM_go {s : State} {slot pa : Nat} (q : Reading) (h : s.readError pa = none) :
    (errorM pa).go (ctx slot s q) = (.ok (), ctx slot s q) := by
  simp [errorM, h]

/-- A used turn leaves everything but its slot's turn as it was. -/
theorem State.turnUsed_frame (s : State) (slot : Nat) (pas : List Nat) :
    s.turnUsed slot pas = s ∨ s.turnUsed slot pas = s.onSlot slot (fun x => { x with turn := false }) := by
  unfold State.turnUsed; split
  · exact .inl rfl
  · exact .inr rfl
@[simp] theorem State.turnUsed_cur (s : State) (slot : Nat) (pas : List Nat) : (s.turnUsed slot pas).cur = s.cur := by
  unfold State.turnUsed; split <;> rfl
@[simp] theorem State.turnUsed_mem (s : State) (slot : Nat) (pas : List Nat) : (s.turnUsed slot pas).mem = s.mem := by
  unfold State.turnUsed; split <;> rfl
@[simp] theorem State.turnUsed_readError (s : State) (slot : Nat) (pas : List Nat) (a : Nat) :
    (s.turnUsed slot pas).readError a = s.readError a := by
  unfold State.turnUsed; split <;> rfl
@[simp] theorem State.turnUsed_readFault (s : State) (slot : Nat) (pas : List Nat) (a n : Nat) :
    (s.turnUsed slot pas).readFault a n = s.readFault a n := by
  unfold State.turnUsed; split <;> rfl
/-- The slot's own record but for the turn. -/
theorem State.turnUsed_slot (s : State) (slot j : Nat) (pas : List Nat) :
    ∃ b, (s.turnUsed slot pas).slot j = { s.slot j with turn := b } := by
  rcases s.turnUsed_frame slot pas with h | h <;> rw [h]
  · exact ⟨_, rfl⟩
  · by_cases hj : j = slot
    · subst hj; exact ⟨false, by simp⟩
    · exact ⟨(s.slot j).turn, by simp [hj]⟩

theorem errorsM_go {s : State} {slot pa n : Nat} (q : Reading) (h : s.readFault pa n = none) :
    (errorsM pa n).go (ctx slot s q) = (.ok (), ctx slot s q) := by
  simp [errorsM, h]

/-- Accesses that may go use up their turn. -/
theorem turnM_go {s : State} {slot : Nat} {pas : List Nat} (q : Reading) (h : s.mayGo slot pas = true) :
    (turnM pas).go (ctx slot s q) = (.ok (), ctx slot (s.turnUsed slot pas) q) := by
  simp [turnM, h]

theorem oobM_go {s : State} {slot : Nat} (t : Xlat) (wr : Bool) (q : Reading) (hc : s.cur = slot)
    (hm : s.mayGo slot [t.pa] = true) :
    (oobM t wr).go (ctx slot s q) = (.ok (), ctx slot (s.noted slot t wr) q) := by
  unfold oobM State.noted; dsimp only; split <;> simp [turnM_go q hm, *]

@[simp] theorem State.noted_cur (s : State) (slot : Nat) (t : Xlat) (wr : Bool) : (s.noted slot t wr).cur = s.cur := by
  unfold State.noted; dsimp only; split <;> simp
@[simp] theorem State.noted_mem (s : State) (slot : Nat) (t : Xlat) (wr : Bool) : (s.noted slot t wr).mem = s.mem := by
  unfold State.noted; dsimp only; split <;> simp
@[simp] theorem State.noted_readError (s : State) (slot : Nat) (t : Xlat) (wr : Bool) (a : Nat) :
    (s.noted slot t wr).readError a = s.readError a := by
  unfold State.noted; dsimp only; split
  · simp
  · exact State.turnUsed_readError s slot [t.pa] a
@[simp] theorem State.noted_readFault (s : State) (slot : Nat) (t : Xlat) (wr : Bool) (a n : Nat) :
    (s.noted slot t wr).readFault a n = s.readFault a n := by
  unfold State.noted; dsimp only; split
  · simp
  · exact State.turnUsed_readFault s slot [t.pa] a n
/-- What an access that goes leaves alone in its slot. -/
theorem State.noted_lines (s : State) (slot j : Nat) (t : Xlat) (wr : Bool) :
    ((s.noted slot t wr).slot j).lines = (s.slot j).lines := by
  obtain ⟨b, hb⟩ := s.turnUsed_slot slot j [t.pa]
  unfold State.noted; dsimp only; split
  · rw [hb]
  · by_cases hj : j = slot
    · subst hj
      simp only [State.slot_onSlot_self, Slot.noteOob]
      split <;> rw [hb]
    · simp [hj, hb]
/-- A home's service changes its module's counters, or repairs a scratchpad row. -/
theorem State.serve_frame (s : State) (pa : Nat) (g : Bool) : ∃ m y d, s.serve pa g = { s with mods := m, syms := y, dies := d } := by
  unfold State.serve
  split
  · exact ⟨_, _, _, rfl⟩
  · unfold State.repairRow
    split
    · dsimp only; split <;> exact ⟨_, _, _, rfl⟩
    · exact ⟨_, _, _, rfl⟩
  · exact ⟨_, _, _, rfl⟩
@[simp] theorem State.serve_cur (s : State) (pa : Nat) (g : Bool) : (s.serve pa g).cur = s.cur := by
  obtain ⟨m, y, d, h⟩ := s.serve_frame pa g; rw [h]
@[simp] theorem State.serve_mem (s : State) (pa : Nat) (g : Bool) : (s.serve pa g).mem = s.mem := by
  obtain ⟨m, y, d, h⟩ := s.serve_frame pa g; rw [h]
@[simp] theorem State.serve_slot (s : State) (pa j : Nat) (g : Bool) : (s.serve pa g).slot j = s.slot j := by
  obtain ⟨m, y, d, h⟩ := s.serve_frame pa g; rw [h]; rfl

theorem latchM_go {s : State} {slot : Nat} (q : Reading) (h : (s.slot slot).latch = none) :
    latchM.go (ctx slot s q) = (.ok (), ctx slot s q) := by
  simp [latchM, h]

/-- A release or fence that completes changes nothing. -/
theorem releaseM_go {s : State} {slot sc : Nat} {only : Option Nat} {l w : Bool} (held : Bool) (q : Reading)
    (h : s.released slot sc only l w = true) :
    (releaseM sc only l w held).go (ctx slot s q) = (.ok (), ctx slot s q) := by
  simp only [State.released, Bool.and_eq_true, Bool.or_eq_true, Bool.not_eq_true', decide_eq_true_eq] at h
  simp only [releaseM, M.go_bind, here_go, getS_go, M.andThen_ok, M.go_ite, ctx_slot, ctx_st, h.1, Bool.not_true,
    Bool.false_eq_true, if_false, M.go_pure]
  by_cases hp : peerScope sc = true
  · rcases h.2 with h2 | h2
    · simp [hp] at h2
    · simp [hp, h2.1, latchM_go q h2.2]
  · simp [hp]

theorem releaseDevM_go {s : State} {slot : Nat} (q : Reading)
    (h : s.released slot 4 (some (devOf slot)) true true = true) :
    releaseDevM.go (ctx slot s q) = (.ok (), ctx slot s q) := by
  simp [releaseDevM, releaseM_go false q h]

/-- A suspension point that the wick may leave at changes nothing. -/
theorem suspendM_go {s : State} {slot : Nat} {pod : Bool} (q : Reading) (h : s.mayLeave slot (if pod then 6 else 4) = true) :
    (suspendM pod).go (ctx slot s q) = (.ok (), ctx slot s q) := by
  simp only [State.mayLeave, Bool.and_eq_true, decide_eq_true_eq] at h
  simp [suspendM, latchM_go q h.1.1, h.1.2, releaseM_go true q h.2]

theorem keepM_go (slot : Nat) (s : State) (q : Reading) (hc : s.cur = slot) :
    (keepM []).go (ctx slot s q) = (.ok (), ctx slot (s.kept slot) q) := by
  subst hc; rfl

/-- A line that can be read is read. -/
theorem readLineM_go {s s1 : State} {slot : Nat} {va : Word} {t : Xlat} (q : Reading) (hc : s.cur = slot)
    (h : s.lineOk slot va t s1) :
    (readLineM va).go (ctx slot s q) = (.ok (s1.lineValue slot t), ctx slot (s1.lineRead slot t) q) := by
  obtain ⟨ha, hl⟩ := h
  have hc1 : s1.cur = slot := by rw [State.accessed_cur ha, hc]
  cases ho : (s1.slot slot).lineOf t.pa with
  | some v => simp [readLineM, accessM_go q ha, ho, State.lineRead, State.lineValue, State.lineOf]
  | none =>
    obtain ⟨hp, hh, he⟩ := hl.resolve_left (by simp [State.lineOf, ho])
    have he1 : (s1.noted slot t false).readFault t.pa 64 = none := by rw [State.noted_readFault, he]
    simp [readLineM, accessM_go q ha, readyM_go q hh, oobM_go t false q hc1 hh.2, errorsM_go q he1, ho, hp, State.lineRead,
      State.lineValue, State.lineOf]

end Sys2Proof.Machine
end

