-- ==== Sys2Proof/Laws/Keep.lean ====
section
/-!
SUPPORT. What a body keeps: a property of the state that every primitive of a body keeps is kept by the body, and by the
instruction that runs it. An invariant of every step is shown with these, one shared operation at a time.
-/

namespace Sys2Proof.Machine

variable {α β : Type} {P : State → Prop}

/-- A body keeps a property of the state, however it ends. -/
def M.Keeps (P : State → Prop) (m : M α) : Prop := ∀ c : Ctx, P c.st → P (m.go c).2.st

theorem keeps_pure (a : α) : M.Keeps P (pure a : M α) := fun _ h => h
theorem keeps_bind {m : M α} {f : α → M β} (hm : M.Keeps P m) (hf : ∀ a, M.Keeps P (f a)) : M.Keeps P (m >>= f) := by
  intro c h
  have h1 := hm c h
  rw [M.go_bind]
  rcases hr : m.go c with ⟨_ | a, c1⟩
  · simpa only [hr, M.andThen_error] using h1
  · simp only [hr] at h1
    exact hf a c1 h1
theorem keeps_map {m : M α} (f : α → β) (hm : M.Keeps P m) : M.Keeps P (f <$> m) := by
  rw [← bind_pure_comp]
  exact keeps_bind hm fun a => keeps_pure (f a)
theorem keeps_throw (e : Stop) : M.Keeps P (throw e : M α) := fun _ h => h
theorem keeps_getS : M.Keeps P getS := fun _ h => h
theorem keeps_here : M.Keeps P here := fun _ h => h
theorem keeps_slotM : M.Keeps P slotM := fun _ h => h
theorem keeps_coreM : M.Keeps P coreM := fun _ h => h
theorem keeps_clusterM : M.Keeps P clusterM := fun _ h => h
theorem keeps_trapM (k : Cause) (v : Word) : M.Keeps P (trapM k v : M α) := fun _ h => h
theorem keeps_waitM (w : Wait) : M.Keeps P (waitM w : M α) := fun _ h => h
theorem keeps_failM (k a : Nat) : M.Keeps P (failM k a : M α) := fun _ h => h
theorem keeps_needM (b : Bool) (k : Cause) (v : Word) : M.Keeps P (needM b k v) := by
  intro c h
  rw [needM_go]
  split <;> exact h
theorem keeps_modS {f : State → State} (hf : ∀ s, P s → P (f s)) : M.Keeps P (modS f) := fun c h => hf c.st h
theorem keeps_setS {s : State} (hs : P s) : M.Keeps P (setS s) := fun _ _ => hs
theorem keeps_onSlotM {f : Slot → Slot} (hf : ∀ s k, P s → P (s.onSlot k f)) : M.Keeps P (onSlotM f) :=
  fun c h => hf c.st c.st.cur h
/-- A body that reads the state first: what follows may use that the property holds of what was read. -/
theorem keeps_getS_bind {f : State → M β} (hf : ∀ s, P s → M.Keeps P (f s)) : M.Keeps P (getS >>= f) := by
  intro c h
  simpa only [M.go_bind, getS_go, M.andThen_ok] using hf c.st h c h
theorem keeps_ite (p : Prop) [Decidable p] {m n : M α} (hm : M.Keeps P m) (hn : M.Keeps P n) :
    M.Keeps P (if p then m else n) := by split <;> assumption

/-- An instruction keeps what its body, its exceptions, its waits, its failures and its end keep. -/
theorem runInstr_keeps {i : Instr} {s t : State} {body : M Flow} (hs : P s) (hb : M.Keeps P body)
    (trap : ∀ (u : State) (c : Cause) (v pc : Word) (d : Bool), P u → P (u.takeTrap s.cur c v pc d))
    (wait : ∀ (u : State) (w : Wait), P u → P (u.setWait s.cur w))
    (reads : ∀ (u : State) (n : Nat) (p : Option (Nat × Bool)), P u → P (u.keepReads s.cur n p))
    (fail : ∀ (u : State) (k a : Nat) (pc : Word), P u → P (u.failBy s.cur k a pc))
    (done : ∀ (len : Nat) (c : Ctx) (f : Flow), P c.st → P (finish len c f))
    (past : ∀ (u : State) (w : Word), P u → P (u.onSlot u.cur (fun x => { x with pc := x.pc + w })))
    (h : runInstr i s body = .next t) : P t := by
  cases ha : encAwaits i.enc (s.slot s.cur) with
  | some n =>
    cases hd : decodeCause s s.cur i.enc with
    | none => rw [runInstr_await (by simp [hd]) ha] at h; cases h; exact wait _ _ hs
    | some k =>
      by_cases hk : k ≤ 8
      · rw [runInstr_cause hd (.inr hk)] at h; cases h; exact trap _ _ _ _ _ hs
      · rw [runInstr_await (fun _ h => by rw [hd] at h; cases h; exact Nat.lt_of_not_le hk) ha] at h
        cases h; exact wait _ _ hs
  | none =>
  cases hd : decodeCause s s.cur i.enc with
  | some k =>
    rw [runInstr_cause hd (.inl ha)] at h
    cases h
    exact trap _ _ _ _ _ hs
  | none =>
    cases hg : (s.slot s.cur).p i.enc.guard with
    | false =>
      rw [runInstr_false hd hg ha] at h
      cases h
      exact past _ _ hs
    | true =>
      rw [runInstr_go i s body hd hg ha] at h
      have h1 := hb { slot := s.cur, st := s } hs
      rcases hr : body.go { slot := s.cur, st := s } with ⟨(_ | _ | _) | _, c⟩ <;>
        simp only [hr] at h h1 <;> cases h
      · exact trap _ _ _ _ _ h1
      · exact wait _ _ (reads _ _ _ h1)
      · exact fail _ _ _ _ h1
      · exact done _ _ _ h1

/-! ### Memory under the shared operations -/

@[simp] theorem State.settleRefusal_mem (s : State) (a b n : Nat) : (s.settleRefusal a b n).mem = s.mem := by
  unfold State.settleRefusal; dsimp only; split
  · rfl
  · split <;> rfl
@[simp] theorem State.settleAll_mem (l : List Nat) (s : State) (a : Nat) : (s.settleAll a l).mem = s.mem := by
  unfold State.settleAll
  induction l generalizing s with
  | nil => rfl
  | cons d l ih => simp [ih]
@[simp] theorem State.settleQueue_mem (s : State) (k : Nat) : (s.settleQueue k).mem = s.mem := by
  have h : ∀ (l : List Nat) (u : State), (l.foldl (fun s j =>
      s.onSlot j (fun x => if x.wait = .mq then { x with wait := .none } else x)) u).mem = u.mem := by
    intro l; induction l with
    | nil => exact fun u => rfl
    | cons j l ih => exact fun u => (ih _).trans rfl
  unfold State.settleQueue; exact h _ _
@[simp] theorem State.endReservation_mem (s : State) (slot : Nat) (f : List QWord → List QWord) :
    (s.endReservation slot f).mem = s.mem := by
  unfold State.endReservation; dsimp only; split
  · simp
  · rfl
@[simp] theorem State.undoSlots_mem (s : State) (slot : Nat) : (s.undoSlots slot).mem = s.mem := by
  unfold State.undoSlots; dsimp only; split
  · simp [ioDies, List.range_succ]
  · rfl
@[simp] theorem State.undoTaper_mem (s : State) (slot : Nat) : (s.undoTaper slot).mem = s.mem := by
  unfold State.undoTaper; split <;> rfl
@[simp] theorem State.undoCx_mem (s : State) (slot : Nat) : (s.undoCx slot).mem = s.mem := by
  unfold State.undoCx; split <;> rfl
@[simp] theorem State.dropTurns_mem (s : State) (slot : Nat) : (s.dropTurns slot).mem = s.mem := by
  unfold State.dropTurns; split <;> rfl
@[simp] theorem State.giveUp_mem (s : State) (slot : Nat) : (s.giveUp slot).mem = s.mem := by simp [State.giveUp]
@[simp] theorem State.dropReady_mem (s : State) (slot : Nat) : (s.dropReady slot).mem = s.mem := by
  unfold State.dropReady; repeat' (first | rfl | split)
@[simp] theorem State.logLatch_mem (s : State) (slot : Nat) : (s.logLatch slot).mem = s.mem := by
  unfold State.logLatch; dsimp only; split <;> simp [State.postIrq]
@[simp] theorem State.cancelWork_mem (s : State) (slot c : Nat) : (s.cancelWork slot c).mem = s.mem := rfl
@[simp] theorem State.leave_mem (s : State) (slot : Nat) : (s.leave slot).mem = s.mem := by
  simp [State.leave, State.wakeDev, State.wakeCluster]
@[simp] theorem State.breakGroup_mem (s : State) (a b c d : Nat) : (s.breakGroup a b c d).mem = s.mem := by
  unfold State.breakGroup; split <;> rfl
@[simp] theorem State.failLeave_mem (s : State) (slot c : Nat) : (s.failLeave slot c).mem = s.mem := by
  simp [State.failLeave]
@[simp] theorem State.threadError_mem (s : State) (slot k a : Nat) : (s.threadError slot k a).mem = s.mem := by
  unfold State.threadError State.logError; repeat' (first | rfl | split | (simp; done))
@[simp] theorem State.failWick_mem (s : State) (slot c : Nat) (pc : Word) : (s.failWick slot c pc).mem = s.mem := by
  unfold State.failWick State.failOut; dsimp only; split <;> simp
@[simp] theorem State.failBy_mem (s : State) (slot k a : Nat) (pc : Word) : (s.failBy slot k a pc).mem = s.mem := by
  unfold State.failBy State.machineError; split <;> simp
@[simp] theorem State.takeTrap_mem (s : State) (slot : Nat) (c : Cause) (v pc : Word) (d : Bool) :
    (s.takeTrap slot c v pc d).mem = s.mem := by
  unfold State.takeTrap
  lift_lets
  extract_lets s0 x fate
  have h0 : s0.mem = s.mem := by simp only [s0]; split <;> simp
  clear_value s0
  split
  · exact h0
  · repeat' (first | exact h0 | (simp only [State.failWick_mem]; exact h0) | split)
@[simp] theorem State.takeInterrupt_mem (s : State) (slot : Nat) (c : Cause) (v : Word) :
    (s.takeInterrupt slot c v).mem = s.mem := by
  simp [State.takeInterrupt]
@[simp] theorem State.setWait_mem (s : State) (slot : Nat) (w : Wait) : (s.setWait slot w).mem = s.mem := by
  unfold State.setWait; split <;> rfl
@[simp] theorem State.takeWords_mem (s : State) (slot : Nat) : (s.takeWords slot).mem = s.mem := by
  simp [State.takeWords, State.wakeCluster]
@[simp] theorem State.keepReads_mem (s : State) (slot n : Nat) (p : Option (Nat × Bool)) :
    (s.keepReads slot n p).mem = s.mem := by
  unfold State.keepReads; dsimp only; cases p <;> simp <;> split <;> rfl
@[simp] theorem finish_mem (len : Nat) (c : Ctx) (f : Flow) : (finish len c f).mem = c.st.mem := by
  unfold finish; cases f <;> simp <;> split <;> simp

/-- An instruction keeps a property of memory that its body keeps. -/
theorem runInstr_keeps_mem {Q : List Host.Cell → Prop} {i : Instr} {s t : State} {body : M Flow} (hs : Q s.mem)
    (hb : M.Keeps (fun u => Q u.mem) body) (h : runInstr i s body = .next t) : Q t.mem := by
  refine runInstr_keeps (P := fun u => Q u.mem) hs hb ?_ ?_ ?_ ?_ ?_ ?_ h
  all_goals intros; simp_all

/-! ### Operands -/

theorem keeps_get : M.Keeps P (get : M Ctx) := fun _ h => h
theorem keeps_modify {f : Ctx → Ctx} (hf : ∀ c, P c.st → P (f c).st) : M.Keeps P (modify f : M Unit) := fun c h => hf c h
/-- Reading a register changes no state. -/
theorem keeps_rdCode (n : Nat) : M.Keeps P (rdCode n) := by
  unfold rdCode
  refine keeps_bind keeps_slotM fun x => keeps_ite _ (keeps_waitM _) <| keeps_ite _ (keeps_pure _) <|
    keeps_ite _ (keeps_pure _) <| keeps_ite _ (keeps_bind keeps_coreM fun _ => keeps_pure _) <| keeps_ite _ ?_ ?_
  · refine keeps_bind keeps_get fun _ => keeps_bind keeps_coreM fun _ => keeps_bind keeps_here fun _ => ?_
    split
    · exact keeps_waitM _
    · exact keeps_bind (keeps_modify fun _ h => h) fun _ => keeps_pure _
  · refine keeps_bind keeps_get fun _ => keeps_bind keeps_coreM fun _ => keeps_bind keeps_here fun _ => ?_
    split <;> exact keeps_bind (keeps_modify fun _ h => h) fun _ => keeps_pure _
/-- Reading a source changes no state. -/
theorem keeps_rd (a : Src) : M.Keeps P (rd a) := by
  cases a
  · exact keeps_rdCode _
  · exact keeps_pure _
  · exact keeps_pure _
/-- Looking whether a destination can be written changes no state. -/
theorem keeps_prepDst (n : Nat) : M.Keeps P (prepDst n) := by
  unfold prepDst
  refine keeps_bind keeps_slotM fun x => keeps_ite _ (keeps_waitM _) <| keeps_ite _
    (keeps_bind keeps_here fun _ => ?_) (keeps_pure _)
  split
  · exact keeps_bind keeps_getS fun _ => keeps_ite _ (keeps_waitM _) (keeps_pure _)
  · exact keeps_pure _
@[simp] theorem State.writeReg_mem (s : State) (slot n : Nat) (v : Word) : (s.writeReg slot n v).mem = s.mem := by
  unfold State.writeReg State.writeRegAt
  split
  · rfl
  · split
    · rfl
    · split
      · rfl
      · split <;> rfl
/-- Writing a destination changes no memory. -/
theorem keeps_wr_mem {Q : List Host.Cell → Prop} (d : BitVec 5) (v : Word) : M.Keeps (fun u => Q u.mem) (wr d v) :=
  keeps_bind keeps_here fun _ => keeps_modS fun s h => by simpa using h

end Sys2Proof.Machine
end

