-- ==== Sys2Proof/Laws/PerInstr.lean ====
section
/-!
SUPPORT. Statements made one instruction at a time: the shape of every instruction's encoding.
-/

namespace Sys2Proof.Laws

open Sys2Proof

/-- The major opcode of an encoding (Table 3.4). -/
def majorOpcode : Enc → Nat
  | .a op _ _ _ _ _ _ => op
  | .i op _ _ => op
  | .b _ _ => 0x10
  | .s _ => 0x05
  | .v op _ _ _ => op
  | .k op _ _ _ => op
  | .m _ _ _ => 0x50
  | .e _ _ _ => 0x30
  | .event => 0

/-- The function code, link bit and opcode of an encoding lie within their fields (Table 3.1). -/
def codesFit : Enc → Prop
  | .a op fn _ _ _ _ _ => op < 128 ∧ fn < 64
  | .i op _ _ => op < 128
  | .b lk _ => lk < 2
  | .v op fn _ _ => op < 128 ∧ fn < 64
  | .k op fn _ _ => op < 128 ∧ fn < 256
  | .m fn _ _ => fn < 32
  | .e fn _ _ => fn < 64
  | .s _ | .event => True

/-- The shape of an instruction's encoding (R39, R40, Table 3.1): the word fits 32 bits, its top seven bits are the
major opcode, so no field spills into them, and the length counts the word and its literals. -/
def Shape.Statement (i : Instr) : Prop :=
  i.enc.word < 2 ^ 32 ∧ i.enc.word / 2 ^ 25 = majorOpcode i.enc ∧ i.enc.len = 4 * (encode i).length

/-- A source field's code fits five bits. -/
theorem code_lt (a : Src) : a.code < 32 := by
  cases a <;> simp only [Src.code] <;> omega

/-- A source field's bytes are those of its literal words. -/
theorem src_len (a : Src) : a.len = 4 * a.words.length := by cases a <;> rfl

/-- An encoding whose codes fit has the shape. -/
theorem shape_of (i : Instr) (h : codesFit i.enc) : Shape.Statement i := by
  unfold Shape.Statement encode
  generalize i.enc = e at h ⊢
  cases e with
  | a op fn x dr ar br more =>
    have := code_lt x.a; have := code_lt x.b; have := x.d.isLt; have := x.p.isLt
    simp only [codesFit, Enc.word, Enc.len, Enc.literals, majorOpcode, List.length_cons, List.length_append, src_len] at *
    omega
  | i op x more =>
    have := code_lt x.a; have := x.d.isLt; have := x.imm.isLt
    simp only [codesFit, Enc.word, Enc.len, Enc.literals, majorOpcode, List.length_cons, src_len] at *
    omega
  | b lk x =>
    have := x.p.isLt; have := x.off.isLt
    refine ⟨?_, ?_, rfl⟩ <;> simp only [codesFit, Enc.word, majorOpcode] at * <;> omega
  | s x =>
    have := code_lt x.a; have := x.d.isLt; have := x.sel.isLt; have := x.p.isLt
    simp only [Enc.word, Enc.len, Enc.literals, majorOpcode, List.length_cons, src_len] at *
    omega
  | v op fn x more =>
    have := x.d.isLt; have := x.a.isLt; have := x.b.isLt; have := x.p.isLt; have := x.t.isLt
    refine ⟨?_, ?_, rfl⟩ <;> simp only [codesFit, Enc.word, majorOpcode] at * <;> omega
  | k op fn x more =>
    have := x.d.isLt; have := x.a.isLt; have := x.b.isLt; have := x.p.isLt; have := x.md.isLt
    refine ⟨?_, ?_, rfl⟩ <;> simp only [codesFit, Enc.word, majorOpcode] at * <;> omega
  | m fn x more =>
    have := x.d.isLt; have := x.a.isLt; have := x.b.isLt; have := x.p.isLt; have := x.mx.isLt
    refine ⟨?_, ?_, rfl⟩ <;> simp only [codesFit, Enc.word, majorOpcode] at * <;> omega
  | e fn x more =>
    have := code_lt x.a; have := x.tok.isLt; have := x.eq.isLt; have := x.p.isLt
    simp only [codesFit, Enc.word, Enc.len, Enc.literals, majorOpcode, List.length_cons, src_len] at *
    omega
  | event => exact ⟨by decide, by decide, rfl⟩

theorem Shape.aluAdd (x : FmtA) : Shape.Statement (.aluAdd x) := shape_of _ ⟨by decide, by decide⟩
theorem Shape.aluSub (x : FmtA) : Shape.Statement (.aluSub x) := shape_of _ ⟨by decide, by decide⟩
theorem Shape.aluMul (x : FmtA) : Shape.Statement (.aluMul x) := shape_of _ ⟨by decide, by decide⟩
theorem Shape.aluMulh (x : FmtA) : Shape.Statement (.aluMulh x) := shape_of _ ⟨by decide, by decide⟩
theorem Shape.aluMulhz (x : FmtA) : Shape.Statement (.aluMulhz x) := shape_of _ ⟨by decide, by decide⟩
theorem Shape.aluDiv (x : FmtA) : Shape.Statement (.aluDiv x) := shape_of _ ⟨by decide, by decide⟩
theorem Shape.aluDivz (x : FmtA) : Shape.Statement (.aluDivz x) := shape_of _ ⟨by decide, by decide⟩
theorem Shape.aluRem (x : FmtA) : Shape.Statement (.aluRem x) := shape_of _ ⟨by decide, by decide⟩
theorem Shape.aluRemz (x : FmtA) : Shape.Statement (.aluRemz x) := shape_of _ ⟨by decide, by decide⟩
theorem Shape.aluAnd (x : FmtA) : Shape.Statement (.aluAnd x) := shape_of _ ⟨by decide, by decide⟩
theorem Shape.aluOr (x : FmtA) : Shape.Statement (.aluOr x) := shape_of _ ⟨by decide, by decide⟩
theorem Shape.aluXor (x : FmtA) : Shape.Statement (.aluXor x) := shape_of _ ⟨by decide, by decide⟩
theorem Shape.aluAndn (x : FmtA) : Shape.Statement (.aluAndn x) := shape_of _ ⟨by decide, by decide⟩
theorem Shape.aluShl (x : FmtA) : Shape.Statement (.aluShl x) := shape_of _ ⟨by decide, by decide⟩
theorem Shape.aluShr (x : FmtA) : Shape.Statement (.aluShr x) := shape_of _ ⟨by decide, by decide⟩
theorem Shape.aluSra (x : FmtA) : Shape.Statement (.aluSra x) := shape_of _ ⟨by decide, by decide⟩
theorem Shape.aluMin (x : FmtA) : Shape.Statement (.aluMin x) := shape_of _ ⟨by decide, by decide⟩
theorem Shape.aluMax (x : FmtA) : Shape.Statement (.aluMax x) := shape_of _ ⟨by decide, by decide⟩
theorem Shape.aluMinz (x : FmtA) : Shape.Statement (.aluMinz x) := shape_of _ ⟨by decide, by decide⟩
theorem Shape.aluMaxz (x : FmtA) : Shape.Statement (.aluMaxz x) := shape_of _ ⟨by decide, by decide⟩
theorem Shape.aluAdds (x : FmtA) : Shape.Statement (.aluAdds x) := shape_of _ ⟨by decide, by decide⟩
theorem Shape.aluSubs (x : FmtA) : Shape.Statement (.aluSubs x) := shape_of _ ⟨by decide, by decide⟩
theorem Shape.aluClz (x : FmtA) : Shape.Statement (.aluClz x) := shape_of _ ⟨by decide, by decide⟩
theorem Shape.aluCtz (x : FmtA) : Shape.Statement (.aluCtz x) := shape_of _ ⟨by decide, by decide⟩
theorem Shape.aluPopc (x : FmtA) : Shape.Statement (.aluPopc x) := shape_of _ ⟨by decide, by decide⟩
theorem Shape.aluiAdd (x : FmtI) : Shape.Statement (.aluiAdd x) := shape_of _ (show (8 : Nat) < 128 by decide)
theorem Shape.aluiAnd (x : FmtI) : Shape.Statement (.aluiAnd x) := shape_of _ (show (9 : Nat) < 128 by decide)
theorem Shape.aluiOr (x : FmtI) : Shape.Statement (.aluiOr x) := shape_of _ (show (10 : Nat) < 128 by decide)
theorem Shape.aluiXor (x : FmtI) : Shape.Statement (.aluiXor x) := shape_of _ (show (11 : Nat) < 128 by decide)
theorem Shape.aluiShl (x : FmtI) : Shape.Statement (.aluiShl x) := shape_of _ (show (12 : Nat) < 128 by decide)
theorem Shape.aluiShr (x : FmtI) : Shape.Statement (.aluiShr x) := shape_of _ (show (13 : Nat) < 128 by decide)
theorem Shape.aluiSra (x : FmtI) : Shape.Statement (.aluiSra x) := shape_of _ (show (14 : Nat) < 128 by decide)
theorem Shape.aluiMul (x : FmtI) : Shape.Statement (.aluiMul x) := shape_of _ (show (15 : Nat) < 128 by decide)
theorem Shape.fpuAdd (x : FmtF) : Shape.Statement (.fpuAdd x) := shape_of _ (by
  have := x.rm.isLt
  exact ⟨by decide, show (0 + x.rm.toNat) < 64 by omega⟩)
theorem Shape.fpuSub (x : FmtF) : Shape.Statement (.fpuSub x) := shape_of _ (by
  have := x.rm.isLt
  exact ⟨by decide, show (4 + x.rm.toNat) < 64 by omega⟩)
theorem Shape.fpuMul (x : FmtF) : Shape.Statement (.fpuMul x) := shape_of _ (by
  have := x.rm.isLt
  exact ⟨by decide, show (8 + x.rm.toNat) < 64 by omega⟩)
theorem Shape.fpuDiv (x : FmtF) : Shape.Statement (.fpuDiv x) := shape_of _ (by
  have := x.rm.isLt
  exact ⟨by decide, show (12 + x.rm.toNat) < 64 by omega⟩)
theorem Shape.fpuSqrt (x : FmtF) : Shape.Statement (.fpuSqrt x) := shape_of _ (by
  have := x.rm.isLt
  exact ⟨by decide, show (16 + x.rm.toNat) < 64 by omega⟩)
theorem Shape.fpuFma (x : FmtF) : Shape.Statement (.fpuFma x) := shape_of _ (by
  have := x.rm.isLt
  exact ⟨by decide, show (20 + x.rm.toNat) < 64 by omega⟩)
theorem Shape.fpuFms (x : FmtF) : Shape.Statement (.fpuFms x) := shape_of _ (by
  have := x.rm.isLt
  exact ⟨by decide, show (24 + x.rm.toNat) < 64 by omega⟩)
theorem Shape.fpuMin (x : FmtA) : Shape.Statement (.fpuMin x) := shape_of _ ⟨by decide, by decide⟩
theorem Shape.fpuMax (x : FmtA) : Shape.Statement (.fpuMax x) := shape_of _ ⟨by decide, by decide⟩
theorem Shape.fpuAbs (x : FmtA) : Shape.Statement (.fpuAbs x) := shape_of _ ⟨by decide, by decide⟩
theorem Shape.fpuNeg (x : FmtA) : Shape.Statement (.fpuNeg x) := shape_of _ ⟨by decide, by decide⟩
theorem Shape.fpuCvti (x : FmtF) : Shape.Statement (.fpuCvti x) := shape_of _ (by
  have := x.rm.isLt
  exact ⟨by decide, show (44 + x.rm.toNat) < 64 by omega⟩)
theorem Shape.fpuCvtf (x : FmtF) : Shape.Statement (.fpuCvtf x) := shape_of _ (by
  have := x.rm.isLt
  exact ⟨by decide, show (48 + x.rm.toNat) < 64 by omega⟩)
theorem Shape.fpuCvtw (x : FmtF) : Shape.Statement (.fpuCvtw x) := shape_of _ (by
  have := x.rm.isLt
  exact ⟨by decide, show (52 + x.rm.toNat) < 64 by omega⟩)
theorem Shape.fpuCvtb (x : FmtF) : Shape.Statement (.fpuCvtb x) := shape_of _ (by
  have := x.rm.isLt
  exact ⟨by decide, show (56 + x.rm.toNat) < 64 by omega⟩)
theorem Shape.fpuCvt8 (x : FmtF) : Shape.Statement (.fpuCvt8 x) := shape_of _ (by
  have := x.rm.isLt
  exact ⟨by decide, show (60 + x.rm.toNat) < 64 by omega⟩)
theorem Shape.fpdAdd (x : FmtF) : Shape.Statement (.fpdAdd x) := shape_of _ (by
  have := x.rm.isLt
  exact ⟨by decide, show (0 + x.rm.toNat) < 64 by omega⟩)
theorem Shape.fpdSub (x : FmtF) : Shape.Statement (.fpdSub x) := shape_of _ (by
  have := x.rm.isLt
  exact ⟨by decide, show (4 + x.rm.toNat) < 64 by omega⟩)
theorem Shape.fpdMul (x : FmtF) : Shape.Statement (.fpdMul x) := shape_of _ (by
  have := x.rm.isLt
  exact ⟨by decide, show (8 + x.rm.toNat) < 64 by omega⟩)
theorem Shape.fpdDiv (x : FmtF) : Shape.Statement (.fpdDiv x) := shape_of _ (by
  have := x.rm.isLt
  exact ⟨by decide, show (12 + x.rm.toNat) < 64 by omega⟩)
theorem Shape.fpdSqrt (x : FmtF) : Shape.Statement (.fpdSqrt x) := shape_of _ (by
  have := x.rm.isLt
  exact ⟨by decide, show (16 + x.rm.toNat) < 64 by omega⟩)
theorem Shape.fpdFma (x : FmtF) : Shape.Statement (.fpdFma x) := shape_of _ (by
  have := x.rm.isLt
  exact ⟨by decide, show (20 + x.rm.toNat) < 64 by omega⟩)
theorem Shape.fpdFms (x : FmtF) : Shape.Statement (.fpdFms x) := shape_of _ (by
  have := x.rm.isLt
  exact ⟨by decide, show (24 + x.rm.toNat) < 64 by omega⟩)
theorem Shape.fpdMin (x : FmtA) : Shape.Statement (.fpdMin x) := shape_of _ ⟨by decide, by decide⟩
theorem Shape.fpdMax (x : FmtA) : Shape.Statement (.fpdMax x) := shape_of _ ⟨by decide, by decide⟩
theorem Shape.fpdAbs (x : FmtA) : Shape.Statement (.fpdAbs x) := shape_of _ ⟨by decide, by decide⟩
theorem Shape.fpdNeg (x : FmtA) : Shape.Statement (.fpdNeg x) := shape_of _ ⟨by decide, by decide⟩
theorem Shape.fpdCvti (x : FmtF) : Shape.Statement (.fpdCvti x) := shape_of _ (by
  have := x.rm.isLt
  exact ⟨by decide, show (44 + x.rm.toNat) < 64 by omega⟩)
theorem Shape.fpdCvtf (x : FmtF) : Shape.Statement (.fpdCvtf x) := shape_of _ (by
  have := x.rm.isLt
  exact ⟨by decide, show (48 + x.rm.toNat) < 64 by omega⟩)
theorem Shape.fpdCvtw (x : FmtF) : Shape.Statement (.fpdCvtw x) := shape_of _ (by
  have := x.rm.isLt
  exact ⟨by decide, show (52 + x.rm.toNat) < 64 by omega⟩)
theorem Shape.fpdCvtb (x : FmtF) : Shape.Statement (.fpdCvtb x) := shape_of _ (by
  have := x.rm.isLt
  exact ⟨by decide, show (56 + x.rm.toNat) < 64 by omega⟩)
theorem Shape.fpdCvt8 (x : FmtF) : Shape.Statement (.fpdCvt8 x) := shape_of _ (by
  have := x.rm.isLt
  exact ⟨by decide, show (60 + x.rm.toNat) < 64 by omega⟩)
theorem Shape.cmpEq (x : FmtC) : Shape.Statement (.cmpEq x) := shape_of _ (by
  have := x.t.isLt
  exact ⟨by decide, show (0 + x.t.toNat) < 64 by omega⟩)
theorem Shape.cmpNe (x : FmtC) : Shape.Statement (.cmpNe x) := shape_of _ (by
  have := x.t.isLt
  exact ⟨by decide, show (8 + x.t.toNat) < 64 by omega⟩)
theorem Shape.cmpLt (x : FmtC) : Shape.Statement (.cmpLt x) := shape_of _ (by
  have := x.t.isLt
  exact ⟨by decide, show (16 + x.t.toNat) < 64 by omega⟩)
theorem Shape.cmpGe (x : FmtC) : Shape.Statement (.cmpGe x) := shape_of _ (by
  have := x.t.isLt
  exact ⟨by decide, show (24 + x.t.toNat) < 64 by omega⟩)
theorem Shape.cmpLo (x : FmtC) : Shape.Statement (.cmpLo x) := shape_of _ (by
  have := x.t.isLt
  exact ⟨by decide, show (32 + x.t.toNat) < 64 by omega⟩)
theorem Shape.cmpHs (x : FmtC) : Shape.Statement (.cmpHs x) := shape_of _ (by
  have := x.t.isLt
  exact ⟨by decide, show (40 + x.t.toNat) < 64 by omega⟩)
theorem Shape.cmpUn (x : FmtC) : Shape.Statement (.cmpUn x) := shape_of _ (by
  have := x.t.isLt
  exact ⟨by decide, show (48 + x.t.toNat) < 64 by omega⟩)
theorem Shape.movCp (x : FmtA) : Shape.Statement (.movCp x) := shape_of _ ⟨by decide, by decide⟩
theorem Shape.movRdp (x : FmtA) : Shape.Statement (.movRdp x) := shape_of _ ⟨by decide, by decide⟩
theorem Shape.movWrp (x : FmtA) : Shape.Statement (.movWrp x) := shape_of _ ⟨by decide, by decide⟩
theorem Shape.movSxb (x : FmtA) : Shape.Statement (.movSxb x) := shape_of _ ⟨by decide, by decide⟩
theorem Shape.movSxh (x : FmtA) : Shape.Statement (.movSxh x) := shape_of _ ⟨by decide, by decide⟩
theorem Shape.movSxw (x : FmtA) : Shape.Statement (.movSxw x) := shape_of _ ⟨by decide, by decide⟩
theorem Shape.movZxb (x : FmtA) : Shape.Statement (.movZxb x) := shape_of _ ⟨by decide, by decide⟩
theorem Shape.movZxh (x : FmtA) : Shape.Statement (.movZxh x) := shape_of _ ⟨by decide, by decide⟩
theorem Shape.movZxw (x : FmtA) : Shape.Statement (.movZxw x) := shape_of _ ⟨by decide, by decide⟩
theorem Shape.sysRw (x : FmtS) : Shape.Statement (.sysRw x) := shape_of _ trivial
theorem Shape.schedWrite : Shape.Statement .schedWrite := shape_of _ trivial
theorem Shape.br (x : FmtB) : Shape.Statement (.br x) := shape_of _ (show (0 : Nat) < 2 by decide)
theorem Shape.brLink (x : FmtB) : Shape.Statement (.brLink x) := shape_of _ (show (1 : Nat) < 2 by decide)
theorem Shape.jmpJr (x : FmtA) : Shape.Statement (.jmpJr x) := shape_of _ ⟨by decide, by decide⟩
theorem Shape.jmpJl (x : FmtA) : Shape.Statement (.jmpJl x) := shape_of _ ⟨by decide, by decide⟩
theorem Shape.wkSpawn (x : FmtA) : Shape.Statement (.wkSpawn x) := shape_of _ ⟨by decide, by decide⟩
theorem Shape.wkMigr (x : FmtA) : Shape.Statement (.wkMigr x) := shape_of _ ⟨by decide, by decide⟩
theorem Shape.wkWaitw (x : FmtA) : Shape.Statement (.wkWaitw x) := shape_of _ ⟨by decide, by decide⟩
theorem Shape.wkSusp (x : FmtA) : Shape.Statement (.wkSusp x) := shape_of _ ⟨by decide, by decide⟩
theorem Shape.wkDone (x : FmtA) : Shape.Statement (.wkDone x) := shape_of _ ⟨by decide, by decide⟩
theorem Shape.wkSnuffSelf (x : FmtA) : Shape.Statement (.wkSnuffSelf x) := shape_of _ ⟨by decide, by decide⟩
theorem Shape.wkSnuff (x : FmtA) : Shape.Statement (.wkSnuff x) := shape_of _ ⟨by decide, by decide⟩
theorem Shape.wkLaunch (x : FmtA) : Shape.Statement (.wkLaunch x) := shape_of _ ⟨by decide, by decide⟩
theorem Shape.wkPrio (x : FmtA) : Shape.Statement (.wkPrio x) := shape_of _ ⟨by decide, by decide⟩
theorem Shape.ld (x : FmtL) : Shape.Statement (.ld x) := shape_of _ (by
  have := x.rel.toNat_lt
  have := x.sx.toNat_lt
  have := x.w.isLt
  exact ⟨by decide, show (16 * x.rel.toNat + 8 * x.sx.toNat + 2 * x.w.toNat) < 64 by omega⟩)
theorem Shape.ldAcq (x : FmtQ) : Shape.Statement (.ldAcq x) := shape_of _ (by
  have := x.dbl.toNat_lt
  have := x.scope.isLt
  exact ⟨by decide, show (32 + 16 * x.dbl.toNat + x.scope.toNat) < 64 by omega⟩)
theorem Shape.st (x : FmtL) : Shape.Statement (.st x) := shape_of _ (by
  have := x.rel.toNat_lt
  have := x.sx.toNat_lt
  have := x.w.isLt
  exact ⟨by decide, show (16 * x.rel.toNat + 8 * x.sx.toNat + 2 * x.w.toNat) < 64 by omega⟩)
theorem Shape.stRel (x : FmtQ) : Shape.Statement (.stRel x) := shape_of _ (by
  have := x.dbl.toNat_lt
  have := x.scope.isLt
  exact ⟨by decide, show (32 + 16 * x.dbl.toNat + x.scope.toNat) < 64 by omega⟩)
theorem Shape.amoAdd (x : FmtN) : Shape.Statement (.amoAdd x) := shape_of _ (by
  have := x.dbl.toNat_lt
  have := x.rel.toNat_lt
  exact ⟨by decide, show (0 + 2 * x.dbl.toNat + x.rel.toNat) < 64 by omega⟩)
theorem Shape.amoAnd (x : FmtN) : Shape.Statement (.amoAnd x) := shape_of _ (by
  have := x.dbl.toNat_lt
  have := x.rel.toNat_lt
  exact ⟨by decide, show (4 + 2 * x.dbl.toNat + x.rel.toNat) < 64 by omega⟩)
theorem Shape.amoOr (x : FmtN) : Shape.Statement (.amoOr x) := shape_of _ (by
  have := x.dbl.toNat_lt
  have := x.rel.toNat_lt
  exact ⟨by decide, show (8 + 2 * x.dbl.toNat + x.rel.toNat) < 64 by omega⟩)
theorem Shape.amoXor (x : FmtN) : Shape.Statement (.amoXor x) := shape_of _ (by
  have := x.dbl.toNat_lt
  have := x.rel.toNat_lt
  exact ⟨by decide, show (12 + 2 * x.dbl.toNat + x.rel.toNat) < 64 by omega⟩)
theorem Shape.amoMin (x : FmtN) : Shape.Statement (.amoMin x) := shape_of _ (by
  have := x.dbl.toNat_lt
  have := x.rel.toNat_lt
  exact ⟨by decide, show (16 + 2 * x.dbl.toNat + x.rel.toNat) < 64 by omega⟩)
theorem Shape.amoMax (x : FmtN) : Shape.Statement (.amoMax x) := shape_of _ (by
  have := x.dbl.toNat_lt
  have := x.rel.toNat_lt
  exact ⟨by decide, show (20 + 2 * x.dbl.toNat + x.rel.toNat) < 64 by omega⟩)
theorem Shape.amoMinz (x : FmtN) : Shape.Statement (.amoMinz x) := shape_of _ (by
  have := x.dbl.toNat_lt
  have := x.rel.toNat_lt
  exact ⟨by decide, show (24 + 2 * x.dbl.toNat + x.rel.toNat) < 64 by omega⟩)
theorem Shape.amoMaxz (x : FmtN) : Shape.Statement (.amoMaxz x) := shape_of _ (by
  have := x.dbl.toNat_lt
  have := x.rel.toNat_lt
  exact ⟨by decide, show (28 + 2 * x.dbl.toNat + x.rel.toNat) < 64 by omega⟩)
theorem Shape.amoSwap (x : FmtN) : Shape.Statement (.amoSwap x) := shape_of _ (by
  have := x.dbl.toNat_lt
  have := x.rel.toNat_lt
  exact ⟨by decide, show (32 + 2 * x.dbl.toNat + x.rel.toNat) < 64 by omega⟩)
theorem Shape.amoCas (x : FmtN) : Shape.Statement (.amoCas x) := shape_of _ (by
  have := x.dbl.toNat_lt
  have := x.rel.toNat_lt
  exact ⟨by decide, show (36 + 2 * x.dbl.toNat + x.rel.toNat) < 64 by omega⟩)
theorem Shape.amoFadd (x : FmtN) : Shape.Statement (.amoFadd x) := shape_of _ (by
  have := x.dbl.toNat_lt
  have := x.rel.toNat_lt
  exact ⟨by decide, show (40 + 2 * x.dbl.toNat + x.rel.toNat) < 64 by omega⟩)
theorem Shape.fenceAll (x : FmtZ) : Shape.Statement (.fenceAll x) := shape_of _ (by
  have := x.scope.isLt
  exact ⟨by decide, show (0 + x.scope.toNat) < 64 by omega⟩)
theorem Shape.fenceSt (x : FmtZ) : Shape.Statement (.fenceSt x) := shape_of _ (by
  have := x.scope.isLt
  exact ⟨by decide, show (16 + x.scope.toNat) < 64 by omega⟩)
theorem Shape.fenceLd (x : FmtZ) : Shape.Statement (.fenceLd x) := shape_of _ (by
  have := x.scope.isLt
  exact ⟨by decide, show (32 + x.scope.toNat) < 64 by omega⟩)
theorem Shape.monArm (x : FmtA) : Shape.Statement (.monArm x) := shape_of _ ⟨by decide, by decide⟩
theorem Shape.monDis (x : FmtA) : Shape.Statement (.monDis x) := shape_of _ ⟨by decide, by decide⟩
theorem Shape.monWait (x : FmtA) : Shape.Statement (.monWait x) := shape_of _ ⟨by decide, by decide⟩
theorem Shape.monClr (x : FmtA) : Shape.Statement (.monClr x) := shape_of _ ⟨by decide, by decide⟩
theorem Shape.vecAdd (x : FmtV) : Shape.Statement (.vecAdd x) := shape_of _ ⟨by decide, by decide⟩
theorem Shape.vecSub (x : FmtV) : Shape.Statement (.vecSub x) := shape_of _ ⟨by decide, by decide⟩
theorem Shape.vecMul (x : FmtV) : Shape.Statement (.vecMul x) := shape_of _ ⟨by decide, by decide⟩
theorem Shape.vecFma (x : FmtV) : Shape.Statement (.vecFma x) := shape_of _ ⟨by decide, by decide⟩
theorem Shape.vecMin (x : FmtV) : Shape.Statement (.vecMin x) := shape_of _ ⟨by decide, by decide⟩
theorem Shape.vecMax (x : FmtV) : Shape.Statement (.vecMax x) := shape_of _ ⟨by decide, by decide⟩
theorem Shape.vecAbs (x : FmtV) : Shape.Statement (.vecAbs x) := shape_of _ ⟨by decide, by decide⟩
theorem Shape.vecNeg (x : FmtV) : Shape.Statement (.vecNeg x) := shape_of _ ⟨by decide, by decide⟩
theorem Shape.vecAnd (x : FmtV) : Shape.Statement (.vecAnd x) := shape_of _ ⟨by decide, by decide⟩
theorem Shape.vecOr (x : FmtV) : Shape.Statement (.vecOr x) := shape_of _ ⟨by decide, by decide⟩
theorem Shape.vecXor (x : FmtV) : Shape.Statement (.vecXor x) := shape_of _ ⟨by decide, by decide⟩
theorem Shape.vecShl (x : FmtV) : Shape.Statement (.vecShl x) := shape_of _ ⟨by decide, by decide⟩
theorem Shape.vecShr (x : FmtV) : Shape.Statement (.vecShr x) := shape_of _ ⟨by decide, by decide⟩
theorem Shape.vecSra (x : FmtV) : Shape.Statement (.vecSra x) := shape_of _ ⟨by decide, by decide⟩
theorem Shape.vecSel (x : FmtV) : Shape.Statement (.vecSel x) := shape_of _ ⟨by decide, by decide⟩
theorem Shape.vecShuf (x : FmtV) : Shape.Statement (.vecShuf x) := shape_of _ ⟨by decide, by decide⟩
theorem Shape.vecBcast (x : FmtV) : Shape.Statement (.vecBcast x) := shape_of _ ⟨by decide, by decide⟩
theorem Shape.vecRsum (x : FmtV) : Shape.Statement (.vecRsum x) := shape_of _ ⟨by decide, by decide⟩
theorem Shape.vecRmax (x : FmtV) : Shape.Statement (.vecRmax x) := shape_of _ ⟨by decide, by decide⟩
theorem Shape.vecRmin (x : FmtV) : Shape.Statement (.vecRmin x) := shape_of _ ⟨by decide, by decide⟩
theorem Shape.vecCvt (x : FmtV) : Shape.Statement (.vecCvt x) := shape_of _ ⟨by decide, by decide⟩
theorem Shape.vecScale (x : FmtV) : Shape.Statement (.vecScale x) := shape_of _ ⟨by decide, by decide⟩
theorem Shape.vecCeq (x : FmtV) : Shape.Statement (.vecCeq x) := shape_of _ ⟨by decide, by decide⟩
theorem Shape.vecClt (x : FmtV) : Shape.Statement (.vecClt x) := shape_of _ ⟨by decide, by decide⟩
theorem Shape.vldC (x : FmtV) : Shape.Statement (.vldC x) := shape_of _ ⟨by decide, by decide⟩
theorem Shape.vldS (x : FmtV) : Shape.Statement (.vldS x) := shape_of _ ⟨by decide, by decide⟩
theorem Shape.vldCR (x : FmtV) : Shape.Statement (.vldCR x) := shape_of _ ⟨by decide, by decide⟩
theorem Shape.vldSR (x : FmtV) : Shape.Statement (.vldSR x) := shape_of _ ⟨by decide, by decide⟩
theorem Shape.vstC (x : FmtV) : Shape.Statement (.vstC x) := shape_of _ ⟨by decide, by decide⟩
theorem Shape.vstS (x : FmtV) : Shape.Statement (.vstS x) := shape_of _ ⟨by decide, by decide⟩
theorem Shape.vstCR (x : FmtV) : Shape.Statement (.vstCR x) := shape_of _ ⟨by decide, by decide⟩
theorem Shape.vstSR (x : FmtV) : Shape.Statement (.vstSR x) := shape_of _ ⟨by decide, by decide⟩
theorem Shape.vgthG (x : FmtV) : Shape.Statement (.vgthG x) := shape_of _ ⟨by decide, by decide⟩
theorem Shape.vgthGt (x : FmtV) : Shape.Statement (.vgthGt x) := shape_of _ ⟨by decide, by decide⟩
theorem Shape.enqWt (x : FmtE) : Shape.Statement (.enqWt x) := shape_of _ (show (0 : Nat) < 64 by decide)
theorem Shape.enqTry (x : FmtE) : Shape.Statement (.enqTry x) := shape_of _ (show (1 : Nat) < 64 by decide)
theorem Shape.enqRoomRetry : Shape.Statement .enqRoomRetry := shape_of _ trivial
theorem Shape.vgInit (x : FmtA) : Shape.Statement (.vgInit x) := shape_of _ ⟨by decide, by decide⟩
theorem Shape.vgJoin (x : FmtA) : Shape.Statement (.vgJoin x) := shape_of _ ⟨by decide, by decide⟩
theorem Shape.vgLeave (x : FmtA) : Shape.Statement (.vgLeave x) := shape_of _ ⟨by decide, by decide⟩
theorem Shape.vgArr (x : FmtA) : Shape.Statement (.vgArr x) := shape_of _ ⟨by decide, by decide⟩
theorem Shape.vgWait (x : FmtA) : Shape.Statement (.vgWait x) := shape_of _ ⟨by decide, by decide⟩
theorem Shape.vgArrw (x : FmtA) : Shape.Statement (.vgArrw x) := shape_of _ ⟨by decide, by decide⟩
theorem Shape.vgBrk (x : FmtA) : Shape.Statement (.vgBrk x) := shape_of _ ⟨by decide, by decide⟩
theorem Shape.vgBrkGroup (x : FmtA) : Shape.Statement (.vgBrkGroup x) := shape_of _ ⟨by decide, by decide⟩
theorem Shape.vgStat (x : FmtA) : Shape.Statement (.vgStat x) := shape_of _ ⟨by decide, by decide⟩
theorem Shape.trapSw (x : FmtA) : Shape.Statement (.trapSw x) := shape_of _ ⟨by decide, by decide⟩
theorem Shape.trapRet (x : FmtA) : Shape.Statement (.trapRet x) := shape_of _ ⟨by decide, by decide⟩
theorem Shape.trapBrk (x : FmtA) : Shape.Statement (.trapBrk x) := shape_of _ ⟨by decide, by decide⟩
theorem Shape.trapMsk (x : FmtA) : Shape.Statement (.trapMsk x) := shape_of _ ⟨by decide, by decide⟩
theorem Shape.tlbFill (x : FmtA) : Shape.Statement (.tlbFill x) := shape_of _ ⟨by decide, by decide⟩
theorem Shape.tlbInvr (x : FmtA) : Shape.Statement (.tlbInvr x) := shape_of _ ⟨by decide, by decide⟩
theorem Shape.tlbInva (x : FmtA) : Shape.Statement (.tlbInva x) := shape_of _ ⟨by decide, by decide⟩
theorem Shape.tlbPrb (x : FmtA) : Shape.Statement (.tlbPrb x) := shape_of _ ⟨by decide, by decide⟩
theorem Shape.fabConn (x : FmtA) : Shape.Statement (.fabConn x) := shape_of _ ⟨by decide, by decide⟩
theorem Shape.fabClose (x : FmtA) : Shape.Statement (.fabClose x) := shape_of _ ⟨by decide, by decide⟩
theorem Shape.fabSlot (x : FmtA) : Shape.Statement (.fabSlot x) := shape_of _ ⟨by decide, by decide⟩
theorem Shape.fabStat (x : FmtA) : Shape.Statement (.fabStat x) := shape_of _ ⟨by decide, by decide⟩
theorem Shape.fabGnt (x : FmtA) : Shape.Statement (.fabGnt x) := shape_of _ ⟨by decide, by decide⟩
theorem Shape.lanInst (x : FmtA) : Shape.Statement (.lanInst x) := shape_of _ ⟨by decide, by decide⟩
theorem Shape.lanDrop (x : FmtA) : Shape.Statement (.lanDrop x) := shape_of _ ⟨by decide, by decide⟩
theorem Shape.lanStat (x : FmtA) : Shape.Statement (.lanStat x) := shape_of _ ⟨by decide, by decide⟩
theorem Shape.lanDflt (x : FmtA) : Shape.Statement (.lanDflt x) := shape_of _ ⟨by decide, by decide⟩
theorem Shape.tapLoad (x : FmtA) : Shape.Statement (.tapLoad x) := shape_of _ ⟨by decide, by decide⟩
theorem Shape.tapGo (x : FmtA) : Shape.Statement (.tapGo x) := shape_of _ ⟨by decide, by decide⟩
theorem Shape.tapHalt (x : FmtA) : Shape.Statement (.tapHalt x) := shape_of _ ⟨by decide, by decide⟩
theorem Shape.tapStat (x : FmtA) : Shape.Statement (.tapStat x) := shape_of _ ⟨by decide, by decide⟩
theorem Shape.tapHead (x : FmtA) : Shape.Statement (.tapHead x) := shape_of _ ⟨by decide, by decide⟩
theorem Shape.cxLoad (x : FmtK) : Shape.Statement (.cxLoad x) := shape_of _ ⟨by decide, by decide⟩
theorem Shape.cxBind (x : FmtK) : Shape.Statement (.cxBind x) := shape_of _ ⟨by decide, by decide⟩
theorem Shape.cxRebind (x : FmtK) : Shape.Statement (.cxRebind x) := shape_of _ ⟨by decide, by decide⟩
theorem Shape.cxGen (x : FmtK) : Shape.Statement (.cxGen x) := shape_of _ ⟨by decide, by decide⟩
theorem Shape.cxDrop (x : FmtK) : Shape.Statement (.cxDrop x) := shape_of _ ⟨by decide, by decide⟩
theorem Shape.ckDx (x : FmtK) : Shape.Statement (.ckDx x) := shape_of _ ⟨by decide, by decide⟩
theorem Shape.ckStar (x : FmtK) : Shape.Statement (.ckStar x) := shape_of _ ⟨by decide, by decide⟩
theorem Shape.ckIstar (x : FmtK) : Shape.Statement (.ckIstar x) := shape_of _ ⟨by decide, by decide⟩
theorem Shape.ckCodif (x : FmtK) : Shape.Statement (.ckCodif x) := shape_of _ ⟨by decide, by decide⟩
theorem Shape.ckWedge (x : FmtK) : Shape.Statement (.ckWedge x) := shape_of _ ⟨by decide, by decide⟩
theorem Shape.ckInterp (x : FmtK) : Shape.Statement (.ckInterp x) := shape_of _ ⟨by decide, by decide⟩
theorem Shape.ckCvt (x : FmtK) : Shape.Statement (.ckCvt x) := shape_of _ ⟨by decide, by decide⟩
theorem Shape.ckAnch (x : FmtK) : Shape.Statement (.ckAnch x) := shape_of _ ⟨by decide, by decide⟩
theorem Shape.ckAxpy (x : FmtK) : Shape.Statement (.ckAxpy x) := shape_of _ ⟨by decide, by decide⟩
theorem Shape.ckDot (x : FmtK) : Shape.Statement (.ckDot x) := shape_of _ ⟨by decide, by decide⟩
theorem Shape.ckHpack (x : FmtK) : Shape.Statement (.ckHpack x) := shape_of _ ⟨by decide, by decide⟩
theorem Shape.ckHunp (x : FmtK) : Shape.Statement (.ckHunp x) := shape_of _ ⟨by decide, by decide⟩
theorem Shape.mxMma (x : FmtM) : Shape.Statement (.mxMma x) := shape_of _ (show (0 : Nat) < 32 by decide)
theorem Shape.mxMmaz0 (x : FmtM) : Shape.Statement (.mxMmaz0 x) := shape_of _ (show (1 : Nat) < 32 by decide)
theorem Shape.mxMmaz1 (x : FmtM) : Shape.Statement (.mxMmaz1 x) := shape_of _ (show (2 : Nat) < 32 by decide)
theorem Shape.mxClr (x : FmtM) : Shape.Statement (.mxClr x) := shape_of _ (show (3 : Nat) < 32 by decide)
theorem Shape.mxSt (x : FmtM) : Shape.Statement (.mxSt x) := shape_of _ (show (4 : Nat) < 32 by decide)
theorem Shape.mxLd (x : FmtM) : Shape.Statement (.mxLd x) := shape_of _ (show (5 : Nat) < 32 by decide)
theorem Shape.copy : Shape.Statement .copy := shape_of _ trivial
theorem Shape.gather : Shape.Statement .gather := shape_of _ trivial
theorem Shape.scatter : Shape.Statement .scatter := shape_of _ trivial
theorem Shape.fill : Shape.Statement .fill := shape_of _ trivial
theorem Shape.paddedCopy : Shape.Statement .paddedCopy := shape_of _ trivial
theorem Shape.blockedTransform : Shape.Statement .blockedTransform := shape_of _ trivial
theorem Shape.quantum : Shape.Statement .quantum := shape_of _ trivial
theorem Shape.engineGrantVisit : Shape.Statement .engineGrantVisit := shape_of _ trivial
theorem Shape.engineOpComplete : Shape.Statement .engineOpComplete := shape_of _ trivial
theorem Shape.fabricSend : Shape.Statement .fabricSend := shape_of _ trivial
theorem Shape.multicastStore : Shape.Statement .multicastStore := shape_of _ trivial
theorem Shape.multicastReply : Shape.Statement .multicastReply := shape_of _ trivial
theorem Shape.haloPack : Shape.Statement .haloPack := shape_of _ trivial
theorem Shape.haloUnpack : Shape.Statement .haloUnpack := shape_of _ trivial
theorem Shape.lanternInstallCmd : Shape.Statement .lanternInstallCmd := shape_of _ trivial
theorem Shape.lanternDropCmd : Shape.Statement .lanternDropCmd := shape_of _ trivial
theorem Shape.lanternResetCmd : Shape.Statement .lanternResetCmd := shape_of _ trivial
theorem Shape.taperLoadCmd : Shape.Statement .taperLoadCmd := shape_of _ trivial
theorem Shape.taperGoCmd : Shape.Statement .taperGoCmd := shape_of _ trivial
theorem Shape.taperHaltCmd : Shape.Statement .taperHaltCmd := shape_of _ trivial
theorem Shape.schedDispatch : Shape.Statement .schedDispatch := shape_of _ trivial
theorem Shape.stealRequest : Shape.Statement .stealRequest := shape_of _ trivial
theorem Shape.stealReply : Shape.Statement .stealReply := shape_of _ trivial
theorem Shape.stealBackoffEnd : Shape.Statement .stealBackoffEnd := shape_of _ trivial
theorem Shape.dispenserPass : Shape.Statement .dispenserPass := shape_of _ trivial
theorem Shape.wickEntry : Shape.Statement .wickEntry := shape_of _ trivial
theorem Shape.migrationArrival : Shape.Statement .migrationArrival := shape_of _ trivial
theorem Shape.wickRefusalReturn : Shape.Statement .wickRefusalReturn := shape_of _ trivial
theorem Shape.slotGating : Shape.Statement .slotGating := shape_of _ trivial
theorem Shape.vectorRefresh : Shape.Statement .vectorRefresh := shape_of _ trivial
theorem Shape.portWordArrival : Shape.Statement .portWordArrival := shape_of _ trivial
theorem Shape.accessComplete : Shape.Statement .accessComplete := shape_of _ trivial
theorem Shape.relaxedAccessComplete : Shape.Statement .relaxedAccessComplete := shape_of _ trivial
theorem Shape.atomicReservationGrant : Shape.Statement .atomicReservationGrant := shape_of _ trivial
theorem Shape.monWaitTimeout : Shape.Statement .monWaitTimeout := shape_of _ trivial
theorem Shape.peerAccess : Shape.Statement .peerAccess := shape_of _ trivial
theorem Shape.peerAck : Shape.Statement .peerAck := shape_of _ trivial
theorem Shape.peerRefusal : Shape.Statement .peerRefusal := shape_of _ trivial
theorem Shape.fenceMarker : Shape.Statement .fenceMarker := shape_of _ trivial
theorem Shape.peerLeft : Shape.Statement .peerLeft := shape_of _ trivial
theorem Shape.linkTrained : Shape.Statement .linkTrained := shape_of _ trivial
theorem Shape.lanternRequest : Shape.Statement .lanternRequest := shape_of _ trivial
theorem Shape.lanternAtomic : Shape.Statement .lanternAtomic := shape_of _ trivial
theorem Shape.beaconInterval : Shape.Statement .beaconInterval := shape_of _ trivial
theorem Shape.vigilArrivalMessage : Shape.Statement .vigilArrivalMessage := shape_of _ trivial
theorem Shape.vigilByteDecrement : Shape.Statement .vigilByteDecrement := shape_of _ trivial
theorem Shape.groupBreakNotice : Shape.Statement .groupBreakNotice := shape_of _ trivial
theorem Shape.vigilNotice : Shape.Statement .vigilNotice := shape_of _ trivial
theorem Shape.arrivalForward : Shape.Statement .arrivalForward := shape_of _ trivial
theorem Shape.arrivalForwardTimeout : Shape.Statement .arrivalForwardTimeout := shape_of _ trivial
theorem Shape.wickFailure : Shape.Statement .wickFailure := shape_of _ trivial
theorem Shape.failureListTailAdvance : Shape.Statement .failureListTailAdvance := shape_of _ trivial
theorem Shape.coreError : Shape.Statement .coreError := shape_of _ trivial
theorem Shape.bankFailMark : Shape.Statement .bankFailMark := shape_of _ trivial
theorem Shape.coreReadmit : Shape.Statement .coreReadmit := shape_of _ trivial
theorem Shape.preemptionRequest : Shape.Statement .preemptionRequest := shape_of _ trivial
theorem Shape.preemptionWithdraw : Shape.Statement .preemptionWithdraw := shape_of _ trivial
theorem Shape.hostDoorbell : Shape.Statement .hostDoorbell := shape_of _ trivial
theorem Shape.serviceSignal : Shape.Statement .serviceSignal := shape_of _ trivial
theorem Shape.debugHalt : Shape.Statement .debugHalt := shape_of _ trivial
theorem Shape.debugHaltEnd : Shape.Statement .debugHaltEnd := shape_of _ trivial
theorem Shape.interruptTake : Shape.Statement .interruptTake := shape_of _ trivial
theorem Shape.sidebandRead : Shape.Statement .sidebandRead := shape_of _ trivial
theorem Shape.escapeTimeout : Shape.Statement .escapeTimeout := shape_of _ trivial
theorem Shape.slotGuardEnd : Shape.Statement .slotGuardEnd := shape_of _ trivial
theorem Shape.slotDurationExpiry : Shape.Statement .slotDurationExpiry := shape_of _ trivial
theorem Shape.slotQueuesEmpty : Shape.Statement .slotQueuesEmpty := shape_of _ trivial
theorem Shape.taperDispatch : Shape.Statement .taperDispatch := shape_of _ trivial
theorem Shape.taperEntryEnd : Shape.Statement .taperEntryEnd := shape_of _ trivial
theorem Shape.taperArrival : Shape.Statement .taperArrival := shape_of _ trivial
theorem Shape.taperFreeSlotCount : Shape.Statement .taperFreeSlotCount := shape_of _ trivial
theorem Shape.demandChange : Shape.Statement .demandChange := shape_of _ trivial
theorem Shape.powerBorrowRequest : Shape.Statement .powerBorrowRequest := shape_of _ trivial
theorem Shape.powerLend : Shape.Statement .powerLend := shape_of _ trivial
theorem Shape.powerRepay : Shape.Statement .powerRepay := shape_of _ trivial
theorem Shape.powerRecall : Shape.Statement .powerRecall := shape_of _ trivial
theorem Shape.launchTailWrite : Shape.Statement .launchTailWrite := shape_of _ trivial
theorem Shape.launchEntryTake : Shape.Statement .launchEntryTake := shape_of _ trivial
theorem Shape.attestationRequest : Shape.Statement .attestationRequest := shape_of _ trivial
theorem Shape.attestationAnswer : Shape.Statement .attestationAnswer := shape_of _ trivial
theorem Shape.hostRegisterWrite : Shape.Statement .hostRegisterWrite := shape_of _ trivial
theorem Shape.dieReset : Shape.Statement .dieReset := shape_of _ trivial
theorem Shape.flitAuthFail : Shape.Statement .flitAuthFail := shape_of _ trivial
theorem Shape.illegalInstruction : Shape.Statement .illegalInstruction := shape_of _ trivial
theorem Shape.instructionCacheMissFill : Shape.Statement .instructionCacheMissFill := shape_of _ trivial
theorem Shape.matrixOperationRetire : Shape.Statement .matrixOperationRetire := shape_of _ trivial
theorem Shape.hostLinkTrained : Shape.Statement .hostLinkTrained := shape_of _ trivial

end Sys2Proof.Laws
end

