-- ==== Sys2Proof/Machine/Assembler.lean ====
section
/-!
DEFINITION. The assembly language (spec 03_encoding.md, R55 to R58) and the assembler's directives (04_objects.md, R73
to R79): from source lines to a Gnonik object. An assembler is a program, not a step of the machine; this is the
function that the rules have it compute. `none` is a rejected source.
-/

namespace Sys2Proof.Asm

open Sys2Proof.Machine Sys2Proof.Gnonik

/-- Source text. -/
abbrev Str := List Char

/-! ### Lexing (R55) -/

def isSpace (c : Char) : Bool := decide (c = ' ' ∨ c = '\t')
def isLetter (c : Char) : Bool := decide (('a' ≤ c ∧ c ≤ 'z') ∨ ('A' ≤ c ∧ c ≤ 'Z'))
def isDigit (c : Char) : Bool := decide ('0' ≤ c ∧ c ≤ '9')
/-- A name continues with letters, digits, underscores and dots. -/
def isNameChar (c : Char) : Bool := isLetter c || isDigit c || decide (c = '_' ∨ c = '.')

def trimL (s : Str) : Str := s.dropWhile isSpace
def trim (s : Str) : Str := (trimL (trimL s).reverse).reverse

/-- A line without its comment: text from `;` outside quotes on is dropped. -/
def dropComment (inq : Bool) : Str → Str
  | [] => []
  | c :: t =>
    if c = ';' ∧ inq = false then []
    else c :: dropComment (if c = '"' then !inq else inq) t

/-- Cut at the commas outside quotes. -/
def splitCommas (inq : Bool) (cur : Str) : Str → List Str
  | [] => [cur.reverse]
  | c :: t =>
    if c = ',' ∧ inq = false then cur.reverse :: splitCommas false [] t
    else splitCommas (if c = '"' then !inq else inq) (c :: cur) t

/-- The operands of a line's tail: none of blank text. -/
def operands (s : Str) : List Str :=
  let t := trim s
  if t.isEmpty then [] else (splitCommas false [] t).map trim

/-- Cut at dots. -/
def splitDots (cur : Str) : Str → List Str
  | [] => [cur.reverse]
  | c :: t => if c = '.' then cur.reverse :: splitDots [] t else splitDots (c :: cur) t

/-- A text that has the form of a name. -/
def nameForm : Str → Bool
  | [] => false
  | c :: t => (isLetter c || decide (c = '_')) && t.all isNameChar

/-- The number of a word in a list of words. -/
def indexOf (w : Str) : List String → Option Nat
  | [] => none
  | x :: t => if x.toList = w then some 0 else (indexOf w t).map (· + 1)

/-- The digits of a number in a base, with underscores between them. -/
def digits (base : Nat) : Option Nat → Str → Option Nat
  | acc, [] => acc
  | acc, c :: t =>
    let d := if isDigit c then c.toNat - '0'.toNat
      else if 'a' ≤ c ∧ c ≤ 'f' then c.toNat - 'a'.toNat + 10
      else if 'A' ≤ c ∧ c ≤ 'F' then c.toNat - 'A'.toNat + 10 else 99
    if c = '_' ∧ acc.isSome then digits base acc t
    else if d < base then digits base (some (acc.getD 0 * base + d)) t else none

/-- An unsigned integer: decimal, 0x hexadecimal or 0b binary (R57). -/
def number : Str → Option Nat
  | '0' :: 'x' :: t => digits 16 none t
  | '0' :: 'b' :: t => digits 2 none t
  | t => digits 10 none t

/-- A value with a decimal point or an exponent as an exact value (R57). -/
def floating (s : Str) : Option FV :=
  let neg := decide (s.head? = some '-')
  let t := if neg then s.drop 1 else s
  let m := t.takeWhile (fun c => decide (c ≠ 'e'))
  let e := t.drop (m.length + 1)
  let ip := m.takeWhile (fun c => decide (c ≠ '.'))
  let fp := m.drop (ip.length + 1)
  let eneg := decide (e.head? = some '-')
  let ed := if eneg ∨ e.head? = some '+' then e.drop 1 else e
  if t.head? = some '0' ∧ (t.drop 1).head? = some 'x' then none
  else if m.length = ip.length ∧ t.length = m.length then none
  else if ip.isEmpty ∧ fp.isEmpty then none
  else
    let part := fun (d : Str) => if d.isEmpty then some 0 else digits 10 none d
    match part ip, part fp, (if m.length = t.length then some 0 else digits 10 none ed) with
    | some a, some b, some x =>
      let n := a * 10 ^ fp.length + b
      if eneg then some (.fin neg n (10 ^ (fp.length + x))) else some (.fin neg (n * 10 ^ x) (10 ^ fp.length))
    | _, _, _ => none

/-! ### Names that labels may not spell (R55) -/

/-- The registers of 5-bit fields beyond g and h (Table 3.2). -/
def ports : List String := ["mq", "mqp", "qn", "qe", "qs", "qw"]
/-- The scope names (Table 3.6). -/
def scopes : List String :=
  ["self", "core", "clus", "die", "dev", "peer", "pod", "host", "sys", "eng", "lant", "walk"]
/-- The lane types (Table 7.1). -/
def laneTypes : List String := ["fp32", "bf16", "fp8", "fp4", "i32", "i16", "i8"]

/-- A register of a class: its letter and its number, below a bound. -/
def regOf (letter : Char) (bound : Nat) (s : Str) : Option Nat :=
  match s with
  | c :: t =>
    if c = letter ∧ t.all isDigit ∧ (t.head? ≠ some '0' ∨ t.length = 1) then
      match digits 10 none t with
      | some n => if n < bound then some n else none
      | none => none
    else none
  | [] => none

/-- A register of a 5-bit field (Table 3.2). -/
def reg5 (s : Str) : Option Nat :=
  match regOf 'g' 16 s with
  | some n => some n
  | none =>
    match regOf 'h' 8 s with
    | some n => some (16 + n)
    | none => (indexOf s ports).map (24 + ·)

/-- A text that spells a register of Tables 3.1 and 3.2. DESIGN CHOICE (log 99): the names of special registers (Table 6.4)
are none, so a label may spell one. -/
def isRegister (s : Str) : Bool :=
  (reg5 s).isSome || (regOf 'p' 16 s).isSome || (regOf 'v' 16 s).isSome || (regOf 'c' 8 s).isSome ||
    (regOf 't' 8 s).isSome || (regOf 'a' 4 s).isSome || (regOf 'z' 2 s).isSome

/-! ### Mnemonics (R49, Tables 3.4 and 3.5) -/

/-- The formats of Table 3.1. -/
inductive Fmt where
  | a | i | b | s | v | k | m | e
  deriving DecidableEq, Repr

/-- A field of a format: its name, lowest bit and width. -/
structure Field where
  name : String
  lo : Nat
  width : Nat
  deriving DecidableEq, Repr

/-- The fields of a format (Table 3.1). -/
def fieldsOf : Fmt → List Field
  | .a => [⟨"op", 25, 7⟩, ⟨"dst", 20, 5⟩, ⟨"sa", 15, 5⟩, ⟨"sb", 10, 5⟩, ⟨"pg", 6, 4⟩, ⟨"fn", 0, 6⟩]
  | .i => [⟨"op", 25, 7⟩, ⟨"dst", 20, 5⟩, ⟨"sa", 15, 5⟩, ⟨"imm", 0, 15⟩]
  | .b => [⟨"op", 25, 7⟩, ⟨"pg", 21, 4⟩, ⟨"lk", 20, 1⟩, ⟨"off", 0, 20⟩]
  | .s => [⟨"op", 25, 7⟩, ⟨"dst", 20, 5⟩, ⟨"sa", 15, 5⟩, ⟨"sel", 4, 11⟩, ⟨"pg", 0, 4⟩]
  | .v => [⟨"op", 25, 7⟩, ⟨"vd", 21, 4⟩, ⟨"va", 17, 4⟩, ⟨"vb", 13, 4⟩, ⟨"pg", 9, 4⟩, ⟨"vt", 6, 3⟩, ⟨"vfn", 0, 6⟩]
  | .k => [⟨"op", 25, 7⟩, ⟨"kd", 22, 3⟩, ⟨"ka", 19, 3⟩, ⟨"kb", 16, 3⟩, ⟨"pg", 12, 4⟩, ⟨"md", 8, 4⟩, ⟨"kfn", 0, 8⟩]
  | .m => [⟨"op", 25, 7⟩, ⟨"ad", 23, 2⟩, ⟨"ta", 20, 3⟩, ⟨"tb", 17, 3⟩, ⟨"pg", 13, 4⟩, ⟨"mfn", 8, 5⟩, ⟨"mx", 0, 8⟩]
  | .e => [⟨"op", 25, 7⟩, ⟨"tok", 20, 5⟩, ⟨"sa", 15, 5⟩, ⟨"eq", 10, 5⟩, ⟨"pg", 6, 4⟩, ⟨"efn", 0, 6⟩]

/-- What an operand is written as. -/
inductive Pos where
  /-- a register of a 5-bit field, or an even predicate, or a 5-bit register or an immediate -/
  | dst | pair | src
  /-- the immediate of format I, and the count of its shifts -/
  | imm | count
  | target
  | num
  /-- a register of the class of a letter, below a bound -/
  | cls (letter : Char) (bound : Nat)
  | type
  deriving DecidableEq, Repr

/-- How an instruction reads an immediate operand (R57). -/
inductive ReadAs where
  | int | f32 | f64
  deriving DecidableEq, Repr

/-- What a mnemonic sets: the format, the fields with their values, the operands by field, and how immediates are
read. -/
structure Mnem where
  fmt : Fmt
  set : List (String × Nat)
  ops : List (String × Pos)
  read : ReadAs := .int
  deriving DecidableEq, Repr

/-- Format A with operands dst, sa, sb. -/
def mA (op fn : Nat) : Mnem := ⟨.a, [("op", op), ("fn", fn)], [("dst", .dst), ("sa", .src), ("sb", .src)], .int⟩
/-- Format V with operands of given classes. -/
def mV (op fn t : Nat) (a b : Pos) : Mnem :=
  ⟨.v, [("op", op), ("vfn", fn), ("vt", t)], [("vd", .cls 'v' 16), ("va", a), ("vb", b)], .int⟩
/-- Format K with operands of given classes. -/
def mK (op fn : Nat) (d a b : Pos) : Mnem := ⟨.k, [("op", op), ("kfn", fn)], [("kd", d), ("ka", a), ("kb", b)], .int⟩

def aluNames : List String :=
  ["add", "sub", "mul", "mulh", "mulhz", "div", "divz", "rem", "remz", "and", "or", "xor", "andn", "shl", "shr", "sra",
    "min", "max", "minz", "maxz", "adds", "subs", "clz", "ctz", "popc"]
def aluiNames : List String := ["add", "and", "or", "xor", "shl", "shr", "sra", "mul"]
def fpuNames : List String :=
  ["add", "sub", "mul", "div", "sqrt", "fma", "fms", "min", "max", "abs", "neg", "cvti", "cvtf", "cvtw", "cvtb",
    "cvt8"]
def rmNames : List String := ["rne", "rtz", "rup", "rdn"]
def condNames : List String := ["eq", "ne", "lt", "ge", "lo", "hs", "un"]
def movNames : List String := ["cp", "rdp", "wrp", "sxb", "sxh", "sxw", "zxb", "zxh", "zxw"]
def wkNames : List String := ["spawn", "migr", "waitw", "susp", "done", "snuff", "launch", "prio"]
def amoNames : List String :=
  ["add", "and", "or", "xor", "min", "max", "minz", "maxz", "swap", "cas", "fadd"]
def vecNames : List String :=
  ["add", "sub", "mul", "fma", "min", "max", "abs", "neg", "and", "or", "xor", "shl", "shr", "sra", "sel", "shuf",
    "bcast", "rsum", "rmax", "rmin", "cvt", "scale", "ceq", "clt"]
def cxNames : List String := ["load", "bind", "rebind", "gen", "drop"]
def ckNames : List String :=
  ["dx", "star", "istar", "codif", "wedge", "interp", "cvt", "anch", "axpy", "dot", "hpack", "hunp"]
def mxNames : List String := ["mma", "mmaz0", "mmaz1", "clr", "st", "ld"]

/-- The groups of format A whose functions are one word (Table 3.5). -/
def plainGroups : List (String × Nat × List String) :=
  [("alu", 1, aluNames), ("mov", 4, movNames), ("jmp", 17, ["jr", "jl"]), ("wk", 18, wkNames),
    ("mon", 28, ["arm", "dis", "wait", "clr"]),
    ("vg", 49, ["init", "join", "leave", "arr", "wait", "arrw", "brk", "stat"]),
    ("trap", 50, ["sw", "ret", "brk", "msk"]), ("tlb", 51, ["fill", "invr", "inva", "prb"]),
    ("fab", 52, ["conn", "close", "slot", "stat", "gnt"]), ("lan", 53, ["inst", "drop", "stat", "dflt"]),
    ("tap", 54, ["load", "go", "halt", "stat", "head"])]

/-- The function code of a load's or store's width: `b`, `h`, `w`, `d`, with `x` for sign extension (Table 3.5). -/
def widthCode (isLoad : Bool) (s : Str) : Option Nat :=
  match indexOf s ["b", "h", "w", "d"] with
  | some n => some (2 * n)
  | none => if isLoad then (indexOf s ["bx", "hx", "wx"]).map (fun n => 8 + 2 * n) else none

/-- The code of width w or d (acquire, release, atomic). -/
def wOrD (s : Str) : Option Nat := indexOf s ["w", "d"]

/-- fpu and fpd: the function, the rounding code, and how operands are read (R57, Table 6.8). -/
def fpMnem (dbl : Bool) (f rm : Str) : Option Mnem :=
  match indexOf f fpuNames, indexOf rm rmNames with
  | some n, some r =>
    if 7 ≤ n ∧ n ≤ 10 ∧ r ≠ 0 then none
    else
      let rd := if n = 12 then ReadAs.int else if decide (n = 13) != dbl then .f64 else .f32
      some { mA (if dbl then 6 else 2) (4 * n + r) with read := rd }
  | _, _ => none

/-- cmp: the condition and the type (Table 3.5). -/
def cmpMnem (c t : Str) : Option Mnem :=
  match indexOf c condNames, indexOf t ["i", "s", "d"] with
  | some n, some ty =>
    if (n = 4 ∨ n = 5) ∧ ty ≠ 0 then none
    else if n = 6 ∧ ty = 0 then none
    else
      some ⟨.a, [("op", 3), ("fn", 8 * n + ty)], [("dst", .pair), ("sa", .src), ("sb", .src)],
        if ty = 0 then .int else if ty = 1 then .f32 else .f64⟩
  | _, _ => none

/-- The operand classes of a vec function (Table 7.2, R140). -/
def vecMnem (f t : Str) : Option Mnem :=
  match indexOf f vecNames, indexOf t laneTypes with
  | some n, some ty =>
    if 8 ≤ n ∧ n ≤ 13 ∧ ty < 4 then none
    else if n = 21 ∧ ty ≠ 2 ∧ ty ≠ 3 then none
    else some (mV 32 n ty (.cls 'v' 16) (if n = 20 then .type else .cls 'v' 16))
  | _, _ => none

/-- The classes of the cx operands (Table 16.5). -/
def cxMnem (n : Nat) : Mnem :=
  let g := Pos.cls 'g' 8
  let c := Pos.cls 'c' 8
  match n with
  | 0 => mK 64 0 g g g
  | 1 => mK 64 1 c g g
  | 2 => mK 64 2 c c c
  | 3 => mK 64 3 g c c
  | _ => mK 64 4 g g g

/-- A mnemonic in its parts (Table 3.5). -/
def mnemOfParts (parts : List Str) : Option Mnem :=
  let is := fun (s : Str) (w : String) => decide (s = w.toList)
  match parts with
  | [g] => if is g "br" then some ⟨.b, [("op", 16)], [("off", .target)], .int⟩ else none
  | [g, f] =>
    match plainGroups.find? (fun x => is g x.1) with
    | some x => (indexOf f x.2.2).map (mA x.2.1)
    | none =>
      if is g "alui" then
        (indexOf f aluiNames).map (fun n =>
          ⟨.i, [("op", 8 + n)], [("dst", .dst), ("sa", .src), ("imm", if 4 ≤ n ∧ n ≤ 6 then .count else .imm)], .int⟩)
      else if is g "fpu" then fpMnem false f "rne".toList
      else if is g "fpd" then fpMnem true f "rne".toList
      else if is g "sys" ∧ is f "rw" then
        some ⟨.s, [("op", 5)], [("dst", .dst), ("sa", .src), ("sel", .num)], .int⟩
      else if is g "ld" then (widthCode true f).map (mA 24)
      else if is g "st" then (widthCode false f).map (mA 25)
      else if is g "enq" then
        (indexOf f ["wt", "try"]).map (fun n =>
          ⟨.e, [("op", 48), ("efn", n)], [("tok", .cls 'g' 16), ("sa", .src), ("eq", .num)], .int⟩)
      else if is g "cx" then (indexOf f cxNames).map cxMnem
      else if is g "ck" then
        (indexOf f ckNames).map (fun n => mK 65 n (.cls 'c' 8) (.cls 'c' 8) (.cls 'c' 8))
      else if is g "mx" then
        (indexOf f mxNames).map (fun n =>
          ⟨.m, [("op", 80), ("mfn", n)], [("ad", .cls 'a' 4), ("ta", .cls 't' 8), ("tb", .cls 't' 8)], .int⟩)
      else none
  | [g, f, t] =>
    if is g "fpu" then fpMnem false f t
    else if is g "fpd" then fpMnem true f t
    else if is g "cmp" then cmpMnem f t
    else if is g "ld" ∧ is t "r" then (widthCode true f).map (fun n => mA 24 (16 + n))
    else if is g "st" ∧ is t "r" then (widthCode false f).map (fun n => mA 25 (16 + n))
    else if is g "amo" then
      match indexOf f amoNames, wOrD t with
      | some n, some d => some (mA 26 (4 * n + 2 * d))
      | _, _ => none
    else if is g "fence" then
      match indexOf f ["all", "st", "ld"], indexOf t scopes with
      | some n, some sc => some (mA 27 (16 * n + sc))
      | _, _ => none
    else if is g "vec" then vecMnem f t
    else if is g "vld" ∨ is g "vst" then
      match indexOf f ["c", "s"], indexOf t laneTypes with
      | some n, some ty => some (mV (if is g "vld" then 33 else 34) n ty (.cls 'g' 16) (.cls 'g' 16))
      | _, _ => none
    else if is g "vgth" then
      match indexOf f ["g", "gt"], indexOf t laneTypes with
      | some n, some ty => if ty = 0 ∨ ty = 4 then some (mV 35 n ty (.cls 'g' 16) (.cls 'v' 16)) else none
      | _, _ => none
    else none
  | [g, f, t, u] =>
    if is g "ld" ∧ is f "acq" then
      match wOrD t, indexOf u scopes with
      | some d, some sc => some (mA 24 (32 + 16 * d + sc))
      | _, _ => none
    else if is g "st" ∧ is f "rel" then
      match wOrD t, indexOf u scopes with
      | some d, some sc => some (mA 25 (32 + 16 * d + sc))
      | _, _ => none
    else if is g "amo" ∧ is u "r" then
      match indexOf f amoNames, wOrD t with
      | some n, some d => some (mA 26 (4 * n + 2 * d + 1))
      | _, _ => none
    else if (is g "vld" ∨ is g "vst") ∧ is t "r" then
      match indexOf f ["c", "s"], indexOf u laneTypes with
      | some n, some ty => some (mV (if is g "vld" then 33 else 34) (2 + n) ty (.cls 'g' 16) (.cls 'g' 16))
      | _, _ => none
    else none
  | _ => none

/-- The canonical mnemonics. -/
def mnem (s : Str) : Option Mnem := mnemOfParts (splitDots [] s)

/-- The short spellings of Table 3.10, `ld.acq` and `st.rel` with a scope apart. -/
def shortNames : List String :=
  ["nop", "add", "sub", "mul", "and", "or", "xor", "shl", "shr", "sra", "min", "max", "mov", "li", "b", "call", "ret",
    "ld", "st", "ld.r", "st.r", "rdsys", "wrsys", "cdx", "mma", "enq"]

/-- `ld.acq.S` or `st.rel.S` (Table 3.10). -/
def shortScope (s : Str) : Option (String × Str) :=
  match splitDots [] s with
  | [g, f, t] =>
    if (indexOf t scopes).isNone then none
    else if g = "ld".toList ∧ f = "acq".toList then some ("ld.acq.d.", t)
    else if g = "st".toList ∧ f = "rel".toList then some ("st.rel.d.", t)
    else none
  | _ => none

/-- A text that spells a mnemonic, canonical or short. DESIGN CHOICE (log 99): the name of a major opcode alone (Table 3.4)
is none, so a label may spell one. -/
def isMnemonic (s : Str) : Bool := (mnem s).isSome || (indexOf s shortNames).isSome || (shortScope s).isSome

/-- A name that a label or symbol may have (R55). -/
def labelOk (s : Str) : Bool :=
  nameForm s && !isRegister s && (indexOf s scopes).isNone && !isMnemonic s

/-! ### Symbols and expressions (R74) -/

/-- Where a symbol stands. -/
inductive Loc where
  | abs (z : Int)
  | within (sec off : Nat)
  deriving DecidableEq, Repr

/-- A symbol that the source defines. -/
structure Sym where
  name : Str
  loc : Loc
  skind : Nat
  size : Nat := 0
  deriving DecidableEq, Repr

/-- A value: an integer, or a symbol plus an integer. -/
inductive Val where
  | int (z : Int)
  | sym (name : Str) (add : Int)
  deriving DecidableEq, Repr

/-- The definition of a name, if any. -/
def lookup (syms : List Sym) (name : Str) : Option Sym := syms.find? (fun y => decide (y.name = name))

/-- The signed terms of an expression. -/
def terms (neg : Bool) (cur : Str) : Str → List (Bool × Str)
  | [] => [(neg, trim cur.reverse)]
  | c :: t =>
    if (c = '+' ∨ c = '-') ∧ (trim cur.reverse).isEmpty = false then
      (neg, trim cur.reverse) :: terms (decide (c = '-')) [] t
    else if c = '-' then terms (!neg) [] t
    else terms neg (c :: cur) t

/-- Remove a label of a section from a list of labels: its offset and the others. -/
def takeLabel (sec : Nat) : List (Str × Nat × Nat) → Option (Nat × List (Str × Nat × Nat))
  | [] => none
  | x :: t => if x.2.1 = sec then some (x.2.2, t) else (takeLabel sec t).map (fun r => (r.1, x :: r.2))

/-- What the terms of an expression add up to: an integer, the labels added, and the undefined names added. -/
structure Sum where
  z : Int := 0
  labels : List (Str × Nat × Nat) := []
  minus : List (Nat × Nat) := []
  undef : List Str := []

/-- One term. -/
def addTerm (syms : List Sym) (r : Option Sum) (t : Bool × Str) : Option Sum :=
  match r with
  | none => none
  | some s =>
    match number t.2 with
    | some n => some { s with z := if t.1 then s.z - n else s.z + n }
    | none =>
      if labelOk t.2 = false then none
      else
        match lookup syms t.2 with
        | some ⟨_, .abs z, _, _⟩ => some { s with z := if t.1 then s.z - z else s.z + z }
        | some ⟨_, .within k o, _, _⟩ =>
          some (if t.1 then { s with minus := (k, o) :: s.minus } else { s with labels := (t.2, k, o) :: s.labels })
        | none => if t.1 then none else some { s with undef := t.2 :: s.undef }

/-- Cancel the labels subtracted against labels of the same section (R74). -/
def cancel : List (Nat × Nat) → List (Str × Nat × Nat) → Int → Option (Int × List (Str × Nat × Nat))
  | [], ls, z => some (z, ls)
  | (k, o) :: t, ls, z =>
    match takeLabel k ls with
    | some (p, rest) => cancel t rest (z + p - o)
    | none => none

/-- The value of an expression; none where R74 rejects it. -/
def eval (syms : List Sym) (e : Str) : Option Val :=
  match (terms false [] e).foldl (addTerm syms) (some {}) with
  | none => none
  | some s =>
    match cancel s.minus s.labels s.z with
    | some (z, []) =>
      match s.undef with
      | [] => some (.int z)
      | [n] => some (.sym n z)
      | _ => none
    | some (z, [l]) => if s.undef.isEmpty then some (.sym l.1 z) else none
    | _ => none

/-! ### One instruction (R56 to R58, R73) -/

/-- A relocation asked for: its place, its type, and the symbol or the absolute value it is against. -/
structure Want where
  off : Nat
  rtype : Nat
  val : Val
  deriving DecidableEq, Repr

/-- An operand's code and what follows the word: literal words, and a relocation. -/
structure Coded where
  code : Nat
  lits : List Nat := []
  want : List Want := []
  deriving DecidableEq, Repr

/-- An integer pattern of 64 bits, for a value that fits one read either way. -/
def pattern (z : Int) : Option Nat := if -2 ^ 63 ≤ z ∧ z < 2 ^ 64 then some (z % 2 ^ 64).toNat else none
/-- A pattern is the sign extension of its low bits. -/
def fitsSigned (v w : Nat) : Bool := decide (-2 ^ (w - 1) ≤ signed64 v ∧ signed64 v < 2 ^ (w - 1))

/-- The parts of an immediate: the width it forces, and the value. -/
def immParts (s : Str) : Option (Option Nat × Str) :=
  match s with
  | '#' :: ':' :: '3' :: '2' :: t => some (some 32, trim t)
  | '#' :: ':' :: '6' :: '4' :: t => some (some 64, trim t)
  | '#' :: t => some (none, trim t)
  | _ => none

/-- A literal of 32 or 64 bits (Table 3.2). -/
def lit32 (v : Nat) : Coded := { code := 30, lits := [v % 2 ^ 32] }
def lit64 (v : Nat) : Coded := { code := 31, lits := [v % 2 ^ 32, v / 2 ^ 32 % 2 ^ 32] }

/-- A literal for a pattern, in the forced width or the smallest that holds it (R57). -/
def litOf (read : ReadAs) (force : Option Nat) (v : Nat) : Option Coded :=
  let ok32 := if read = .f32 then decide (v < 2 ^ 32) || fitsSigned v 32 else fitsSigned v 32
  match force with
  | some 32 => if ok32 then some (lit32 v) else none
  | some _ => some (lit64 v)
  | none => if ok32 then some (lit32 v) else if read = .f32 then none else some (lit64 v)

/-- An immediate operand (R57, R73): a floating value must be exact in the format read; a symbol takes a relocation.
DESIGN CHOICE (log 96): a symbol of a section without flag a takes the same literals; R73 speaks only of sections with
it. -/
def immCode (syms : List Sym) (read : ReadAs) (s : Str) : Option Coded :=
  match immParts s with
  | none => none
  | some (force, t) =>
    match floating t with
    | some x =>
      let r := match read with
        | .int => none
        | .f32 => some (fp32.round .rne x)
        | .f64 => some (fp64.round .rne x)
      match r with
      | some (b, fl) => if fl = 0 then litOf read force b else none
      | none => none
    | none =>
      match eval syms t with
      | some (.int z) => (pattern z).bind (litOf read force)
      | some (.sym n z) =>
        if force = some 32 then some { code := 30, lits := [0], want := [⟨4, 3, .sym n z⟩] }
        else some { code := 31, lits := [0, 0], want := [⟨4, 4, .sym n z⟩] }
      | none => none

/-- A plain number or absolute expression. -/
def intOf (syms : List Sym) (s : Str) : Option Int :=
  match eval syms s with
  | some (.int z) => some z
  | _ => none

/-- One operand (R56, R57): `pos` is the place of the instruction. -/
def operand (syms : List Sym) (read : ReadAs) (here : Nat × Nat) (p : Pos) (s : Str) : Option Coded :=
  match p with
  | .dst => (reg5 s).map (fun n => { code := n })
  | .pair =>
    match regOf 'p' 16 s with
    | some n => if n % 2 = 0 then some { code := n } else none
    | none => none
  | .src =>
    match reg5 s with
    | some n => some { code := n }
    | none => immCode syms read s
  | .imm =>
    match immParts s with
    | some (none, t) =>
      match eval syms t with
      | some (.int z) => if -2 ^ 14 ≤ z ∧ z < 2 ^ 14 then some { code := (z % 2 ^ 15).toNat } else none
      | some (.sym n z) => some { code := 0, want := [⟨0, 6, .sym n z⟩] }
      | none => none
    | _ => none
  | .count =>
    match immParts s with
    | some (none, t) =>
      match eval syms t with
      | some (.int z) => if 0 ≤ z ∧ z < 64 then some { code := z.toNat } else none
      | some (.sym n z) => some { code := 0, want := [⟨0, 6, .sym n z⟩] }
      | none => none
    | _ => none
  | .target =>
    match eval syms s with
    | some (.int z) => some { code := 0, want := [⟨0, 5, .int z⟩] }
    | some (.sym n z) =>
      match lookup syms n with
      | some ⟨_, .within k o, _, _⟩ =>
        if k = here.1 then
          let d := (o : Int) + z - here.2
          if d % 4 = 0 ∧ -2 ^ 21 ≤ d ∧ d < 2 ^ 21 then some { code := (d / 4 % 2 ^ 20).toNat } else none
        else some { code := 0, want := [⟨0, 5, .sym n z⟩] }
      | _ => some { code := 0, want := [⟨0, 5, .sym n z⟩] }
    | none => none
  | .num =>
    match intOf syms s with
    | some z => if 0 ≤ z then some { code := z.toNat } else none
    | none => none
  | .cls c b => (regOf c b s).map (fun n => { code := n })
  | .type => (indexOf s laneTypes).map (fun n => { code := n })

/-- `name=value` among operands. -/
def optionOf (s : Str) : Option (Str × Str) :=
  let n := s.takeWhile isNameChar
  if n.isEmpty ∨ s.head? = some '#' then none
  else
    match trimL (s.drop n.length) with
    | '=' :: t => some (n, trim t)
    | _ => none

/-- An instruction being built: the fields set so far, literal words, relocations. -/
structure Build where
  set : List (String × Nat)
  lits : List Nat := []
  want : List Want := []
  deriving DecidableEq, Repr

/-- Set a field that nothing has set yet to a value that fits it; a second literal has no place (R42). -/
def Build.put (f : Fmt) (name : String) (c : Coded) (b : Build) : Option Build :=
  match (fieldsOf f).find? (fun x => decide (x.name = name)) with
  | none => none
  | some x =>
    if b.set.any (fun y => decide (y.1 = name)) then none
    else if 2 ^ x.width ≤ c.code then none
    else if b.lits ≠ [] ∧ c.lits ≠ [] then none
    else some ⟨(name, c.code) :: b.set, b.lits ++ c.lits, b.want ++ c.want⟩

/-- The operands in the order of Table 3.9. -/
def putOperands (syms : List Sym) (m : Mnem) (here : Nat × Nat) :
    List (String × Pos) → List Str → Build → Option Build
  | _, [], b => some b
  | [], _ :: _, _ => none
  | (n, p) :: ps, s :: ss, b =>
    match operand syms m.read here p s with
    | none => none
    | some c => (b.put m.fmt n c).bind (putOperands syms m here ps ss)

/-- The field of a mnemonic is a shift count (R57). -/
def Mnem.isCount (m : Mnem) (name : String) : Bool := m.ops.any (fun p => decide (p.1 = name ∧ p.2 = .count))

/-- The fields set by name after the operands; a shift count is bounded as one that stands among the operands is (R57).
DESIGN CHOICE (log 100): a negative value fits no field, a signed one included. -/
def putOptions (syms : List Sym) (m : Mnem) : List (Str × Str) → Build → Option Build
  | [], b => some b
  | (n, v) :: t, b =>
    match (fieldsOf m.fmt).find? (fun x => decide (x.name.toList = n)), intOf syms v with
    | some x, some z =>
      if 0 ≤ z ∧ (m.isCount x.name = true → z < 64) then
        (b.put m.fmt x.name { code := z.toNat }).bind (putOptions syms m t)
      else none
    | _, _ => none

/-- The word of an instruction's fields. -/
def Build.word (f : Fmt) (b : Build) : Nat :=
  (fieldsOf f).foldl (fun n x =>
    n + ((b.set.find? (fun y => decide (y.1 = x.name))).map Prod.snd).getD 0 * 2 ^ x.lo) 0

/-- An instruction's words and relocations, from its canonical mnemonic. -/
def canonical (syms : List Sym) (here : Nat × Nat) (guard : Option Nat) (m : Mnem) (ops : List Str)
    (opts : List (Str × Str)) : Option (List Nat × List Want) :=
  let start := match guard with
    | none => some (⟨m.set, [], []⟩ : Build)
    | some g => Build.put m.fmt "pg" { code := g } ⟨m.set, [], []⟩
  match (start.bind (putOperands syms m here m.ops ops)).bind (putOptions syms m opts) with
  | some b => some (b.word m.fmt :: b.lits, b.want)
  | none => none

/-- The integer of an unforced immediate, if it is known. -/
def knownImm (syms : List Sym) (s : Str) : Option Nat :=
  match immParts s with
  | some (none, t) => if (floating t).isSome then none else (intOf syms t).bind pattern
  | _ => none

/-- The integer of an immediate, forced or not, if it is known. -/
def countOf (syms : List Sym) (s : Str) : Option Int := (immParts s).bind (fun p => intOf syms p.2)

/-- The text of an integer immediate. -/
def immText (z : Int) : Str := ("#" ++ toString z).toList

/-- Expand a short spelling to a canonical form (R58, Table 3.10). A shift by a known count takes the `alui` form, which
refuses a count outside 0 to 63; one by a relocatable symbol takes the `alu` form and its literal (R73). DESIGN CHOICE
(log 101): a forced width before a known count in range takes the `alu` form with that literal. -/
def expand (syms : List Sym) (name : Str) (ops : List Str) : Option (Str × List Str × List (Str × Str)) :=
  let l := String.toList
  let three := ["add", "sub", "mul", "and", "or", "xor", "shl", "shr", "sra", "min", "max"]
  match indexOf name three, ops with
  | some _, [d, a, b] =>
    let reg := some (l "alu." ++ name, [d, a, b], [])
    if (immParts b).isNone then reg
    else if name = l "min" ∨ name = l "max" then reg
    else if name = l "shl" ∨ name = l "shr" ∨ name = l "sra" then
      match countOf syms b with
      | none => reg
      | some z =>
        if 0 ≤ z ∧ z < 64 ∧ (knownImm syms b).isNone then reg else some (l "alui." ++ name, [d, a, b], [])
    else
      match knownImm syms b with
      | none => reg
      | some v =>
        if name = l "sub" then
          (if fitsSigned (2 ^ 64 - v) 15 then some (l "alui.add", [d, a, immText (signed64 (2 ^ 64 - v))], []) else reg)
        else if fitsSigned v 15 then some (l "alui." ++ name, [d, a, immText (signed64 v)], [])
        else reg
  | some _, _ => some (l "alu." ++ name, ops, [])
  | none, _ =>
    match shortScope name with
    | some (p, sc) => some (p.toList ++ sc, ops, [])
    | none =>
      if name = l "nop" then some (l "alu.add", [l "g0", l "g0", l "g0"] ++ ops, [])
      else if name = l "mov" then some (l "mov.cp", ops, [])
      else if name = l "li" then
        match ops with
        | [d, v] =>
          match knownImm syms v with
          | some z => if fitsSigned z 15 then some (l "alui.add", [d, l "g0", immText (signed64 z)], []) else some (l "mov.cp", ops, [])
          | none => some (l "mov.cp", ops, [])
        | _ => none
      else if name = l "b" then some (l "br", ops, [])
      else if name = l "call" then some (l "br", ops, [(l "lk", l "1")])
      else if name = l "ret" then some (l "jmp.jr", [l "g0", l "g15"] ++ ops, [])
      else if name = l "ld" then some (l "ld.d", ops, [])
      else if name = l "st" then some (l "st.d", ops, [])
      else if name = l "ld.r" then some (l "ld.d.r", ops, [])
      else if name = l "st.r" then some (l "st.d.r", ops, [])
      else if name = l "rdsys" then
        match ops with
        | [d, sel] => some (l "sys.rw", [d, l "g0", sel], [])
        | _ => none
      else if name = l "wrsys" then
        match ops with
        | [sel, a] => some (l "sys.rw", [l "g0", a, sel], [])
        | _ => none
      else if name = l "cdx" then some (l "ck.dx", ops, [])
      else if name = l "mma" then some (l "mx.mma", ops, [(l "mx", l "0xC0")])
      else if name = l "enq" then some (l "enq.wt", ops, [])
      else none

/-- An instruction line: guard, mnemonic, operands with options after them. -/
def instruction (syms : List Sym) (here : Nat × Nat) (guard : Option Nat) (name : Str) (tail : List Str) :
    Option (List Nat × List Want) :=
  let ops := tail.takeWhile (fun s => (optionOf s).isNone)
  match (tail.drop ops.length).mapM optionOf with
  | none => none
  | some opts =>
    match mnem name with
    | some m => canonical syms here guard m ops opts
    | none =>
      match expand syms name ops with
      | some (n, os, more) => (mnem n).bind (fun m => canonical syms here guard m os (more ++ opts))
      | none => none

/-! ### Sections and directives (R76 to R79, Table 4.12) -/

/-- A section being assembled: the offsets of its instructions stand beside its bytes. -/
structure Sec where
  name : Str
  type : Nat
  flags : Nat
  align : Nat
  bytes : List Byte := []
  want : List Want := []
  code : List Nat := []
  deriving DecidableEq, Repr, Inhabited

/-- An open payload: its name, its section type, the offset of its first byte, and the section to return to. -/
structure Payload where
  name : Str
  type : Nat
  start : Nat
  back : Nat
  deriving DecidableEq, Repr

/-- The assembler's state in one pass: `prev` are the symbols of the pass before, for forward references, `sizes` the
sizes that `.size` gives, and `last` says that every line must now be accepted. -/
structure Pass where
  secs : List Sec := []
  cur : Nat := 0
  syms : List Sym := []
  binds : List (Str × Nat) := []
  sizes : List (Str × Nat) := []
  pay : Option Payload := none
  prev : List Sym := []
  last : Bool := false
  deriving DecidableEq, Repr

/-- The symbols known at a point. -/
def Pass.known (p : Pass) : List Sym := p.syms ++ p.prev
/-- The current section. -/
def Pass.sec (p : Pass) : Sec := p.secs.getD p.cur default
/-- The offset that comes next in the current section. -/
def Pass.off (p : Pass) : Nat := p.sec.bytes.length
/-- Change the current section. -/
def Pass.onSec (p : Pass) (f : Sec → Sec) : Pass := { p with secs := p.secs.set p.cur (f p.sec) }
/-- Append bytes. -/
def Pass.emit (p : Pass) (bs : List Byte) : Pass := p.onSec (fun s => { s with bytes := s.bytes ++ bs })
/-- Define a symbol once. -/
def Pass.define (p : Pass) (y : Sym) : Option Pass :=
  if labelOk y.name = false ∨ (lookup p.syms y.name).isSome then none else some { p with syms := p.syms ++ [y] }

/-- An integer that a directive needs. -/
def Pass.int (p : Pass) (s : Str) : Option Int := intOf p.known s

/-- The section types that source may name (Table 4.3). -/
def typeNames : List String :=
  ["null", "code", "data", "zero", "wickent", "complex", "lantern", "taper", "slots", "fmttab", "shape", "note"]

/-- Flag letters of a section (Table 4.4). -/
def flagBits : Str → Option Nat
  | [] => some 0
  | c :: t =>
    match indexOf [c] ["a", "w", "x", "t"], flagBits t with
    | some n, some r => if bits r n 1 = 1 then none else some (r + 2 ^ n)
    | _, _ => none

/-- Make a section current, creating it with align 2 for code and tolerant sections and 0 for others; a later use
gives the same type and flags (R76). -/
def Pass.enter (p : Pass) (name : Str) (type flags : Nat) : Option Pass :=
  match p.secs.findIdx? (fun s => decide (s.name = name)) with
  | some k =>
    let s := p.secs.getD k default
    if s.type = type ∧ s.flags = flags then some { p with cur := k } else none
  | none =>
    if type = 0 then none
    else
      let al := if type = 1 ∨ bits flags 3 1 = 1 then 2 else 0
      some { p with secs := p.secs ++ [{ name := name, type := type, flags := flags, align := al }], cur := p.secs.length }

/-- Pad the current section to a multiple of 2^n and raise its align (R76). -/
def Pass.alignTo (p : Pass) (n : Nat) : Pass :=
  (p.emit (List.replicate ((2 ^ n - p.off % 2 ^ n) % 2 ^ n) 0)).onSec (fun s => { s with align := max s.align n })

/-- One integer or relocatable expression of `n` bytes (R77): `.dword` and `.word` take relocations. -/
def Pass.data (n : Nat) (p : Pass) (e : Str) : Option Pass :=
  match eval p.known e with
  | some (.int z) =>
    if -2 ^ (8 * n - 1) ≤ z ∧ z < 2 ^ (8 * n) then some (p.emit (natLe (z % 2 ^ (8 * n)).toNat n)) else none
  | some (.sym s z) =>
    if n = 8 ∨ n = 4 then
      some ((p.onSec (fun x => { x with want := x.want ++ [⟨p.off, if n = 8 then 1 else 2, .sym s z⟩] })).emit
        (List.replicate n 0))
    else none
  | none => none

/-- `.rel32`: four bytes with a rel32 relocation. -/
def Pass.rel32 (p : Pass) (e : Str) : Option Pass :=
  (eval p.known e).map (fun v =>
    (p.onSec (fun x => { x with want := x.want ++ [⟨p.off, 7, v⟩] })).emit (List.replicate 4 0))

/-- A floating value of a data directive: a floating or whole number, `inf` or `nan`. -/
def floatValue (s : Str) : Option FV :=
  let neg := decide (s.head? = some '-')
  let t := if neg then s.drop 1 else s
  if t = "inf".toList then some (.inf neg)
  else if t = "nan".toList then some .nan
  else
    match floating s with
    | some x => some x
    | none => (number t).map (fun n => .fin neg n 1)

/-- One floating value, rounded RNE (R77); `.fp8` takes neither `inf` nor `nan`. -/
def Pass.float (f : FFmt) (p : Pass) (e : Str) : Option Pass :=
  match floatValue e with
  | some (.fin ng n d) => some (p.emit (natLe (f.round .rne (.fin ng n d)).1 (f.width / 8)))
  | some x => if f.width = 8 then none else some (p.emit (natLe (f.round .rne x).1 (f.width / 8)))
  | none => none

/-- The text between quotes. -/
def quoted (s : Str) : Option Str :=
  match s with
  | '"' :: t =>
    match t.reverse with
    | '"' :: r => some r.reverse
    | _ => none
  | _ => none

/-- Set a name's binding. -/
def Pass.bind (b : Nat) (p : Pass) (name : Str) : Option Pass :=
  if labelOk name then some { p with binds := (name, b) :: p.binds } else none

/-- `.equ` (Table 4.12). DESIGN CHOICE (log 102): an offset before the section's start is rejected. -/
def Pass.equ (p : Pass) (name e : Str) : Option Pass :=
  match eval p.known e with
  | some (.int z) => p.define { name := name, loc := .abs z, skind := 10 }
  | some (.sym s z) =>
    match lookup p.known s with
    | some ⟨_, .within k o, sk, _⟩ =>
      if (o : Int) + z < 0 then none else p.define { name := name, loc := .within k ((o : Int) + z).toNat, skind := sk }
    | _ => none
  | none => none

/-- `.size` (Table 4.12): the size of a symbol, before its definition or after it. -/
def Pass.sized (p : Pass) (name e : Str) : Option Pass :=
  match p.int e with
  | some z =>
    if z < 0 ∨ (lookup p.known name).isNone then none else some { p with sizes := (name, z.toNat) :: p.sizes }
  | none => none

/-- The symbols with the sizes that `.size` gave them; the last one given holds. -/
def Pass.withSizes (p : Pass) : List Sym :=
  p.syms.map (fun y =>
    match p.sizes.find? (fun x => decide (x.1 = y.name)) with
    | some x => { y with size := x.2 }
    | none => y)

/-- The fields of `.wick` by name: the word, the lowest bit, and the width (R78). -/
def wickField (s : Str) : Option (Nat × Nat × Nat) :=
  match indexOf s ["prio", "kind", "pred", "fmt", "aff"] with
  | some 0 => some (0, 57, 2)
  | some 1 => some (0, 59, 5)
  | some 2 => some (1, 9, 16)
  | some 3 => some (1, 25, 7)
  | some 4 => some (1, 32, 8)
  | _ => none

/-- A wick record's words, and the relocations of its words. -/
structure WickBuild where
  w : List Nat
  want : List Want
  seen : List Str
  deriving DecidableEq, Repr

/-- One field of `.wick`. DESIGN CHOICE (log 103): a field given twice is rejected. -/
def WickBuild.field (p : Pass) (b : WickBuild) (f : Str × Str) : Option WickBuild :=
  if b.seen.elem f.1 then none
  else
    match wickField f.1 with
    | some (k, lo, n) =>
      match p.int f.2 with
      | some z =>
        if 0 ≤ z ∧ z < 2 ^ n then some ⟨b.w.set k (setBits (b.w.getD k 0) lo n z.toNat), b.want, f.1 :: b.seen⟩ else none
      | none => none
    | none =>
      match indexOf f.1 ["g2", "g3", "g4", "g5", "g6"], eval p.known f.2 with
      | some i, some (.int z) => (pattern z).map (fun v => ⟨b.w.set (3 + i) v, b.want, f.1 :: b.seen⟩)
      | some i, some (.sym s z) => some ⟨b.w, b.want ++ [⟨8 * (3 + i), 1, .sym s z⟩], f.1 :: b.seen⟩
      | _, _ => none

/-- `.wick` (R78): a record of section `.wicks`; predicate bits 0 and 1 are fixed. DESIGN CHOICE (log 97): with no
current section before it, there is none to return to and `.wicks` stays current. -/
def Pass.wick (p : Pass) (name entry : Str) (fields : List Str) : Option Pass :=
  let back := p.cur
  match p.enter ".wicks".toList 4 1, fields.mapM optionOf with
  | some p1, some fs =>
    match fs.foldlM (WickBuild.field p) ⟨List.replicate 8 0, [], []⟩, eval p.known entry with
    | some b, some v =>
      let w1 := setBits (b.w.getD 1 0) 9 2 1
      let p2 := p1.alignTo 6
      let pc := match v with
        | .int z => if 0 ≤ z ∧ z % 4 = 0 ∧ z < 2 ^ 57 then some (z.toNat, ([] : List Want)) else none
        | .sym s z => some (0, [(⟨0, 8, .sym s z⟩ : Want)])
      match pc, p2.define { name := name, loc := .within p2.cur p2.off, skind := 3, size := 64 } with
      | some (a, ws), some p3 =>
        let words := (b.w.set 1 w1).set 0 (b.w.getD 0 0 + a)
        let want := (ws ++ b.want).map (fun (x : Want) => { x with off := p2.off + x.off })
        some { (p3.onSec (fun s => { s with want := s.want ++ want })).emit (words.flatMap (fun w => natLe w 8)) with cur := back }
      | _, _ => none
    | _, _ => none
  | _, _ => none

/-- The base-2 logarithm of a payload's alignment. -/
def log2Of (n : Nat) : Nat := Nat.log2 n

/-- Open a payload (R79): its section has the directive's name, and its header is reserved before it. DESIGN CHOICE
(log 97): with no current section before it, there is none to return to and its own stays current. -/
def Pass.openPayload (p : Pass) (dir name : Str) (type : Nat) : Option Pass :=
  match payloadKind type, p.enter ('.' :: dir) type 1 with
  | some (_, _, al), some q =>
    let start := (q.off + 16 + al - 1) / al * al
    some { (q.emit (List.replicate (start - q.off) 0)).onSec (fun s => { s with align := max s.align (log2Of al) }) with
      pay := some ⟨name, type, start, p.cur⟩ }
  | _, _ => none

/-- `.endp` (R79): write the header and define the payload's symbol. The limits hold for the payload as the last pass
forms it. -/
def Pass.closePayload (p : Pass) : Option Pass :=
  match p.pay with
  | none => none
  | some y =>
    match payloadKind y.type with
    | none => none
    | some (ent, most, _) =>
      let n := p.off - y.start
      let count := n / ent
      if p.last ∧ (n % ent ≠ 0 ∨ count < 1 ∨ most < count) then none
      else
        let hdr := natLe y.type 2 ++ natLe 1 2 ++ natLe count 4 ++ natLe ent 4 ++ natLe 0 4
        let q := p.onSec (fun s => { s with bytes := s.bytes.take (y.start - 16) ++ hdr ++ s.bytes.drop y.start })
        ({ q with pay := none, cur := y.back }).define
          { name := y.name, loc := .within p.cur y.start, skind := y.type - 1, size := n }

/-- A directive that only appends data: one for each expression. -/
def Pass.each (f : Pass → Str → Option Pass) (p : Pass) (es : List Str) : Option Pass :=
  if es.isEmpty then none else es.foldlM f p

/-- A directive line (R76 to R79); `files` gives the bytes of a file by its path. -/
def Pass.directive (files : Str → Option (List Byte)) (p : Pass) (d : Str) (as : List Str) : Option Pass :=
  let is := fun (w : String) => decide (d = w.toList)
  let open_ := p.pay.isSome
  let zero := decide (p.sec.type = 3)
  let enter := fun (n : String) (t fl : Nat) => if open_ ∨ as ≠ [] then none else p.enter n.toList t fl
  if is "section" then
    match open_, as with
    | false, [n, t, fl] =>
      match indexOf t typeNames, flagBits fl with
      | some ty, some b => p.enter n ty b
      | _, _ => none
    | _, _ => none
  else if is "text" then enter ".text" 1 5
  else if is "data" then enter ".data" 2 3
  else if is "bss" then enter ".bss" 3 3
  else if is "endp" then (if as = [] then p.closePayload else none)
  else if is "global" then Pass.each (Pass.bind 1) p as
  else if is "weak" then Pass.each (Pass.bind 2) p as
  else if is "local" then Pass.each (Pass.bind 0) p as
  else if is "equ" then
    match as with
    | [n, e] => p.equ n e
    | _ => none
  else if is "size" then
    match as with
    | [n, e] => p.sized n e
    | _ => none
  else if is "wick" then
    match open_, as with
    | false, n :: e :: fs => p.wick n e fs
    | _, _ => none
  else
    match indexOf d (typeNames.drop 5 |>.take 6) with
    | some k =>
      match open_, as with
      | false, [n] => if labelOk n then p.openPayload d n (5 + k) else none
      | _, _ => none
    | none =>
      if p.secs = [] then none
      else if is "align" then
        match open_, as with
        | false, [e] =>
          match p.int e with
          | some z => if 0 ≤ z ∧ z ≤ 12 then some (p.alignTo z.toNat) else none
          | none => none
        | _, _ => none
      else if is "space" then
        match as with
        | [n] =>
          match p.int n with
          | some z => if 0 ≤ z then some (p.emit (List.replicate z.toNat 0)) else none
          | none => none
        | [n, b] =>
          match p.int n, p.int b with
          | some z, some v =>
            if 0 ≤ z ∧ -128 ≤ v ∧ v < 256 ∧ (zero = false ∨ v = 0) then
              some (p.emit (List.replicate z.toNat (BitVec.ofInt 8 v)))
            else none
          | _, _ => none
        | _ => none
      else if zero then none
      else if is "byte" then Pass.each (Pass.data 1) p as
      else if is "half" then Pass.each (Pass.data 2) p as
      else if is "word" then Pass.each (Pass.data 4) p as
      else if is "dword" then Pass.each (Pass.data 8) p as
      else if is "rel32" then Pass.each Pass.rel32 p as
      else if is "fp8" then Pass.each (Pass.float fp8) p as
      else if is "bf16" then Pass.each (Pass.float bf16) p as
      else if is "fp32" then Pass.each (Pass.float fp32) p as
      else if is "fp64" then Pass.each (Pass.float fp64) p as
      else if is "incbin" then
        match as with
        | [f] => ((quoted f).bind files).map p.emit
        | _ => none
      else none

/-! ### Lines and passes -/

/-- A label at the head of a line, and what follows it (R55). -/
def takeLine (s : Str) : Option Str × Str :=
  let t := trimL s
  let n := t.takeWhile isNameChar
  match t.drop n.length with
  | ':' :: rest => if n.isEmpty then (none, t) else (some n, trimL rest)
  | _ => (none, t)

/-- A guard at the head of an instruction (R55): `?pN`. -/
def takeGuard (s : Str) : Option (Option Nat × Str) :=
  match s with
  | '?' :: t =>
    let r := t.takeWhile (fun c => !isSpace c)
    (regOf 'p' 16 r).map (fun n => (some n, trimL (t.drop r.length)))
  | _ => some (none, s)

/-- Assemble an instruction at the current place: only in a code section, outside a payload (R77, R79). -/
def Pass.insn (p : Pass) (guard : Option Nat) (name : Str) (ops : List Str) : Option Pass :=
  if p.secs = [] ∨ p.sec.type ≠ 1 ∨ p.pay.isSome then none
  else
    match instruction p.known (p.cur, p.off) guard name ops with
    | none => none
    | some (ws, want) =>
      let o := p.off
      some ((p.onSec (fun s => { s with
        want := s.want ++ want.map (fun x => { x with off := o + x.off })
        code := s.code ++ [o] })).emit (ws.flatMap (fun w => natLe w 4)))

/-- One source line. In a pass before the last a line that is not accepted yet, since a name is still unknown or a
distance not final, adds nothing. -/
def Pass.line (files : Str → Option (List Byte)) (p : Pass) (s : Str) : Option Pass :=
  let r := takeLine (dropComment false s)
  let p1 := match r.1 with
    | none => some p
    | some n =>
      if p.secs = [] then none
      else p.define { name := n, loc := .within p.cur p.off, skind := if p.sec.type = 1 then 1 else 2 }
  match p1 with
  | none => none
  | some q =>
    match takeGuard (trim r.2) with
    | none => none
    | some (g, t) =>
      let m := t.takeWhile (fun c => !isSpace c)
      let ops := operands (t.drop m.length)
      let r := match m with
        | [] => if g.isNone then some q else none
        | '.' :: d => if g.isNone then q.directive files d ops else none
        | _ => q.insn g m ops
      if r.isSome ∨ q.last then r else some q

/-- A whole pass over the source. -/
def pass (files : Str → Option (List Byte)) (prev : List Sym) (last : Bool) (lines : List Str) : Option Pass :=
  (lines.foldlM (Pass.line files) { prev := prev, last := last }).bind (fun p =>
    if p.pay.isSome then none else some { p with syms := p.withSizes })

/-- Passes until the symbols no longer move, then the last one. -/
def passes (files : Str → Option (List Byte)) (lines : List Str) : Nat → List Sym → Option Pass
  | 0, _ => none
  | n + 1, prev =>
    match pass files prev false lines with
    | none => none
    | some p =>
      if p.syms = prev then
        match pass files prev true lines with
        | some q => if q.syms = prev then some q else none
        | none => none
      else passes files lines n p.syms

/-! ### Stale registers after a suspension point (R75) -/

/-- The registers that are not carried: g7 to g15 by number, then v, c, t, z and a. -/
def vR (n : Nat) : Nat := 32 + n
def cR (n : Nat) : Nat := 64 + n
def tR (n : Nat) : Nat := 80 + n
def zR (n : Nat) : Nat := 96 + n
def aR (n : Nat) : Nat := 112 + n

/-- A 5-bit source's register. -/
def srcR (x : Src) : List Nat := if x.code < 16 then [x.code] else []

/-- The registers of a group of `n` at a base. -/
def groupR (base n : Nat) : List Nat := (List.range n).map (fun i => vR (base + i))

/-- The registers that a store may write: the descriptors of rings t0 to t7 lie in local memory (R154), and the
assembler does not know where a store goes. DESIGN CHOICE (log 98): every store counts as a write of them, like a
guarded write. -/
def ringsR : List Nat := (List.range 8).map tR
/-- The streams z0 and z1, which are the two halves of fs (Table 19.5). -/
def streamsR : List Nat := [zR 0, zR 1]

/-- The registers that an instruction reads and writes. -/
def useDef (i : Instr) : List Nat × List Nat :=
  match i.enc with
  | .a op _ x dr ar br _ =>
    let d := x.d.toNat
    let dd := if d < 16 then [d] else []
    let reads := (if ar = .rd then srcR x.a else []) ++ (if br = .rd then srcR x.b else [])
    match dr with
    | .wr => (reads, dd)
    | .rw => (dd ++ reads, dd)
    | .dat => (dd ++ reads, if op = 25 then ringsR else [])
    | .amoDst => (dd ++ reads, dd ++ ringsR)
    | .casDst => (dd ++ [d + 1] ++ reads, dd ++ ringsR)
    | _ => (reads, [])
  | .i _ x _ => (srcR x.a, if x.d.toNat < 16 then [x.d.toNat] else [])
  | .s x =>
    let fs := decide (x.sel.toNat = 0x00B)
    (srcR x.a ++ (if fs ∧ x.d.toNat ≠ 0 then streamsR else []),
      (if x.d.toNat < 16 then [x.d.toNat] else []) ++ (if fs ∧ x.a.code ≠ 0 then streamsR else []))
  | .b lk _ => ([], if lk = 1 then [15] else [])
  | .e _ x _ => (srcR x.a, [x.tok.toNat])
  | .v op fn x _ =>
    let d := x.d.toNat
    let a := x.a.toNat
    let b := x.b.toNat
    let t := x.t.toNat
    if op = 33 then ([a, b], groupR d (if t = 3 then 2 else 1))
    else if op = 34 then (groupR d (if t = 3 then 2 else 1) ++ [a, b], ringsR)
    else if op = 35 then ([a, vR b], if fn = 1 then [vR d, vR b] else [vR d])
    else if fn = 20 then
      let ns := laneCount b
      let nd := laneCount t
      (groupR a (if ns < nd then nd / ns else 1), groupR d (if nd < ns then ns / nd else 1))
    else if fn = 21 then ([vR a, vR b], groupR d (if t = 2 then 4 else 8))
    else if fn = 3 ∨ fn = 14 then ([vR d, vR a, vR b], [vR d])
    else if fn = 6 ∨ fn = 7 ∨ (16 ≤ fn ∧ fn ≤ 19) then ([vR a], [vR d])
    else ([vR a, vR b], [vR d])
  | .k op fn x _ =>
    let d := x.d.toNat
    let a := x.a.toNat
    let b := x.b.toNat
    if op = 64 then
      match fn with
      | 0 => ([a, b], [d])
      | 1 => ([a, b], [cR d])
      | 2 => ([cR a], [cR d])
      | 3 => (if 4 ≤ x.md.toNat then [cR a] else [], [d])
      | _ => ([], [])
    else if fn = 10 then ([cR a], [])
    else if fn = 11 then ([cR d], [])
    else if fn = 9 then ([cR a, cR b], [])
    else if fn = 4 ∨ fn = 5 ∨ fn = 8 then ([cR d, cR a, cR b], [])
    else ([cR d, cR a], [])
  | .m fn x _ =>
    let d := aR x.d.toNat
    let a := tR x.a.toNat
    let b := tR x.b.toNat
    match fn with
    | 0 => ([a, b, d], [d])
    | 1 => ([a, b, d, zR 0], [d])
    | 2 => ([a, b, d, zR 1], [d])
    | 3 => ([], [d])
    | 4 => ([d, a], [])
    | _ => ([a], [d])
  | .event => ([], [])

/-- A register that is not carried across a suspension point (R86). -/
def notCarried (r : Nat) : Bool := decide (7 ≤ r)

/-- The instruction at an offset of a section's bytes, and its length. -/
def insnAt (bs : List Byte) (o : Nat) : Option (Instr × Nat) :=
  match decodeBytes (bs.drop o) with
  | .ok (i, _) => some (i, i.enc.len)
  | .error _ => none

/-- The guard of an instruction; format I has none. -/
def guardOf (i : Instr) : Nat :=
  match i.enc with
  | .a _ _ x _ _ _ _ => x.p.toNat
  | .b _ x => x.p.toNat
  | .s x => x.p.toNat
  | .v _ _ x _ => x.p.toNat
  | .k _ _ x _ => x.p.toNat
  | .m _ x _ => x.p.toNat
  | .e _ x _ => x.p.toNat
  | _ => 0

/-- Where control can go inside the section: a branch with a relocation or a jump leaves it, as a return from an
exception does (R244), a call goes to its target, and the instructions that end a wick have no successor. -/
def nexts (s : Sec) (o : Nat) (i : Instr) (len : Nat) : List Nat :=
  let on := if guardOf i = 0 then [] else [o + len]
  let hop := fun (x : FmtB) =>
    if s.want.any (fun w => decide (w.off = o)) then [] else [((o : Int) + 4 * x.off.toInt).toNat]
  match i with
  | .br x => hop x ++ on
  | .brLink x => hop x ++ on
  | .jmpJr _ => on
  | .jmpJl _ => on
  | .trapRet _ => on
  | .wkDone _ => on
  | .wkWaitw _ => on
  | .wkSnuffSelf _ => on
  | _ => [o + len]

/-- The registers written on every path so far from a suspension point, by offset. -/
abbrev Facts := List (Nat × List Nat)

/-- Add a fact: the registers written on both paths; whether anything changed. -/
def Facts.join (fs : Facts) (o : Nat) (w : List Nat) : Facts × Bool :=
  match fs.find? (fun x => decide (x.1 = o)) with
  | none => ((o, w) :: fs, true)
  | some (_, old) =>
    let m := old.filter (fun r => w.elem r)
    (fs.map (fun x => if x.1 = o then (o, m) else x), decide (m.length < old.length))

/-- Follow the paths; none when a read of a register that may be stale is met. -/
def follow (s : Sec) : Nat → List (Nat × List Nat) → Facts → Option Facts
  | 0, _, fs => some fs
  | _, [], fs => some fs
  | n + 1, (o, w) :: todo, fs =>
    if s.code.elem o = false then follow s n todo fs
    else
      match fs.join o w with
      | (_, false) => follow s n todo fs
      | (gs, true) =>
        let have_ := ((gs.find? (fun x => decide (x.1 = o))).map Prod.snd).getD []
        match insnAt s.bytes o with
        | none => follow s n todo gs
        | some (i, len) =>
          let ud := useDef i
          if ud.1.any (fun r => notCarried r && !have_.elem r) then none
          else follow s n ((nexts s o i len).map (fun t => (t, ud.2 ++ have_)) ++ todo) gs

/-- A section's code passes the check of R75: from each `wk.migr` and `wk.susp`, after which the wick goes on. -/
def staleOk (s : Sec) : Bool :=
  s.code.all (fun o =>
    match insnAt s.bytes o with
    | some (.wkMigr _, len) => (follow s (s.code.length * 200 + 100) [(o + len, [])] []).isSome
    | some (.wkSusp _, len) => (follow s (s.code.length * 200 + 100) [(o + len, [])] []).isSome
    | _ => true)

/-! ### The object (R59, R64) -/

/-- A string table and the offsets of its names. -/
def strings (names : List Str) : List Byte × List Nat :=
  names.foldl (fun r n =>
    if n.isEmpty then (r.1, r.2 ++ [0])
    else (r.1 ++ n.map (fun c => BitVec.ofNat 8 c.toNat) ++ [0], r.2 ++ [r.1.length])) ([0], [])

/-- The names that relocations use and nothing defines. -/
def undefined (p : Pass) : List Str :=
  ((p.secs.flatMap (fun s => s.want)).filterMap (fun w =>
    match w.val with
    | .sym n _ => if (lookup p.syms n).isNone then some n else none
    | .int _ => none)).eraseDups

/-- A name's binding: as set, local where defined, global where undefined (R65). -/
def bindOf (p : Pass) (n : Str) : Nat :=
  match p.binds.find? (fun b => decide (b.1 = n)) with
  | some b => b.2
  | none => if (lookup p.syms n).isSome then 0 else 1

/-- The object of a pass: section 0, the sections in order of creation, and symbols: the null symbol, an absolute
symbol of value 0 for addresses written as numbers, the defined and the undefined names. -/
def objectOf (p : Pass) : Object :=
  let und := undefined p
  let names := p.syms.map (fun y => y.name) ++ und
  let st := strings (p.secs.map (fun s => s.name) ++ names)
  let ns := p.secs.length
  let nameOff := fun (i : Nat) => st.2.getD i 0
  let symIx := fun (n : Str) => 2 + (names.findIdx (fun x => decide (x = n)))
  let rel := fun (w : Want) =>
    match w.val with
    | .sym n z => (⟨w.off, (z % 2 ^ 64).toNat, symIx n, w.rtype, 0⟩ : Reloc)
    | .int z => ⟨w.off, (z % 2 ^ 64).toNat, 1, w.rtype, 0⟩
  let defined := p.syms.zipIdx.map (fun (x : Sym × Nat) =>
    match x.1.loc with
    | .abs z => (⟨nameOff (ns + x.2), bindOf p x.1.name, x.1.skind, 0xFFFF, (z % 2 ^ 64).toNat, x.1.size⟩ : Symbol)
    | .within k o => ⟨nameOff (ns + x.2), bindOf p x.1.name, x.1.skind, k + 1, o, x.1.size⟩)
  let undef := und.zipIdx.map (fun (x : Str × Nat) =>
    (⟨nameOff (ns + p.syms.length + x.2), bindOf p x.1, 0, 0, 0, 0⟩ : Symbol))
  { kind := 1
    sects := nullSection :: p.secs.zipIdx.map (fun (x : Sec × Nat) =>
      { name := nameOff x.2, type := x.1.type, flags := x.1.flags, vaddr := 0, fileoff := 0, size := x.1.bytes.length
        align := x.1.align, relcount := x.1.want.length, reloff := 0 })
    body := [] :: p.secs.map (fun s => if s.type = 3 then [] else s.bytes)
    rels := [] :: p.secs.map (fun s => s.want.map rel)
    syms := ⟨0, 0, 0, 0, 0, 0⟩ :: ⟨0, 0, 10, 0xFFFF, 0, 0⟩ :: (defined ++ undef)
    strs := st.1 }

/-- Assemble a source (R55 to R58, R73 to R79): the object, or none where a rule rejects the source. -/
def assemble (files : Str → Option (List Byte)) (lines : List Str) : Option Object :=
  match passes files lines (lines.length + 32) [] with
  | none => none
  | some p => if p.secs.all staleOk then some (objectOf p) else none

end Sys2Proof.Asm
end

