-- ==== Sys2Proof/Machine/Firmware.lean ====
section
/-!
DEFINITION. What the rules say of Sahhorn's own firmware and handlers, as functions of the state: the default walk and
its heat fields (spec 12_translation.md, R258, R262), the answer of a walk wick (R265), and the places of the save
frames (11_traps.md, R240). They are programs, not steps of the machine: a walk wick reaches the state only through the
instructions that it issues.
-/

namespace Sys2Proof.Machine

/-- A physical address that a walk reads: the walker's own module, or host memory (R258). -/
def walkPa (dev pa : Nat) : Nat := if bits pa 55 1 = 1 then pa else setBits pa 49 6 dev

/-- The index bits of levels 1 to 3, each with the psz code of its leaves (Table 12.4). -/
def walkLevels : List (Nat × Nat × Nat) := [(29, 6, 2), (21, 8, 1), (16, 5, 0)]

/-- Read a table entry and go on (R258): the leaf's address and the leaf, or the cause of the refusal. `idx` is the
address of the entry, `psz` the code of the level's leaves. -/
def State.walkEntry (s : State) (dev va : Nat) : Nat → Nat → List (Nat × Nat × Nat) → Except Cause (Nat × Word)
  | at_, psz, rest =>
    let e := s.readN at_ 8
    if bits e 0 1 = 0 then .error 0x40
    else if bits e 1 3 = 0 then
      if bits e 1 15 ≠ 0 then .error 0x49
      else
        match rest with
        | [] => .error 0x49
        | (lo, n, p) :: more => State.walkEntry s dev va (walkPa dev (bits e 16 48 * 2 ^ 8) + 8 * bits va lo n) p more
    else if leafMalformed (BitVec.ofNat 64 e) ∨ bits e 6 2 ≠ psz then .error 0x49
    else .ok (at_, BitVec.ofNat 64 e)
termination_by structural _ _ rest => rest

/-- The default walk of an address under an asid, from the asid table's physical base (R258). -/
def State.defaultWalk (s : State) (dev base asid va : Nat) : Except Cause (Nat × Word) :=
  let d := s.readN (walkPa dev base + 8 * asid) 8
  let rbits := bits d 1 5
  if bits d 0 1 = 0 then .error 0x40
  else if rbits = 0 ∨ 23 ≤ rbits then .error 0x49
  else if va / 2 ^ (35 + rbits) ≠ 0 then .error 0x40
  else s.walkEntry dev va (walkPa dev (bits d 20 44 * 2 ^ 12) + 8 * bits va 35 rbits) 3 walkLevels

/-- A leaf after a miss of a kind (R256): writes raise wheat, reads and fetches rheat, up to 3 (R262). -/
def heated (kind : Nat) (leaf : Word) : Word :=
  let lo := if kind = 1 ∨ kind = 4 then 19 else 17
  let h := bits leaf.toNat lo 2
  putBits leaf lo 2 (if h < 3 then h + 1 else h)

/-- A leaf after a pass of the sweeper (R262): each non-zero heat field is lower by one. -/
def cooled (leaf : Word) : Word :=
  let r := bits leaf.toNat 17 2
  let w := bits leaf.toNat 19 2
  putBits (putBits leaf 17 2 (r - 1)) 19 2 (w - 1)

/-- The compare-and-swap by which the walker writes a heated leaf: once, and without effect when the entry has changed
(R262). -/
def State.heatLeaf (s : State) (at_ kind : Nat) (leaf : Word) : State :=
  if s.readN at_ 8 = leaf.toNat then s.storeN at_ 8 (heated kind leaf).toNat else s

/-- What the default walk does to memory and what it gives `tlb.fill` as the leaf operand (R258, R262, R265): a refusal
is an entry with v = 0 that holds cause 0x49, or nothing for 0x40. -/
def State.walkAnswer (s : State) (dev base asid va kind : Nat) : State × Word :=
  match s.defaultWalk dev base asid va with
  | .ok (a, leaf) => (s.heatLeaf a kind leaf, heated kind leaf)
  | .error c => (s, if c = 0x49 then 0x4900 else 0)

/-! ### Save frames (R240, Table 11.8) -/

/-- The local-memory offset of a slot's frame. -/
def slotFrame (slot : Nat) : Nat := 0x1000 + 0xB00 * (slot % 8)

/-- What a slot frame keeps of a slot (Table 11.8): the fields by name, with the vigil latch, so that a `vg.arrw`
restored after its notice does not arrive twice (R216). -/
structure SlotFrame where
  g : List Word
  pred : BitVec 16
  fflags : BitVec 8
  cvm : Word
  dead : Word
  pp : BitVec 3
  oob : Word
  fa : Word
  fb : Word
  fc : Word
  /-- fs, whose halves are z0 and z1 -/
  fs : Word
  tepc : Word
  tcause : Word
  tval : Word
  uvec : Word
  ucause : Word
  uepc : Word
  uval : Word
  mons : Tab Mon
  vlatch : Option (Nat × Nat)
  glatch : Option (Nat × Nat)
  c0 : Tab Word
  c1 : Tab Word
  v : List VWord
  deriving DecidableEq, Repr

/-- A register of a frame: zero where the dead mask names it (R240). -/
def frameReg {α : Type} (x : Slot) (k : Nat) (z v : α) : α := if x.dead.getLsbD k then z else v

/-- The frame of a slot: g1 to g15 and v0 to v15 in order. -/
def Slot.frame (x : Slot) : SlotFrame :=
  { g := (List.range 15).map (fun n => frameReg x (n + 1) 0 (Tab.get 0 x.g (n + 1)))
    pred := x.pred, fflags := x.fflags, cvm := x.cvm, dead := x.dead, pp := x.pp, oob := x.oob
    fa := x.fa, fb := x.fb, fc := x.fc, fs := x.fs
    tepc := x.tepc, tcause := x.tcause, tval := x.tval
    uvec := x.uvec, ucause := x.ucause, uepc := x.uepc, uval := x.uval
    mons := x.mons, vlatch := x.vlatch, glatch := x.glatch, c0 := x.c0, c1 := x.c1
    v := (List.range 16).map (fun n => frameReg x (16 + n) 0 (x.vreg n)) }

/-- A table of consecutive keys from `k` on. -/
def tabOf {w : Nat} (k : Nat) (vs : List (BitVec w)) : Tab (BitVec w) :=
  vs.zipIdx.foldl (fun t (p : BitVec w × Nat) => Tab.set 0 t (k + p.2) p.1) []

/-- The slot with a frame's content back in it (R241). -/
def Slot.restoreFrame (f : SlotFrame) (x : Slot) : Slot :=
  { x with
    g := tabOf 1 f.g, v := tabOf 0 f.v
    pred := f.pred, fflags := f.fflags, cvm := f.cvm, dead := f.dead, pp := f.pp, oob := f.oob
    fa := f.fa, fb := f.fb, fc := f.fc, fs := f.fs
    tepc := f.tepc, tcause := f.tcause, tval := f.tval
    uvec := f.uvec, ucause := f.ucause, uepc := f.uepc, uval := f.uval
    mons := f.mons, vlatch := f.vlatch, glatch := f.glatch, c0 := f.c0, c1 := f.c1 }

/-- The vectors of a slot's frame, from frame offset 0x280 on: a register that the dead mask names is written zero. -/
def frameVectors (x : Slot) : List (Nat × VWord) :=
  (List.range 16).map (fun n => (0x280 + 128 * n, if x.dead.getLsbD (16 + n) then 0 else x.vreg n))

/-- The words of the core frame: h0 to h7 as a slot reads them, then the count and the words of the receive queue. -/
def coreFrame (hs : List Word) (c : Core) : List (Nat × Word) :=
  hs.zipIdx.map (fun (x : Word × Nat) => (0x8000 + 8 * x.2, x.1)) ++
    (0x8040, BitVec.ofNat 64 c.rq.length) :: c.rq.zipIdx.map (fun (x : QWord × Nat) => (0x8048 + 8 * x.2, x.1.w))

/-- The local-memory offset of word `k` of accumulator tile `n` in the core frame. -/
def accFrame (n k : Nat) : Nat := 0x8200 + 4096 * n + 4 * k

end Sys2Proof.Machine
end

