-- ==== Sys2Proof/Tests/Slice0.lean ====
section
/-!
SUPPORT. Tests: well-formedness refuses each ill-formed term, words written out from the spec decode to their
instructions, and for every obligation with hypotheses a concrete state and operands that meet them, clause by clause.
-/

namespace Sys2Proof.Tests

open Sys2Proof Sys2Proof.Machine

-- One theorem at a time: each waiting thread would hold a stack of its own.
set_option Elab.async false

/-! ### Small states -/

/-- The slot that runs. -/
abbrev here : Nat := State.resetSlot
/-- An address of the near window's scratchpad. -/
def near (n : Nat) : Word := BitVec.ofNat 64 (0x01FFFFFF00000000 + n)
/-- A slot with a wick in system mode, with a handler. -/
def wick : Slot :=
  { occ := true, kind := 1, asid := 5, pc := near 0, tvec := near 0x1000, g := [(2, 7), (3, 5), (8, near 0x2000), (9, 0x10000)] }
/-- A slot with a wick in user mode. -/
def userWick : Slot := { wick with kind := 0, tmask := 0 }
/-- The state right after reset with a slot's contents placed. -/
def holding (x : Slot) : State := { State.reset with slots := [(here, x)] }
/-- The state with the system wick. -/
def base : State := holding wick
/-- Format A fields: dst 4, sa g2, sb g3, no guard. -/
def fa : FmtA := ⟨4, .reg 2, .reg 3, 0⟩
/-- Format A fields of one source. -/
def fa1 : FmtA := ⟨4, .reg 2, .reg 0, 0⟩
/-- A state with bytes written into the cluster's scratchpad. -/
def poke (s : State) (off n v : Nat) : State := s.storeHome (clusterOf here) (scratchPa (clusterOf here) off) n v
/-- The translation of an address of the scratchpad. -/
def tr (off : Nat) : Xlat := ⟨near off, scratchPa (clusterOf here) off, false, true⟩
/-- Format A fields whose address is g8, 0x2000 in the scratchpad. -/
def fm : FmtA := ⟨4, .reg 8, .reg 0, 0⟩

/-- The checks of `State.accessed`, decided. -/
def accessB (s : State) (k : XKind) (n : Nat) (tol : Bool) (va : Word) (t : Xlat) (s1 : State) : Bool :=
  decide (s.xlate (coreOf s.cur) true (s.slot s.cur).user (s.slot s.cur).asid k va = (.ok t, s1)) &&
  decide (va.toNat % n = 0) &&
  !s1.lockHit (clusterOf s.cur) (s.slot s.cur).asid va.toNat n (decide (k = .store) || decide (k = .atomic)) &&
  (!t.tol || tol) && decide (s1.targetCause s.cur k n t = none)
theorem access_of {s s1 : State} {k : XKind} {n : Nat} {tol : Bool} {va : Word} {t : Xlat}
    (h : accessB s k n tol va t s1 = true) : s.accessed s.cur k n tol va t s1 := by
  simp only [accessB, Bool.and_eq_true, decide_eq_true_eq, Bool.not_eq_true', Bool.or_eq_true] at h
  obtain ⟨⟨⟨⟨h1, h2⟩, h3⟩, h4⟩, h5⟩ := h
  exact ⟨h1, h2, h3, fun ht => by simpa [ht] using h4, h5⟩
/-- The checks of `State.lineOk` for a line of the module, decided. -/
def lineB (s : State) (va : Word) (t : Xlat) (s1 : State) : Bool :=
  accessB s .load 64 false va t s1 && decide (peerOf s.cur t.pa = none) && decide (s1.home (dieOf s.cur) t.pa = .ok) &&
    s1.mayGo s.cur [t.pa] && decide (s1.readFault t.pa 64 = none)
theorem line_of {s s1 : State} {va : Word} {t : Xlat} (h : lineB s va t s1 = true) : s.lineOk s.cur va t s1 := by
  simp only [lineB, Bool.and_eq_true, decide_eq_true_eq] at h
  obtain ⟨⟨⟨⟨h1, h2⟩, h3⟩, h4⟩, h5⟩ := h
  exact ⟨access_of h1, .inr ⟨h2, ⟨fun _ => h3, h4⟩, h5⟩⟩
/-- An instruction issues, decided. -/
theorem issues_of {i : Instr} {s : State}
    (h : (decide (decodeCause s s.cur i.enc = none) && (s.slot s.cur).p i.enc.guard &&
      decide (encAwaits i.enc (s.slot s.cur) = none)) = true) : Issues i s := by
  simpa [Issues, and_assoc] using h
/-- One source field reads a value, decided. -/
theorem reads1_of {s : State} {a : Src} {va : Word} {q : Reading}
    (h : decide (s.readSrc s.cur a {} = some (va, q)) = true) : s.reads1 a va q :=
  show s.readSrc s.cur a {} = some (va, q) from of_decide_eq_true h
/-- Two source fields read values, decided. -/
theorem reads2_of {s : State} {a b : Src} {va vb : Word}
    (h : (decide (s.readSrc s.cur a {} = some (va, {})) && decide (s.readSrc s.cur b {} = some (vb, {}))) = true) :
    s.reads2 a b va vb {} := by
  simp only [Bool.and_eq_true, decide_eq_true_eq] at h
  exact ⟨{}, h.1, h.2⟩
/-- Two source fields and a register read values, decided. -/
theorem reads3_of {s : State} {a b : Src} {d : Nat} {va vb vd : Word}
    (h : (decide (s.readSrc s.cur a {} = some (va, {})) && decide (s.readSrc s.cur b {} = some (vb, {})) &&
      decide (s.readCode s.cur d {} = some (vd, {}))) = true) : s.reads3 a b d va vb vd {} := by
  simp only [Bool.and_eq_true, decide_eq_true_eq] at h
  exact ⟨{}, ⟨{}, h.1.1, h.1.2⟩, h.2⟩
/-- The home of an address takes accesses, and the rotation of the engine lets one go, decided. -/
theorem home_of {s : State} {pa : Nat} (h : (decide (s.home (dieOf s.cur) pa = .ok) && s.mayGo s.cur [pa]) = true) :
    s.homeOk s.cur pa := by
  simp only [Bool.and_eq_true, decide_eq_true_eq] at h
  exact ⟨fun _ => h.1, h.2⟩
/-- The wick's core translates page 1 under its asid by a leaf entry; device 1 is a member, and the dies that the tests
reach are ready. -/
def paged (leaf : Nat) : State :=
  { base with
    cores := [(coreOf here, { micro := [⟨5, 2 ^ 16, 1, 0, BitVec.ofNat 64 leaf⟩] })]
    dies := [(0, { readyWord := 7 }), (7, { readyWord := 7 }), (32, { readyWord := 7 }), (39, { readyWord := 7 })]
    mods := [(0, { members := [0, 1] })] }
/-- A leaf for socket 0's DRAM of the module: readable, writable, executable, for user mode. -/
def dramLeaf : Nat := 0x1F
/-- A leaf for the same cluster's scratchpad in device 1, with atomics. -/
def peerLeaf : Nat := 0x1061F + (7 * 2 ^ 44 + 36 * 2 ^ 38) * 2 ^ 8
/-- The translation of 0x10000 by those leaves. -/
def trDram : Xlat := ⟨0x10000, 0, false, false⟩
/-- The same. -/
def trPeer : Xlat := ⟨0x10000, 2 ^ 49 + 7 * 2 ^ 44 + 36 * 2 ^ 38, false, false⟩
/-- Format A fields whose address is g9, 0x10000. -/
def fv : FmtA := ⟨4, .reg 9, .reg 0, 0⟩

/-- No word of a state is bad that lists none, and no bank of a cluster. -/
def soundB (s : State) : Bool :=
  decide (s.syms = [] ∧ s.lost = [] ∧ s.bad = []) && s.clusters.all (fun e => decide (e.2.failedBanks = []))
theorem readable {s : State} (h : soundB s = true) (pa : Nat) : s.readError pa = none := by
  simp only [soundB, Bool.and_eq_true, decide_eq_true_eq] at h
  obtain ⟨⟨h1, h2, h3⟩, h4⟩ := h
  have hb : ∀ l : Tab Cluster, l.all (fun e => decide (e.2.failedBanks = [])) = true → ∀ k, (Tab.get {} l k).failedBanks = [] := by
    intro l
    induction l with
    | nil => intro _ k; rfl
    | cons e t ih =>
      intro ha k
      simp only [List.all_cons, Bool.and_eq_true, decide_eq_true_eq] at ha
      simp only [Tab.get, Tab.find?]
      split
      · exact ha.1
      · exact ih ha.2 k
  have hf : ∀ r, s.failedBank r = [] := by
    intro r
    unfold State.failedBank
    split
    · exact hb _ h4 _
    · rfl
  have hr : ∀ r, s.rowUncorrectable r = false := fun r => by
    simp [State.rowUncorrectable, State.erasures, hf, h1, h2]
  unfold State.readError
  split <;> simp [hr, h3]
theorem readable_all {s : State} (h : soundB s = true) (pa n : Nat) : s.readFault pa n = none := by
  simp [State.readFault, readable h]
/-! ### Hypotheses that can be met: scalar instructions -/

theorem witness_division : ∃ i s x f a b q, Claims.aluDivision i = some (x, f) ∧ Issues i s ∧ s.reads2 x.a x.b a b q ∧
    b ≠ 0 ∧ s.canWrite s.cur x.d.toNat = true :=
  ⟨.aluRem fa, base, fa, _, 7, 5, {}, rfl, issues_of (by decide), reads2_of (by decide), by decide, by decide⟩
theorem witness_division_zero : ∃ i s x f a b q, Claims.aluDivision i = some (x, f) ∧ Issues i s ∧
    s.reads2 x.a x.b a b q ∧ b = 0 :=
  ⟨.aluDiv fa1, base, fa1, _, 7, 0, {}, rfl, issues_of (by decide), reads2_of (by decide), rfl⟩
theorem witness_division_guard : ∃ i s x f, Claims.aluDivision i = some (x, f) ∧ decodeCause s s.cur i.enc = none ∧
    (s.slot s.cur).p i.enc.guard = false :=
  ⟨.aluDivz { fa with p := 1 }, base, { fa with p := 1 }, _, rfl, by decide, by decide⟩
theorem witness_alu_two : ∃ i s x f a b q, Claims.aluTwo i = some (x, f) ∧ Issues i s ∧ s.reads2 x.a x.b a b q ∧
    s.canWrite s.cur x.d.toNat = true :=
  ⟨.aluAdds fa, base, fa, _, 7, 5, {}, rfl, issues_of (by decide), reads2_of (by decide), by decide⟩
theorem witness_alu_one : ∃ i s x f a q, Claims.aluOne i = some (x, f) ∧ Issues i s ∧ s.reads1 x.a a q ∧
    s.canWrite s.cur x.d.toNat = true :=
  ⟨.aluClz fa1, base, fa1, _, 7, {}, rfl, issues_of (by decide), reads1_of (by decide), by decide⟩
theorem witness_alu_imm : ∃ i s x f a q, Claims.aluImm i = some (x, f) ∧ Issues i s ∧ s.reads1 x.a a q ∧
    s.canWrite s.cur x.d.toNat = true :=
  ⟨.aluiShl ⟨4, .reg 2, 63⟩, base, ⟨4, .reg 2, 63⟩, _, 7, {}, rfl, issues_of (by decide), reads1_of (by decide), by decide⟩
theorem witness_fp_one : ∃ i s x w f a q, Claims.fpTable i = some (x, w, .one f) ∧ Issues i s ∧
    s.canWrite s.cur x.d.toNat = true ∧ s.reads1 x.a a q :=
  ⟨.fpuSqrt ⟨fa1, 0⟩, base, fa1, _, _, 7, {}, rfl, issues_of (by decide), by decide, reads1_of (by decide)⟩
theorem witness_fp_two : ∃ i s x w f a b q, Claims.fpTable i = some (x, w, .two f) ∧ Issues i s ∧
    s.canWrite s.cur x.d.toNat = true ∧ s.reads2 x.a x.b a b q :=
  ⟨.fpdDiv ⟨fa, 3⟩, base, fa, _, _, 7, 5, {}, rfl, issues_of (by decide), by decide, reads2_of (by decide)⟩
theorem witness_fp_three : ∃ i s x w f a b z q, Claims.fpTable i = some (x, w, .three f) ∧ Issues i s ∧
    s.canWrite s.cur x.d.toNat = true ∧ s.reads3 x.a x.b x.d.toNat a b z q :=
  ⟨.fpuFma ⟨fa, 0⟩, base, fa, _, _, 7, 5, 0, {}, rfl, issues_of (by decide), by decide,
    reads3_of (by decide)⟩
theorem witness_fp_int : ∃ i j s x fmt a q, Claims.fpInt i = some (x, fmt, true) ∧ Claims.fpInt j = some (x, fmt, false) ∧
    Issues i s ∧ Issues j s ∧ s.reads1 x.a a q ∧ s.canWrite s.cur x.d.toNat = true :=
  ⟨.fpdCvti ⟨fa1, 1⟩, .fpdCvtf ⟨fa1, 1⟩, base, ⟨fa1, 1⟩, _, 7, {}, rfl, rfl, issues_of (by decide),
    issues_of (by decide), reads1_of (by decide), by decide⟩
theorem witness_cmp : ∃ s x1 x2 x3 c1 c2 c3 a b q, Claims.cmpInt (.cmpLo x1) = some (x1, c1) ∧ x1.t = 0 ∧
    Claims.cmpFp (.cmpUn x2) = some (x2, c2) ∧ x2.t = 1 ∧ Claims.cmpFp (.cmpGe x3) = some (x3, c3) ∧ x3.t = 2 ∧
    Issues (.cmpLo x1) s ∧ Issues (.cmpUn x2) s ∧ Issues (.cmpGe x3) s ∧ s.reads2 x1.a x1.b a b q ∧
    s.reads2 x2.a x2.b a b q ∧ s.reads2 x3.a x3.b a b q :=
  ⟨base, ⟨fa, 0⟩, ⟨{ fa with d := 14 }, 1⟩, ⟨{ fa with d := 0 }, 2⟩, _, _, _, 7, 5, {}, rfl, rfl, rfl, rfl, rfl, rfl,
    issues_of (by decide), issues_of (by decide), issues_of (by decide), reads2_of (by decide),
    reads2_of (by decide), reads2_of (by decide)⟩
theorem witness_pair : ∃ (y : Slot) (n j : Nat), y.pred.getLsbD 0 = true ∧ y.pred.getLsbD 1 = false ∧ n % 2 = 0 ∧
    n < 16 ∧ j < 16 := ⟨wick, 14, 15, by decide⟩
theorem witness_h_write : ∃ (s : State) (k c u : Nat), 16 ≤ c ∧ c < 24 ∧ (s.core (coreOf k)).cycle ≤ u :=
  ⟨base, here, 23, 3, by decide⟩
theorem witness_port_write : ∃ k c n, 26 ≤ c ∧ neighbour (coreOf k) c = some n :=
  ⟨here + 8 * 5, 26, (here + 8 * 5) / 8 - 4, by decide⟩
theorem witness_mov_one : ∃ i s x f a q, Claims.movOne i = some (x, f) ∧ Issues i s ∧ s.reads1 x.a a q ∧
    s.canWrite s.cur x.d.toNat = true :=
  ⟨.movSxb fa1, base, fa1, _, 7, {}, rfl, issues_of (by decide), reads1_of (by decide), by decide⟩
theorem witness_mov_pred : ∃ s x y a b q, Issues (.movRdp x) s ∧ s.canWrite s.cur x.d.toNat = true ∧
    Issues (.movWrp y) s ∧ s.reads2 y.a y.b a b q :=
  ⟨base, ⟨4, .reg 0, .reg 0, 0⟩, ⟨0, .reg 2, .reg 3, 0⟩, 7, 5, {}, issues_of (by decide), by decide,
    issues_of (by decide), reads2_of (by decide)⟩
theorem witness_sys : ∃ s x v q, Issues (.sysRw x) s ∧ s.reads1 x.a v q ∧ s.canWrite s.cur x.d.toNat = true :=
  ⟨base, ⟨4, .reg 2, 0x010, 0⟩, 7, {}, issues_of (by decide), reads1_of (by decide), by decide⟩
theorem witness_branch : ∃ s x y, Issues (.br x) s ∧ Issues (.brLink y) s ∧ s.canWrite s.cur 15 = true :=
  ⟨base, ⟨0, 0x80000⟩, ⟨0, 0x7FFFF⟩, issues_of (by decide), issues_of (by decide), by decide⟩
theorem witness_jump : ∃ s x y a b q, Issues (.jmpJr x) s ∧ s.reads2 x.a x.b a b q ∧ Issues (.jmpJl y) s ∧
    s.reads2 y.a y.b a b q ∧ (a + b).toNat % 4 = 0 ∧ s.canWrite s.cur y.d.toNat = true :=
  ⟨base, ⟨0, .reg 8, .reg 0, 0⟩, ⟨15, .reg 8, .reg 0, 0⟩, near 0x2000, 0, {}, issues_of (by decide),
    reads2_of (by decide), issues_of (by decide), reads2_of (by decide), by decide, by decide⟩

theorem witness_jump_trap : ∃ s x y a b q, Issues (.jmpJr x) s ∧ s.reads2 x.a x.b a b q ∧ Issues (.jmpJl y) s ∧
    s.reads2 y.a y.b a b q ∧ (a + b).toNat % 4 ≠ 0 :=
  let s : State := { base with cores := [(coreOf here, { rq := [⟨2, none⟩] })] }
  ⟨s, ⟨0, .reg 24, .reg 0, 0⟩, ⟨15, .reg 24, .reg 0, 0⟩, 2, 0, { taken := 1 }, issues_of (by decide),
    ⟨{ taken := 1 }, by decide, by decide⟩, issues_of (by decide), ⟨{ taken := 1 }, by decide, by decide⟩, by decide⟩
theorem witness_sys_contents : ∃ f ∈ Claims.sysFields, ∃ sel ∈ Claims.sysReadOnly, sel ≠ f.1 ∧ here < 2 ^ 24 :=
  ⟨(0x015, 0x1FFFFFFFF), by decide, 0x007, by decide, by decide⟩

/-! ### Wicks -/

theorem witness_spawn_made : ∃ s s1 x va t q, Issues (.wkSpawn x) s ∧ s.reads1 x.a va q ∧
    s.canWrite s.cur x.d.toNat = true ∧ s.lineOk s.cur va t s1 ∧
    let s2 := s1.lineRead s.cur t
    let r := WickRec.ofNat (s1.lineValue s.cur t)
    r.state = 0 ∧ r.malformed = false ∧ ((s.slot s.cur).user && r.privileged) = false ∧
      s2.released s.cur 4 (some (devOf s.cur)) true true = true ∧
      (s2.die (targetDie (dieOf s.cur) (Claims.spawned (s.slot s.cur) r))).room = true :=
  ⟨base, base, fm, near 0x2000, tr 0x2000, {}, issues_of (by decide), reads1_of (by decide), by decide,
    line_of (by decide +kernel), by decide +kernel⟩
theorem witness_spawn_not_made : ∃ s s1 x va t q, Issues (.wkSpawn x) s ∧ s.reads1 x.a va q ∧
    s.canWrite s.cur x.d.toNat = true ∧ s.lineOk s.cur va t s1 ∧
    (WickRec.ofNat (s1.lineValue s.cur t)).state = 2 :=
  let s := poke base 0x2000 1 2
  ⟨s, s, fm, near 0x2000, tr 0x2000, {}, issues_of (by decide +kernel), reads1_of (by decide +kernel), by decide +kernel,
    line_of (by decide +kernel), by decide +kernel⟩
/-- A launch descriptor of one rank at 0x2000: count 1 in word 2, all else zero. -/
def launching : State := poke base 0x2010 1 1
theorem witness_launch : ∃ s s1 s2 x va t u q, Issues (.wkLaunch x) s ∧ s.reads1 x.a va q ∧ s.lineOk s.cur va t s1 ∧
    (s1.lineRead s.cur t).lineOk s.cur (va + 64) u s2 ∧
    let s3 := s2.lineRead s.cur u
    let v := s1.lineValue s.cur t + 2 ^ 512 * s2.lineValue s.cur u
    descCause v (s.slot s.cur).user = none ∧ s3.released s.cur 4 (some (devOf s.cur)) true true = true ∧
      s3.launchRoom (devOf s.cur) v = true :=
  ⟨launching, launching, launching, ⟨0, .reg 8, .reg 0, 0⟩, near 0x2000, tr 0x2000, tr 0x2040, {},
    issues_of (by decide +kernel), reads1_of (by decide +kernel), line_of (by decide +kernel),
    line_of (s := launching.lineRead here (tr 0x2000)) (by decide +kernel), by decide +kernel⟩
theorem witness_launch_cause : ∃ s s1 s2 x va t u q c, Issues (.wkLaunch x) s ∧ s.reads1 x.a va q ∧
    s.lineOk s.cur va t s1 ∧ (s1.lineRead s.cur t).lineOk s.cur (va + 64) u s2 ∧
    descCause (s1.lineValue s.cur t + 2 ^ 512 * s2.lineValue s.cur u)
      (s.slot s.cur).user = some c :=
  ⟨base, base, base, ⟨0, .reg 8, .reg 0, 0⟩, near 0x2000, tr 0x2000, tr 0x2040, {}, 0x0A,
    issues_of (by decide +kernel), reads1_of (by decide +kernel), line_of (by decide +kernel),
    line_of (s := base.lineRead here (tr 0x2000)) (by decide +kernel), by decide +kernel⟩
theorem witness_ranks : ∃ count r : Nat, r < count := ⟨1, 0, by decide⟩
theorem witness_leave : ∃ s x, Issues (.wkDone x) s ∧ Issues (.wkWaitw x) s ∧
    s.mayLeave s.cur (Claims.leaveScope s s.cur) = true :=
  ⟨base, ⟨0, .reg 0, .reg 0, 0⟩, issues_of (by decide), issues_of (by decide), by decide⟩
theorem witness_suspend : ∃ s s1 x va t q, Issues (.wkSusp x) s ∧ s.reads1 x.a va q ∧
    s.accessed s.cur .store 64 false va t s1 ∧ s1.homeOk s.cur t.pa ∧
    s.mayLeave s.cur (Claims.leaveScope s s.cur) = true ∧ peerOf s.cur t.pa = none :=
  ⟨base, base, ⟨0, .reg 8, .reg 0, 0⟩, near 0x2000, tr 0x2000, {}, issues_of (by decide), reads1_of (by decide),
    access_of (by decide +kernel), home_of (by decide +kernel), by decide +kernel⟩
/-- `wk.susp` to a line of a peer that admits the store, and to one that refuses it. -/
theorem witness_suspend_peer (ok : Bool) : ∃ s s1 x va t q d, Issues (.wkSusp x) s ∧ s.reads1 x.a va q ∧
    s.accessed s.cur .store 64 false va t s1 ∧ s1.homeOk s.cur t.pa ∧
    s.mayLeave s.cur (Claims.leaveScope s s.cur) = true ∧ peerOf s.cur t.pa = some d ∧
    (s.grant d (devOf s.cur)).admits t.pa 64 .store = ok := by
  let g : Tab Grant := [(0, { w := [(0, 0x1B), (1, 2 ^ 62), (2, 2 ^ 49 - 1)] })]
  let s : State := { paged peerLeaf with mods := [(0, { members := [0, 1] }), (1, { grants := if ok then g else [] })] }
  refine ⟨s, s, ⟨0, .reg 9, .reg 0, 0⟩, 0x10000, trPeer, {}, 1, ?_⟩
  cases ok
  all_goals exact ⟨issues_of (by decide), reads1_of (by decide), access_of (by decide +kernel),
    ⟨fun h => absurd h (by decide), by decide +kernel⟩, by decide +kernel⟩
theorem witness_migrate : ∃ s s1 x va t q o, Issues (.wkMigr x) s ∧ s.reads1 x.a va q ∧
    s.xlate (coreOf s.cur) true (s.slot s.cur).user (s.slot s.cur).asid .load va = (.ok t, s1) ∧
    va.toNat % 64 = 0 ∧ migrOwner t.pa = some o ∧ migrOk (s.slot s.cur) s.cur o = true ∧
    s1.mayLeave s.cur (if devOfCluster o.1 = devOf s.cur then 4 else 6) = true :=
  ⟨base, base, ⟨0, .reg 8, .reg 0, 0⟩, near 0x2000, tr 0x2000, {}, (clusterOf here, none), issues_of (by decide),
    reads1_of (by decide), by decide +kernel, by decide, by decide +kernel, by decide +kernel, by decide +kernel⟩
theorem witness_migrate_trap : ∃ s s1 x va t q, Issues (.wkMigr x) s ∧ s.reads1 x.a va q ∧
    s.xlate (coreOf s.cur) true (s.slot s.cur).user (s.slot s.cur).asid .load va = (.ok t, s1) ∧
    va.toNat % 64 = 0 ∧ ∀ o, migrOwner t.pa = some o → migrOk (s.slot s.cur) s.cur o = false :=
  ⟨paged dramLeaf, paged dramLeaf, ⟨0, .reg 9, .reg 0, 0⟩, 0x10000, trDram, {}, issues_of (by decide),
    reads1_of (by decide), by decide +kernel, by decide, fun o h => by rw [show migrOwner trDram.pa = none by decide] at h; cases h⟩
theorem witness_snuff : ∃ s s1 x va c t q, Issues (.wkSnuff x) s ∧ s.reads2 x.a x.b va c q ∧
    s.canWrite s.cur x.d.toNat = true ∧ s.accessed s.cur .atomic 64 false va t s1 ∧ s1.homeOk s.cur t.pa ∧
    peerOf s.cur t.pa = none ∧ s1.lineOf s.cur t.pa = none ∧ s1.readFault t.pa 64 = none :=
  ⟨base, base, ⟨4, .reg 8, .reg 3, 0⟩, near 0x2000, 5, tr 0x2000, {}, issues_of (by decide), reads2_of (by decide),
    by decide, access_of (by decide +kernel), home_of (by decide +kernel), by decide +kernel, by decide +kernel,
    readable_all (by decide +kernel) _ _⟩
/-- The slot that has asked a peer for the line at `trPeer`, before and after its answer. -/
def asked (l : List (Nat × Nat)) : State :=
  { paged peerLeaf with slots := [(here, { wick with lines := l })] }
theorem witness_snuff_peer : ∃ s s1 x va c t q, Issues (.wkSnuff x) s ∧ s.reads2 x.a x.b va c q ∧
    s.canWrite s.cur x.d.toNat = true ∧ s.accessed s.cur .atomic 64 false va t s1 ∧
    peerOf s.cur t.pa ≠ none ∧ s1.lineOf s.cur t.pa = some 2 :=
  ⟨asked [(trPeer.pa, 2)], asked [(trPeer.pa, 2)], ⟨4, .reg 9, .reg 3, 0⟩, 0x10000, 5, trPeer, {}, issues_of (by decide),
    reads2_of (by decide), by decide, access_of (by decide +kernel), by decide +kernel⟩
theorem witness_line_asked : ∃ s s1 x y va c t q p, Issues (.wkSnuff x) s ∧ s.reads2 x.a x.b va c q ∧
    s.canWrite s.cur x.d.toNat = true ∧ s.accessed s.cur .atomic 64 false va t s1 ∧ s1.homeOk s.cur t.pa ∧
    Issues (.wkSpawn y) s ∧ s.reads1 y.a va p ∧ s.canWrite s.cur y.d.toNat = true ∧
    s.accessed s.cur .load 64 false va t s1 ∧ peerOf s.cur t.pa ≠ none ∧ s1.lineOf s.cur t.pa = none :=
  ⟨asked [], asked [], ⟨4, .reg 9, .reg 3, 0⟩, ⟨4, .reg 9, .reg 0, 0⟩, 0x10000, 5, trPeer, {}, {}, issues_of (by decide),
    reads2_of (by decide), by decide, access_of (by decide +kernel), ⟨fun h => absurd h (by decide), by decide +kernel⟩,
    issues_of (by decide), reads1_of (by decide), by decide, access_of (by decide +kernel), by decide +kernel⟩
theorem witness_prio : ∃ s x v q, Issues (.wkPrio x) s ∧ s.reads1 x.a v q ∧ s.canWrite s.cur x.d.toNat = true :=
  ⟨holding userWick, fa1, 7, {}, issues_of (by decide), reads1_of (by decide), by decide⟩
theorem witness_snuff_self : ∃ s x c q, Issues (.wkSnuffSelf x) s ∧ s.reads1 x.b c q ∧
    (s.failFull (dieOf s.cur) = false ∨ (s.die (dieOf s.cur)).overflow.length < 64) :=
  ⟨base, ⟨0, .reg 0, .reg 3, 0⟩, 5, {}, issues_of (by decide), reads1_of (by decide), .inr (by decide)⟩
/-! ### Memory -/

theorem witness_load : ∃ s s1 x w sx a b t q, Issues (.ld ⟨x, false, sx, w⟩) s ∧ (sx = true → w.toNat < 3) ∧
    s.reads2 x.a x.b a b q ∧ s.accessed s.cur .load (2 ^ w.toNat) (decide (2 ^ w.toNat = 4)) (a + b) t s1 ∧
    s1.canWrite s.cur x.d.toNat = true ∧ s1.homeOk s.cur t.pa ∧ peerOf s.cur t.pa = none ∧
    s1.readError t.pa = none :=
  ⟨base, base, fm, 2, true, near 0x2000, 0, tr 0x2000, {}, issues_of (by decide), by decide, reads2_of (by decide),
    access_of (by decide +kernel), by decide, home_of (by decide +kernel), by decide +kernel, by decide +kernel⟩
/-- The wick's core with a far page, while another slot's access waits in the engine's rotation. -/
def queuedUp : State :=
  { paged dramLeaf with clusters := [(clusterOf here, { thread := [(coreNo (coreOf here), [here + 1])] })] }
theorem witness_load_turn : ∃ s s1 x w a b t q, Issues (.ld ⟨x, false, false, w⟩) s ∧ s.reads2 x.a x.b a b q ∧
    s.accessed s.cur .load (2 ^ w.toNat) (decide (2 ^ w.toNat = 4)) (a + b) t s1 ∧ s1.canWrite s.cur x.d.toNat = true ∧
    s1.home (dieOf s.cur) t.pa = .ok ∧ s1.mayGo s.cur [t.pa] = false :=
  ⟨queuedUp, queuedUp, fv, 3, 0x10000, 0, trDram, {}, issues_of (by decide), reads2_of (by decide),
    access_of (by decide +kernel), by decide, by decide +kernel, by decide +kernel⟩
theorem witness_load_acquire_peer : ∃ s s1 x dbl sc a b t q d n, Issues (.ldAcq ⟨x, dbl, sc⟩) s ∧
    n = (if dbl then 8 else 4) ∧ s.reads2 x.a x.b a b q ∧
    s.accessed s.cur .load n (decide (n = 4)) (a + b) t s1 ∧ s1.canWrite s.cur x.d.toNat = true ∧
    s1.homeOk s.cur t.pa ∧ peerOf s.cur t.pa = some d :=
  ⟨paged peerLeaf, paged peerLeaf, fv, true, 6, 0x10000, 0, trPeer, {}, 1, 8, issues_of (by decide), by decide,
    reads2_of (by decide), access_of (by decide +kernel), by decide, home_of (by decide +kernel), by decide +kernel⟩
theorem witness_load_relaxed : ∃ s s1 x sx w a b t q, Issues (.ld ⟨x, true, sx, w⟩) s ∧ s.reads2 x.a x.b a b q ∧
    x.d.toNat < 26 ∧ s.accessed s.cur .load (2 ^ w.toNat) (decide (2 ^ w.toNat = 4)) (a + b) t s1 ∧
    s1.canWrite s.cur x.d.toNat = true ∧ s1.homeOk s.cur t.pa ∧ (s1.core (coreOf s.cur)).flights.length < 32 ∧
    (s.slot s.cur).wait = .none :=
  ⟨base, base, fm, false, 3, near 0x2000, 0, tr 0x2000, {}, issues_of (by decide), reads2_of (by decide), by decide,
    access_of (by decide +kernel), by decide, home_of (by decide +kernel), by decide, by decide⟩
theorem witness_store : ∃ s s1 x w a b v t q, Issues (.st ⟨x, false, false, w⟩) s ∧
    s.reads3 x.a x.b x.d.toNat a b v q ∧
    s.accessed s.cur .store (2 ^ w.toNat) (decide (2 ^ w.toNat = 4)) (a + b) t s1 ∧ s1.homeOk s.cur t.pa ∧
    peerOf s.cur t.pa = none ∧ s1.reserved t.pa = false ∧ s1.writeError t.pa (2 ^ w.toNat) = none :=
  ⟨base, base, { fm with d := 2 }, 3, near 0x2000, 0, 7, tr 0x2000, {}, issues_of (by decide), reads3_of (by decide),
    access_of (by decide +kernel), home_of (by decide +kernel), by decide +kernel⟩
theorem witness_store_reserved : ∃ s s1 x w a b v t q, Issues (.st ⟨x, false, false, w⟩) s ∧
    s.reads3 x.a x.b x.d.toNat a b v q ∧
    s.accessed s.cur .store (2 ^ w.toNat) (decide (2 ^ w.toNat = 4)) (a + b) t s1 ∧ s1.homeOk s.cur t.pa ∧
    peerOf s.cur t.pa = none ∧ s1.reserved t.pa = true :=
  let s : State := { base with resv := [⟨(tr 0x2000).pa / 8, []⟩] }
  ⟨s, s, { fm with d := 2 }, 3, near 0x2000, 0, 7, tr 0x2000, {}, issues_of (by decide), reads3_of (by decide),
    access_of (by decide +kernel), home_of (by decide +kernel), by decide +kernel⟩
theorem witness_store_release_peer : ∃ s s1 x dbl c a b v t q d n, Issues (.stRel ⟨x, dbl, c⟩) s ∧
    n = (if dbl then 8 else 4) ∧ s.reads3 x.a x.b x.d.toNat a b v q ∧
    s.accessed s.cur .store n (decide (n = 4)) (a + b) t s1 ∧
    s1.released s.cur c.toNat (some ((peerOf s.cur t.pa).getD (devOf s.cur))) true true = true ∧ s1.homeOk s.cur t.pa ∧
    peerOf s.cur t.pa = some d :=
  ⟨paged peerLeaf, paged peerLeaf, { fv with d := 2 }, false, 8, 0x10000, 0, 7, trPeer, {}, 1, 4,
    issues_of (by decide), by decide, reads3_of (by decide), access_of (by decide +kernel), by decide +kernel,
    home_of (by decide +kernel), by decide +kernel⟩
theorem witness_store_bytes : ∃ (s : State) (pa w : Nat), (region pa).inRange = true ∧ s.regionHit pa w = false :=
  ⟨base, scratchPa (clusterOf here) 0x3FFFF8, 8, by decide +kernel⟩
theorem witness_store_outside : ∃ pa, (region pa).inRange = false :=
  ⟨scratchPa (clusterOf here) 0x400000, by decide +kernel⟩
theorem witness_atomic : ∃ i s s1 x f a b v t q, Claims.atomicNew i = some (x, f) ∧ x.rel = false ∧ Issues i s ∧
    (∀ c, (s.slot s.cur).isPending c = false) ∧ s.reads3 x.a x.b x.d.toNat a b v q ∧
    let n := if x.dbl then 8 else 4
    s.accessed s.cur .atomic n false (a + b) t s1 ∧ s1.homeOk s.cur t.pa ∧ atomicNear s1 s.cur t.pa = true ∧
      s1.readError t.pa = none ∧ (region t.pa).inRange = true :=
  ⟨.amoCas ⟨{ fm with d := 2 }, true, false⟩, base, base, ⟨{ fm with d := 2 }, true, false⟩, _, near 0x2000, 0, 7,
    tr 0x2000, {}, rfl, rfl, issues_of (by decide), fun _ => rfl, reads3_of (by decide), access_of (by decide +kernel),
    home_of (by decide +kernel), by decide +kernel, by decide +kernel, by decide +kernel⟩
theorem witness_misaligned : ∃ i s s1 x k n a b v t q, Claims.scalarAccess i = some (x, k, n) ∧ Issues i s ∧
    (∀ c, (s.slot s.cur).isPending c = false) ∧
    (if k = .load then s.reads2 x.a x.b a b q else s.reads3 x.a x.b x.d.toNat a b v q) ∧
    s.xlate (coreOf s.cur) true (s.slot s.cur).user (s.slot s.cur).asid k (a + b) = (.ok t, s1) ∧
    (a + b).toNat % n ≠ 0 :=
  ⟨.st ⟨⟨2, .reg 8, .reg 3, 0⟩, false, false, 1⟩, base, base, ⟨2, .reg 8, .reg 3, 0⟩, .store, 2, near 0x2000, 5, 7,
    tr 0x2005, {}, rfl, issues_of (by decide), fun _ => rfl, reads3_of (by decide), by decide +kernel, by decide⟩
theorem witness_store_relaxed : ∃ s s1 x sx w a b v t q, Issues (.st ⟨x, true, sx, w⟩) s ∧
    s.reads3 x.a x.b x.d.toNat a b v q ∧
    s.accessed s.cur .store (2 ^ w.toNat) (decide (2 ^ w.toNat = 4)) (a + b) t s1 ∧ s1.homeOk s.cur t.pa ∧
    (s1.core (coreOf s.cur)).flights.length < 32 ∧ peerOf s.cur t.pa = none ∧ s1.reserved t.pa = false :=
  ⟨base, base, { fm with d := 2 }, false, 0, near 0x2000, 0, 7, tr 0x2000, {}, issues_of (by decide),
    reads3_of (by decide), access_of (by decide +kernel), home_of (by decide +kernel), by decide, by decide +kernel,
    by decide +kernel⟩
theorem witness_atomic_relaxed : ∃ i s s1 x f a b v t q, Claims.atomicNew i = some (x, f) ∧ Issues i s ∧
    (∀ c, (s.slot s.cur).isPending c = false) ∧ s.reads3 x.a x.b x.d.toNat a b v q ∧
    s.accessed s.cur .atomic (if x.dbl then 8 else 4) false (a + b) t s1 ∧ s1.homeOk s.cur t.pa ∧ x.rel = true ∧
    (s1.core (coreOf s.cur)).flights.length < 32 ∧ peerOf s.cur t.pa = some 1 :=
  ⟨.amoAdd ⟨{ fv with d := 2 }, false, true⟩, paged peerLeaf, paged peerLeaf, ⟨{ fv with d := 2 }, false, true⟩, _,
    0x10000, 0, 7, trPeer, {}, rfl, issues_of (by decide), fun _ => rfl, reads3_of (by decide),
    access_of (by decide +kernel), home_of (by decide +kernel), rfl, by decide, by decide +kernel⟩
theorem witness_atomic_away : ∃ i s s1 x f a b v t q, Claims.atomicNew i = some (x, f) ∧ Issues i s ∧
    (∀ c, (s.slot s.cur).isPending c = false) ∧ s.reads3 x.a x.b x.d.toNat a b v q ∧
    s.accessed s.cur .atomic (if x.dbl then 8 else 4) false (a + b) t s1 ∧ s1.homeOk s.cur t.pa ∧ x.rel = false ∧
    atomicNear s1 s.cur t.pa = false ∧ region t.pa = .dram 0 0 0 :=
  ⟨.amoFadd ⟨{ fv with d := 2 }, true, false⟩, paged dramLeaf, paged dramLeaf, ⟨{ fv with d := 2 }, true, false⟩, _,
    0x10000, 0, 7, trDram, {}, rfl, issues_of (by decide), fun _ => rfl, reads3_of (by decide),
    access_of (by decide +kernel), home_of (by decide +kernel), rfl, by decide +kernel, by decide +kernel⟩
theorem witness_fence : ∃ s x, Issues (.fenceAll x) s ∧ Issues (.fenceSt x) s ∧ Issues (.fenceLd x) s ∧
    s.released s.cur x.scope.toNat none true true = true ∧ s.released s.cur x.scope.toNat none false true = true ∧
    s.released s.cur x.scope.toNat none true false = true :=
  ⟨base, ⟨⟨0, .reg 0, .reg 0, 0⟩, 11⟩, issues_of (by decide), issues_of (by decide), issues_of (by decide), by decide,
    by decide, by decide⟩
/-- A relaxed access of the slot is outstanding. -/
def flying (k : AccKind) : State :=
  let q : PeerReq := ⟨here, near 0, 5, 0, 0, 8, k, 0, 0, some 1, .none, 1⟩
  { base with cores := [(coreOf here, { flights := [⟨1, here, 0, q, [q], [q.pa], 0⟩] })] }
theorem witness_fence_waits : ∃ s x, Issues (.fenceAll x) s ∧ s.drained s.cur x.scope.toNat none true true = false ∧
    Issues (.fenceSt x) s ∧ s.drained s.cur x.scope.toNat none false true = false :=
  ⟨flying .store, ⟨⟨0, .reg 0, .reg 0, 0⟩, 0⟩, issues_of (by decide), by decide, issues_of (by decide), by decide⟩
theorem witness_fence_acks : ∃ s x, Issues (.fenceAll x) s ∧ s.drained s.cur x.scope.toNat none true true = true ∧
    peerScope x.scope.toNat = true ∧ s.awaitsAcks s.cur x.scope.toNat none = true :=
  ⟨holding { wick with peerOut := [⟨1, 0⟩] }, ⟨⟨0, .reg 0, .reg 0, 0⟩, 6⟩, issues_of (by decide), by decide +kernel⟩
theorem witness_monitor_arm : ∃ s s1 x va t q vg m, Issues (.monArm x) s ∧ s.reads1 x.a va q ∧
    s.xlate (coreOf s.cur) true (s.slot s.cur).user (s.slot s.cur).asid .load va = (.ok t, s1) ∧
    s1.armable s.cur (t.pa / 64 * 64) = some vg ∧ s1.canWrite s.cur x.d.toNat = true ∧
    (s.slot s.cur).monOf (t.pa / 64 * 64) = none ∧ (s.slot s.cur).freeMon = some m :=
  ⟨base, base, fm, near 0x2000, tr 0x2000, {}, false, 0, issues_of (by decide), reads1_of (by decide), by decide +kernel,
    by decide +kernel, by decide, by decide +kernel, by decide +kernel⟩
/-- A monitor of the line at 0x2000. -/
def watching (fired : Bool) : Slot := { wick with mons := [(3, ⟨(tr 0x2000).pa / 64, false, fired⟩)] }
theorem witness_monitor_again : ∃ s s1 x va t q vg m, Issues (.monArm x) s ∧ s.reads1 x.a va q ∧
    s.xlate (coreOf s.cur) true (s.slot s.cur).user (s.slot s.cur).asid .load va = (.ok t, s1) ∧
    s1.armable s.cur (t.pa / 64 * 64) = some vg ∧ s1.canWrite s.cur x.d.toNat = true ∧
    (s.slot s.cur).monOf (t.pa / 64 * 64) = some m :=
  ⟨holding (watching true), holding (watching true), fm, near 0x2000, tr 0x2000, {}, false, 3,
    issues_of (by decide), reads1_of (by decide), by decide +kernel, by decide +kernel, by decide, by decide +kernel⟩
theorem witness_monitor_free : ∃ s x y v q, Issues (.monDis x) s ∧ Issues (.monClr y) s ∧ s.reads1 x.a v q ∧
    s.reads1 y.a v q :=
  ⟨holding (watching true), ⟨0, .reg 2, .reg 0, 0⟩, ⟨0, .reg 2, .reg 0, 0⟩, 7, {}, issues_of (by decide),
    issues_of (by decide), reads1_of (by decide), reads1_of (by decide)⟩
theorem witness_monitor_fired : ∃ s x v q, Issues (.monWait x) s ∧ s.reads1 x.a v q ∧
    s.canWrite s.cur x.d.toNat = true ∧ (s.slot s.cur).fired ≠ 0 :=
  ⟨holding (watching true), fa1, 7, {}, issues_of (by decide), reads1_of (by decide), by decide, by decide⟩
theorem witness_monitor_trap : ∃ s x v q, Issues (.monWait x) s ∧ s.reads1 x.a v q ∧
    s.canWrite s.cur x.d.toNat = true ∧ (s.slot s.cur).mons = [] ∧ v.toNat % 2 ^ 32 = 0 ∧
    (s.slot s.cur).heard ≠ .expired :=
  ⟨base, { fa1 with a := .reg 0 }, 0, {}, issues_of (by decide), reads1_of (by decide), by decide⟩
theorem witness_monitor_waits : ∃ s x v q, Issues (.monWait x) s ∧ s.reads1 x.a v q ∧
    s.canWrite s.cur x.d.toNat = true ∧ (s.slot s.cur).heard ≠ .expired ∧ (s.slot s.cur).fired = 0 ∧ v.toNat % 2 ^ 32 ≠ 0 :=
  ⟨holding (watching false), fa1, 7, {}, issues_of (by decide), reads1_of (by decide), by decide⟩
/-! ### Vectors -/

theorem witness_vec_lane : ∃ i s x f, Claims.vecLane i = some (x, f) ∧ Issues i s ∧
    (∀ c, (s.slot s.cur).isPending c = false) :=
  ⟨.vecFma ⟨1, 2, 3, 0, 2⟩, base, ⟨1, 2, 3, 0, 2⟩, _, rfl, issues_of (by decide), fun _ => rfl⟩
theorem witness_vec_move : ∃ i s x f y, Claims.vecMove i = some (x, f) ∧ Issues i s ∧ Issues (.vecSel y) s ∧
    (∀ c, (s.slot s.cur).isPending c = false) :=
  ⟨.vecShuf ⟨1, 2, 3, 0, 3⟩, base, ⟨1, 2, 3, 0, 3⟩, _, ⟨1, 2, 3, 0, 0⟩, rfl, issues_of (by decide),
    issues_of (by decide), fun _ => rfl⟩
theorem witness_vec_fold : ∃ i j s x y ff fi gf gi, Claims.vecFold i = some (x, ff, fi) ∧ Issues i s ∧ x.t.toNat < 4 ∧
    Claims.vecFold j = some (y, gf, gi) ∧ Issues j s ∧ 4 ≤ y.t.toNat ∧ y.t.toNat < 7 ∧
    (∀ c, (s.slot s.cur).isPending c = false) :=
  ⟨.vecRsum ⟨1, 2, 0, 0, 3⟩, .vecRmin ⟨1, 2, 0, 0, 6⟩, base, ⟨1, 2, 0, 0, 3⟩, ⟨1, 2, 0, 0, 6⟩, _, _, _, _, rfl,
    issues_of (by decide), by decide, rfl, issues_of (by decide), by decide, by decide, fun _ => rfl⟩
theorem witness_vec_convert : ∃ s x, Issues (.vecCvt x) s ∧ (∀ c, (s.slot s.cur).isPending c = false) :=
  ⟨base, ⟨0, 8, 2, 0, 0⟩, issues_of (by decide), fun _ => rfl⟩
/-- A slot whose v5 holds the scale 1.0 in each lane. -/
def scaled : Slot := { wick with v := [(5, BitVec.ofNat 1024 ((List.range 32).foldl (fun v j => v + 0x3F800000 * 2 ^ (32 * j)) 0))] }
theorem witness_vec_scale : ∃ s x, Issues (.vecScale x) s ∧ (∀ c, (s.slot s.cur).isPending c = false) ∧
    ∀ j < laneCount x.t.toNat, scaleValid (vget ((s.slot s.cur).vreg x.b.toNat)
      (if x.t.toNat = 2 then 0 else 32 * (j / 32)) 32) = true :=
  ⟨holding scaled, ⟨8, 1, 5, 0, 3⟩, issues_of (by decide), fun _ => rfl, by decide +kernel⟩
theorem witness_vec_scale_trap : ∃ s x, Issues (.vecScale x) s ∧ (∀ c, (s.slot s.cur).isPending c = false) ∧
    ∃ j < laneCount x.t.toNat, scaleValid (vget ((s.slot s.cur).vreg x.b.toNat)
      (if x.t.toNat = 2 then 0 else 32 * (j / 32)) 32) = false :=
  ⟨base, ⟨4, 1, 5, 0, 2⟩, issues_of (by decide), fun _ => rfl, 0, by decide, by decide +kernel⟩

/-- The translations of lanes at scratchpad offsets. -/
def lanes (s : State) (k : XKind) (vas : List Word) (offs : List Nat) : Bool :=
  decide (vas = offs.map near) &&
    offs.all (fun o => decide (s.xlate (coreOf s.cur) true (s.slot s.cur).user (s.slot s.cur).asid k (near o) = (.ok (tr o), s)))
theorem translated_of {s : State} {k : XKind} : ∀ {offs : List Nat} {vas : List Word}, lanes s k vas offs = true →
    Claims.translated s.cur k s vas (offs.map tr) s
  | [], vas, h => by
    simp only [lanes, List.map_nil, List.all_nil, Bool.and_true, decide_eq_true_eq] at h
    subst h; rfl
  | o :: os, vas, h => by
    simp only [lanes, List.map_cons, List.all_cons, Bool.and_eq_true, decide_eq_true_eq] at h
    obtain ⟨rfl, h1, h2⟩ := h
    exact ⟨s, h1, translated_of (by simpa [lanes] using h2)⟩
/-- The checks of `Claims.lanesPass`, decided. -/
def passB (s : State) (k : XKind) (n al : Nat) (tol : Bool) (ts : List Xlat) : Bool :=
  s.mayGo s.cur (ts.map (fun t => t.pa)) && ts.all (fun t => decide (t.va.toNat % al = 0) &&
    !s.lockHit (clusterOf s.cur) (s.slot s.cur).asid t.va.toNat n (decide (k = .store)) && (!t.tol || tol) &&
    decide (s.targetCause s.cur k n t = none) && decide (s.home (dieOf s.cur) t.pa = .ok) &&
    (decide (k ≠ .load) || decide (s.readFault t.pa (t.width n) = none)) &&
    (decide (k ≠ .store) || decide (s.writeError t.pa (t.width n) = none)))
theorem pass_of {s : State} {k : XKind} {n al : Nat} {tol : Bool} {ts : List Xlat} (h : passB s k n al tol ts = true) :
    Claims.lanesPass s s.cur k n al tol ts := by
  rw [passB, Bool.and_eq_true] at h
  refine ⟨h.1, fun t ht => ?_⟩
  have := List.all_eq_true.mp h.2 t ht
  simp only [Bool.and_eq_true, Bool.or_eq_true, Bool.not_eq_true', decide_eq_true_eq] at this
  obtain ⟨⟨⟨⟨⟨⟨h1, h2⟩, h3⟩, h4⟩, h5⟩, h6⟩, h7⟩ := this
  exact ⟨h1, h2, fun ht => by simpa [ht] using h3, h4, fun _ => h5, fun hk _ => by simpa [hk] using h6,
    fun hk _ => by simpa [hk] using h7⟩

theorem witness_vector_memory : ∃ i s s1 x ld strided relaxed a b q1 q2 ts,
    Claims.vecMem i = some (x, ld, strided, relaxed) ∧ Issues i s ∧ (∀ c, (s.slot s.cur).isPending c = false) ∧
    s.readCode s.cur x.a.toNat {} = some (a, q1) ∧ s.readCode s.cur x.b.toNat q1 = some (b, q2) ∧
    let t := x.t.toNat
    let k : XKind := if ld then .load else .store
    let n := if t = 3 then 20 else laneBits t / 8
    Claims.translated s.cur k s (Claims.laneVas t strided a b) ts s1 ∧
      Claims.lanesPass s1 s.cur k n (if t = 3 then 4 else n) (decide (t = 0) || decide (t = 4)) ts ∧
      relaxed = false ∧ ld = true :=
  ⟨.vldC ⟨2, 8, 0, 0, 3⟩, base, base, ⟨2, 8, 0, 0, 3⟩, true, false, false, near 0x2000, 0, {}, {},
    ((List.range 8).map (fun i => 0x2000 + 20 * i)).map tr, rfl, issues_of (by decide), fun _ => rfl, by decide, by decide,
    translated_of (s := base) (by decide +kernel), pass_of (by decide +kernel), rfl, rfl⟩
theorem witness_vector_store : ∃ i s s1 x ld strided relaxed a b q1 q2 ts,
    Claims.vecMem i = some (x, ld, strided, relaxed) ∧ Issues i s ∧ (∀ c, (s.slot s.cur).isPending c = false) ∧
    s.readCode s.cur x.a.toNat {} = some (a, q1) ∧ s.readCode s.cur x.b.toNat q1 = some (b, q2) ∧
    let t := x.t.toNat
    let k : XKind := if ld then .load else .store
    let n := if t = 3 then 20 else laneBits t / 8
    Claims.translated s.cur k s (Claims.laneVas t strided a b) ts s1 ∧
      Claims.lanesPass s1 s.cur k n (if t = 3 then 4 else n) (decide (t = 0) || decide (t = 4)) ts ∧
      relaxed = false ∧ ld = false ∧ ∀ u ∈ ts, peerOf s.cur u.pa = none → s1.reserved u.pa = false :=
  ⟨.vstS ⟨2, 8, 10, 0, 0⟩, holding { wick with g := Tab.put 10 8 wick.g }, holding { wick with g := Tab.put 10 8 wick.g },
    ⟨2, 8, 10, 0, 0⟩, false, true, false, near 0x2000, 8, {}, {}, ((List.range 32).map (fun i => 0x2000 + 8 * i)).map tr,
    rfl, issues_of (by decide), fun _ => rfl, by decide, by decide,
    translated_of (s := holding { wick with g := Tab.put 10 8 wick.g }) (by decide +kernel), pass_of (by decide +kernel),
    rfl, rfl, fun _ _ _ => rfl⟩
theorem witness_vector_relaxed : ∃ i s s1 x ld strided relaxed a b q1 q2 ts,
    Claims.vecMem i = some (x, ld, strided, relaxed) ∧ Issues i s ∧ (∀ c, (s.slot s.cur).isPending c = false) ∧
    s.readCode s.cur x.a.toNat {} = some (a, q1) ∧ s.readCode s.cur x.b.toNat q1 = some (b, q2) ∧
    let t := x.t.toNat
    let k : XKind := if ld then .load else .store
    let n := if t = 3 then 20 else laneBits t / 8
    Claims.translated s.cur k s (Claims.laneVas t strided a b) ts s1 ∧
      Claims.lanesPass s1 s.cur k n (if t = 3 then 4 else n) (decide (t = 0) || decide (t = 4)) ts ∧
      relaxed = true ∧ ld = false ∧ (s1.core (coreOf s.cur)).flights.length < 32 :=
  ⟨.vstCR ⟨2, 8, 0, 0, 1⟩, base, base, ⟨2, 8, 0, 0, 1⟩, false, false, true, near 0x2000, 0, {}, {},
    ((List.range 64).map (fun i => 0x2000 + 2 * i)).map tr, rfl, issues_of (by decide), fun _ => rfl, by decide, by decide,
    translated_of (s := base) (by decide +kernel), pass_of (by decide +kernel), rfl, rfl, by decide⟩
/-- A slot whose v3 names lane 0 alone, its index 4. -/
def gathering : Slot := { wick with v := [(3, BitVec.ofNat 1024 (2 ^ 1024 - 2 ^ 32 + 4))] }
/-- The state with that slot. -/
def gathers : State := holding gathering
theorem gather_lane {n : Nat} (h : n = 3) :
    Claims.gatherLanes (near 0x2000) ((gathers.slot gathers.cur).vreg n) = [(0, near 0x2010)] := by
  subst h; decide +kernel
theorem witness_gather : ∃ s s1 x base q ts, (∀ c, (s.slot s.cur).isPending c = false) ∧
    s.readCode s.cur x.a.toNat {} = some (base, q) ∧ Issues (.vgthG x) s ∧
    Claims.translated s.cur .load s ((Claims.gatherLanes base ((s.slot s.cur).vreg x.b.toNat)).map Prod.snd) ts s1 ∧
    Claims.lanesPass s1 s.cur .load 4 4 true ts ∧ (∀ u ∈ ts, peerOf s.cur u.pa = none) :=
  ⟨gathers, gathers, ⟨2, 8, 3, 0, 0⟩, near 0x2000, {}, [0x2010].map tr, fun _ => rfl, by decide,
    issues_of (by decide), by rw [gather_lane (by decide)]; exact translated_of (s := gathers) (by decide +kernel),
    pass_of (s := gathers) (by decide +kernel), by decide +kernel⟩
/-- The same slot with a fault latched in another page. -/
def latchedFar : State := holding { gathering with glatch := some (5, 0x41) }
theorem far_lane {n : Nat} (h : n = 3) :
    Claims.gatherLanes (near 0x2000) ((latchedFar.slot latchedFar.cur).vreg n) = [(0, near 0x2010)] := by
  subst h; decide +kernel
theorem witness_gather_threads : ∃ s s1 x base q rs, (∀ c, (s.slot s.cur).isPending c = false) ∧
    s.readCode s.cur x.a.toNat {} = some (base, q) ∧ Issues (.vgthGt x) s ∧
    (∀ g, (s.slot s.cur).glatch = some g →
      ∀ p ∈ Claims.gatherLanes base ((s.slot s.cur).vreg x.b.toNat), p.2.toNat / 2 ^ 16 ≠ g.1) ∧
    (s.slot s.cur).glatch ≠ none ∧
    Claims.gathered s.cur s (Claims.gatherLanes base ((s.slot s.cur).vreg x.b.toNat)) rs s1 ∧
    Claims.lanesPass s1 s.cur .load 4 4 true (rs.filterMap Prod.snd) ∧
    (∀ u ∈ rs.filterMap Prod.snd, peerOf s.cur u.pa = none) ∧ x.b ≠ x.d :=
  ⟨latchedFar, latchedFar, ⟨2, 8, 3, 0, 4⟩, near 0x2000, {}, [(0, some (tr 0x2010))], fun _ => rfl, by decide,
    issues_of (by decide), by
      intro g hg p hp
      cases hg
      rw [far_lane (by decide)] at hp
      cases List.mem_singleton.mp hp
      decide, by decide, by
      rw [far_lane (by decide)]
      exact ⟨rfl, latchedFar, .inl ⟨tr 0x2010, by decide +kernel, rfl⟩, rfl⟩,
    pass_of (s := latchedFar) (by decide +kernel), by decide +kernel, by decide⟩
theorem witness_gather_latched : ∃ s x base q g, (∀ c, (s.slot s.cur).isPending c = false) ∧
    s.readCode s.cur x.a.toNat {} = some (base, q) ∧ Issues (.vgthGt x) s ∧ (s.slot s.cur).glatch = some g ∧
    ((Claims.gatherLanes base ((s.slot s.cur).vreg x.b.toNat)).head?.map (fun p => p.2.toNat / 2 ^ 16)) = some g.1 :=
  ⟨holding { gathering with glatch := some (0x1FFFFFF0000, 0x41) }, ⟨2, 8, 3, 0, 0⟩, near 0x2000, {}, (0x1FFFFFF0000, 0x41),
    fun _ => rfl, by decide, issues_of (by decide), by decide, by decide +kernel⟩

/-! ### Exceptions -/

theorem witness_traps : ∃ s x y z w v m q, Issues (.trapSw x) s ∧ s.reads1 x.a v q ∧ Issues (.trapBrk y) s ∧
    Issues (.trapRet z) s ∧ Issues (.trapMsk w) s ∧ s.reads2 w.a w.b v m q ∧ s.canWrite s.cur w.d.toNat = true :=
  ⟨base, ⟨0, .reg 2, .reg 0, 0⟩, ⟨0, .reg 0, .reg 0, 0⟩, ⟨0, .reg 0, .reg 0, 0⟩, fa, 7, 5, {}, issues_of (by decide),
    reads1_of (by decide), issues_of (by decide), issues_of (by decide), issues_of (by decide), reads2_of (by decide),
    by decide⟩
/-- User mode with an upcall handler. -/
def upWick : Slot := { userWick with uvec := near 0x3000 }
theorem witness_entry_up : ∃ (s0 : State) (k c : Nat) (r : Word), c < 256 ∧ r.toNat < 2 ^ 57 ∧ r.toNat % 4 = 0 ∧
    let y := (s0.giveUp k).slot k
    (fateOf c = .up ∨ fateOf c = .park) ∧ y.user = true ∧ y.uvec ≠ 0 ∧ y.uepc.getLsbD 0 = false :=
  ⟨holding upWick, here, 0x41, near 4, by decide +kernel⟩
theorem witness_entry_system : ∃ (s0 : State) (k c : Nat) (r : Word), c < 256 ∧ r.toNat < 2 ^ 57 ∧ r.toNat % 4 = 0 ∧
    let y := (s0.giveUp k).slot k
    fateOf c ≠ .fail ∧ y.user = false ∧ y.ie = true ∧ y.tvec ≠ 0 :=
  ⟨base, here, 0x0F, near 4, by decide +kernel⟩
theorem witness_entry_deferred : ∃ (s0 : State) (k c : Nat) (r : Word), c < 256 ∧ r.toNat < 2 ^ 57 ∧ r.toNat % 4 = 0 ∧
    let s := ((s0.giveUp k).onSlot k (fun x => { x with latch := none })).settleAll (devOf k)
      (match (s0.slot k).latch with | some l => l.owed | none => [])
    let y := s.slot k
    fateOf c = .up ∧ y.user = false ∧ y.ie = true ∧ y.tvec ≠ 0 :=
  ⟨holding { wick with latch := some ⟨near 8, 1, false, [1]⟩ }, here, 0x90, near 4, by decide +kernel⟩
theorem witness_entry_fails : ∃ (s0 t0 : State) (k c : Nat) (r : Word), c < 256 ∧ r.toNat < 2 ^ 57 ∧ r.toNat % 4 = 0 ∧
    let y := (s0.giveUp k).slot k
    let z := (t0.giveUp k).slot k
    fateOf c ≠ .fail ∧ y.user = false ∧ y.ie = false ∧ z.user = true ∧ z.tvec = 0 ∧ z.uvec = 0 :=
  ⟨holding { wick with tmask := 0 }, holding { userWick with tvec := 0 }, here, 0x63, near 4, by decide +kernel⟩
/-- A slot with a recorded fault. -/
def latched (x : Slot) : State := holding { x with latch := some ⟨near 8, 1, false, [1]⟩ }
/-- A fence of every scope. -/
def fz (sc : BitVec 4) : FmtZ := ⟨⟨0, .reg 0, .reg 0, 0⟩, sc⟩
theorem witness_delivery : ∃ s l, (s.slot s.cur).latch = some l ∧ (s.slot s.cur).upcallOk = true ∧
    ∀ i, (i = .fenceAll (fz 5) ∨ i = .fenceSt (fz 6) ∨ i = .fenceLd (fz 8)) → Issues i s ∧ Claims.deliveryPoint i s := by
  refine ⟨latched upWick, ⟨near 8, 1, false, [1]⟩, by decide, by decide, ?_⟩
  rintro i (rfl | rfl | rfl)
  all_goals exact ⟨issues_of (by decide), by decide, by decide, by decide⟩
theorem witness_delivery_release : ∃ s x l, Issues (.stRel x) s ∧ (s.slot s.cur).latch = some l ∧
    (s.slot s.cur).upcallOk = false ∧ (s.slot s.cur).tvec ≠ 0 ∧ (s.slot s.cur).ie = true ∧ Claims.deliveryPoint (.stRel x) s :=
  ⟨latched wick, ⟨{ fm with d := 2 }, true, 6⟩, ⟨near 8, 1, false, [1]⟩, issues_of (by decide), by decide, by decide, by decide,
    by decide, near 0x2000, 0, 7, tr 0x2000, {}, latched wick, reads3_of (by decide), access_of (by decide +kernel), by decide,
    by decide, by decide⟩
theorem witness_delivery_leaving : ∃ s x y z w l, Issues (.wkDone x) s ∧ Issues (.wkWaitw y) s ∧ Issues (.wkSusp z) s ∧
    Issues (.wkMigr w) s ∧ (s.slot s.cur).latch = some l ∧ Claims.deliveryPoint (.wkSusp z) s ∧
    Claims.deliveryPoint (.wkMigr w) s :=
  ⟨latched wick, ⟨0, .reg 0, .reg 0, 0⟩, ⟨0, .reg 0, .reg 0, 0⟩, ⟨0, .reg 8, .reg 0, 0⟩, ⟨0, .reg 8, .reg 0, 0⟩,
    ⟨near 8, 1, false, [1]⟩, issues_of (by decide), issues_of (by decide), issues_of (by decide), issues_of (by decide),
    by decide, ⟨near 0x2000, {}, reads1_of (by decide)⟩, near 0x2000, {}, tr 0x2000, latched wick, (clusterOf here, none),
    reads1_of (by decide), by decide +kernel, by decide, by decide +kernel, by decide +kernel⟩
theorem witness_decode_cause : ∃ (i : Instr) (s : State) (c : Nat), i.enc.encoded = true ∧
    decodeCause s s.cur i.enc = some c ∧ encAwaits i.enc (s.slot s.cur) = none :=
  ⟨.aluAdd ⟨30, .reg 0, .reg 0, 1⟩, base, 2, by decide⟩
theorem witness_decode_awaits : ∃ (i : Instr) (s : State) (n : Nat), i.enc.encoded = true ∧
    encAwaits i.enc (s.slot s.cur) = some n ∧ decodeCause s s.cur i.enc = none :=
  ⟨.jmpJr ⟨0, .reg 2, .reg 0, 0⟩, holding { wick with pend := [⟨2, false, 0⟩] }, 2, by decide⟩
theorem witness_guard : ∃ (i : Instr) (s : State), i.enc.encoded = true ∧ decodeCause s s.cur i.enc = none ∧
    encAwaits i.enc (s.slot s.cur) = none ∧ (s.slot s.cur).p i.enc.guard = false :=
  ⟨.aluAdd { fa with p := 15 }, base, by decide⟩
theorem witness_privilege : ∃ (i : Instr) (s : State), i.enc.encoded = true ∧ Claims.systemOnly i = true ∧
    (s.slot s.cur).user = true ∧ i.wordCause = none := ⟨.trapRet ⟨0, .reg 0, .reg 0, 0⟩, holding userWick, by decide⟩
/-! ### Vigils -/

/-- A vigil at 0x2000 of group 9 and the wick's asid, in a state, epoch 4, with one arrival left and no bytes. -/
def vigil (st grp : Nat) (x : Slot) : State :=
  poke (poke (holding { x with grp := BitVec.ofNat 16 grp }) 0x2000 8 (0x5647 * 2 ^ 48 + 9 * 2 ^ 32 + 4 * 2 ^ 16 + st))
    0x2008 8 (5 * 2 ^ 32 + 1)
/-- The vigil's line. -/
abbrev line : Nat := (tr 0x2000).pa
/-- The checks of `Claims.vigilAt`, decided. -/
theorem vigil_at {s : State} {k : XKind} {n : Nat} (h : (decide (s.xlate (coreOf s.cur) true (s.slot s.cur).user
    (s.slot s.cur).asid k (near n) = (.ok (tr n), s)) && decide ((near n).toNat % 64 = 0) &&
    vigilHome (devOf s.cur) (tr n).pa && !s.lockHit (clusterOf s.cur) (s.slot s.cur).asid (near n).toNat 8 true &&
    decide (s.home (dieOf s.cur) (tr n).pa = .ok) && s.mayGo s.cur [(tr n).pa] &&
    decide (s.readError (tr n).pa = none)) = true) :
    Claims.vigilAt s k (near n) (tr n).pa s := by
  simp only [Bool.and_eq_true, decide_eq_true_eq, Bool.not_eq_true'] at h
  obtain ⟨⟨⟨⟨⟨⟨h1, h2⟩, h3⟩, h4⟩, h5⟩, h6⟩, h7⟩ := h
  exact ⟨tr n, h1, rfl, rfl, h2, h3, h4, ⟨fun _ => h5, h6⟩, h7⟩
/-- A slot that remembers no answered wait has heard no notice. -/
theorem unheard {x : Slot} (h : x.heard = .none) : ∀ l e, x.heard ≠ .noticed l e := by
  intro l e; rw [h]; exact fun he => by cases he
theorem witness_vigil_init : ∃ s s1 x va b v line q, Issues (.vgInit x) s ∧ s.reads3 x.a x.b x.d.toNat va b v q ∧
    Claims.vigilAt s .store va line s1 ∧ v.toNat < 2 ^ 48 ∧ b.toNat < 2 ^ 63 ∧ s1.home (dieOf s.cur) (masterPa line) = .ok ∧
    (s.die (vigilMaster line)).armed.length < 4096 :=
  ⟨base, base, ⟨2, .reg 8, .reg 3, 0⟩, near 0x2000, 5, 7, line, {}, issues_of (by decide), reads3_of (by decide),
    vigil_at (by decide +kernel), by decide, by decide, by decide +kernel, by decide⟩
theorem witness_vigil_group : ∃ s t x v q y, Issues (.vgJoin x) s ∧ s.reads1 x.a v q ∧
    s.canWrite s.cur x.d.toNat = true ∧ v ≠ 0 ∧ v.toNat < 2 ^ 16 ∧ (s.slot s.cur).grp = 0 ∧
    Issues (.vgLeave y) s ∧ s.canWrite s.cur y.d.toNat = true ∧
    Issues (.vgJoin x) t ∧ t.reads1 x.a v q ∧ t.canWrite t.cur x.d.toNat = true ∧ Issues (.vgLeave y) t ∧
    t.canWrite t.cur y.d.toNat = true ∧ (t.slot t.cur).grp ≠ 0 :=
  ⟨base, holding { wick with grp := 0xFFFF }, fa1, 7, {}, ⟨4, .reg 0, .reg 0, 0⟩, issues_of (by decide), reads1_of (by decide),
    by decide, by decide, by decide, by decide, issues_of (by decide), by decide, issues_of (by decide),
    reads1_of (by decide), by decide, issues_of (by decide), by decide, by decide⟩
theorem witness_vigil_arrive : ∃ s s1 x va line q, Issues (.vgArr x) s ∧ s.reads1 x.a va q ∧
    Claims.vigilAt s .load va line s1 ∧ s.isVigil line = true ∧
    vgAsid (s.readN (line + 8) 8) = (s.slot s.cur).asid.toNat ∧ vgGrp (s.readN line 8) = (s.slot s.cur).grp.toNat ∧
    s1.released s.cur 4 (some (devOf s.cur)) true true = true ∧
    (s.slot s.cur).vlatch ≠ some (va.toNat, vgEpoch (s.readN line 8)) ∧ vgState (s.readN line 8) ≠ 3 :=
  ⟨vigil 1 9 wick, vigil 1 9 wick, ⟨0, .reg 8, .reg 0, 0⟩, near 0x2000, line, {}, issues_of (by decide +kernel),
    reads1_of (by decide +kernel), vigil_at (by decide +kernel), by decide +kernel⟩
theorem witness_vigil_wait : ∃ s s1 t t1 x va line q, Issues (.vgWait x) s ∧ s.reads1 x.a va q ∧
    s.canWrite s.cur x.d.toNat = true ∧ Claims.vigilAt s .load va line s1 ∧ s.isVigil line = true ∧
    vgState (s.readN line 8) = 1 ∧ (∀ l e, (s.slot s.cur).heard ≠ .noticed l e) ∧
    Issues (.vgWait x) t ∧ t.reads1 x.a va q ∧ t.canWrite t.cur x.d.toNat = true ∧ Claims.vigilAt t .load va line t1 ∧
    t.isVigil line = true ∧ vgState (t.readN line 8) = 2 :=
  ⟨vigil 1 9 wick, vigil 1 9 wick, vigil 2 9 wick, vigil 2 9 wick, fm, near 0x2000, line, {}, issues_of (by decide +kernel),
    reads1_of (by decide +kernel), by decide +kernel, vigil_at (by decide +kernel), by decide +kernel, by decide +kernel,
    unheard (by decide +kernel),
    issues_of (by decide +kernel), reads1_of (by decide +kernel), by decide +kernel, vigil_at (by decide +kernel),
    by decide +kernel, by decide +kernel⟩
theorem witness_vigil_arrive_wait : ∃ s s1 t t1 x va line q, Issues (.vgArrw x) s ∧ s.reads1 x.a va q ∧
    s.canWrite s.cur x.d.toNat = true ∧ Claims.vigilAt s .load va line s1 ∧
    s1.released s.cur 4 (some (devOf s.cur)) true true = true ∧ s.isVigil line = true ∧
    vgAsid (s.readN (line + 8) 8) = (s.slot s.cur).asid.toNat ∧ vgGrp (s.readN line 8) = (s.slot s.cur).grp.toNat ∧
    vgState (s.readN line 8) = 1 ∧ (s.slot s.cur).vlatch ≠ some (va.toNat, vgEpoch (s.readN line 8)) ∧
    (∀ l e, (s.slot s.cur).heard ≠ .noticed l e) ∧
    Issues (.vgArrw x) t ∧ t.reads1 x.a va q ∧ t.canWrite t.cur x.d.toNat = true ∧ Claims.vigilAt t .load va line t1 ∧
    t1.released t.cur 4 (some (devOf t.cur)) true true = true ∧ t.isVigil line = true ∧
    vgAsid (t.readN (line + 8) 8) = (t.slot t.cur).asid.toNat ∧ vgGrp (t.readN line 8) = (t.slot t.cur).grp.toNat ∧
    vgState (t.readN line 8) = 2 ∧ (t.slot t.cur).vlatch ≠ some (va.toNat, vgEpoch (t.readN line 8)) ∧
    (∀ l e, (t.slot t.cur).heard ≠ .noticed l e) :=
  ⟨vigil 1 9 wick, vigil 1 9 wick, vigil 2 9 wick, vigil 2 9 wick, fm, near 0x2000, line, {}, issues_of (by decide +kernel),
    reads1_of (by decide +kernel), by decide +kernel, vigil_at (by decide +kernel), by decide +kernel, by decide +kernel,
    by decide +kernel, by decide +kernel, by decide +kernel, by decide +kernel,
    unheard (by decide +kernel),
    issues_of (by decide +kernel), reads1_of (by decide +kernel), by decide +kernel, vigil_at (by decide +kernel),
    by decide +kernel, by decide +kernel, by decide +kernel, by decide +kernel, by decide +kernel, by decide +kernel,
    unheard (by decide +kernel)⟩
theorem witness_vigil_noticed : ∃ (s t : State) (x : FmtA) (va : Word) (line e : Nat) (q : Reading),
    (∀ u : State, u = s ∨ u = t → Issues (.vgWait x) u ∧ Issues (.vgArrw x) u ∧ u.reads1 x.a va q ∧
      u.canWrite u.cur x.d.toNat = true ∧ (u.slot u.cur).heard = .noticed line e ∧ u.mayGo u.cur [line] = true ∧
      u.readError line = none) ∧
    vgState (s.readN line 8) = 1 ∧ vgEpoch (s.readN line 8) = e ∧ vgState (t.readN line 8) = 2 :=
  ⟨vigil 1 9 { wick with wait := .noticed line 4 }, vigil 2 9 { wick with wait := .noticed line 4 }, fm, near 0x2000, line,
    4, {}, fun u hu => by
      rcases hu with rfl | rfl <;>
        exact ⟨issues_of (by decide +kernel), issues_of (by decide +kernel), reads1_of (by decide +kernel),
          by decide +kernel⟩,
    by decide +kernel⟩
theorem witness_vigil_break : ∃ s s1 t t1 x va b line q, Issues (.vgBrk x) s ∧ s.reads2 x.a x.b va b q ∧
    Claims.vigilAt s .store va line s1 ∧ s.isVigil line = true ∧
    vgAsid (s.readN (line + 8) 8) = (s.slot s.cur).asid.toNat ∧ s1.released s.cur 4 (some (devOf s.cur)) true true = true ∧
    vgState (s.readN line 8) = 1 ∧ Issues (.vgBrk x) t ∧ t.reads2 x.a x.b va b q ∧
    Claims.vigilAt t .store va line t1 ∧ t.isVigil line = true ∧
    vgAsid (t.readN (line + 8) 8) = (t.slot t.cur).asid.toNat ∧ t1.released t.cur 4 (some (devOf t.cur)) true true = true ∧
    vgState (t.readN line 8) = 3 :=
  ⟨vigil 1 0 wick, vigil 1 0 wick, vigil 3 0 wick, vigil 3 0 wick, ⟨0, .reg 8, .reg 3, 0⟩, near 0x2000, 5, line, {},
    issues_of (by decide +kernel), reads2_of (by decide +kernel), vigil_at (by decide +kernel), by decide +kernel,
    by decide +kernel, by decide +kernel, by decide +kernel, issues_of (by decide +kernel), reads2_of (by decide +kernel),
    vigil_at (by decide +kernel), by decide +kernel⟩
theorem witness_vigil_group_break : ∃ s s1 x va b line q y, Issues (.vgBrkGroup x) s ∧ s.reads1 x.b b q ∧
    s.released s.cur 4 (some (devOf s.cur)) true true = true ∧ (s.slot s.cur).grp ≠ 0 ∧
    Issues (.vgStat y) s ∧ s.reads2 y.a y.b va b q ∧ s.canWrite s.cur y.d.toNat = true ∧
    Claims.vigilAt s .load va line s1 :=
  let s := vigil 1 9 wick
  ⟨s, s, ⟨0, .reg 0, .reg 3, 0⟩, near 0x2000, 5, line, {}, ⟨4, .reg 8, .reg 3, 0⟩, issues_of (by decide +kernel),
    reads1_of (by decide +kernel), by decide +kernel, by decide +kernel, issues_of (by decide +kernel),
    reads2_of (by decide +kernel), by decide +kernel, vigil_at (by decide +kernel)⟩
theorem witness_vigil_master : ∃ (s t : State) (a : Arrival), a.n < 2 ^ 32 ∧ s.isVigil a.line = true ∧
    vgEpoch (s.readN a.line 8) = a.epoch ∧ vgState (s.readN a.line 8) = 1 ∧ a.n ≤ s.readN (a.line + 8) 8 % 2 ^ 32 ∧
    t.isVigil a.line = true ∧ vgEpoch (t.readN a.line 8) = a.epoch ∧ vgState (t.readN a.line 8) = 2 :=
  ⟨vigil 1 9 wick, vigil 2 9 wick, ⟨line, 4, 5, 9, 1⟩, by decide +kernel⟩
theorem witness_vigil_over : ∃ (s : State) (a : Arrival), a.n < 2 ^ 32 ∧ s.isVigil a.line = true ∧
    vgEpoch (s.readN a.line 8) = a.epoch ∧ vgState (s.readN a.line 8) = 1 ∧ s.readN (a.line + 8) 8 % 2 ^ 32 < a.n :=
  ⟨vigil 1 9 wick, ⟨line, 4, 5, 9, 2⟩, by decide +kernel⟩
theorem witness_vigil_other : ∃ (s t u : State) (a : Arrival), a.n < 2 ^ 32 ∧ s.isVigil a.line = false ∧
    vgEpoch (t.readN a.line 8) ≠ a.epoch ∧ vgState (u.readN a.line 8) = 3 :=
  ⟨base, vigil 1 9 wick, vigil 3 9 wick, ⟨line, 5, 5, 9, 1⟩, by decide +kernel⟩
theorem witness_vigil_bytes : ∃ (s t u : State) (line b : Nat), b < 2 ^ 63 ∧ s.isVigil line = true ∧
    vgState (s.readN line 8) = 1 ∧ b = s.readN (line + 16) 8 ∧ t.isVigil line = true ∧ vgState (t.readN line 8) = 2 ∧
    u.isVigil line = true ∧ vgState (u.readN line 8) = 3 ∧ s.readN (line + 16) 8 < b + 1 :=
  ⟨vigil 1 9 wick, vigil 2 9 wick, vigil 3 9 wick, line, 0, by decide +kernel⟩
/-- The vigil in its master's table. -/
def armedVigil : State :=
  { vigil 1 9 wick with dies := [(vigilMaster line, { armed := [⟨line, 5, 9⟩] })] }
theorem witness_group_break : ∃ (s : State) (die asid grp cause : Nat), cause < 256 ∧
    (∀ a ∈ (s.die die).armed, a.line % 64 = 0) ∧ ∃ a ∈ (s.die die).armed, s.isVigil a.line = true ∧
      vgState (s.readN a.line 8) = 1 ∧ a.asid.toNat = asid ∧ a.grp.toNat = grp :=
  ⟨armedVigil, vigilMaster line, 5, 9, 0xE1, by decide, by decide +kernel, ⟨line, 5, 9⟩, by decide +kernel⟩
theorem witness_group_break_other : ∃ (s : State) (die asid grp : Nat), ∃ a ∈ (s.die die).armed,
    s.isVigil a.line = true ∧ vgState (s.readN a.line 8) = 1 ∧
    ∀ b ∈ (s.die die).armed, b.line = a.line → ¬(b.asid.toNat = asid ∧ b.grp.toNat = grp) :=
  ⟨armedVigil, vigilMaster line, 5, 8, ⟨line, 5, 9⟩, by decide +kernel⟩
theorem witness_notice : ∃ (s : State) (die k e : Nat), dieOf k = die ∧ (s.slot k).wait = .vigil line e :=
  ⟨holding { wick with wait := .vigil line 4 }, 7, here, 4, by decide⟩
theorem witness_stage : ∃ (s : State) (st : VStage) (key a : Arrival), (s.held st).find? (sameVigil key) = some a :=
  ⟨{ base with cores := [(coreOf here, { arrivals := [⟨line, 4, 5, 9, 3⟩] })] }, .core (coreOf here), ⟨line, 4, 5, 9, 0⟩,
    ⟨line, 4, 5, 9, 3⟩, by decide⟩
theorem witness_stage_die : ∃ (s : State) (key a : Arrival), (s.held (.die 7)).find? (sameVigil key) = some a :=
  ⟨{ base with dies := [(7, { arrivals := [⟨line, 4, 5, 9, 3⟩] })] }, ⟨line, 4, 5, 9, 0⟩, ⟨line, 4, 5, 9, 3⟩, by decide⟩

/-! ### Translation buffers -/

/-- A leaf for page 2 of a die's own scratchpad. -/
def leaf : Word := BitVec.ofNat 64 (0x1F + (7 * 2 ^ 44 + 36 * 2 ^ 38) * 2 ^ 8)
/-- A slot whose g2 names page 2 under asid 5 and whose g3 holds a leaf entry. -/
def filler (e : Word) : Slot := { wick with g := [(2, 0x20005), (3, e)] }
theorem witness_fill : ∃ s x a e q, Issues (.tlbFill x) s ∧ s.reads2 x.a x.b a e q ∧
    s.canWrite s.cur x.d.toNat = true ∧ e.getLsbD 0 = true ∧ leafMalformed e = false ∧
    ∀ f ∈ Tab.get [] (s.cluster (clusterOf s.cur)).tlb (bits a.toNat 16 41 * 2 ^ 16 / leafSize e % 512), f.way < 8 :=
  ⟨holding (filler leaf), fa, 0x20005, leaf, {}, issues_of (by decide), reads2_of (by decide), by decide, by decide,
    by decide, by decide⟩
theorem witness_fill_malformed : ∃ s x a e q, Issues (.tlbFill x) s ∧ s.reads2 x.a x.b a e q ∧
    s.canWrite s.cur x.d.toNat = true ∧ e.getLsbD 0 = true ∧ leafMalformed e = true :=
  ⟨holding (filler 1), fa, 0x20005, 1, {}, issues_of (by decide), reads2_of (by decide), by decide, by decide, by decide⟩
theorem witness_fill_none : ∃ s x a e q, Issues (.tlbFill x) s ∧ s.reads2 x.a x.b a e q ∧
    s.canWrite s.cur x.d.toNat = true ∧ e.getLsbD 0 = false ∧
    (s.cluster (clusterOf s.cur)).missq.all (fun m => decide (m.asid ≠ a.truncate 9 ∨
      m.page ≠ bits a.toNat 16 41 * 2 ^ 16 / 2 ^ 16)) = true :=
  ⟨holding (filler 0), fa, 0x20005, 0, {}, issues_of (by decide), reads2_of (by decide), by decide, by decide, by decide⟩
theorem witness_fill_refused : ∃ s x a e q k va2 m, Issues (.tlbFill x) s ∧ s.reads2 x.a x.b a e q ∧
    s.canWrite s.cur x.d.toNat = true ∧ e.getLsbD 0 = false ∧ bits e.toNat 8 8 ≠ 0x49 ∧
    (s.cluster (clusterOf s.cur)).missq = [m] ∧ m.asid = a.truncate 9 ∧ m.page = bits a.toNat 16 41 * 2 ^ 16 / 2 ^ 16 ∧
    m.slots = [k] ∧ m.gather = [] ∧ m.engine = false ∧ (s.slot k).wait = .miss va2 ∧ (s.slot k).asid = a.truncate 9 ∧
    va2.toNat / 2 ^ 16 = m.page ∧ (s.slot k).upcallOk = true ∧ k ≠ s.cur :=
  ⟨{ holding (filler 0) with
      slots := [(here, filler 0), (here + 1, { upWick with wait := .miss 0x20010 })]
      clusters := [(clusterOf here, { missq := [⟨5, 2, 0, [here + 1], [], false⟩] })] },
    fa, 0x20005, 0, {}, here + 1, 0x20010, ⟨5, 2, 0, [here + 1], [], false⟩, issues_of (by decide), reads2_of (by decide),
    by decide⟩
theorem witness_invalidate : ∃ s x y a b q, Issues (.tlbInvr x) s ∧ s.reads2 x.a x.b a b q ∧
    bits a.toNat 16 41 * 2 ^ 16 ≤ b.toNat % 2 ^ 57 ∧
    s.invalBusy (devOf s.cur) ⟨a.truncate 9, a.getLsbD 9, false, bits a.toNat 16 41 * 2 ^ 16, b.toNat % 2 ^ 57⟩ = false ∧
    Issues (.tlbInva y) s ∧ s.reads1 y.a a q ∧
    s.invalBusy (devOf s.cur) ⟨a.truncate 9, a.getLsbD 9, a.getLsbD 10, 0, 2 ^ 57 - 1⟩ = false :=
  ⟨holding (filler 0x20005), ⟨0, .reg 2, .reg 3, 0⟩, ⟨0, .reg 2, .reg 0, 0⟩, 0x20005, 0x20005, {}, issues_of (by decide),
    reads2_of (by decide), by decide, by decide +kernel, issues_of (by decide), reads1_of (by decide), by decide +kernel⟩
theorem witness_invalidate_empty : ∃ s x a b q, Issues (.tlbInvr x) s ∧ s.reads2 x.a x.b a b q ∧
    b.toNat % 2 ^ 57 < bits a.toNat 16 41 * 2 ^ 16 ∧
    s.invalBusy (devOf s.cur) ⟨a.truncate 9, a.getLsbD 9, false, bits a.toNat 16 41 * 2 ^ 16, b.toNat % 2 ^ 57⟩ = false :=
  ⟨holding (filler 0x1FFFF), ⟨0, .reg 2, .reg 3, 0⟩, 0x20005, 0x1FFFF, {}, issues_of (by decide), reads2_of (by decide),
    by decide, by decide +kernel⟩
theorem witness_probe : ∃ s x a b q, Issues (.tlbPrb x) s ∧ s.reads2 x.a x.b a b q ∧ s.canWrite s.cur x.d.toNat = true :=
  ⟨paged dramLeaf, fa, 7, 5, {}, issues_of (by decide), reads2_of (by decide), by decide⟩
/-! ### Lines that an instruction reads -/

/-- The translation of a near-window address. -/
def trv (va : Word) : Xlat := ⟨va, nearPa (coreOf here) va, false, true⟩
/-- The checks of `Claims.linesRead` for lines of the scratchpad, which leave the state as it is, decided. -/
def linesB (s : State) : Word → List Nat → Bool
  | _, [] => true
  | va, v :: vs =>
    lineB s va (trv va) s && decide (v = s.lineValue s.cur (trv va)) && decide (s.lineRead s.cur (trv va) = s) &&
      linesB s (va + 64) vs
theorem lines_of {s : State} : ∀ {vs : List Nat} {va : Word}, linesB s va vs = true → Claims.linesRead s.cur s va vs s
  | [], _, _ => rfl
  | v :: vs, va, h => by
    simp only [linesB, Bool.and_eq_true, decide_eq_true_eq] at h
    obtain ⟨⟨⟨h1, h2⟩, h3⟩, h4⟩ := h
    exact ⟨trv va, s, line_of h1, h2, by rw [h3]; exact lines_of h4⟩

/-! ### Links -/

/-- A state with the die 7 and the four I/O dies as given. -/
def withIo (d : Die) (s : State) : State := { s with dies := [(7, { readyWord := 7 }), (6, d), (11, d), (12, d), (17, d)] }
/-- The state with the I/O dies ready. -/
def ready (s : State) : State := withIo { readyWord := 7 } s
/-- The conditions of R289 on a connection's word, decided. -/
def connectable (s : State) (v : Word) : Bool :=
  let ck := clusterOf s.cur
  let so := v.toNat % 32
  let rate := bits v.toNat 5 5
  decide (v.toNat < 2 ^ 11 ∧ so < 24 ∧ so ≠ ck / 64 % 32 ∧ 1 ≤ rate ∧ rate ≤ 16 ∧
    (∀ c ∈ (s.cluster ck).conns, c.2.socket ≠ so) ∧ (s.cluster ck).conns.length < 4) && s.admitsConn ck so rate
/-- The state in which a relaxed access of the cluster is on its way to socket 8. -/
def onItsWay : State :=
  { base with
    cores := [(coreOf here, { flights := [⟨1, here, 0, default, [], [8 * 2 ^ 44], 0⟩] })]
    clusters := [(clusterOf here, { conns := [(1, ⟨8, 1, 0⟩)] })] }
theorem witness_connect : ∃ s x v q, Issues (.fabConn x) s ∧ s.reads1 x.a v q ∧ s.canWrite s.cur x.d.toNat = true ∧
    connectable s v = true ∧ s.packetsTo (clusterOf s.cur) (v.toNat % 32) = false ∧
    Tab.find? 0 (s.cluster (clusterOf s.cur)).conns = none :=
  ⟨base, ⟨4, .lit32 0x208, .reg 0, 0⟩, 0x208, {}, issues_of (by decide), reads1_of (by decide), by decide, by decide +kernel⟩
theorem witness_connect_waits : ∃ s x v q, Issues (.fabConn x) s ∧ s.reads1 x.a v q ∧ s.canWrite s.cur x.d.toNat = true ∧
    connectable s v = true ∧ s.packetsTo (clusterOf s.cur) (v.toNat % 32) = true :=
  ⟨{ onItsWay with clusters := [] }, ⟨4, .lit32 0x208, .reg 0, 0⟩, 0x208, {}, issues_of (by decide), reads1_of (by decide),
    by decide, by decide +kernel⟩
theorem witness_connect_refused : ∃ s x v q, Issues (.fabConn x) s ∧ s.reads1 x.a v q ∧
    s.canWrite s.cur x.d.toNat = true ∧ ¬(bits v.toNat 5 5 ≤ 16) :=
  ⟨base, ⟨4, .lit32 0x228, .reg 0, 0⟩, 0x228, {}, issues_of (by decide), reads1_of (by decide), by decide, by decide⟩
theorem witness_close : ∃ s t x v c q, Issues (.fabClose x) s ∧ s.reads1 x.a v q ∧
    Tab.find? (v.toNat % 4) (s.cluster (clusterOf s.cur)).conns = some c ∧ s.packetsTo (clusterOf s.cur) c.socket = true ∧
    Issues (.fabClose x) t ∧ t.reads1 x.a v q ∧ Tab.find? (v.toNat % 4) (t.cluster (clusterOf t.cur)).conns = some c ∧
    t.packetsTo (clusterOf t.cur) c.socket = false :=
  ⟨onItsWay, { onItsWay with cores := [] }, ⟨0, .reg 3, .reg 0, 0⟩, 5, ⟨8, 1, 0⟩, {}, issues_of (by decide), reads1_of (by decide),
    by decide, by decide +kernel, issues_of (by decide), reads1_of (by decide), by decide, by decide +kernel⟩
/-- A slot table of one entry at 0x2000: no laser, dur 100, guard 30. -/
def slotTabled (n : Nat) : State :=
  poke { ready base with mods := [(0, { members := [0, 1], slotCount := n })] } 0x21C0 4 (100 + 30 * 2 ^ 16)
/-- Its lines. -/
def slotLines : List Nat := [0, 0, 0, 0, 0, 0, 0, 100 + 30 * 2 ^ 16]
/-- Its bytes. -/
def slotBytes : List Byte := List.replicate 448 0 ++ [100, 0, 30, 0] ++ List.replicate 60 0
theorem slot_bytes : Claims.bytesOf slotLines = slotBytes := by decide +kernel
/-- What `fab.slot` asks for before the table's entries are looked at. -/
def slotAsked (s : State) (x : FmtA) (ls : List Nat) : Prop :=
  Issues (.fabSlot x) s ∧ s.reads2 x.a x.b (near 0x2000) 1 {} ∧ s.canWrite s.cur x.d.toNat = true ∧
    (s.mod (devOf s.cur)).slotBy ≠ some s.cur ∧ (∀ k < 4, s.ioHome (devOf s.cur) k = .ok) ∧
    s.switching (devOf s.cur) = false ∧ Claims.linesRead s.cur s (near 0x2000) ls s
/-- The fields: the table at g8, one entry. -/
def slotFields : FmtA := ⟨4, .reg 8, .lit32 1, 0⟩
theorem slot_asked {n : Nat} (h : n = 0 ∨ n = 3) : slotAsked (slotTabled n) slotFields slotLines := by
  rcases h with rfl | rfl <;>
    exact ⟨issues_of (by decide +kernel), reads2_of (by decide +kernel), by decide +kernel, by decide +kernel,
      by decide +kernel, by decide +kernel, lines_of (by decide +kernel)⟩
theorem witness_slot_table : ∃ s t x ls, slotAsked s x ls ∧ slotAsked t x ls ∧ ls.length = 8 ∧
    (∀ e < 1, slotEntryOk (Claims.bytesOf ls) e (devOf s.cur) = true) ∧ (s.mod (devOf s.cur)).slotCount = 0 ∧
    (∀ e < 1, slotEntryOk (Claims.bytesOf ls) e (devOf t.cur) = true) ∧ (t.mod (devOf t.cur)).slotCount ≠ 0 :=
  ⟨slotTabled 0, slotTabled 3, slotFields, slotLines, slot_asked (.inl rfl), slot_asked (.inr rfl), rfl,
    by rw [slot_bytes]; decide +kernel, by decide +kernel, by rw [slot_bytes]; decide +kernel, by decide +kernel⟩
theorem witness_slot_table_bad : ∃ s x ls, slotAsked s x ls ∧ ls.length = 8 ∧
    slotEntryOk (Claims.bytesOf ls) 0 (devOf s.cur) = false :=
  ⟨ready base, slotFields, List.replicate 8 0,
    ⟨issues_of (by decide +kernel), reads2_of (by decide +kernel), by decide +kernel, by decide +kernel, by decide +kernel,
      by decide +kernel, lines_of (by decide +kernel)⟩, rfl, by decide +kernel⟩
/-- The state whose `fab.slot` has put a table in place. -/
def slotSwitch (w : Bool) : State :=
  { withIo { readyWord := 7, switch := w } base with mods := [(0, { members := [0, 1], slotBy := some here, oldCount := 5 })] }
theorem witness_slot_wait : ∃ s t x, Issues (.fabSlot x) s ∧ s.reads2 x.a x.b (near 0x2000) 1 {} ∧
    s.canWrite s.cur x.d.toNat = true ∧ (s.mod (devOf s.cur)).slotBy = some s.cur ∧ s.switching (devOf s.cur) = true ∧
    Issues (.fabSlot x) t ∧ t.reads2 x.a x.b (near 0x2000) 1 {} ∧ t.canWrite t.cur x.d.toNat = true ∧
    (t.mod (devOf t.cur)).slotBy = some t.cur ∧ t.switching (devOf t.cur) = false :=
  ⟨slotSwitch true, slotSwitch false, slotFields, issues_of (by decide), reads2_of (by decide), by decide, by decide,
    by decide +kernel, issues_of (by decide), reads2_of (by decide), by decide, by decide, by decide +kernel⟩
theorem witness_fabric_read : ∃ s x v q, Issues (.fabStat x) s ∧ s.reads1 x.a v q ∧ s.canWrite s.cur x.d.toNat = true ∧
    (∀ k ∈ fabStatUnit (v.toNat % 2 ^ 16), s.ioHome (devOf s.cur) k = .ok) ∧
    0x240 ≤ v.toNat % 2 ^ 16 ∧ v.toNat % 2 ^ 16 ≤ 0x27F :=
  ⟨ready base, ⟨4, .lit32 0x27F, .reg 0, 0⟩, 0x27F, {}, issues_of (by decide), reads1_of (by decide), by decide,
    by decide +kernel, by decide, by decide⟩
/-- What `fab.gnt` asks for whatever it writes. -/
def grantAsked (s : State) (x : FmtA) (a b : Word) : Prop :=
  Issues (.fabGnt x) s ∧ s.reads2 x.a x.b a b {} ∧ b.toNat % 64 = 0 ∧ b.toNat < 0x10000 ∧ a.toNat < 2 ^ 8 ∧
    a.getLsbD 6 = false ∧ s.ioHome (devOf s.cur) 0 = .ok
theorem witness_grant : ∃ s x y a b c, grantAsked s x a b ∧ a.getLsbD 7 = false ∧
    grantImageOk (fun j => s.localN (coreOf s.cur) (b.toNat + 8 * j) 8) = true ∧
    grantAsked s y c b ∧ c.getLsbD 7 = true ∧ s.snapshotHeld (devOf s.cur) (c.toNat % 64) = false :=
  ⟨ready base, ⟨0, .lit32 63, .reg 0, 0⟩, ⟨0, .lit32 0xBF, .reg 0, 0⟩, 63, 0, 0xBF,
    ⟨issues_of (by decide), reads2_of (by decide), by decide +kernel⟩, by decide, by decide +kernel,
    ⟨issues_of (by decide), reads2_of (by decide), by decide +kernel⟩, by decide, by decide⟩
theorem witness_grant_waits : ∃ s y c b, grantAsked s y c b ∧ c.getLsbD 7 = true ∧
    s.snapshotHeld (devOf s.cur) (c.toNat % 64) = true :=
  ⟨{ ready base with
      clusters := [(clusterOf here, { ops := [{ (default : EngOp) with eq := 6, tcw := BitVec.ofNat 256 (63 * 2 ^ 53), snap := some 1 }] })] },
    ⟨0, .lit32 0xBF, .reg 0, 0⟩, 0xBF, 0, ⟨issues_of (by decide), reads2_of (by decide), by decide +kernel⟩, by decide,
    by decide⟩

/-! ### Lanterns and the Taper -/

/-- A lamp image's header: magic, both formats FP32, one stage, units of 512 bytes. -/
def imageHead : Nat := 0x31544E4C + 2 ^ 32 + 2 ^ 40 + 0x33 * 2 ^ 48 + 512 * 2 ^ 64 + 512 * 2 ^ 80
/-- The image's lines, with another magic number `b` in place of the header when `b` is not zero. -/
def imageLines (b : Nat) : List Nat := (if b = 0 then imageHead else b) :: List.replicate 46 0
/-- The image. -/
def imageBytes (b : Nat) : List Byte := Claims.bytesOf (imageLines b)
/-- A state with the memory stacks of the module ready. -/
def stacked (s : State) : State := { s with dies := (7, { readyWord := 7 }) :: stackSockets.map (fun so => (so, { readyWord := 7 })) }
/-- The memory stacks take accesses (R410). -/
abbrev stacksUp (s : State) : Prop := ∀ so ∈ stackSockets, s.home (dieOf s.cur) (stackPa (devOf s.cur) so) = .ok
/-- A state with the image at 0x2000. -/
def imaged (b : Nat) : State := stacked (poke base 0x2000 64 (if b = 0 then imageHead else b))
theorem image_valid : imageCause (imageBytes 0) = none := by decide +kernel
/-- An image with a wrong magic number raises 0x86. -/
theorem image_invalid : imageCause (imageBytes 1) = some 0x86 := by decide +kernel
/-- An image with the identifier of a shipped one whose header is another's is none of them (R372). -/
theorem image_renamed : shippedId (Claims.bytesOf (0x101 * 2 ^ 192 :: List.replicate 46 0)) = none := by
  have h : (Claims.bytesOf (0x101 * 2 ^ 192 :: List.replicate 46 0))[0]? ≠ (shippedImage 0x101)[0]? := by
    simp only [shippedImage, splice]; decide +kernel
  rcases hi : shippedId (Claims.bytesOf (0x101 * 2 ^ 192 :: List.replicate 46 0)) with _ | i
  · rfl
  · simp only [shippedId] at hi
    split at hi
    · next hc =>
      refine absurd (congrArg (fun l => l[0]?) hc.2) ?_
      rw [show imgField (Claims.bytesOf (0x101 * 2 ^ 192 :: List.replicate 46 0)) 24 4 = 0x101 by decide +kernel]
      exact h
    · cases hi
theorem witness_install : ∃ s s1 x a n ls q, Issues (.lanInst x) s ∧ s.reads2 x.a x.b a n q ∧
    s.canWrite s.cur x.d.toNat = true ∧ 1 ≤ n.toNat ∧ n.toNat ≤ 15 ∧ a.toNat % 64 = 0 ∧ stacksUp s ∧ ls.length = 47 ∧
    Claims.linesRead s.cur s a ls s1 ∧ imageCause (Claims.bytesOf ls) = none :=
  ⟨imaged 0, imaged 0, ⟨4, .reg 8, .lit32 15, 0⟩, near 0x2000, 15, imageLines 0, {}, issues_of (by decide +kernel),
    reads2_of (by decide +kernel), by decide +kernel, by decide, by decide, by decide, by decide +kernel, by decide,
    lines_of (s := imaged 0) (by decide +kernel), image_valid⟩
theorem witness_install_cause : ∃ s s1 x a n ls q c, Issues (.lanInst x) s ∧ s.reads2 x.a x.b a n q ∧
    s.canWrite s.cur x.d.toNat = true ∧ 1 ≤ n.toNat ∧ n.toNat ≤ 15 ∧ a.toNat % 64 = 0 ∧ stacksUp s ∧ ls.length = 47 ∧
    Claims.linesRead s.cur s a ls s1 ∧ imageCause (Claims.bytesOf ls) = some c :=
  ⟨imaged 1, imaged 1, ⟨4, .reg 8, .lit32 1, 0⟩, near 0x2000, 1, imageLines 1, {}, 0x86, issues_of (by decide +kernel),
    reads2_of (by decide +kernel), by decide +kernel, by decide, by decide, by decide, by decide +kernel, by decide,
    lines_of (s := imaged 1) (by decide +kernel), image_invalid⟩
theorem witness_drop : ∃ s x v q y, Issues (.lanDrop x) s ∧ s.reads1 x.a v q ∧ s.canWrite s.cur x.d.toNat = true ∧
    v.toNat % 16 ≠ 0 ∧ stacksUp s ∧ Issues (.lanDrop y) s ∧ s.reads1 y.a 0 q ∧ s.canWrite s.cur y.d.toNat = true :=
  ⟨stacked base, fa1, 7, {}, ⟨4, .reg 0, .reg 0, 0⟩, issues_of (by decide), reads1_of (by decide), by decide, by decide,
    by decide +kernel, issues_of (by decide), reads1_of (by decide), by decide⟩
theorem witness_lantern_read : ∃ s x y a b q, Issues (.lanDflt y) s ∧ stacksUp s ∧ Issues (.lanStat x) s ∧
    s.reads2 x.a x.b a b q ∧ s.canWrite s.cur x.d.toNat = true ∧ 1 ≤ a.toNat % 2 ^ 16 ∧ a.toNat % 2 ^ 16 ≤ 15 :=
  ⟨stacked base, fa, ⟨0, .reg 0, .reg 0, 0⟩, 7, 5, {}, issues_of (by decide), by decide +kernel, issues_of (by decide),
    reads2_of (by decide), by decide, by decide, by decide⟩
theorem witness_lantern_count : ∃ s x a b q, Issues (.lanStat x) s ∧ s.reads2 x.a x.b a b q ∧
    s.canWrite s.cur x.d.toNat = true ∧ a.toNat % 2 ^ 16 = 0x102 ∧ b.toNat % 128 < 96 ∧
    s.home (dieOf s.cur) (stackPa (devOf s.cur) (lanternSocket (b.toNat % 128))) = .ok :=
  ⟨stacked base, ⟨4, .lit32 0x102, .reg 3, 0⟩, 0x102, 5, {}, issues_of (by decide), reads2_of (by decide), by decide,
    by decide, by decide, by decide +kernel⟩
/-- A control block at 0x2000 with a table of one entry at 0x3000. -/
def blocked : State := ready (poke base 0x2000 16 (0x31504154 + 2 ^ 32 + 0x01FFFFFF00003000 * 2 ^ 64))
/-- Its lines. -/
def blockLines : List Nat := (0x31504154 + 2 ^ 32 + 0x01FFFFFF00003000 * 2 ^ 64) :: List.replicate 8 0
/-- The state with the load under way. -/
def loading (s : State) : State := s.onTaper (devOf s.cur) (fun t => { t with loading := some s.cur })
/-- What `tap.load` asks for before its block and table are judged. -/
def loadAsked (s : State) (x : FmtA) (l1 l2 : List Nat) : Prop :=
  Issues (.tapLoad x) s ∧ s.reads1 x.a (near 0x2000) {} ∧ s.canWrite s.cur x.d.toNat = true ∧
    s.ioHome (devOf s.cur) 0 = .ok ∧ s.loadRefused (devOf s.cur) s.cur = false ∧ l1.length = 9 ∧
    Claims.linesRead s.cur (loading s) (near 0x2000) l1 (loading s) ∧
    l2.length = tableLines (Claims.bytesOf l1) ∧
    Claims.linesRead s.cur (loading s) (BitVec.ofNat 64 (tableLine (Claims.bytesOf l1))) l2 (loading s)
theorem witness_taper_load : ∃ s x l1 l2, loadAsked s x l1 l2 ∧ tableOk (Claims.bytesOf l1) (Claims.bytesOf l2) = true :=
  ⟨blocked, fm, blockLines, [0], ⟨issues_of (by decide +kernel), reads1_of (by decide +kernel), by decide +kernel,
    by decide +kernel, by decide +kernel, rfl, lines_of (s := loading blocked) (by decide +kernel), by decide +kernel,
    lines_of (s := loading blocked) (by decide +kernel)⟩, by decide +kernel⟩
theorem witness_taper_load_bad : ∃ s x l1 l2, loadAsked s x l1 l2 ∧ tableOk (Claims.bytesOf l1) (Claims.bytesOf l2) = false :=
  ⟨ready base, fm, List.replicate 9 0, [], ⟨issues_of (by decide +kernel), reads1_of (by decide +kernel), by decide +kernel,
    by decide +kernel, by decide +kernel, rfl, lines_of (s := loading (ready base)) (by decide +kernel), by decide +kernel,
    lines_of (s := loading (ready base)) (by decide +kernel)⟩, by decide +kernel⟩
/-- A module whose Taper engine stands as given, its I/O dies ready. -/
def tapered (t : Taper) : State := { ready base with mods := [(0, { members := [0, 1], taper := t })] }
theorem witness_taper_load_refused : ∃ s t x, (∀ u : State, u = s ∨ u = t → Issues (.tapLoad x) u ∧
    u.reads1 x.a (near 0x2000) {} ∧ u.canWrite u.cur x.d.toNat = true ∧ u.ioHome (devOf u.cur) 0 = .ok ∧
    u.loadRefused (devOf u.cur) u.cur = true) ∧
    (s.taper (devOf s.cur)).run = true ∧ t.loadUnderWay (devOf t.cur) t.cur = true :=
  ⟨tapered { run := true }, tapered { loading := some (here + 1) }, fm, fun u hu => by
    rcases hu with rfl | rfl <;>
      exact ⟨issues_of (by decide), reads1_of (by decide), by decide +kernel⟩,
    by decide +kernel⟩
/-- What `tap.go` asks for. -/
def goAsked (s : State) (x : FmtA) (v : Word) : Prop :=
  Issues (.tapGo x) s ∧ s.reads1 x.a v {} ∧ s.ioHome (devOf s.cur) 0 = .ok
theorem witness_taper_go : ∃ s t x v, goAsked s x v ∧ v.toNat < 2 ^ 9 ∧
    (s.taper (devOf s.cur)).loaded = true ∧ (s.taper (devOf s.cur)).run = false ∧ (s.taper (devOf s.cur)).fin = false ∧
    (s.taper (devOf s.cur)).failed = none ∧ s.loadUnderWay (devOf s.cur) (2 ^ 40) = false ∧
    goAsked t x v ∧ (t.taper (devOf t.cur)).loaded = false :=
  ⟨tapered { loaded := true }, ready base, ⟨0, .reg 2, .reg 0, 0⟩, 7,
    ⟨issues_of (by decide), reads1_of (by decide), by decide +kernel⟩, by decide, by decide +kernel, by decide +kernel,
    by decide +kernel, by decide +kernel, by decide +kernel,
    ⟨issues_of (by decide), reads1_of (by decide), by decide +kernel⟩, by decide +kernel⟩
theorem witness_taper_read : ∃ s x y v, Issues (.tapHalt x) s ∧ Issues (.tapHead x) s ∧
    s.canWrite s.cur x.d.toNat = true ∧ Issues (.tapStat y) s ∧ s.reads1 y.a v {} ∧ s.canWrite s.cur y.d.toNat = true ∧
    s.ioHome (devOf s.cur) 0 = .ok ∧ v.toNat % 2 ^ 16 = 0x40 + 63 :=
  ⟨ready base, ⟨4, .reg 0, .reg 0, 0⟩, ⟨4, .lit32 0x7F, .reg 0, 0⟩, 0x7F, issues_of (by decide), issues_of (by decide),
    by decide, issues_of (by decide), reads1_of (by decide), by decide +kernel⟩
theorem witness_taper_unready : ∃ (s t : State) (x y z : FmtA) (v : Word), s.ioHome (devOf s.cur) 0 = .held ∧
    t.ioHome (devOf t.cur) 0 = .failed ∧ v.toNat % 64 = 0 ∧ ∀ u, u = s ∨ u = t → Issues (.tapLoad x) u ∧ Issues (.tapStat x) u ∧
      u.reads1 x.a v {} ∧ u.canWrite u.cur x.d.toNat = true ∧ Issues (.tapGo y) u ∧ u.reads1 y.a v {} ∧
      Issues (.tapHalt z) u ∧ Issues (.tapHead z) u ∧ u.canWrite u.cur z.d.toNat = true := by
  refine ⟨withIo {} base, withIo { readyWord := 0x80 } base, fm, ⟨0, .reg 8, .reg 0, 0⟩, ⟨4, .reg 0, .reg 0, 0⟩, near 0x2000,
    by decide, by decide, by decide, ?_⟩
  rintro u (rfl | rfl) <;>
    exact ⟨issues_of (by decide), issues_of (by decide), reads1_of (by decide), by decide, issues_of (by decide),
      reads1_of (by decide), issues_of (by decide), issues_of (by decide), by decide⟩
/-! ### Cochains -/

/-- A complex of one edge between two vertices, weights 1.0: its header, tables and incidence array, a line each. -/
def cxLines : List Nat :=
  [0x31584343 + 0x101 * 2 ^ 32 + 2 * 2 ^ 64 + 2 ^ 96 + 2 ^ 192 + 2 * 2 ^ 224 + 3 * 2 ^ 320 + 4 * 2 ^ 352 + 4 * 2 ^ 416,
    0x3F800000 + 0x10000 * 2 ^ 32 + 2 * 2 ^ 96 + (0x3F800000 + 0x10000 * 2 ^ 32 + 3 * 2 ^ 96) * 2 ^ 128,
    0x3F800000 + 0x200 * 2 ^ 32, 0x80000000 + 2 ^ 32 + 0x80000000 * 2 ^ 64]
/-- The lines at a scratchpad offset. -/
def cxAt (s : State) (o : Nat) : State :=
  poke (poke (poke (poke s o 64 (cxLines.getD 0 0)) (o + 64) 64 (cxLines.getD 1 0)) (o + 128) 64 (cxLines.getD 2 0))
    (o + 192) 64 (cxLines.getD 3 0)
/-- The image at 0x2000, with g2 naming it and g3 the place where it is loaded. -/
def cxSource : State := cxAt (holding { wick with g := [(2, near 0x2000), (3, 0x8000)] }) 0x2000
/-- The registers of `cx.load g1, g2, g3` into slot 0. -/
def fk : FmtK := ⟨1, 2, 3, 0, 0⟩
/-- The source with one more halo operation in flight on slot 0 when asked for, and the load of slot 0 begun or not. -/
def cxWith (busy begun : Bool) (s : State) : State :=
  { s.onSlot here (fun x => { x with begun := begun }) with
    clusters := [(clusterOf here, {
      ops := if busy then [{ (default : EngOp) with eq := 5 }] else []
      cx := if begun then [(0, ⟨1, 1, 0x8000, 4, some here⟩)] else [] })] }
/-- The state after a `cx.load` of it has begun. -/
def cxBegan (s : State) : State :=
  (s.onCx (clusterOf here) 0 (fun _ => { st := 1, gen := 1, off := 0x8000, lines := 4, user := some here })).onSlot here
    (fun x => { x with begun := true })
/-- What `cx.load` asks for, and the state `b` in which it has begun. -/
def cxAsked (s b : State) (x : FmtK) (a o : Word) : Prop :=
  Issues (.cxLoad x) s ∧ s.readCode s.cur x.a.toNat {} = some (a, {}) ∧ s.readCode s.cur x.b.toNat {} = some (o, {}) ∧
    s.canWrite s.cur x.d.toNat = true ∧
    let ck := clusterOf s.cur
    let n := x.md.toNat % 4
    let c := s.cluster ck
    if (s.slot s.cur).begun then b = s
    else a.toNat % 64 = 0 ∧ o.toNat % 64 = 0 ∧ (c.cxSlot n).st ≠ 1 ∧ ∃ v s1,
        let hdr : Img := fun i => bits v (8 * i) 32
        Claims.linesRead s.cur s a [v] s1 ∧ headerOk hdr = true ∧ o.toNat + 64 * imgLines hdr ≤ 0x400000 ∧
        c.cxOverlap n o.toNat (64 * imgLines hdr) = false ∧
        b = (s1.onCx ck n (fun _ => {
          st := 1, gen := nextGen (c.cxSlot n).gen, off := o.toNat, lines := imgLines hdr, user := some s.cur })).onSlot s.cur
            (fun z => { z with begun := true })
theorem cx_asked {s : State} (h : (decide (s.cur = here) && (decide (decodeCause s s.cur (Instr.cxLoad fk).enc = none) &&
    (s.slot s.cur).p (Instr.cxLoad fk).enc.guard && decide (encAwaits (Instr.cxLoad fk).enc (s.slot s.cur) = none)) &&
    decide (s.readCode s.cur 2 {} = some (near 0x2000, {})) && decide (s.readCode s.cur 3 {} = some (0x8000, {})) &&
    s.canWrite s.cur 1 && !(s.slot s.cur).begun && decide ((s.cluster (clusterOf here)).cxSlot 0 = {}) &&
    linesB s (near 0x2000) [cxLines.getD 0 0] && !(s.cluster (clusterOf here)).cxOverlap 0 0x8000 256) = true) :
    cxAsked s (cxBegan s) fk (near 0x2000) 0x8000 := by
  simp only [Bool.and_eq_true, decide_eq_true_eq, Bool.not_eq_true'] at h
  obtain ⟨⟨⟨⟨⟨⟨⟨⟨h1, h2⟩, h3⟩, h4⟩, h5⟩, h6⟩, h7⟩, h8⟩, h9⟩ := h
  refine ⟨⟨h2.1.1, h2.1.2, h2.2⟩, h3, h4, h5, ?_⟩
  rw [if_neg (by rw [h6]; decide), h1]
  refine ⟨by decide, by decide, ?_, cxLines.getD 0 0, s, ?_⟩
  · show ((s.cluster (clusterOf here)).cxSlot 0).st ≠ 1
    rw [h7]; decide
  · refine ⟨by rw [← h1]; exact lines_of h8, by decide +kernel, by decide +kernel, h9, ?_⟩
    have hl : imgLines (fun i => bits (cxLines.getD 0 0) (8 * i) 32) = 4 := by decide +kernel
    have hg : (s.cluster (clusterOf here)).cxSlot (fk.md.toNat % 4) = {} := h7
    rw [hg, hl]; rfl
/-- What decides how a `cx.load` that has begun ends. -/
def cxCopies (s b : State) (x : FmtK) (a : Word) (ok : Bool) : Prop :=
  let ck := clusterOf s.cur
  let z := (b.cluster ck).cxSlot (x.md.toNat % 4)
  (s.cluster ck).cxBusy (x.md.toNat % 4) = false ∧ z.off + 64 * z.lines ≤ 0x400000 ∧ ∃ ls s2, ls.length = z.lines ∧
    Claims.linesRead s.cur b a ls s2 ∧
    let img := (s2.storeLines ck z.off ls).image ck z.off
    (imageOk img && decide (imgLines img ≤ z.lines)) = ok
theorem cx_copies {s b : State} {ls : List Nat} {ok : Bool} (h : (decide (s.cur = here) && decide (b.cur = here) &&
    !(s.cluster (clusterOf here)).cxBusy 0 && decide (((b.cluster (clusterOf here)).cxSlot 0).off = 0x8000) &&
    decide (((b.cluster (clusterOf here)).cxSlot 0).lines = 4) && decide (ls.length = 4) &&
    linesB b (near 0x2000) ls) = true)
    (hi : (imageOk ((b.storeLines (clusterOf here) 0x8000 ls).image (clusterOf here) 0x8000) &&
      decide (imgLines ((b.storeLines (clusterOf here) 0x8000 ls).image (clusterOf here) 0x8000) ≤ 4)) = ok) :
    cxCopies s b fk (near 0x2000) ok := by
  simp only [Bool.and_eq_true, decide_eq_true_eq, Bool.not_eq_true'] at h
  obtain ⟨⟨⟨⟨⟨⟨h1, h2⟩, h3⟩, h4⟩, h5⟩, h6⟩, h7⟩ := h
  unfold cxCopies
  simp only [show fk.md.toNat % 4 = 0 from rfl, h1, h4, h5]
  exact ⟨h3, by decide, ls, b, h6, h2 ▸ lines_of h7, hi⟩
theorem witness_complex_load : ∃ s t x a o, cxAsked s (cxBegan s) x a o ∧ cxCopies s (cxBegan s) x a true ∧
    cxAsked t t x a o ∧ cxCopies t t x a true ∧ (t.slot t.cur).begun = true :=
  ⟨cxWith false false cxSource, cxWith false true cxSource, fk, near 0x2000, 0x8000, cx_asked (by decide +kernel),
    cx_copies (ls := cxLines) (by decide +kernel) (by decide +kernel),
    ⟨issues_of (by decide +kernel), by decide +kernel, by decide +kernel, by decide +kernel, rfl⟩,
    cx_copies (ls := cxLines) (by decide +kernel) (by decide +kernel), by decide +kernel⟩
theorem witness_complex_load_busy : ∃ s x a o, cxAsked s (cxBegan s) x a o ∧
    (s.cluster (clusterOf s.cur)).cxBusy (x.md.toNat % 4) = true :=
  ⟨cxWith true false cxSource, fk, near 0x2000, 0x8000, cx_asked (by decide +kernel), by decide +kernel⟩
/-- The same with the edge's weight zero. -/
def cxBadSource : State := cxWith false false (poke cxSource 0x2080 4 0)
theorem witness_complex_load_bad : ∃ s x a o, cxAsked s (cxBegan s) x a o ∧ cxCopies s (cxBegan s) x a false ∧
    (((cxBegan s).cluster (clusterOf s.cur)).cxSlot (x.md.toNat % 4)).user = some s.cur :=
  ⟨cxBadSource, fk, near 0x2000, 0x8000, cx_asked (by decide +kernel),
    cx_copies (ls := [cxLines.getD 0 0, cxLines.getD 1 0, 0x200 * 2 ^ 32, cxLines.getD 3 0]) (by decide +kernel)
      (by decide +kernel),
    by decide +kernel⟩
/-- The complex loaded at 0x8000 in slot 3 at generation 6, and cochain registers on it: c0 on the vertices, c1 on the
edge, c2 another on the vertices, all FP32; c3 an AX64 one on the vertices; c4 a dual one on them, c5 the outputs of a
point; c6 an AX64 one on the edge. -/
def cochains : State :=
  let w := fun (deg fmt : Nat) => BitVec.ofNat 64 (2 ^ 63 + 3 * 2 ^ 58 + 6 * 2 ^ 44 + deg * 2 ^ 42 + fmt * 2 ^ 38)
  let b := fun (count off : Nat) => BitVec.ofNat 64 (count * 2 ^ 20 + off / 8)
  { cxAt (holding { wick with
      c0 := [(0, w 0 3), (1, w 1 3), (2, w 0 3), (3, w 0 9), (4, w 0 3 + 2 ^ 60), (5, w 0 3), (6, w 1 9)]
      c1 := [(0, b 2 0x100), (1, b 1 0x200), (2, b 2 0x300), (3, b 2 0x400), (4, b 2 0x500), (5, b 1 0x600),
        (6, b 1 0x800)] }) 0x8000 with
    clusters := [(clusterOf here, { cx := [(3, ⟨2, 6, 0x8000, 4, none⟩)] })] }
/-- The image's words. -/
def cxWords : Img := cochains.image (clusterOf here) 0x8000
/-- The slot with those registers. -/
abbrev cslot : Slot := cochains.slot cochains.cur
/-- The checks of `Claims.onImage`, decided. -/
theorem on_image {cs : List Coch}
    (h : cs.all (fun c => decide (c.v = true ∧ c.slot = 3 ∧
      ((cochains.cluster (clusterOf cochains.cur)).cxSlot 3).gen = c.gen)) = true) :
    Claims.onImage cochains cs cxWords := by
  refine ⟨3, fun c hc => ?_, by decide +kernel, ?_⟩
  · simpa using List.all_eq_true.mp h c hc
  · rw [show ((cochains.cluster (clusterOf cochains.cur)).cxSlot 3).off = 0x8000 by decide +kernel]; rfl
/-- The checks of `Claims.elemsFree`, decided. -/
def elemsB (s : State) (r w : List CElem) : Bool :=
  r.all (fun e => !s.lockHit (clusterOf s.cur) (s.slot s.cur).asid (nearVa e.1).toNat e.2 false &&
      (elemRows e).all (fun o => decide (s.readError (scratchPa (clusterOf s.cur) o) = none))) &&
    w.all (fun e => !s.lockHit (clusterOf s.cur) (s.slot s.cur).asid (nearVa e.1).toNat e.2 true &&
      !(s.cluster (clusterOf s.cur)).inRegion e.1 e.2)
theorem elems_free {s : State} {r w : List CElem} (h : elemsB s r w = true) : Claims.elemsFree s r w := by
  simpa [Claims.elemsFree, elemsB] using h
/-- Both ways that a `cx.drop` begins or goes on: idle or busy, begun or not. -/
theorem witness_complex_drop : ∃ x, ∀ busy begun, ∃ s, Issues (.cxDrop x) s ∧ (s.slot s.cur).begun = begun ∧
    (begun = true ∨ ((s.cluster (clusterOf s.cur)).cxSlot (x.md.toNat % 4)).st ≠ 1) ∧
    (s.cluster (clusterOf s.cur)).cxBusy (x.md.toNat % 4) = busy :=
  ⟨⟨0, 0, 0, 0, 0⟩, fun busy begun => ⟨cxWith busy begun base,
    issues_of (by revert busy begun; decide +kernel), by revert busy begun; decide +kernel⟩⟩
theorem witness_complex_drop_trap : ∃ s x, Issues (.cxDrop x) s ∧ (s.slot s.cur).begun = false ∧
    ((s.cluster (clusterOf s.cur)).cxSlot (x.md.toNat % 4)).st = 1 :=
  ⟨{ base with clusters := [(clusterOf here, { cx := [(3, ⟨1, 6, 0, 0, none⟩)] })] }, ⟨0, 0, 0, 0, 3⟩,
    issues_of (by decide), by decide⟩
theorem witness_bind : ∃ s x a b q1 q2, Issues (.cxBind x) s ∧ s.readCode s.cur x.a.toNat {} = some (a, q1) ∧
    s.readCode s.cur x.b.toNat q1 = some (b, q2) ∧ a.getLsbD 63 = false :=
  ⟨base, ⟨7, 2, 3, 0, 0⟩, 7, 5, {}, {}, issues_of (by decide), by decide, by decide, by decide⟩
theorem witness_bind_trap : ∃ s x a b q1 q2, Issues (.cxBind x) s ∧ s.readCode s.cur x.a.toNat {} = some (a, q1) ∧
    s.readCode s.cur x.b.toNat q1 = some (b, q2) ∧ a.getLsbD 63 = true ∧ bits a.toNat 38 4 ≠ 3 ∧ bits a.toNat 38 4 ≠ 4 ∧
    bits a.toNat 38 4 ≠ 9 :=
  ⟨holding { wick with g := [(2, 0x8000000000000000)] }, ⟨7, 2, 3, 0, 0⟩, 0x8000000000000000, 0, {}, {},
    issues_of (by decide +kernel), by decide +kernel, by decide +kernel, by decide +kernel⟩
theorem witness_rebind : ∃ s x, Issues (.cxRebind x) s ∧
    let c := (s.slot s.cur).coch x.a.toNat
    let z := (s.cluster (clusterOf s.cur)).cxSlot c.slot
    c.v = true ∧ z.st = 2 ∧ c.windowOk (s.image (clusterOf s.cur) z.off) = true ∧ z.gen < 2 ^ 14 :=
  ⟨cochains, ⟨6, 0, 0, 0, 0⟩, issues_of (by decide +kernel), by decide +kernel⟩
theorem witness_generation : ∃ s x y, Issues (.cxGen x) s ∧ s.canWrite s.cur x.d.toNat = true ∧ x.md.toNat = 3 ∧
    Issues (.cxGen y) s ∧ y.md.toNat = 5 :=
  ⟨cochains, ⟨1, 0, 0, 0, 3⟩, ⟨1, 7, 0, 0, 5⟩, issues_of (by decide +kernel), by decide +kernel, by decide,
    issues_of (by decide +kernel), by decide⟩
/-- The premises of `Claims.computes` and of its completion. -/
def computes (s : State) (w : Img) (d : Coch) (cs : List Coch) (reads : List (Coch × List Nat)) (inRange : Prop) : Prop :=
  (∀ c ∈ cs, c.windowOk w = true) ∧ (∀ p ∈ reads, ∀ j ∈ p.2, p.1.has j = true) ∧
    (d.own = true → ∀ t ∈ d.range, simplexOwner w d.deg t = d.part) ∧
    Claims.elemsFree s ((reads.map (fun p => p.1.elems p.2)).flatten) (d.elems d.range) ∧
    (∀ p ∈ reads, ∀ j ∈ p.2, Claims.fits s p.1 j) ∧ inRange
/-- An element is in range, decided. -/
def fitsB (s : State) (c : Coch) (j : Nat) : Bool := decide (c.fmt ≠ 9) || decide ((Claims.mantissa s c j).natAbs < 2 ^ 59)
theorem fits_of {s : State} {c : Coch} {j : Nat} (h : fitsB s c j = true) : Claims.fits s c j := by
  intro hf _
  simpa [fitsB, hf] using h
theorem computes_of {s : State} {w : Img} {d : Coch} {cs : List Coch} {reads : List (Coch × List Nat)} {inRange : Prop}
    [Decidable inRange] (h : (cs.all (fun c => c.windowOk w) && reads.all (fun p => p.2.all (fun j => p.1.has j)) && !d.own &&
      elemsB s ((reads.map (fun p => p.1.elems p.2)).flatten) (d.elems d.range) &&
      reads.all (fun p => p.2.all (fun j => fitsB s p.1 j)) && decide inRange) = true) : computes s w d cs reads inRange := by
  simp only [Bool.and_eq_true, List.all_eq_true, decide_eq_true_eq, Bool.not_eq_true'] at h
  obtain ⟨⟨⟨⟨⟨h1, h2⟩, h3⟩, h4⟩, h5⟩, h6⟩ := h
  exact ⟨h1, h2, fun hd => by simp [h3] at hd, elems_free h4, fun p hp j hj => fits_of (h5 p hp j hj), h6⟩
/-- Cochain register n of the state. -/
abbrev cr (n : Nat) : Coch := cslot.coch n
theorem witness_ck_dx : ∃ x, Issues (.ckDx x) cochains ∧
    let d := cr x.d.toNat
    let a := cr x.a.toNat
    Claims.onImage cochains [d, a] cxWords ∧ (a.dual = false ∧ d.dual = false ∧ a.deg < imgDim cxWords ∧ d.deg = a.deg + 1 ∧
      (a.fmt = 9 → d.fmt = 9 ∧ d.anch = a.anch)) ∧
    computes cochains cxWords d [d, a] [(a, (d.range.map (fun t => (bnd cxWords d.deg t).map Prod.fst)).flatten)]
      (a.fmt = 9 → d.sat = false → ∀ t ∈ d.range, ((bnd cxWords d.deg t).map (fun (e : Nat × Bool) => if e.2
        then -(cochains.axElem (clusterOf cochains.cur) a e.1).1
        else (cochains.axElem (clusterOf cochains.cur) a e.1).1)).sum.natAbs < 2 ^ 59) :=
  ⟨⟨6, 3, 0, 0, 0⟩, issues_of (by decide +kernel), on_image (by decide +kernel), by decide +kernel,
    computes_of (by decide +kernel)⟩
theorem witness_ck_star : ∃ x, Issues (.ckStar x) cochains ∧
    let d := cr x.d.toNat
    let a := cr x.a.toNat
    Claims.onImage cochains [d, a] cxWords ∧ (d.deg = a.deg ∧ d.dual = true ∧ a.dual = false ∧ d.row0 = a.row0 ∧
      d.count = a.count) ∧ computes cochains cxWords d [d, a] [(a, d.range)] True :=
  ⟨⟨4, 3, 0, 0, 0⟩, issues_of (by decide +kernel), on_image (by decide +kernel), by decide +kernel,
    computes_of (by decide +kernel)⟩
theorem witness_ck_istar : ∃ x, Issues (.ckIstar x) cochains ∧
    let d := cr x.d.toNat
    let a := cr x.a.toNat
    Claims.onImage cochains [d, a] cxWords ∧ (d.deg = a.deg ∧ d.dual = false ∧ a.dual = true ∧ d.row0 = a.row0 ∧
      d.count = a.count) ∧ computes cochains cxWords d [d, a] [(a, d.range)] True :=
  ⟨⟨2, 4, 0, 0, 0⟩, issues_of (by decide +kernel), on_image (by decide +kernel), by decide +kernel,
    computes_of (by decide +kernel)⟩
theorem witness_ck_codif : ∃ x, Issues (.ckCodif x) cochains ∧
    let d := cr x.d.toNat
    let a := cr x.a.toNat
    Claims.onImage cochains [d, a] cxWords ∧ (1 ≤ a.deg ∧ d.deg + 1 = a.deg ∧ a.dual = false ∧ d.dual = false) ∧
      computes cochains cxWords d [d, a] [(a, (d.range.map (fun t => (cobnd cxWords d.deg t).map Prod.fst)).flatten)] True :=
  ⟨⟨2, 1, 0, 0, 0⟩, issues_of (by decide +kernel), on_image (by decide +kernel), by decide +kernel,
    computes_of (by decide +kernel)⟩
theorem witness_ck_cvt : ∃ x, Issues (.ckCvt x) cochains ∧
    let d := cr x.d.toNat
    let a := cr x.a.toNat
    Claims.onImage cochains [d, a] cxWords ∧ (d.deg = a.deg ∧ d.dual = a.dual ∧ d.count = a.count) ∧
      computes cochains cxWords d [d, a] [(a, a.range)] True :=
  ⟨⟨3, 0, 0, 0, 0⟩, issues_of (by decide +kernel), on_image (by decide +kernel), by decide +kernel,
    computes_of (by decide +kernel)⟩
theorem witness_ck_wedge : ∃ x, Issues (.ckWedge x) cochains ∧
    let d := cr x.d.toNat
    let a := cr x.a.toNat
    let b := cr x.b.toNat
    Claims.onImage cochains [d, a, b] cxWords ∧ (a.dual = false ∧ b.dual = false ∧ d.dual = false ∧ a.deg = 0 ∧ d.deg = b.deg) ∧
      computes cochains cxWords d [d, a, b] [(a, (d.range.map (fun t => if a.deg = 0 then vertsOf cxWords d.deg t
          else cornerEdges cxWords 2 t)).flatten),
        (b, (d.range.map (fun t => if a.deg = 0 then [t] else cornerEdges cxWords 2 t)).flatten)] True :=
  ⟨⟨6, 0, 1, 0, 0⟩, issues_of (by decide +kernel), on_image (by decide +kernel), by decide +kernel,
    computes_of (by decide +kernel)⟩
theorem witness_ck_axpy : ∃ x h, Issues (.ckAxpy x) cochains ∧
    cochains.readCode cochains.cur (16 + x.md.toNat / 4) {} = some (h, {}) ∧
    let d := cr x.d.toNat
    let a := cr x.a.toNat
    let b := cr x.b.toNat
    Claims.onImage cochains [d, a, b] cxWords ∧ (d.deg = a.deg ∧ a.deg = b.deg ∧ d.dual = a.dual ∧ a.dual = b.dual ∧
      d.count = a.count ∧ a.count = b.count) ∧ computes cochains cxWords d [d, a, b] [(a, a.range), (b, b.range)] True :=
  ⟨⟨2, 3, 0, 0, 12⟩, 0, issues_of (by decide +kernel), by decide +kernel, on_image (by decide +kernel), by decide +kernel,
    computes_of (by decide +kernel)⟩
/-- Some mantissas of c3 are out of range, or their difference is. -/
theorem witness_ck_range : ∃ s t, ¬Claims.fits s (cr 3) 0 ∧ (∀ j ∈ (cr 3).range, Claims.fits t (cr 3) j) ∧
    ¬((bnd cxWords 1 0).map (fun (e : Nat × Bool) => if e.2 then -(t.axElem (clusterOf t.cur) (cr 3) e.1).1
      else (t.axElem (clusterOf t.cur) (cr 3) e.1).1)).sum.natAbs < 2 ^ 59 :=
  ⟨poke cochains 0x400 8 (2 ^ 62), poke (poke cochains 0x400 8 (2 ^ 58)) 0x408 8 (2 ^ 64 - 2 ^ 58),
    fun h => absurd (h (by decide +kernel) (by decide +kernel)) (by decide +kernel),
    fun j hj => fits_of (by revert j; decide +kernel), by decide +kernel⟩
theorem witness_interpolate : ∃ s x w m, Issues (.ckInterp x) s ∧
    let ck := clusterOf s.cur
    let d := (s.slot s.cur).coch x.d.toNat
    let a := (s.slot s.cur).coch x.a.toNat
    let b := (s.slot s.cur).coch x.b.toNat
    let ps := (List.range b.count).map (s.point ck b)
    let rs := (ps.map (fun p => pointReads w a.deg m p.cell)).flatten
    let out : Coch := { d with row0 := 0 }
    Claims.onImage s [d, a, b] w ∧ (m = b.deg ∧ a.deg ≤ 1 ∧ a.dual = false ∧ 1 ≤ m ∧ m ≤ imgDim w ∧ b.fmt = 3 ∧
      d.count = b.count * (if a.deg = 0 then 1 else m + 1) ∧
      (∀ p ∈ ps, p.cell < imgN w m ∧ if m = 1 then (bnd w 1 p.cell).length = 2 else simplicial w m p.cell = true) ∧
      1 ≤ b.count ∧ 8 * b.base + 16 * b.count ≤ 0x400000 ∧ 8 * d.base + d.esize * d.count ≤ 0x400000 ∧
      a.windowOk w = true ∧ ∀ j ∈ rs, a.has j = true) ∧
    Claims.elemsFree s ((List.range b.count).map (fun p => (8 * b.base + 16 * p, 16)) ++ a.elems rs) (out.elems out.range) ∧
    ∀ j ∈ rs, Claims.fits s a j :=
  ⟨cochains, ⟨5, 3, 1, 0, 0⟩, cxWords, 1, issues_of (by decide +kernel), on_image (by decide +kernel), by decide +kernel,
    elems_free (by decide +kernel), fun j hj => fits_of (by revert j; decide +kernel)⟩
theorem witness_anchor : ∃ s x w, Issues (.ckAnch x) s ∧
    let d := (s.slot s.cur).coch x.d.toNat
    let a := (s.slot s.cur).coch x.a.toNat
    Claims.onImage s [d, a] w ∧ (d.fmt = 9 ∧ d.windowOk w = true ∧ a.windowOk w = true) ∧
      Claims.elemsFree s (a.elems a.range) [] ∧ ∀ j ∈ a.range, Claims.fits s a j :=
  ⟨cochains, ⟨3, 0, 0, 0, 0⟩, cxWords, issues_of (by decide +kernel), on_image (by decide +kernel), by decide +kernel,
    elems_free (by decide +kernel), fun j hj => fits_of (by revert j; decide +kernel)⟩
theorem witness_dot : ∃ s x w, Issues (.ckDot x) s ∧
    let a := (s.slot s.cur).coch x.a.toNat
    let b := (s.slot s.cur).coch x.b.toNat
    let js := (List.range a.count).filter (fun j => !a.own || decide (simplexOwner w a.deg (a.row0 + j) = a.part))
    Claims.onImage s [a, b] w ∧ (a.deg = b.deg ∧ a.dual = b.dual ∧ a.count = b.count ∧ a.windowOk w = true ∧
      b.windowOk w = true) ∧
      Claims.elemsFree s (a.elems (js.map (fun j => a.row0 + j)) ++ b.elems (js.map (fun j => b.row0 + j))) [] ∧
      ∀ j ∈ js, Claims.fits s a (a.row0 + j) ∧ Claims.fits s b (b.row0 + j) :=
  ⟨cochains, ⟨0, 0, 3, 0, 12⟩, cxWords, issues_of (by decide +kernel), on_image (by decide +kernel), by decide +kernel,
    elems_free (by decide +kernel), fun j hj => ⟨fits_of (by revert j; decide +kernel), fits_of (by revert j; decide +kernel)⟩⟩
/-- h3 names a buffer at 0x700 and a list of one simplex at the start of the local memory, made three cycles ago. -/
def halo : State :=
  { cochains with cores := [(coreOf here, { cycle := 3, h := [(3, [⟨0, 5, BitVec.ofNat 64 (0x700 + 2 ^ 36)⟩])] })] }
theorem witness_pack : ∃ s x y h, s.readCode s.cur (16 + x.md.toNat / 4) {} = some (h, {}) ∧
    s.readCode s.cur (16 + y.md.toNat / 4) {} = some (h, {}) ∧ Issues (.ckHpack x) s ∧ Issues (.ckHunp y) s ∧
    let a := (s.slot s.cur).coch x.a.toNat
    let ls := s.simplexList (coreOf s.cur) (hList h) (hCount h)
    (∀ j < hCount h, s.readError (localPa (coreOf s.cur) (4 * (hList h + j))) = none) ∧
      (∃ n, a.v = true ∧ a.slot = n ∧ ((s.cluster (clusterOf s.cur)).cxSlot n).gen = a.gen ∧
        ((s.cluster (clusterOf s.cur)).cxSlot n).st = 2) ∧
      (a.windowOk cxWords = true ∧ hWordOk h a.esize = true ∧ (∀ j ∈ ls, j < 2 ^ 20 ∧ a.has j = true) ∧ a.own = false ∧
        (s.slot s.cur).coch y.d.toNat = a) ∧
      Claims.elemsFree s (a.elems ls) (bufElems h a.esize) ∧ Claims.elemsFree s (bufElems h a.esize) (a.elems ls) ∧
      ∀ j ∈ ls, Claims.fits s a j :=
  ⟨halo, ⟨0, 3, 0, 0, 12⟩, ⟨3, 0, 0, 0, 12⟩, BitVec.ofNat 64 (0x700 + 2 ^ 36), by decide +kernel, by decide +kernel,
    issues_of (by decide +kernel), issues_of (by decide +kernel), by decide +kernel, ⟨3, by decide +kernel⟩, by decide +kernel,
    elems_free (by decide +kernel), elems_free (by decide +kernel), fun j hj => fits_of (by revert j; decide +kernel)⟩

/-! ### The matrix unit -/

/-- A slot with two rings of FP32 tiles of 32 lines, one tile in each, on an idle W-cluster core; byte 0 of local memory
is a skip list that covers one present block. -/
def matrix (m : Option MxIssue) : State :=
  let s := holding { wick with fa := 3, fb := 3, fc := 0x33, mxIssue := m }
  let c := coreOf here
  (((((s.setLocalN c 0 1 1).setLocalN c 0x100 8 (2 ^ 48 + 64 * 2 ^ 32 + 0x4000)).setLocalN c 0x108 8 1).setLocalN c 0x110 8
    (2 ^ 48 + 64 * 2 ^ 32 + 0x8000)).setLocalN c 0x118 8 1).setLocalN c 0x120 8 (2 ^ 48 + 64 * 2 ^ 32 + 0xC000)
/-- A slot of the first cluster, with FP8 rings; both scale blocks, at 0x1000, hold 1.0. -/
def matrix8 : State :=
  let me := 7 * 2 ^ 13
  let c := coreOf me
  let s := { State.reset with cur := me, slots := [(me, { wick with fa := 0x10000, fb := 0x10000 })] }
  ((((s.setLocalN c 0x100 8 (2 ^ 48 + 64 * 2 ^ 32 + 0x4000)).setLocalN c 0x108 8 1).setLocalN c 0x110 8
    (2 ^ 48 + 64 * 2 ^ 32 + 0x8000)).setLocalN c 0x118 8 1).storeHome (clusterOf me) (scratchPa (clusterOf me) 0x1000) 128
      ((List.range 32).foldl (fun v j => v + 0x3F800000 * 2 ^ (32 * j)) 0)
/-- The operands of `mx.mma a1, r0, r1` that pops both rings. -/
def mma : FmtM := ⟨1, 0, 1, 0, 0xC0⟩
/-- The checks of `Claims.unitFree`, decided. -/
def unitB (s : State) (rs : List Range) : Bool :=
  decide ((s.slot s.cur).occ = true ∧ (s.core (coreOf s.cur)).mx = [] ∧
    (s.cluster (clusterOf s.cur)).conflict (s.slot s.cur).asid rs = false ∧
    (s.cluster (clusterOf s.cur)).regionConflict rs = false ∧
    (s.cluster (clusterOf s.cur)).locks.length + rs.length ≤ 64 ∧
    ∀ l ∈ (s.cluster (clusterOf s.cur)).locks, l.op ≠ s.nextOp)
theorem unit_free {s : State} {rs : List Range} (h : unitB s rs = true) : Claims.unitFree s rs := by
  unfold Claims.unitFree; exact of_decide_eq_true h
theorem tile_ok {s : State} {off n : Nat} (h : soundB s = true) : Claims.tileOk s off n := fun _ _ _ => readable h _
/-- The premises on a multiply-accumulate. -/
def mmaReady (i : Instr) (s : State) (x : FmtM) (sparse : Option Nat) (f : Nat) (present : List Bool) (fs : Option Word) : Prop :=
  let y := s.slot s.cur
  let ck := clusterOf s.cur
  let bn := (present.filter id).length * mmaBlockBytes f
  let ra := s.ring s.cur x.a.toNat
  let rb := s.ring s.cur x.b.toNat
  let ao := ra.tileOff ra.tail
  let bo := rb.tileOff rb.tail
  Issues i s ∧ (y.mxIssue = none ∨ y.mxIssue = some ⟨f, present, fs⟩) ∧ Claims.skipped s sparse f present fs ∧
    (y.fa.getLsbD 63 = false ∧ bits y.fa.toNat 0 4 = f ∧ bits y.fb.toNat 0 4 = f ∧ f < 10 ∧ mmaTakes (isW ck) f = true ∧
      (f = 1 → sparse = none) ∧ ringHolds ra (mmaABytes f) = true ∧ ringHolds rb bn = true ∧
      ra.occupancy ≠ 0 ∧ rb.occupancy ≠ 0) ∧ Claims.tileOk s ao (mmaABytes f) ∧ Claims.tileOk s bo bn ∧
    Claims.unitFree s (tileRange ao (mmaABytes f) false ++ tileRange bo bn false)
theorem witness_multiply_accumulate : (mmaReady (.mxMma mma) (matrix none) mma none 3 [true] none) ∧
    (mmaReady (.mxMmaz0 mma) (matrix none) mma (some 0) 3 [true] (some 1)) ∧
    (mmaReady (.mxMmaz1 mma) (matrix (some ⟨3, [true], some (2 ^ 32)⟩)) mma (some 1) 3 [true] (some (2 ^ 32))) := by
  refine ⟨⟨issues_of (by decide +kernel), .inl (by decide +kernel), ⟨rfl, rfl⟩, ?_⟩, ⟨issues_of (by decide +kernel),
    .inl (by decide +kernel), ⟨⟨1, 0⟩, by decide +kernel, by decide +kernel, fun _ _ _ => readable (by decide +kernel) _⟩, ?_⟩, ⟨issues_of (by decide +kernel), .inr (by decide +kernel),
    ⟨⟨1, 0⟩, by decide +kernel, by decide +kernel, fun _ _ _ => readable (by decide +kernel) _⟩, ?_⟩⟩ <;>
  exact ⟨by decide +kernel, tile_ok (by decide +kernel), tile_ok (by decide +kernel), unit_free (by decide +kernel)⟩
/-- The two scales of FP8, in range for every element. -/
theorem witness_multiply_accumulate_scaled : mmaReady (.mxMma mma) matrix8 mma none 0 (List.replicate 8 true) none ∧
    let y := matrix8.slot matrix8.cur
    let ck := clusterOf matrix8.cur
    let ra := matrix8.ring matrix8.cur mma.a.toNat
    let rb := matrix8.ring matrix8.cur mma.b.toNat
    let block := fun (w : Word) (r : Ring) => bits w.toNat 4 22 + r.tail % r.depth * bits w.toNat 26 12
    let scA := fun i => leNat (matrix8.spadBytes ck (block y.fa ra + 4 * i) 4)
    let scB := leNat (matrix8.spadBytes ck (block y.fb rb) 4)
    Claims.tileOk matrix8 (block y.fa ra) 128 ∧ Claims.tileOk matrix8 (block y.fb rb) 4 ∧
      (∀ i < 32, scaleValid (scA i) = true ∧ combinedBad (rneMul32 (scA i) scB) = false) ∧ scaleValid scB = true :=
  ⟨⟨issues_of (by decide +kernel), .inl (by decide +kernel), ⟨rfl, rfl⟩, by decide +kernel, tile_ok (by decide +kernel),
      tile_ok (by decide +kernel), unit_free (by decide +kernel)⟩,
    tile_ok (by decide +kernel), tile_ok (by decide +kernel), by decide +kernel⟩
/-- The same with a third ring of room, and fc naming FP32 both ways. -/
theorem witness_matrix_tiles : ∃ s x y z, ((s.slot s.cur).fa.getLsbD 63 = false ∧ (s.slot s.cur).mxIssue = none ∧
    bits (s.slot s.cur).fc.toNat 4 4 = 3 ∧ bits (s.slot s.cur).fc.toNat 0 4 = 3) ∧
    Issues (.mxClr x) s ∧ Claims.unitFree s [] ∧ Issues (.mxLd y) s ∧ Issues (.mxSt z) s ∧
    let r := s.ring s.cur y.a.toNat
    let w := s.ring s.cur z.a.toNat
    (ringHolds r 4096 = true ∧ r.occupancy ≠ 0) ∧ Claims.tileOk s (r.tileOff r.tail) 4096 ∧
    Claims.unitFree s (tileRange (r.tileOff r.tail) 4096 false) ∧
    (ringHolds w 4096 = true ∧ w.occupancy < w.depth ∧ (s.cluster (clusterOf s.cur)).pushing s.cur z.a.toNat = false) ∧
    Claims.unitFree s (tileRange (w.tileOff w.head) 4096 true) :=
  ⟨matrix none, ⟨1, 0, 0, 0, 0⟩, ⟨1, 0, 0, 0, 0x80⟩, ⟨1, 2, 0, 0, 0⟩, by decide +kernel, issues_of (by decide +kernel),
    unit_free (by decide +kernel), issues_of (by decide +kernel), issues_of (by decide +kernel), by decide +kernel,
    tile_ok (by decide +kernel), unit_free (by decide +kernel), by decide +kernel, unit_free (by decide +kernel)⟩

/-! ### Engines -/

/-- A command word: the command, the format FP64, and fields above. -/
def tcwOf (cmd rest : Nat) : TWord := BitVec.ofNat 256 (cmd + 4 * 2 ^ 16 + rest)
/-- A strided copy of one element from 0x1000 to 0x2000 in the scratchpad, with its dimension block. -/
def copyOp : EngOp :=
  { id := 1, eq := 0, core := 0, slot := here, wick := 0, asid := 5, sys := true, tok := 3
    tcw := tcwOf 1 ((near 0x1000).toNat * 2 ^ 91 + (near 0x2000).toNat * 2 ^ 148), blk := 1, total := 1, granted := 1 }
/-- A state whose cluster has an operation in flight. -/
def inFlight (o : EngOp) : State := { base with clusters := [(clusterOf here, { ops := [o] })], nextOp := 2 }
/-- The checks of `Claims.running`, decided. -/
theorem running_of {s : State} {ck : Nat} {o : EngOp}
    (h : decide ((s.cluster ck).op o.id = some o ∧ o.code = none ∧ o.ended = false) = true) : Claims.running s ck o := by
  unfold Claims.running; exact of_decide_eq_true h
/-- The checks of `Claims.nearRun`, decided. -/
theorem near_run {a n : Nat}
    (h : decide (0x01FFFFFF00000000 ≤ a ∧ a + n ≤ 0x01FFFFFF00400000 ∧ a % 2 ^ 16 + n ≤ 2 ^ 16) = true) :
    Claims.nearRun a n := by
  unfold Claims.nearRun; exact of_decide_eq_true h
theorem clean_of {s : State} {ck off n : Nat} (h : soundB s = true) : Claims.clean s ck off n := fun _ _ => readable h _
/-- Local memory with a copy command at 0x200 and its dimension block at 0x240, which g2 names. -/
def enqueuer : State :=
  let c := coreOf here
  let s := holding { wick with g := [(2, 0x200)] }
  (s.setLocalN c 0x200 32 (1 + 4 * 2 ^ 16 + 9 * 2 ^ 81 + (near 0x1000).toNat * 2 ^ 91 + (near 0x2000).toNat * 2 ^ 148)).setLocalN
    c 0x240 64 (1 + 2 ^ 128 + 2 ^ 256)
/-- The same with the range-lock table full. -/
def crowded : State :=
  { enqueuer with
    clusters := [(clusterOf here, { locks := List.replicate 64 ⟨9, 0, 0, false, 7⟩ })] }
/-- The same with a range of the same asid over the destination. -/
def contended : State :=
  { enqueuer with clusters := [(clusterOf here, { locks := [⟨5, (near 0x2000).toNat, (near 0x2007).toNat, true, 7⟩] })] }
/-- `enq g4, g2` for the copy engine. -/
def fe : FmtE := ⟨4, .reg 2, 0, 0⟩
/-- The command as those states copy it. -/
def enqCmd : EngOp := Claims.command enqueuer fe 4 0x200
/-- What an `enq` asks for before its queue and its command are looked at. -/
def enqAsked (i : Instr) (s : State) (x : FmtE) (off : Word) : Prop :=
  (i = .enqWt x ∨ i = .enqTry x) ∧ Issues i s ∧ s.reads1 x.a off {} ∧ s.canWrite s.cur x.tok.toNat = true ∧ off.toNat % 32 = 0
theorem enq_asked {i : Instr} {s : State} {x : FmtE} {off : Word} (h : (decide (i = .enqWt x ∨ i = .enqTry x) &&
    (decide (decodeCause s s.cur i.enc = none) && (s.slot s.cur).p i.enc.guard && decide (encAwaits i.enc (s.slot s.cur) = none)) &&
    decide (s.readSrc s.cur x.a {} = some (off, {})) && s.canWrite s.cur x.tok.toNat && decide (off.toNat % 32 = 0)) = true) :
    enqAsked i s x off := by
  simp only [Bool.and_eq_true, decide_eq_true_eq] at h
  obtain ⟨⟨⟨⟨h1, h2⟩, h3⟩, h4⟩, h5⟩ := h
  exact ⟨h1, ⟨h2.1.1, h2.1.2, h2.2⟩, h3, h4, h5⟩
theorem copied_of {s : State} {o : EngOp} {off : Nat} (h : soundB s = true) : Claims.copied s o off :=
  ⟨fun _ => readable_all h _ _, fun _ _ => ⟨fun _ => readable_all h _ _, fun _ _ => readable_all h _ _⟩,
    fun _ _ => readable_all h _ _⟩
/-- No command of the slot waits, the queue exists, the command can be copied and raises no cause. -/
def enqBody (s : State) (x : FmtE) (o : EngOp) (off : Word) : Prop :=
  (s.slot s.cur).held = none ∧ o.slot = s.cur ∧ (x.eq = 0 ∨ 2 ≤ x.eq.toNat ∧ x.eq.toNat ≤ 6) ∧ Claims.copied s o off.toNat ∧
    Claims.bodyCause s o = none
theorem enq_body {s : State} {x : FmtE} {o : EngOp} {off : Word}
    (h : (decide ((s.slot s.cur).held = none) && decide (o.slot = s.cur) &&
      decide (x.eq = 0 ∨ 2 ≤ x.eq.toNat ∧ x.eq.toNat ≤ 6) && soundB s && decide (Claims.bodyCause s o = none)) = true) :
    enqBody s x o off := by
  simp only [Bool.and_eq_true, decide_eq_true_eq] at h
  obtain ⟨⟨⟨⟨h1, h2⟩, h3⟩, h4⟩, h5⟩ := h
  exact ⟨h1, h2, h3, copied_of h4, h5⟩
/-- The laser check passes of a command that is no fabric send. -/
theorem laser_ok {s : State} {o : EngOp} (h : o.eq ≠ 2) : Claims.laserOk s o s := ⟨fun _ => rfl, fun he => absurd he h⟩
/-- The tile slot out of reach, decided. -/
theorem far_iff {s : State} {o : EngOp} :
    Claims.farTile s o ↔ decide ((o.eq = 0 ∧ o.cmd ≠ 7 ∧ o.ringBit = true) ∧ rangesIn (Claims.rangesFor s o) = false) = true := by
  simp only [Claims.farTile, Claims.pushes, decide_eq_true_eq]
theorem not_far {s : State} {o : EngOp}
    (h : decide ((o.eq = 0 ∧ o.cmd ≠ 7 ∧ o.ringBit = true) ∧ rangesIn (Claims.rangesFor s o) = false) = false) :
    ¬Claims.farTile s o := fun hf => by rw [far_iff.mp hf] at h; exact absurd h (by decide)
/-- Room or none, decided. -/
def roomB (s : State) (o : EngOp) : Bool :=
  (decide (¬(o.eq = 0 ∧ o.cmd ≠ 7 ∧ o.ringBit = true)) ||
      decide ((s.ring o.slot o.rk).occupancy + Claims.onTheWay s o < (s.ring o.slot o.rk).depth)) &&
    decide ((s.cluster (clusterOf o.slot)).locks.length + (Claims.rangesFor s o).length ≤ 64) &&
    (decide (o.eq ≠ 0) || decide ((Tab.get [] (s.cluster (clusterOf o.slot)).rings o.core).length < 16))
theorem room_iff {s : State} {o : EngOp} : Claims.roomFor s o ↔ roomB s o = true := by
  simp only [Claims.roomFor, Claims.pushes, roomB, Bool.and_eq_true, Bool.or_eq_true, decide_eq_true_eq, and_assoc]
  refine ⟨fun h => ⟨?_, h.2.1, ?_⟩, fun h => ⟨fun hp => h.1.resolve_left (fun hn => hn hp), h.2.1, fun he =>
    h.2.2.resolve_left (fun hn => hn he)⟩⟩
  · by_cases hp : o.eq = 0 ∧ o.cmd ≠ 7 ∧ o.ringBit = true
    · exact .inr (h.1 hp)
    · exact .inl hp
  · by_cases he : o.eq = 0
    · exact .inr (h.2.2 he)
    · exact .inl he
theorem witness_enqueue : ∃ i s x off, enqAsked i s x off ∧
    let o := Claims.command s x i.enc.len off
    enqBody s x o off ∧ Claims.laserOk s o s ∧ o.vg = false ∧ ¬Claims.farTile s o ∧ Claims.conflicts s o = (false, false) ∧
      Claims.roomFor s o :=
  ⟨.enqWt fe, enqueuer, fe, 0x200, enq_asked (by decide +kernel), enq_body (by decide +kernel), laser_ok (by decide +kernel),
    by decide +kernel, not_far (by decide +kernel), by decide +kernel, room_iff.mpr (by decide +kernel)⟩
theorem witness_enqueue_conflict : ∃ i s x off, enqAsked i s x off ∧
    let o := Claims.command s x i.enc.len off
    enqBody s x o off ∧ Claims.laserOk s o s ∧ o.vg = false ∧ ¬Claims.farTile s o ∧ Claims.conflicts s o ≠ (false, false) :=
  ⟨.enqWt fe, contended, fe, 0x200, enq_asked (by decide +kernel), enq_body (by decide +kernel), laser_ok (by decide +kernel),
    by decide +kernel, not_far (by decide +kernel), by decide +kernel⟩
theorem witness_enqueue_full : ∃ s x off, ∀ i, (i = .enqWt x ∨ i = .enqTry x) → enqAsked i s x off ∧
    let o := Claims.command s x i.enc.len off
    enqBody s x o off ∧ Claims.laserOk s o s ∧ o.vg = false ∧ ¬Claims.farTile s o ∧ Claims.conflicts s o = (false, false) ∧
      ¬Claims.roomFor s o := by
  refine ⟨crowded, fe, 0x200, fun i hi => ?_⟩
  rcases hi with rfl | rfl <;>
    exact ⟨enq_asked (by decide +kernel), enq_body (by decide +kernel), laser_ok (by decide +kernel), by decide +kernel,
      not_far (by decide +kernel), by decide +kernel, fun h => absurd (room_iff.mp h) (by decide +kernel)⟩
/-- A push of the command into ring 0, of one tile slot at the end of the addresses that there are. -/
def farEnqueuer : State :=
  let c := coreOf here
  (enqueuer.setLocalN c 0x200 32 (1 + 4 * 2 ^ 16 + 2 ^ 78 + 9 * 2 ^ 81 + (near 0x1000).toNat * 2 ^ 91)).setLocalN c 0x100 8
    (2 ^ 48 + 0xFFFF * 2 ^ 32 + 0xFFFFFFC0)
theorem witness_enqueue_far : ∃ i s x off, enqAsked i s x off ∧
    let o := Claims.command s x i.enc.len off
    enqBody s x o off ∧ Claims.laserOk s o s ∧ o.vg = false ∧ Claims.farTile s o :=
  ⟨.enqWt fe, farEnqueuer, fe, 0x200, enq_asked (by decide +kernel), enq_body (by decide +kernel), laser_ok (by decide +kernel),
    by decide +kernel, far_iff.mpr (by decide +kernel)⟩
/-- A command of zeros, and a queue that does not exist. -/
theorem witness_enqueue_cause : ∃ i j s x y off c, enqAsked i s x off ∧ (s.slot s.cur).held = none ∧
    (x.eq = 0 ∨ 2 ≤ x.eq.toNat ∧ x.eq.toNat ≤ 6) ∧ Claims.copied s (Claims.command s x i.enc.len off) off.toNat ∧
    Claims.bodyCause s (Claims.command s x i.enc.len off) = some c ∧
    enqAsked j s y off ∧ ¬(y.eq = 0 ∨ 2 ≤ y.eq.toNat ∧ y.eq.toNat ≤ 6) :=
  ⟨.enqTry { fe with eq := 2, a := .reg 0 }, .enqWt { fe with eq := 1, a := .reg 0 }, enqueuer,
    { fe with eq := 2, a := .reg 0 }, { fe with eq := 1, a := .reg 0 }, 0, 0x81, enq_asked (by decide +kernel),
    by decide +kernel, by decide, copied_of (by decide +kernel), by decide +kernel, enq_asked (by decide +kernel), by decide⟩
/-- The command with a vigil's line, in the scratchpad at 0x3000. -/
def vigilEnqueuer : State :=
  enqueuer.setLocalN (coreOf here) 0x200 32 ((enqueuer.localN (coreOf here) 0x200 32) + 2 ^ 20 + (near 0x3000).toNat / 64 * 2 ^ 205)
theorem witness_enqueue_vigil : ∃ i s x off t s1, enqAsked i s x off ∧
    let o := Claims.command s x i.enc.len off
    enqBody s x o off ∧ Claims.laserOk s o s ∧ o.vg = true ∧
      s.xlate (coreOf s.cur) true (s.slot s.cur).user (s.slot s.cur).asid .load (BitVec.ofNat 64 (o.vaddr * 64)) = (.ok t, s1) ∧
      ¬Claims.farTile s { o with vigil := some t.pa } ∧
      Claims.conflicts s { o with vigil := some t.pa } = (false, false) ∧ Claims.roomFor s { o with vigil := some t.pa } :=
  ⟨.enqWt fe, vigilEnqueuer, fe, 0x200, tr 0x3000, vigilEnqueuer, enq_asked (by decide +kernel), enq_body (by decide +kernel),
    laser_ok (by decide +kernel), by decide +kernel, by decide +kernel, not_far (by decide +kernel), by decide +kernel,
    room_iff.mpr (by decide +kernel)⟩
/-- A fabric send over the slotted planes to page 1, which the core translates to device 1; the laser 0 of the one entry
of the module's table serves device 1. -/
def laserEnqueuer : State :=
  let s := paged peerLeaf
  ({ s with
      slots := [(here, { wick with g := [(2, 0x200)] })]
      mods := [(0, { members := [0, 1], slotCount := 1, slotTable := BitVec.ofNat 8 129 :: List.replicate 511 0 })] } :
    State).setLocalN (coreOf here) 0x200 32
      (1 + 4 * 2 ^ 16 + 0x40 * 2 ^ 59 + (near 0x1000).toNat * 2 ^ 91 + 0x10000 * 2 ^ 148)
theorem witness_enqueue_laser : ∃ i s x off, enqAsked i s x off ∧
    let o := Claims.command s x i.enc.len off
    enqBody s x o off ∧ o.eq = 2 ∧ o.stc = false ∧ Claims.laserOk s o s ∧ o.vg = false ∧ ¬Claims.farTile s o ∧
      Claims.conflicts s o = (false, false) ∧ Claims.roomFor s o :=
  ⟨.enqWt { fe with eq := 2 }, laserEnqueuer, { fe with eq := 2 }, 0x200, enq_asked (by decide +kernel),
    enq_body (by decide +kernel), rfl, by decide +kernel,
    ⟨fun _ => rfl, fun _ _ => ⟨by decide +kernel, ⟨5, 2 ^ 16, 1, 0, BitVec.ofNat 64 peerLeaf⟩, by decide +kernel,
      by decide +kernel⟩⟩, by decide +kernel, not_far (by decide +kernel), by decide +kernel, room_iff.mpr (by decide +kernel)⟩
/-- A slot whose command has waited and goes on. -/
def goingOn (s : State) (o : EngOp) : State := s.onSlot here (fun x => { x with held := some o })
/-- What an `enq` that goes on with its command asks for. -/
def heldBody (s : State) (x : FmtE) (o : EngOp) : Prop :=
  (s.slot s.cur).held = some o ∧ o.slot = s.cur ∧ (o.eq = 0 ∧ o.cmd ≠ 7 ∧ o.ringBit = true → o.badRing (s.ring s.cur o.rk) = false) ∧
    (o.eq = 5 → (s.cluster (clusterOf s.cur)).haloFresh o = true) ∧ o.vg = false ∧ x.tok.toNat = o.tok
/-- A push into ring 0, and a halo operation of the generation of slot 0, which is loaded. -/
def goodPush : EngOp := 
  { enqCmd with tcw := BitVec.ofNat 256 (1 + 4 * 2 ^ 16 + 2 ^ 78 + 9 * 2 ^ 81 + (near 0x1000).toNat * 2 ^ 91) }
def freshHalo : EngOp := { enqCmd with eq := 5, c0 := BitVec.ofNat 64 (2 ^ 63) }
theorem witness_enqueue_held : ∃ (s t u : State) (x : FmtE) (o p q : EngOp) (off : Word),
    (enqAsked (.enqWt x) s x off ∧ heldBody s x o ∧ Claims.laserOk s o s ∧ ¬Claims.farTile s o ∧
      Claims.conflicts s o = (false, false) ∧ Claims.roomFor s o) ∧
    (enqAsked (.enqTry x) t x off ∧ heldBody t x p ∧ Claims.laserOk t p t ∧ p.ringBit = true ∧ Claims.farTile t p) ∧
    enqAsked (.enqTry x) u x off ∧ heldBody u x q ∧ q.eq = 5 ∧ Claims.laserOk u q u ∧ ¬Claims.farTile u q ∧
      Claims.conflicts u q = (false, false) ∧ ¬Claims.roomFor u q :=
  ⟨goingOn enqueuer enqCmd, goingOn farEnqueuer goodPush,
    goingOn { crowded with clusters := [(clusterOf here, { locks := List.replicate 64 ⟨9, 0, 0, false, 7⟩, cx := [(0, { st := 2 })] })] }
      freshHalo, fe, enqCmd, goodPush, freshHalo, 0x200,
    ⟨enq_asked (by decide +kernel), by unfold heldBody; decide +kernel, laser_ok (by decide +kernel), not_far (by decide +kernel),
      by decide +kernel, room_iff.mpr (by decide +kernel)⟩,
    ⟨enq_asked (by decide +kernel), by unfold heldBody; decide +kernel, laser_ok (by decide +kernel), by decide +kernel,
      far_iff.mpr (by decide +kernel)⟩,
    enq_asked (by decide +kernel), by unfold heldBody; decide +kernel, rfl, laser_ok (by decide +kernel), not_far (by decide +kernel),
    by decide +kernel, fun h => absurd (room_iff.mp h) (by decide +kernel)⟩
/-- A wick that waits for room for a command. -/
def awaitingRoom (s : State) (o : EngOp) : State := s.onSlot here (fun x => { x with wait := .room, held := some o })
/-- The push, and a halo operation whose register's generation is not the slot's. -/
def staleHalo : EngOp := { enqCmd with eq := 5, c0 := BitVec.ofNat 64 (2 ^ 63 + 6 * 2 ^ 44) }
/-- What a command that rechecks asks for. -/
def rechecks (s : State) (k : Nat) (o : EngOp) : Prop :=
  (s.slot k).wait = .room ∧ (s.slot k).held = some o ∧ o.slot = k ∧
    (o.eq = 0 ∧ o.cmd ≠ 7 ∧ o.ringBit = true → o.badRing (s.ring k o.rk) = false) ∧
    (o.eq = 5 → (s.cluster (clusterOf k)).haloFresh o = true)
theorem witness_enqueue_retry : ∃ (s t : State) (k : Nat) (o p : EngOp), rechecks s k o ∧ ¬Claims.farTile s o ∧
    Claims.conflicts s o = (false, false) ∧ Claims.roomFor s o ∧ rechecks t k p ∧ Claims.farTile t p :=
  ⟨awaitingRoom enqueuer enqCmd, awaitingRoom farEnqueuer goodPush, here, enqCmd, goodPush,
    by unfold rechecks; decide +kernel, not_far (by decide +kernel), by decide +kernel, room_iff.mpr (by decide +kernel),
    by unfold rechecks; decide +kernel, far_iff.mpr (by decide +kernel)⟩
theorem witness_enqueue_retry_full : ∃ (s t : State) (k : Nat) (o : EngOp), rechecks s k o ∧ ¬Claims.farTile s o ∧
    Claims.conflicts s o = (false, false) ∧ ¬Claims.roomFor s o ∧ rechecks t k o ∧ ¬Claims.farTile t o ∧
    Claims.conflicts t o ≠ (false, false) :=
  ⟨awaitingRoom crowded enqCmd, awaitingRoom contended enqCmd, here, enqCmd, by unfold rechecks; decide +kernel,
    not_far (by decide +kernel), by decide +kernel, fun h => absurd (room_iff.mp h) (by decide +kernel),
    by unfold rechecks; decide +kernel, not_far (by decide +kernel), by decide +kernel⟩
theorem witness_enqueue_retry_trap : ∃ (s t : State) (k : Nat) (o q : EngOp), (s.slot k).wait = .room ∧
    (s.slot k).held = some o ∧ o.slot = k ∧ (o.eq = 0 ∧ o.cmd ≠ 7 ∧ o.ringBit = true) ∧ o.badRing (s.ring k o.rk) = true ∧
    (t.slot k).wait = .room ∧ (t.slot k).held = some q ∧ q.slot = k ∧ q.eq = 5 ∧
    (t.cluster (clusterOf k)).haloFresh q = false :=
  ⟨awaitingRoom enqueuer goodPush, awaitingRoom enqueuer staleHalo, here, goodPush, staleHalo, by decide +kernel⟩
theorem witness_copy : ∃ s ck o, Claims.running s ck o ∧ o.eq = 0 ∧ 1 ≤ o.cmd ∧ o.cmd ≤ 6 ∧ o.image = none ∧
    o.next < o.granted ∧ (s.request ck o o.next).1 = o.next + 1 ∧ o.vigil = none ∧ clusterOk ck = true ∧
    let e := o.elem (s.indexAt ck o) o.next
    (∀ a, e.src = some a → Claims.nearRun a o.e ∧ Claims.clean s ck (Claims.offOf a) o.e) ∧
    (∀ d, e.dst = some d → Claims.nearRun d o.e ∧ (s.cluster ck).inRegion (Claims.offOf d) o.e = false) ∧
    o.miss = none ∧ e.src.isSome = true ∧ e.dst.isSome = true ∧ o.total = o.next + 1 ∧ o.acks = 0 ∧
      s.pushBefore ck o = false :=
  ⟨inFlight copyOp, clusterOf here, copyOp, running_of (by decide +kernel), by decide +kernel, by decide +kernel,
    by decide +kernel, by decide +kernel, by decide +kernel, by decide +kernel, by decide +kernel, by decide +kernel,
    fun a ha => by
      rw [show (copyOp.elem ((inFlight copyOp).indexAt (clusterOf here) copyOp) copyOp.next).src = some (near 0x1000).toNat by
        decide +kernel] at ha
      obtain rfl := Option.some.inj ha
      exact ⟨near_run (by decide +kernel), clean_of (by decide +kernel)⟩,
    fun d hd => by
      rw [show (copyOp.elem ((inFlight copyOp).indexAt (clusterOf here) copyOp) copyOp.next).dst = some (near 0x2000).toNat by
        decide +kernel] at hd
      obtain rfl := Option.some.inj hd
      exact ⟨near_run (by decide +kernel), by decide +kernel⟩,
    by decide +kernel⟩
/-- A halo pack of one FP32 element of a cochain at 0x100 into a buffer at 0x2000. -/
def haloOp (cmd : Nat) : EngOp :=
  { copyOp with
    eq := 5, tcw := BitVec.ofNat 256 (cmd + (near 0x2000).toNat * 2 ^ 148), idx := [0]
    c0 := BitVec.ofNat 64 (2 ^ 63 + 3 * 2 ^ 38), c1 := BitVec.ofNat 64 (2 ^ 20 + 0x20) }
theorem witness_halo : ∀ cmd : Nat, (cmd = 1 ∨ cmd = 2) → ∃ (s : State) (ck : Nat) (o : EngOp), Claims.running s ck o ∧
    o.eq = 5 ∧ o.cmd = cmd ∧ o.next < o.total ∧ o.vigil = none ∧ clusterOk ck = true ∧
    let z := o.coch.esize
    let b := o.f 148 57 + z * o.next
    let w := o.coch.off (o.idx.getD o.next 0)
    Claims.nearRun b z ∧ w + z ≤ 0x400000 ∧ Claims.clean s ck w z ∧ Claims.clean s ck (Claims.offOf b) z ∧
      (s.cluster ck).inRegion (if o.cmd = 1 then Claims.offOf b else w) z = false ∧ o.total = o.next + 1 ∧ o.acks = 0 ∧
      s.pushBefore ck o = false := by
  rintro cmd (rfl | rfl)
  · exact ⟨inFlight (haloOp 1), clusterOf here, haloOp 1, running_of (by decide +kernel), rfl, by decide +kernel,
      by decide +kernel, rfl, by decide +kernel, near_run (by decide +kernel), by decide +kernel, clean_of (by decide +kernel), clean_of (by decide +kernel),
      by decide +kernel, rfl, rfl, by decide +kernel⟩
  · exact ⟨inFlight (haloOp 2), clusterOf here, haloOp 2, running_of (by decide +kernel), rfl, by decide +kernel,
      by decide +kernel, rfl, by decide +kernel, near_run (by decide +kernel), by decide +kernel, clean_of (by decide +kernel), clean_of (by decide +kernel),
      by decide +kernel, rfl, rfl, by decide +kernel⟩
/-- A send of two chunks to the page 1, which the cluster's TLB maps to the same cluster's scratchpad of
device 1 through the aperture. -/
def sendOp (eq : Nat) : EngOp :=
  { copyOp with
    total := 2, eq := eq, tcw := BitVec.ofNat 256 (1 + 2 ^ 56 + 0x400 * 2 ^ 59 + (near 0x1000).toNat * 2 ^ 91 + 0x10000 * 2 ^ 148) }
/-- The state with that operation in flight, its I/O dies ready and their lasers at guard; device 1 is a member, device 2
none, and both are in the multicast entry. -/
def sending (o : EngOp) : State :=
  { withIo { readyWord := 7, guard := true } (paged peerLeaf) with
    mods := [(0, { members := [0, 1], mcast := [(8, 6)] })]
    clusters := [(clusterOf here, { ops := [o], tlb := [(1, [⟨5, 2 ^ 16, 1, 0, BitVec.ofNat 64 peerLeaf⟩])] })] }
/-- The checks of `Claims.aperture`, decided. -/
theorem aperture_of {s : State} {ck : Nat} {o : EngOp} {va n pa : Nat} (e : TlbEntry)
    (h : decide (s.lookup ck none o.asid va = (some e, s) ∧ va < 2 ^ 57 ∧ isNear (BitVec.ofNat 64 va) = false ∧
      va % 2 ^ 16 + n ≤ 2 ^ 16 ∧
      (leafCheck s (devOfCluster ck) (!o.sys) .store e.leaf = none ∨
        (o.eq = 6 ∧ leafCheck s (devOfCluster ck) (!o.sys) .store e.leaf = some 0x48)) ∧
      e.leaf.getLsbD 9 = true ∧ e.leaf.getLsbD 8 = false ∧ pa = leafPa (devOfCluster ck) e.leaf va ∧
      bits pa 55 1 = 0 ∧ region pa ≠ .noSocket ∧ region pa ≠ .reserved) = true) : Claims.aperture s ck o va n pa s :=
  ⟨e, of_decide_eq_true h⟩
/-- What a chunk of a send or a multicast asks for. -/
def chunk (s s1 : State) (ck pa : Nat) (o : EngOp) : Prop :=
  (Claims.running s ck o ∧ clusterOk ck = true ∧ o.image = none ∧ o.next < o.total ∧ o.vigil = none ∧ o.push = none) ∧
    let off := 512 * o.next
    let n := min 512 (o.len32 - 512 * o.next)
    0 < n ∧ Claims.nearRun (o.saddr + off) n ∧ Claims.clean s1 ck (Claims.offOf (o.saddr + off)) n ∧
      Claims.aperture s ck o (o.daddr + off) n pa s1
theorem chunk_of {o : EngOp} (h : (decide (((sending o).cluster (clusterOf here)).op o.id = some o ∧ o.code = none ∧
    o.ended = false ∧ o.image = none ∧ o.next < o.total ∧ o.vigil = none ∧ o.push = none)) = true)
    (hn : decide (0 < min 512 (o.len32 - 512 * o.next)) = true)
    (hr : Claims.nearRun (o.saddr + 512 * o.next) (min 512 (o.len32 - 512 * o.next))) (hc : soundB (sending o) = true)
    (ha : Claims.aperture (sending o) (clusterOf here) o (o.daddr + 512 * o.next) (min 512 (o.len32 - 512 * o.next)) trPeer.pa
      (sending o)) : chunk (sending o) (sending o) (clusterOf here) trPeer.pa o := by
  obtain ⟨h1, h2, h3, h4⟩ := of_decide_eq_true h
  exact ⟨⟨⟨h1, h2, h3⟩, by decide, h4⟩, of_decide_eq_true hn, hr, clean_of hc, ha⟩
/-- Over the static channel, over the slotted planes, and to a multicast entry. -/
theorem witness_send : ∃ (s s1 : State) (ck pa : Nat) (o : EngOp), chunk s s1 ck pa o ∧ o.eq = 2 ∧
    s.ioHome (devOfCluster ck) o.iod = .ok ∧ bits pa 49 6 = 1 ∧ 1 ≠ devOfCluster ck ∧ s.isMember (devOfCluster ck) 1 = true ∧
    o.dest = none ∧ o.stc = true ∧ o.next + 1 < o.total :=
  ⟨sending (sendOp 2), sending (sendOp 2), clusterOf here, trPeer.pa, sendOp 2,
    chunk_of (by decide +kernel) (by decide +kernel) (near_run (by decide +kernel)) (by decide +kernel)
      (aperture_of ⟨5, 2 ^ 16, 1, 0, BitVec.ofNat 64 peerLeaf⟩ (by decide +kernel)), rfl, by decide +kernel⟩
/-- The send over the slotted planes. -/
def slotOp : EngOp := { sendOp 2 with tcw := (sendOp 2).tcw ^^^ BitVec.ofNat 256 (2 ^ 56) }
theorem witness_send_slotted : ∃ (s s1 : State) (ck pa : Nat) (o : EngOp), chunk s s1 ck pa o ∧ o.eq = 2 ∧
    s.ioHome (devOfCluster ck) o.iod = .ok ∧ bits pa 49 6 = 1 ∧ 1 ≠ devOfCluster ck ∧ s.isMember (devOfCluster ck) 1 = true ∧
    o.dest = none ∧ o.stc = false ∧ (s.die (dieKey (devOfCluster ck) (ioSocket o.iod))).guard = true :=
  ⟨sending slotOp, sending slotOp, clusterOf here, trPeer.pa, slotOp,
    chunk_of (by decide +kernel) (by decide +kernel) (near_run (by decide +kernel)) (by decide +kernel)
      (aperture_of ⟨5, 2 ^ 16, 1, 0, BitVec.ofNat 64 peerLeaf⟩ (by decide +kernel)), rfl, by decide +kernel⟩
theorem witness_multicast : ∃ (s s1 : State) (ck pa : Nat) (o : EngOp) (mask : Nat), chunk s s1 ck pa o ∧ o.eq = 6 ∧
    s.ioHome (devOfCluster ck) 0 = .ok ∧ mask = (Tab.get 0 (s.mod (devOfCluster ck)).mcast o.mcix).toNat ∧ o.snap = none ∧
    mask.testBit 1 = true ∧ 1 ≠ devOfCluster ck ∧ s.isMember (devOfCluster ck) 1 = true ∧
    mask.testBit 2 = true ∧ s.isMember (devOfCluster ck) 2 = false :=
  ⟨sending (sendOp 6), sending (sendOp 6), clusterOf here, trPeer.pa, sendOp 6, 6,
    chunk_of (by decide +kernel) (by decide +kernel) (near_run (by decide +kernel)) (by decide +kernel)
      (aperture_of ⟨5, 2 ^ 16, 1, 0, BitVec.ofNat 64 peerLeaf⟩ (by decide +kernel)), rfl, by decide +kernel⟩
theorem witness_completion : ∃ (s : State) (ck failed : Nat) (o q : EngOp), Claims.running s ck q ∧ q.acks = 0 ∧ q.eq = 0 ∧
    s.pushBefore ck q = false ∧ (s.cluster ck).op o.id = some o ∧ o.code = none ∧ 8 * o.roff + 8 ≤ 0x10000 ∧ failed < 2 ^ 64 ∧ o.push = none ∧
    0 < o.tok ∧ o.tok < 16 ∧ (s.slot o.slot).occ = true ∧ (s.slot o.slot).wick = o.wick :=
  ⟨inFlight copyOp, clusterOf here, 2, copyOp, copyOp, running_of (by decide +kernel), rfl, rfl, by decide +kernel, by decide +kernel, rfl,
    by decide +kernel, by decide +kernel, rfl, by decide +kernel, by decide +kernel, by decide +kernel, by decide +kernel⟩
/-- A push of the last tile, into ring 2, and an operation with a vigil. -/
theorem witness_completion_push : ∃ (s t : State) (ck : Nat) (o q : EngOp) (p : RingPush) (line : Nat),
    (s.cluster ck).op o.id = some o ∧ o.code = none ∧ o.push = some p ∧ p.ring < 8 ∧ (t.cluster ck).op q.id = some q ∧
    q.code = none ∧ q.vigil = some line :=
  ⟨inFlight { copyOp with push := some ⟨here, 2, 0x01FFFFFF00004000⟩ }, inFlight { copyOp with vigil := some (2 ^ 10) },
    clusterOf here, { copyOp with push := some ⟨here, 2, 0x01FFFFFF00004000⟩ }, { copyOp with vigil := some (2 ^ 10) },
    ⟨here, 2, 0x01FFFFFF00004000⟩, 2 ^ 10, by decide +kernel, rfl, rfl, by decide +kernel, by decide +kernel, rfl, rfl⟩
/-- What a visit of a core asks for whose only operation has its last request to send. -/
def visited (s : State) (ck core n : Nat) (o : EngOp) : Prop :=
  core < 16 ∧ (∀ k, Tab.get [] (s.cluster ck).rings k = []) ∧ Tab.get [] (s.cluster ck).thread core = [] ∧
    (s.cluster ck).ops = [o] ∧ o.eq = 0 ∧ o.core = core ∧ o.code = none ∧ o.granted < o.total ∧
    s.request ck o o.granted = (o.total, n)
/-- The cluster with such an operation, its quanta, and the thread accesses that wait. -/
def visiting (q : Tab Nat) (t : Tab (List Nat)) : State :=
  { base with clusters := [(clusterOf here, { ops := [{ copyOp with granted := 0 }], quantum := q, thread := t })] }
/-- With nothing else waiting, with a thread of core 3 waiting, and with a quantum of 0. -/
theorem witness_visit : ∀ q t, (q = [] ∧ t = [] ∨ q = [] ∧ t = [(3, [here + 24])] ∨ q = [(0, 0)] ∧ t = []) →
    visited (visiting q t) (clusterOf here) 0 8 { copyOp with granted := 0 } ∧
    ((8 + 63) / 64 * 64 ≤ Tab.get 0 ((visiting q t).cluster (clusterOf here)).deficit 0 +
      256 * Tab.get 16 ((visiting q t).cluster (clusterOf here)).quantum 0 ↔ q = []) := by
  rintro q t (⟨rfl, rfl⟩ | ⟨rfl, rfl⟩ | ⟨rfl, rfl⟩) <;>
    exact ⟨⟨by decide, fun _ => rfl, by decide +kernel⟩, by decide +kernel⟩
theorem witness_visit_thread : ∃ (s t : State) (ck core : Nat), core < 16 ∧ (∀ k, Tab.get [] (s.cluster ck).rings k = []) ∧
    Tab.get [] (s.cluster ck).thread core = [here + 24] ∧ (s.slot (here + 24)).wait = .turn ∧
    64 ≤ Tab.get 0 (s.cluster ck).deficit core + 256 * Tab.get 16 (s.cluster ck).quantum core ∧
    (∀ k, Tab.get [] (t.cluster ck).rings k = []) ∧ Tab.get [] (t.cluster ck).thread core = [] ∧
    (t.cluster ck).ops.all (fun o => decide (o.core ≠ core)) = true :=
  ⟨{ visiting [] [(3, [here + 24])] with slots := [(here + 24, { wick with wait := .turn })] }, visiting [] [], clusterOf here, 3, by decide, fun _ => rfl, by decide +kernel, by decide +kernel,
    by decide +kernel, fun _ => rfl, by decide +kernel⟩
/-- An operation of the Lantern (3) or Taper (4) queue on the memory at 0x2000, for stream slot `n`. -/
def unitOp (eq n : Nat) : EngOp :=
  { copyOp with eq := eq, tcw := BitVec.ofNat 256 (1 + n * 2 ^ 144 + (near 0x2000).toNat * 2 ^ 148), total := 1 }
/-- A state with that operation in flight. -/
def withOp (s : State) (o : EngOp) : State :=
  { s with clusters := [(clusterOf here, { ops := [o] })] }
/-- What every queued command of these asks for. -/
def unitAsked (s : State) (ck : Nat) (o : EngOp) (eq : Nat) : Prop :=
  Claims.running s ck o ∧ clusterOk ck = true ∧ o.eq = eq ∧ o.acks = 0 ∧ o.image = none ∧ o.push = none
theorem unit_asked {s : State} {eq n : Nat} (h : eq = 3 ∨ eq = 4) :
    unitAsked (withOp s (unitOp eq n)) (clusterOf here) (unitOp eq n) eq :=
  ⟨⟨by rcases h with rfl | rfl <;> rfl, rfl, rfl⟩, by decide, rfl, rfl, rfl, rfl⟩
/-- The image that a queued install reads. -/
def queuedImage (s : State) (ck : Nat) (o : EngOp) : List Byte :=
  (List.range 3008).map (fun j => s.byte (scratchPa ck (Claims.offOf o.daddr + j)))
/-- Every stack of the cluster's module answers so. -/
abbrev stacksAre (s : State) (ck : Nat) (h : Home) : Prop :=
  ∀ so ∈ stackSockets, s.home (dieOfCluster ck) (stackPa (devOfCluster ck) so) = h
/-- An install that passes, one whose image is none, and one into slot 0. -/
theorem witness_queued_install : ∃ (s : State) (ck : Nat) (o : EngOp), unitAsked s ck o 3 ∧ Claims.nearRun o.daddr 3008 ∧
    Claims.clean s ck (Claims.offOf o.daddr) 3008 ∧ o.daddr % 64 = 0 ∧ o.f 144 4 ≠ 0 ∧ stacksAre s ck .ok ∧
    imageCause (queuedImage s ck o) = none :=
  ⟨withOp (imaged 0) (unitOp 3 15), clusterOf here, unitOp 3 15, unit_asked (.inl rfl), near_run (by decide +kernel),
    clean_of (by decide +kernel), by decide +kernel, by decide +kernel, by decide +kernel, by
      rw [show queuedImage (withOp (imaged 0) (unitOp 3 15)) (clusterOf here) (unitOp 3 15) = imageBytes 0 by decide +kernel]
      exact image_valid⟩
theorem witness_queued_refused : ∀ n : Nat, (n = 0 ∨ n = 15) → ∃ (s : State) (ck : Nat) (o : EngOp), unitAsked s ck o 3 ∧
    Claims.nearRun o.daddr 3008 ∧ Claims.clean s ck (Claims.offOf o.daddr) 3008 ∧ o.daddr % 64 = 0 ∧ o.f 144 4 = n ∧
    stacksAre s ck .ok ∧ (imageCause (queuedImage s ck o)).isSome = true := by
  rintro n (rfl | rfl)
  · exact ⟨withOp (stacked base) (unitOp 3 0), clusterOf here, unitOp 3 0, unit_asked (.inl rfl), near_run (by decide +kernel),
      clean_of (by decide +kernel), by decide +kernel⟩
  · exact ⟨withOp (stacked base) (unitOp 3 15), clusterOf here, unitOp 3 15, unit_asked (.inl rfl), near_run (by decide +kernel),
      clean_of (by decide +kernel), by decide +kernel⟩
/-- What a queued load that may read asks for, and whether what it reads is valid. -/
def queuedLoad (s : State) (ck : Nat) (o : EngOp) (ok : Bool) : Prop :=
  let cb := (List.range 576).map (fun j => s.byte (scratchPa ck (Claims.offOf o.daddr + j)))
  let n := 64 * tableLines cb
  let tbl := (List.range n).map (fun j => s.byte (scratchPa ck (Claims.offOf (tableLine cb) + j)))
  unitAsked s ck o 4 ∧ s.ioHome (devOfCluster ck) 0 = .ok ∧ o.daddr % 64 = 0 ∧
    s.loadRefused (devOfCluster ck) (2 ^ 30 + o.id) = false ∧ Claims.nearRun o.daddr 576 ∧
    Claims.clean s ck (Claims.offOf o.daddr) 576 ∧ Claims.nearRun (tableLine cb) n ∧
    Claims.clean s ck (Claims.offOf (tableLine cb)) n ∧ tableOk cb tbl = ok
/-- A block without its magic number, whose table of no entries lies in the near window. -/
def badBlock : State := ready (poke base 0x2008 8 (near 0x3000).toNat)
theorem witness_queued_load : ∃ (s t : State) (ck : Nat) (o : EngOp), queuedLoad s ck o true ∧ queuedLoad t ck o false :=
  ⟨withOp blocked (unitOp 4 0), withOp badBlock (unitOp 4 0), clusterOf here, unitOp 4 0,
    ⟨unit_asked (.inr rfl), by decide +kernel, by decide +kernel, by decide +kernel, near_run (by decide +kernel),
      clean_of (by decide +kernel), near_run (by decide +kernel), clean_of (by decide +kernel), by decide +kernel⟩,
    ⟨unit_asked (.inr rfl), by decide +kernel, by decide +kernel, by decide +kernel, near_run (by decide +kernel),
      clean_of (by decide +kernel), near_run (by decide +kernel), clean_of (by decide +kernel), by decide +kernel⟩⟩
theorem witness_queued_go : ∃ (s t : State) (ck : Nat) (o : EngOp), unitAsked s ck o 4 ∧ unitAsked t ck o 4 ∧
    s.ioHome (devOfCluster ck) 0 = .ok ∧ (s.taper (devOfCluster ck)).loaded = true ∧
    (s.taper (devOfCluster ck)).run = false ∧ (s.taper (devOfCluster ck)).fin = false ∧
    (s.taper (devOfCluster ck)).failed = none ∧ (s.taper (devOfCluster ck)).loading = none ∧
    t.ioHome (devOfCluster ck) 0 = .ok ∧ (t.taper (devOfCluster ck)).run = true ∧
    t.loadRefused (devOfCluster ck) (2 ^ 30 + o.id) = true :=
  ⟨withOp (tapered { loaded := true }) (unitOp 4 0), withOp (tapered { run := true }) (unitOp 4 0), clusterOf here, unitOp 4 0,
    unit_asked (.inr rfl), unit_asked (.inr rfl), by decide +kernel⟩
theorem witness_queued_unready : ∃ (s t : State) (ck : Nat) (o : EngOp), unitAsked s ck o 4 ∧ unitAsked t ck o 4 ∧
    s.ioHome (devOfCluster ck) 0 = .held ∧ t.ioHome (devOfCluster ck) 0 = .failed :=
  ⟨withOp (withIo {} base) (unitOp 4 0), withOp (withIo { readyWord := 0x80 } base) (unitOp 4 0), clusterOf here, unitOp 4 0,
    unit_asked (.inr rfl), unit_asked (.inr rfl), by decide +kernel⟩
theorem witness_queued_stacks : ∃ (s t : State) (ck : Nat) (o : EngOp), unitAsked s ck o 3 ∧ unitAsked t ck o 3 ∧
    stacksAre s ck .held ∧ stacksAre t ck .failed :=
  ⟨withOp base (unitOp 3 0), withOp { base with dies := stackSockets.map (fun so => (so, { readyWord := 0x80 })) } (unitOp 3 0),
    clusterOf here, unitOp 3 0, unit_asked (.inl rfl), unit_asked (.inl rfl), by decide +kernel⟩
theorem witness_queued_load_refused : ∃ (s t : State) (ck : Nat) (o p : EngOp), unitAsked s ck o 4 ∧ unitAsked t ck p 4 ∧
    s.ioHome (devOfCluster ck) 0 = .ok ∧ t.ioHome (devOfCluster ck) 0 = .ok ∧ o.daddr % 64 ≠ 0 ∧ p.daddr % 64 = 0 ∧
    t.loadRefused (devOfCluster ck) (2 ^ 30 + p.id) = true :=
  let o : EngOp := { unitOp 4 0 with tcw := BitVec.ofNat 256 (1 + (near 0x2001).toNat * 2 ^ 148) }
  ⟨withOp (ready base) o, withOp (tapered { run := true }) (unitOp 4 0), clusterOf here, o, unitOp 4 0,
    by unfold unitAsked Claims.running; decide +kernel, unit_asked (.inr rfl), by decide +kernel⟩

/-! ### Events of the scheduler -/

/-- A state whose die stands as given. -/
def withDie (k : Nat) (d : Die) : State := { base with dies := [(k, d)] }
/-- A user wick of asid 5. -/
def roamer : Wick := { rcd := ⟨0, 5, 1, 2, 3, 4, 5, 6⟩ }
/-- An entry of a ready queue at level 2. -/
def waiting : RqEntry := { w := roamer, eff := 2 }
theorem witness_sched_write : ∃ (s : State) (die v : Nat), isCompute (die % 32) = true ∧
    (s.die die).ready.length < v % 2 ^ 14 ∧ (s.die die).steal = none ∧ (s.die die).backoff = false :=
  ⟨base, 7, 1, by decide⟩
theorem witness_no_dispatch : ∃ (s : State) (die : Nat), (s.die die).readyWord.getLsbD 1 = true ∧
    (s.die die).ready ≠ [] ∧ ∀ e ∈ (s.die die).ready, ∀ c ∈ clustersFor die e.w, 64 ≤ (s.cluster c).disp.length :=
  ⟨{ withDie 7 { readyWord := 7, ready := [{ waiting with w := { roamer with tag := some (clusterOf here * 16) } }] } with
      clusters := [(clusterOf here, { disp := List.replicate 64 roamer })] }, 7, by decide +kernel⟩
theorem witness_dispatch : ∃ (s : State) (die ck : Nat) (e : RqEntry), (s.die die).readyWord.getLsbD 1 = true ∧
    (s.die die).ready = [e] ∧ e.eff < 4 ∧ ck ∈ clustersFor die e.w ∧ (s.cluster ck).disp.length < 64 ∧
    (∀ c ∈ clustersFor die e.w, (s.cluster ck).disp.length ≤ (s.cluster c).disp.length ∧
      (c < ck → (s.cluster ck).disp.length < (s.cluster c).disp.length)) ∧
    e.ranks = none ∧ (s.die die).arriving = [] ∧ ∀ c ∈ s.clusters, c.2.arriving = [] :=
  ⟨withDie 7 { readyWord := 7, ready := [waiting] }, 7, 7 * 64, waiting, by decide +kernel⟩
theorem witness_dispatch_rank : ∃ (s : State) (die ck n : Nat) (e : RqEntry), (s.die die).readyWord.getLsbD 1 = true ∧
    (s.die die).ready = [e] ∧ e.eff < 4 ∧ ck ∈ clustersFor die e.w ∧ (s.cluster ck).disp.length < 64 ∧
    (∀ c ∈ clustersFor die e.w, (s.cluster ck).disp.length ≤ (s.cluster c).disp.length ∧
      (c < ck → (s.cluster ck).disp.length < (s.cluster c).disp.length)) ∧ e.ranks = some n ∧ 1 < n :=
  ⟨withDie 7 { readyWord := 7, ready := [{ waiting with ranks := some 2 }] }, 7, 7 * 64, 2, { waiting with ranks := some 2 },
    by decide +kernel⟩
theorem witness_steal : ∃ (s : State) (victim : Nat), (s.die victim).readyWord.getLsbD 7 = false ∧
    (s.die victim).readyWord.getLsbD 1 = true ∧ (∀ e ∈ (s.die victim).ready, e.ranks ≠ some 0) ∧
    (∃ e ∈ (s.die victim).ready, (e.w.rcd.pinned = false ∧ e.w.tag = none) ∧ e.eff = 2) ∧
    ∀ e ∈ (s.die victim).ready, e.w.rcd.pinned = false ∧ e.w.tag = none → e.eff ≤ 2 :=
  ⟨withDie 8 { readyWord := 7, ready := [waiting, { waiting with ranks := some 5 }] }, 8, by decide +kernel⟩
theorem witness_steal_reply : ∃ (s t : State) (thief : Nat) (given : List StolenWick) (n : Nat) (rest : List Nat) (got : Bool),
    (s.die thief).count true + given.length ≤ 1024 ∧ (s.die thief).steal = some ⟨n :: rest, got⟩ ∧
    (t.die thief).count true + ([] : List StolenWick).length ≤ 1024 ∧ (t.die thief).steal = some ⟨[], false⟩ ∧ ∃ u : State, (u.die thief).steal = some ⟨[], true⟩ :=
  ⟨withDie 7 { steal := some ⟨[8, 13], false⟩ }, withDie 7 { steal := some ⟨[], false⟩ }, 7, [⟨roamer, 2, 0, 0⟩], 8, [13], false,
    by decide +kernel, by decide +kernel, by decide +kernel, by decide +kernel, withDie 7 { steal := some ⟨[], true⟩ }, by decide⟩
theorem witness_backoff : ∃ (s : State) (die : Nat), isCompute (die % 32) = true ∧ (s.die die).ready.length < (s.die die).mark ∧
    (s.die die).steal = none :=
  ⟨withDie 7 { backoff := true }, 7, by decide⟩
/-- A cluster whose dispenser holds a wick, with its core 0 as given. -/
def dispensing (w : Wick) (k : Core) : State :=
  { State.reset with clusters := [(clusterOf here, { disp := [w] })], cores := [(coreOf here, k)] }
theorem witness_pass : ∃ (s : State) (ck k : Nat) (w : Wick) (rest : List Wick) (l : LaunchTag),
    (s.cluster ck).disp = w :: rest ∧ rest.length < 64 ∧ w.due ≤ s.tick ∧
    (s.cluster ck).arriving = [] ∧ k ∈ s.coresFor ck w ∧
    (∀ j, s.fillable j = true → coreOf j ∈ s.coresFor ck w → (s.slot j).waitw = false) ∧ (s.core k).runq.length < 8 ∧
    (∀ c ∈ s.coresFor ck w, (s.core k).runq.length ≤ (s.core c).runq.length ∧
      (c < k → (s.core k).runq.length < (s.core c).runq.length)) ∧ w.launch = some l ∧ (s.core k).window ≠ some l.id :=
  ⟨dispensing { roamer with launch := some ⟨3, 9⟩ } {}, clusterOf here, coreOf here, { roamer with launch := some ⟨3, 9⟩ }, [],
    ⟨3, 9⟩, by decide +kernel, by decide +kernel, by decide +kernel, by decide +kernel, by decide +kernel,
    fun j _ _ => by simp [dispensing, State.slot, State.reset, Tab.get, Tab.find?], by decide +kernel, by decide +kernel,
    by decide +kernel, by decide +kernel⟩
theorem witness_pass_waiting : ∃ (s : State) (ck k j : Nat) (w : Wick) (rest : List Wick),
    (s.cluster ck).disp = w :: rest ∧ rest.length < 64 ∧ w.due ≤ s.tick ∧ (s.cluster ck).arriving = [] ∧ k ∈ s.coresFor ck w ∧
    (s.core k).runq = [] ∧ j < 8 ∧ s.fillable (k * 8 + j) = true ∧ (s.slot (k * 8 + j)).waitw = true ∧
    (∀ i < j, (s.slot (k * 8 + i)).waitw = false) ∧
    (∀ c ∈ s.coresFor ck w, c < k → ∀ i < 8, (s.slot (c * 8 + i)).waitw = false) :=
  ⟨{ dispensing roamer {} with slots := [(here + 7, { waitw := true })] }, clusterOf here, coreOf here, 7, roamer, [],
    by decide +kernel⟩
theorem witness_entry : ∃ (s : State) (slot j : Nat) (w : Wick) (rest : List Wick), (s.core (coreOf slot)).fenced = false ∧
    (s.core (coreOf slot)).runq = w :: rest ∧
    ((s.slot slot).waitw = false ∧ coreOf j = coreOf slot ∧ s.fillable j = true ∧
      ∀ i < j, coreOf i = coreOf slot → s.fillable i = false) ∧ ((s.slot j).gated = true ∨ (s.slot j).lastAsid.toNat ≠ w.rcd.asid) := by
  refine ⟨{ dispensing roamer { runq := [roamer] } with slots := [(here, wick)] }, here, here + 1, roamer, [], by decide +kernel,
    by decide +kernel, ⟨by decide +kernel, by decide +kernel, by decide +kernel, fun i hi hc => ?_⟩, by decide +kernel⟩
  rw [show i = here by simp [coreOf, here, State.resetSlot] at hi hc ⊢; omega]
  decide +kernel
theorem witness_entry_waiting : ∃ (s : State) (slot j : Nat) (w : Wick) (rest : List Wick),
    (s.core (coreOf slot)).fenced = false ∧ (s.core (coreOf slot)).runq = w :: rest ∧
    (s.slot slot).waitw = true ∧ s.fillable slot = true ∧ j = slot ∧ (s.slot j).gated = false ∧
    (s.slot j).lastAsid.toNat = w.rcd.asid :=
  ⟨{ dispensing roamer { runq := [roamer] } with slots := [(here, { waitw := true, lastAsid := 5 })] }, here, here, roamer, [],
    by decide +kernel⟩
/-- A wick from a peer. -/
def foreign : Wick := { roamer with fromPeer := true }
/-- A die that is ready, with a grant entry for device 1 of word 0 `g`, and `n` wicks in the cluster's dispenser. -/
def receiving (g n : Nat) (d : Die) : State :=
  { State.reset with
    dies := [(7, { d with readyWord := 7 })], clusters := [(clusterOf here, { disp := List.replicate n roamer })]
    mods := [(0, { grants := [(1, ⟨[(0, BitVec.ofNat 64 g)]⟩)] })] }
theorem witness_arrival : ∃ (s : State) (ck srcDev : Nat) (w : Wick), (s.die (dieOfCluster ck)).readyWord.getLsbD 7 = false ∧
    (s.die (dieOfCluster ck)).readyWord.getLsbD 1 = true ∧
    let g0 := (Tab.get 0 (s.grant (devOfCluster ck) srcDev).w 0).toNat
    w.granted = none ∧ w.fromPeer = true ∧ g0.testBit 0 = true ∧ g0.testBit 13 = false ∧ g0.testBit 12 = true ∧
      (s.cluster ck).disp.length < 64 :=
  ⟨receiving 0x1003 63 {}, clusterOf here, 1, foreign, by decide +kernel⟩
theorem witness_arrival_refused : ∃ (s : State) (ck srcDev : Nat) (w : Wick),
    (s.die (dieOfCluster ck)).readyWord.getLsbD 7 = false ∧ (s.die (dieOfCluster ck)).readyWord.getLsbD 1 = true ∧
    w.granted = none ∧ w.fromPeer = true ∧ (Tab.get 0 (s.grant (devOfCluster ck) srcDev).w 0).toNat.testBit 0 = false :=
  ⟨receiving 0 0 {}, clusterOf here, 1, foreign, by decide +kernel⟩
theorem witness_arrival_crowded : ∃ (s : State) (ck : Nat) (w : Wick),
    (s.die (dieOfCluster ck)).readyWord.getLsbD 7 = false ∧ (s.die (dieOfCluster ck)).readyWord.getLsbD 1 = true ∧
    w.granted = none ∧ w.fromPeer = false ∧ 64 ≤ (s.cluster ck).disp.length ∧ (s.die (dieOfCluster ck)).count true < 1024 :=
  ⟨receiving 0 64 { ready := List.replicate 3 { waiting with reserved := true } }, clusterOf here, roamer, by decide +kernel⟩
theorem witness_arrival_waits : ∃ (s : State) (ck : Nat) (w : Wick),
    (s.die (dieOfCluster ck)).readyWord.getLsbD 7 = false ∧ (s.die (dieOfCluster ck)).readyWord.getLsbD 1 = true ∧
    w.granted = none ∧ w.fromPeer = false ∧ 64 ≤ (s.cluster ck).disp.length ∧ 1024 ≤ (s.die (dieOfCluster ck)).count true := by
  refine ⟨receiving 0 64 { ready := List.replicate 1024 { waiting with reserved := true } }, clusterOf here, roamer, ?_, ?_, rfl, rfl,
    ?_, ?_⟩ <;> decide +kernel
/-- From the die itself, which is not yet ready, a wick arrives; from another it is held, one from a peer when its grant
admits it; a die that has failed refuses both. -/
theorem witness_arrival_unready : ∃ (s t : State) (ck srcDie : Nat) (w p : Wick), w.granted = none ∧ w.fromPeer = false ∧
    p.granted = none ∧ p.fromPeer = true ∧ dieOfCluster ck ≠ srcDie ∧ (s.cluster ck).disp.length < 64 ∧
    (s.die (dieOfCluster ck)).readyWord.getLsbD 7 = false ∧ (s.die (dieOfCluster ck)).readyWord.getLsbD 1 = false ∧
    (t.die (dieOfCluster ck)).readyWord.getLsbD 7 = true ∧ ∀ u : State, (u = s ∨ u = t) →
      let g0 := (Tab.get 0 (u.grant (devOfCluster ck) 1).w 0).toNat
      g0.testBit 0 = true ∧ g0.testBit 13 = false ∧ g0.testBit 12 = true := by
  refine ⟨{ receiving 0x1003 0 {} with dies := [] }, { receiving 0x1003 0 {} with dies := [(7, { readyWord := 0x80 })] },
    clusterOf here, 8, roamer, foreign, rfl, rfl, rfl, rfl, by decide, by decide +kernel, by decide +kernel, by decide +kernel,
    by decide +kernel, fun u hu => ?_⟩
  rcases hu with rfl | rfl <;> decide +kernel
theorem witness_not_due : ∃ (s : State) (ck : Nat), (s.cluster ck).disp ≠ [] ∧ ∀ w ∈ (s.cluster ck).disp, s.tick < w.due :=
  ⟨dispensing { roamer with due := 32 } {}, clusterOf here, by decide +kernel⟩
theorem witness_refusal_return : ∃ (die cause : Nat) (w : Wick), cause < 256 ∧ w.rcd.grp ≠ 0 ∧ diesOf (die / 32) ≠ [] :=
  ⟨7, 0x91, { roamer with rcd := { roamer.rcd with w1 := BitVec.ofNat 64 (2 ^ 40 + 5) } }, by decide +kernel⟩
theorem witness_refresh : ∃ (s : State) (slot row : Nat), row < 16 ∧ (s.slot slot).gated = false ∧ (s.slot slot).occ = true ∧
    s.failFull (dieOf slot) = false :=
  ⟨{ base with dies := [(7, { failBase := 0x40, failSize := 4 })] }, here, 15, by decide +kernel⟩
theorem witness_gating : ∃ (s : State) (slot : Nat), (s.slot slot).occ = false ∧ (s.slot slot).waitw = false ∧
    (s.slot here).occ = true := ⟨base, here + 1, by decide⟩

/-! ### Events of accesses and peers -/

/-- A core whose queue, waiting slots and link stand as given. -/
def queueing (x : Slot) (k : Core) : State := { holding x with cores := [(coreOf here, k)] }
theorem witness_port : ∃ (s t : State) (c j : Nat), (s.core c).fenced = false ∧ (s.core c).rq.length < 32 ∧
    (s.core c).link = [] ∧ (s.core c).mqWait = [] ∧ (t.core c).fenced = false ∧ (t.core c).rq.length = 31 ∧
    (t.core c).link = [] ∧ (t.core c).mqWait = j :: [] ∧ (t.core c).freeWords = [] ∧ (t.slot j).wait = .mq :=
  ⟨base, queueing { wick with wait := .mq } { mqWait := [here], rq := List.replicate 31 ⟨0, some (here + 1)⟩ }, coreOf here,
    here, by decide +kernel⟩
theorem witness_port_full : ∃ (s t : State) (c : Nat), (s.core c).fenced = false ∧ 32 ≤ (s.core c).rq.length ∧
    (s.core c).mqWait = [] ∧ (t.core c).fenced = true :=
  ⟨queueing wick { rq := List.replicate 32 ⟨0, none⟩ }, queueing wick { fenced := true }, coreOf here, by decide +kernel⟩
theorem witness_answer : ∃ (s t : State) (k n bytes v : Nat), n < 16 ∧ 1 ≤ bytes ∧ bytes ≤ 8 ∧ v < 2 ^ (8 * bytes) ∧
    (s.slot k).occ = true ∧ (s.slot k).wait = .reply ∧ (t.slot k).occ = true ∧ (t.slot k).wait = .mq :=
  ⟨holding { wick with wait := .reply, replies := 1 }, holding { wick with wait := .mq }, here, 15, 8, 0xFFFFFFFFFFFFFFFF,
    by decide +kernel⟩
/-- A peer request of the running slot. -/
def ask (kind : AccKind) (pa : Nat) (dst : RegDst) : PeerReq := ⟨here, near 0, 5, 0, pa, 8, kind, 9, 0, none, dst, 0⟩
/-- An address of the same cluster's scratchpad in device 1. -/
def far : Nat := 2 ^ 49 + 7 * 2 ^ 44 + 36 * 2 ^ 38
/-- Relaxed accesses under way: flight 3 within the module, flight 4 to a peer with one or two answers to come. -/
def flight (id : Nat) (homes : List Nat) (kind : AccKind) : Flight :=
  let pa := if id = 3 then scratchPa (clusterOf here) 0x2000 else far
  let q := { ask kind pa (if kind = .load then .reg 4 8 false else .none) with flight := some id }
  ⟨id, here, 0, q, if id = 3 then [q] else [], homes, 0⟩
def aloft (f : Flight) : State :=
  { holding { wick with pend := [⟨4, false, f.id⟩] } with cores := [(coreOf here, { flights := [f] })] }
/-- A flight of a core by its number. -/
def flies (s : State) (c id : Nat) (f : Flight) : Prop :=
  f ∈ (s.core c).flights ∧ f.id = id ∧ (∀ g ∈ (s.core c).flights, g.id = id → g = f) ∧ coreOf f.slot = c ∧ f.req.src = f.slot
theorem witness_relaxed : ∃ (s t u : State) (c id pa : Nat) (f g : Flight), flies s c id f ∧ s.holds f.req = true ∧
    f.homes.erase pa = [] ∧ flies t c id g ∧ t.holds g.req = true ∧ g.homes.erase pa ≠ [] ∧
    flies u c id f ∧ u.holds f.req = false :=
  ⟨aloft (flight 4 [far] .load), aloft (flight 4 [far, far + 64] .load), { aloft (flight 4 [far] .load) with slots := [] },
    coreOf here, 4, far, flight 4 [far] .load, flight 4 [far, far + 64] .load, by unfold flies; decide +kernel⟩
theorem witness_relaxed_near : ∃ (s t : State) (c id n bytes : Nat) (f g : Flight) (q r : PeerReq) (sx : Bool),
    flies s c id f ∧ n < 16 ∧ 1 ≤ bytes ∧ bytes ≤ 8 ∧ f.near = [q] ∧ f.homes = [q.pa] ∧ q.src = f.slot ∧
    q.flight = some id ∧ q.kind = .load ∧ q.dst = .reg n bytes sx ∧ q.n = bytes ∧ s.readFault q.pa q.n = none ∧
    s.holds q = true ∧ (region q.pa).room bytes = bytes ∧
    flies t c id g ∧ g.near = [r] ∧ g.homes = [r.pa] ∧ r.src = g.slot ∧ r.flight = some id ∧ r.kind = .store ∧
    t.reserved r.pa r.n = false ∧ t.writeError r.pa r.n = none :=
  let pa := scratchPa (clusterOf here) 0x2000
  ⟨aloft (flight 3 [pa] .load), aloft (flight 3 [pa] .store), coreOf here, 3, 4, 8, flight 3 [pa] .load, flight 3 [pa] .store,
    (flight 3 [pa] .load).req, (flight 3 [pa] .store).req, false, by unfold flies; decide +kernel⟩
/-- A state in which a word is reserved, with its requesters. -/
def reservedBy (qs : List PeerReq) : State := { base with resv := [⟨resvWord (scratchPa (clusterOf here) 0x2000), qs⟩] }
theorem witness_reservation : ∃ (s t u : State) (dev word op d : Nat) (r1 r2 r3 : Resv) (q p : PeerReq),
    s.resv.find? (fun r => decide (r.word = word)) = some r1 ∧ r1.q = [] ∧
    t.resv.find? (fun r => decide (r.word = word)) = some r2 ∧ r2.q = q :: [] ∧ q.kind = .atomic op ∧ q.flight = none ∧
    q.dst = .reg d q.n false ∧ 0 < q.n ∧ devOf q.src = dev ∧ t.holds q = true ∧ t.readFault q.pa q.n = none ∧
    (region q.pa).inRange = true ∧
    u.resv.find? (fun r => decide (r.word = word)) = some r3 ∧ r3.q = p :: [] ∧ p.kind = .store ∧ p.flight = none ∧
    devOf p.src = dev ∧ u.holds p = true ∧ u.writeError p.pa p.n = none :=
  let pa := scratchPa (clusterOf here) 0x2000
  ⟨reservedBy [], reservedBy [ask (.atomic 0) pa (.reg 4 8 false)], reservedBy [ask .store pa .none], 0, resvWord pa, 0, 4, ⟨resvWord pa, []⟩,
    ⟨resvWord pa, [ask (.atomic 0) pa (.reg 4 8 false)]⟩, ⟨resvWord pa, [ask .store pa .none]⟩,
    ask (.atomic 0) pa (.reg 4 8 false), ask .store pa .none, by decide +kernel⟩
theorem witness_lantern_atomic : ∃ (s : State) (op d : Nat) (q : PeerReq), q.kind = .atomic op ∧ q.flight = none ∧
    q.dst = .reg d q.n false ∧ 0 < q.n ∧ s.holds q = true ∧ s.readFault q.pa q.n = none ∧ isDram q.pa = true :=
  ⟨base, 0, 4, ask (.atomic 0) 0x1000 (.reg 4 8 false), by decide +kernel⟩
theorem witness_timeout : ∃ (s : State) (k : Nat) (d : Option Nat), (s.slot k).wait = .monitor d :=
  ⟨holding { wick with wait := .monitor (some 9) }, here, some 9, by decide⟩
/-- Device 1's grants to device 0: words 0 to 6 of the entry, with one window of the first 64 bytes of `far`. -/
def granting (w0 b : Nat) (st : Nat) : State :=
  { base with
    dies := [(39, { readyWord := BitVec.ofNat 8 st })]
    mods := [(0, { members := [1] }), (1, { grants := [(0, ⟨[(0, BitVec.ofNat 64 w0),
      (1, BitVec.ofNat 64 (b * 2 ^ 61 + far % 2 ^ 49)), (2, BitVec.ofNat 64 (far % 2 ^ 49 + 63))]⟩)] })] }
/-- The checks of `Claims.grants`, decided. -/
def grantsB (g : Grant) (pa n bit : Nat) : Bool :=
  (Tab.get 0 g.w 0).getLsbD 0 && !(Tab.get 0 g.w 0).getLsbD 13 &&
  (List.range 3).any (fun j => decide ((Tab.get 0 g.w (1 + 2 * j)).toNat % 2 ^ 49 ≤ pa % 2 ^ 49) &&
    decide (pa % 2 ^ 49 + n ≤ (Tab.get 0 g.w (2 + 2 * j)).toNat % 2 ^ 49 + 1) && (Tab.get 0 g.w (1 + 2 * j)).getLsbD bit)
theorem grants_iff {g : Grant} {pa n bit : Nat} : Claims.grants g pa n bit ↔ grantsB g pa n bit = true := by
  simp [Claims.grants, grantsB, and_assoc]
/-- A load at the last byte that the window holds. -/
theorem witness_peer_load : ∃ (s : State) (q : PeerReq), 0 < q.n ∧ bits q.pa 49 6 ≠ devOf q.src ∧
    Claims.grants (s.grant (bits q.pa 49 6) (devOf q.src)) q.pa q.n (Claims.kindBit q.kind) ∧
    s.home (2 ^ 30) q.pa = .ok ∧ q.kind = .load ∧ q.flight = none ∧ s.holds q = true ∧ s.readFault q.pa q.n = none :=
  ⟨granting 1 4 7, { ask .load (far + 63) .none with n := 1 }, by decide +kernel, by decide +kernel, grants_iff.mpr (by decide +kernel),
    by decide +kernel, rfl, rfl, by decide +kernel, by decide +kernel⟩
theorem witness_peer_store : ∃ (s : State) (q : PeerReq), (0 < q.n ∧ bits q.pa 49 6 ≠ devOf q.src) ∧
    Claims.grants (s.grant (bits q.pa 49 6) (devOf q.src)) q.pa q.n (Claims.kindBit q.kind) ∧
    s.home (2 ^ 30) q.pa = .ok ∧ q.kind = .store ∧
    (q.v2 ≠ 2 ∧ q.v2 ≠ 3 ∧ s.reserved q.pa q.n = false ∨ (q.v2 = 2 ∨ q.v2 = 3) ∧ isDram q.pa = false) ∧
    s.writeError q.pa q.n = none :=
  ⟨granting 1 2 7, ask .store far .none, by decide +kernel, grants_iff.mpr (by decide +kernel), by decide +kernel⟩
/-- A store of an engine into device 1's DRAM of socket 0. -/
def farDram : State :=
  { base with
    dies := [(32, { readyWord := 7 })]
    mods := [(0, { members := [1] }), (1, { grants := [(0, ⟨[(0, 1), (1, BitVec.ofNat 64 (2 ^ 62)), (2, 63)]⟩)] })] }
theorem witness_peer_store_dram : ∃ (s : State) (q : PeerReq), (0 < q.n ∧ bits q.pa 49 6 ≠ devOf q.src) ∧
    Claims.grants (s.grant (bits q.pa 49 6) (devOf q.src)) q.pa q.n (Claims.kindBit q.kind) ∧
    s.home (2 ^ 30) q.pa = .ok ∧ q.kind = .store ∧ q.v2 = 2 ∧ isDram q.pa = true ∧ s.writeError q.pa q.n = none :=
  ⟨farDram, { ask .store (2 ^ 49) .none with n := 64, v2 := 2 }, by decide +kernel, grants_iff.mpr (by decide +kernel),
    by decide +kernel⟩
theorem witness_peer_atomic : ∃ (s : State) (q : PeerReq) (op : Nat), 0 < q.n ∧ bits q.pa 49 6 ≠ devOf q.src ∧
    Claims.grants (s.grant (bits q.pa 49 6) (devOf q.src)) q.pa q.n (Claims.kindBit q.kind) ∧
    s.home (2 ^ 30) q.pa = .ok ∧ q.kind = .atomic op ∧ isDram q.pa = false :=
  ⟨granting 1 1 7, ask (.atomic 3) far (.reg 4 8 false), 3, by decide +kernel, by decide +kernel, grants_iff.mpr (by decide +kernel),
    by decide +kernel, rfl, by decide +kernel⟩
theorem witness_peer_held : ∃ (s : State) (q : PeerReq), 0 < q.n ∧ bits q.pa 49 6 ≠ devOf q.src ∧
    Claims.grants (s.grant (bits q.pa 49 6) (devOf q.src)) q.pa q.n (Claims.kindBit q.kind) ∧ s.home (2 ^ 30) q.pa = .held :=
  ⟨granting 1 4 0, ask .load far .none, by decide +kernel, by decide +kernel, grants_iff.mpr (by decide +kernel),
    by decide +kernel⟩
/-- One byte beyond the window, and a fence. -/
theorem witness_peer_refused : ∃ (s t : State) (q r : PeerReq), 0 < q.n ∧ bits q.pa 49 6 ≠ devOf q.src ∧
    ¬Claims.grants (s.grant (bits q.pa 49 6) (devOf q.src)) q.pa q.n (Claims.kindBit q.kind) ∧
    0 < r.n ∧ bits r.pa 49 6 ≠ devOf r.src ∧
    ¬Claims.grants (t.grant (bits r.pa 49 6) (devOf r.src)) r.pa r.n (Claims.kindBit r.kind) ∧
    (Tab.get 0 (t.grant (bits r.pa 49 6) (devOf r.src)).w 0).getLsbD 13 = true :=
  ⟨granting 1 7 7, granting 0x2001 7 7, ask .load (far + 57) .none, ask .load far .none, by decide +kernel, by decide +kernel,
    fun h => absurd (grants_iff.mp h) (by decide +kernel), by decide +kernel, by decide +kernel,
    fun h => absurd (grants_iff.mp h) (by decide +kernel), by decide +kernel⟩
theorem witness_ack : ∃ (s : State) (q : PeerReq), q.kind = .store ∧ q.v2 ≠ 2 ∧ q.v2 ≠ 3 ∧ (s.slot q.src).wait = .acks ∧ q.v2 = 1 ∧
    q.flight = none ∧ s.holds q = true :=
  ⟨holding { wick with wait := .acks, peerOut := [⟨1, 0⟩] }, { ask .store far .none with v2 := 1 }, by decide +kernel⟩
theorem witness_ack_engine : ∃ (s : State) (q : PeerReq) (o : EngOp), q.kind = .store ∧ q.v2 = 2 ∧
    (s.cluster (clusterOf q.src)).op (q.flight.getD 0) = some o ∧ o.eq = 2 ∧ o.vigil = none :=
  ⟨inFlight { sendOp 2 with acks := 64 }, { ask .store far .none with v2 := 2, flight := some 1, n := 64 }, { sendOp 2 with acks := 64 },
    by decide +kernel⟩
theorem witness_refusal : ∃ (s t : State) (q : PeerReq), (q.kind ≠ .store ∨ (q.v2 ≠ 2 ∧ q.v2 ≠ 3)) ∧ s.holds q = true ∧ q.kind ≠ .store ∧
    q.flight = none ∧ t.holds q = false :=
  ⟨base, State.reset, ask .load far .none, by decide +kernel⟩
theorem witness_refusal_store : ∃ q : PeerReq, (q.kind ≠ .store ∨ (q.v2 ≠ 2 ∧ q.v2 ≠ 3)) ∧ q.kind = .store :=
  ⟨ask .store far .none, by decide⟩
theorem witness_peer_left : ∃ (s : State) (dev peer : Nat) (q : PeerReq) (rest : List Event), dev ≠ peer ∧ devOf q.src = dev ∧
    bits q.pa 55 1 = 0 ∧ bits q.pa 49 6 = peer ∧ q.kind = .load ∧ q.flight = none ∧ s.agenda = .peerAccess q :: rest ∧
    (rest ≠ [] ∧ ∀ e ∈ rest, ∃ r : PeerReq, e = .peerAccess r ∧ r.kind = .load ∧ r.flight = none ∧ r.src = q.src ∧
      r.wick = q.wick) ∧ s.timers = [] ∧
    s.holds q = true ∧ (s.slot q.src).wait = .reply ∧ (s.slot q.src).upcallOk = true :=
  ⟨{ holding { userWick with wait := .reply, uvec := near 0x1000 } with
      agenda := [.peerAccess (ask .load far .none), .peerAccess (ask .load (far + 2 ^ 49) .none)] }, 0, 1,
    ask .load far .none, [.peerAccess (ask .load (far + 2 ^ 49) .none)], by decide, by decide, by decide +kernel,
    by decide +kernel, rfl, rfl, rfl, ⟨by simp, fun e he => ⟨ask .load (far + 2 ^ 49) .none, by simpa using he, rfl, rfl, rfl, rfl⟩⟩,
    by decide +kernel⟩
theorem witness_peer_left_store : ∃ (s : State) (dev peer : Nat) (q : PeerReq), dev ≠ peer ∧ devOf q.src = dev ∧
    bits q.pa 55 1 = 0 ∧ bits q.pa 49 6 = peer ∧ q.kind = .store ∧ Event.peerAccess q ∈ s.agenda :=
  ⟨{ base with agenda := [.peerAccess (ask .store far .none)] }, 0, 1, ask .store far .none, by decide +kernel⟩

/-! ### Events of Lanterns, slot tables and Tapers -/

/-- A write of two bytes at 0x1000 by the stream and installation given. -/
def lampWrite (stream inst : Nat) : LanternReq := ⟨stream, inst, 5, 0x1000, 2, true, 0, [1, 2]⟩
theorem witness_lantern_write : ∃ (t : State) (dev d stack off : Nat) (q r u : LanternReq), (∀ p ∈ [q, r, u], p.store = true ∧
    region p.pa = .dram d stack off) ∧ q.stream = 0 ∧ (∀ i < q.data.length, isDram (q.pa + i) = true) ∧
    (∀ w ∈ t.bad, 64 * (w / 8) + 64 ≤ q.pa ∨ q.pa + q.data.length ≤ 64 * (w / 8)) ∧ t.bad ≠ [] ∧
    r.stream ≠ 0 ∧ (t.stream dev r.stream).image = none ∧ u.stream ≠ 0 ∧ (t.stream dev u.stream).inst ≠ u.inst :=
  ⟨{ base with bad := [0] }, 0, 0, 0, 0x1000, lampWrite 0 0, lampWrite 3 0, lampWrite 3 1, by decide +kernel⟩
theorem witness_beacon : ∃ (s t : State) (dev stack ctl : Nat), (s.die (dieKey dev stack)).readyWord.getLsbD 7 = false ∧
    (s.die (dieKey dev stack)).readyWord.getLsbD 2 = true ∧
    (Tab.get {} (s.mod dev).lanterns ((if stack < 6 then stack else stack - 12) * 8 + ctl)).cand.length ≤ 64 ∧
    (t.die (dieKey dev stack)).readyWord.getLsbD 2 = false :=
  ⟨{ paged dramLeaf with mods := [(0, { lanterns := [(7, { cand := [(2, 5), (9, 5)], seq := 1 })] })] }, base, 0, 0, 7,
    by decide +kernel⟩
/-- A slot table of one entry of 64 units with a guard of 4, with laser 0 of die 6 for device 1. -/
def tableBytes : List Byte := 129 :: (List.replicate 447 0 ++ [64, 0, 4, 0])
/-- An access of 8 bytes to a device, in die 6's send queue, with the old table and the new one in place. -/
def sendingDie (dst : Nat) (d : Die) : State :=
  { base with
    dies := [(6, { d with sendq := [⟨dst, ask .store far .none⟩] })]
    mods := [(0, { members := [1], slotTable := tableBytes, slotCount := 1, oldTable := tableBytes, oldCount := 1 })] }
theorem witness_slot_guard : ∃ (s t u : State) (die : Nat) (i : SendItem), (∀ v ∈ [s, u], (v.dieTable die).2 ≠ 0) ∧
    (s.die die).sendq = [i] ∧ (s.die die).sending = [] ∧ s.isMember (die / 32) i.dst = true ∧ 0 < i.q.n ∧
    i.q.n ≤ lasersFor (s.dieTable die).1 (s.die die).entry (ioNumber (die % 32)) i.dst *
      (5 * (64 * slotDur (s.dieTable die).1 (s.die die).entry - 8 * slotGuard (s.dieTable die).1 (s.die die).entry)) ∧
    (t.dieTable die).2 = 0 ∧ (u.die die).sendq ≠ [] ∧
    (∀ j ∈ (u.die die).sendq, lasersFor (u.dieTable die).1 (u.die die).entry (ioNumber (die % 32)) j.dst = 0) :=
  ⟨sendingDie 1 { switch := true }, base, sendingDie 2 {}, 6, ⟨1, ask .store far .none⟩, by decide +kernel⟩
/-- The queues of die 6's open entry are empty, decided. -/
def drainedB (s : State) : Bool :=
  (s.die 6).guard == false && (s.die 6).sending.all (fun x => decide (x.2 ≤ s.tick)) &&
    (s.die 6).sendq.all (fun i => decide (lasersFor (s.dieTable 6).1 (s.die 6).entry (ioNumber 6) i.dst = 0))
theorem witness_slot_close : ∃ s t u : State, drainedB s = true ∧ (s.die 6).switch = false ∧
    drainedB t = true ∧ (t.die 6).switch = true ∧ drainedB u = false ∧ (∀ v ∈ [s, t, u], (v.mod 0).slotCount ≠ 0) :=
  ⟨sendingDie 2 { guard := false }, sendingDie 2 { guard := false, switch := true }, sendingDie 1 { guard := false },
    by decide +kernel⟩
/-- A block of one entry, one stash slot, an input ring 0 from device 1 and an output channel 0 to ring 2 of device 1. -/
def taperBlock : List Byte :=
  Claims.bytesOf [0x31504154 + 2 ^ 32 + 2 ^ 48, (4 * 2 ^ 32 + 2 ^ 40) * 2 ^ 64, 0, 0, 0, (4 * 2 ^ 32 + 2 ^ 40 + 2 * 2 ^ 46) * 2 ^ 64, 0, 0, 0]
/-- Its entry takes from ring 0, fills stash slot 0 and sends to ring 2 of device 1. -/
def taperTable : List Byte := Claims.bytesOf [2 ^ 44 + 2 ^ 31 + 2 ^ 30 + 2 ^ 22 + 2 * 2 ^ 18 + (2 * 2 ^ 57 + 0x1000) * 2 ^ 64]
/-- A module whose engine runs that table, otherwise as given. -/
def runner (t : Taper) : State := tapered { t with run := true, loaded := true, cb := taperBlock, tbl := taperTable }
/-- The conditions of dispatch, in their order. -/
def dispatchB (s : State) (dev : Nat) : List Bool :=
  let e := s.taper dev
  let h := e.at e.head
  let so := cbAff e.cb % 32
  [!h.iv || decide (((Tab.get {} e.rings h.iring).arr + 2 ^ 16 - (Tab.get {} e.rings h.iring).taken) % 2 ^ 16 ≠ 0),
    (decide (h.sact ≠ 1) || decide ((Tab.get {} e.stash h.sslot).st = 0)) &&
      (decide (h.sact < 2) || decide ((Tab.get {} e.stash h.sslot).st = 2)),
    !h.ov || decide ((Tab.get {} e.chans ((chanOf e.cb h.opeer h.oring).getD 0)).cred ≠ 0),
    decide ((s.die (dieKey dev (if isCompute so then so else 7))).count false < 15360)]
theorem witness_taper_dispatch : ∃ (s : State) (dev : Nat), (s.taper dev).run = true ∧
    dispatchB s dev = [true, true, true, true] ∧ cbFmt (s.taper dev).cb ≤ 127 :=
  ⟨runner { rings := [(0, ⟨1, 0, 0⟩)], chans := [(0, ⟨0, 1⟩)] }, 0, by decide +kernel⟩
theorem witness_taper_bubble : ∃ (s t u : State) (dev : Nat), (s.taper dev).run = true ∧ (t.taper dev).run = true ∧
    (u.taper dev).run = true ∧ dispatchB s dev = [false, true, false, true] ∧ dispatchB t dev = [true, false, false, true] ∧
    dispatchB u dev = [true, true, false, true] :=
  ⟨runner {}, runner { rings := [(0, ⟨1, 0, 0⟩)], stash := [(0, ⟨1, 1⟩)] }, runner { rings := [(0, ⟨1, 0, 0⟩)] }, 0,
    by decide +kernel⟩
/-- The entry's dispatch, with its messages owed. -/
def outOf (seq : Nat) : TapOut := { seq := seq, entry := 0, owesIn := true, owesOut := true }
theorem witness_taper_end : ∃ (s : State) (g : TaperTag) (o : TapOut),
    let dev := g.die / 32
    let e := s.taper dev
    let h := e.at o.entry
    e.out = [o] ∧ o.seq = g.seq ∧ o.ended = false ∧ o.failed = false ∧ h.sact = 1 ∧
      (Tab.get {} e.stash h.sslot).st = 1 ∧ o.owesIn = true ∧ e.badIn.elem h.iring = false ∧
      s.isMember dev (linkDev (inWord1 e.cb h.iring)) = true ∧ o.owesOut = true ∧
      e.badOut.elem ((chanOf e.cb h.opeer h.oring).getD 0) = false ∧ s.isMember dev h.opeer = true :=
  ⟨runner { out := [outOf 0], stash := [(0, ⟨1, 1⟩)] }, ⟨x0Of 0, 0, 0⟩, outOf 0, by decide +kernel⟩
theorem witness_taper_drain : ∃ (s : State) (g : TaperTag) (o : TapOut),
    let dev := g.die / 32
    let e := s.taper dev
    e.out = [o] ∧ o.seq = g.seq ∧ o.ended = false ∧ o.failed = false ∧ (e.at o.entry).sact = 3 ∧
      Tab.get {} e.stash (e.at o.entry).sslot = ⟨3, 1⟩ :=
  ⟨tapered { run := true, loaded := true, cb := taperBlock, tbl := Claims.bytesOf [3 * 2 ^ 44], out := [outOf 0], stash := [(0, ⟨3, 1⟩)] },
    ⟨x0Of 0, 0, 0⟩, outOf 0, by decide +kernel⟩
theorem witness_taper_order : ∃ (s : State) (g : TaperTag) (o1 o2 : TapOut),
    let e := s.taper (g.die / 32)
    e.out = [o1, o2] ∧ o2.seq = g.seq ∧ o1.seq ≠ g.seq ∧ o1.ended = false ∧ o2.ended = false ∧
      (e.at o1.entry).iring = (e.at o2.entry).iring ∧ o1.owesIn = true ∧ o2.owesIn = true ∧ o1.owesOut = false ∧
      o2.owesOut = false :=
  ⟨runner { out := [{ outOf 0 with owesOut := false }, { outOf 1 with owesOut := false }] }, ⟨x0Of 0, 0, 1⟩,
    { outOf 0 with owesOut := false }, { outOf 1 with owesOut := false }, by decide +kernel⟩
theorem witness_taper_messages : ∃ (s : State) (die src ring j : Nat),
    let e := s.taper (die / 32)
    (e.loaded = true ∧ ring < 16 ∧ linkDepth (inWord1 e.cb ring) ≠ 0 ∧ linkDev (inWord1 e.cb ring) = src) ∧ j < 16 ∧
      (linkDepth (outWord1 e.cb j) ≠ 0 ∧ linkDev (outWord1 e.cb j) = src ∧ bits (outWord1 e.cb j) 46 4 = 2) ∧ ∀ i < j, i ≠ i :=
  ⟨runner {}, x0Of 0, 1, 0, 0, by decide +kernel⟩
/-- An entry behind a failed one of its ring, which sends nothing. -/
theorem witness_taper_withheld : ∃ (s : State) (g : TaperTag) (o : TapOut),
    let e := s.taper (g.die / 32)
    e.out = [o] ∧ o.seq = g.seq ∧ o.ended = false ∧ o.failed = false ∧ o.owesIn = true ∧
      e.badIn.elem (e.at o.entry).iring = true ∧ o.owesOut = false :=
  ⟨runner { out := [{ outOf 0 with owesOut := false }], badIn := [0] }, ⟨x0Of 0, 0, 0⟩, { outOf 0 with owesOut := false },
    by decide +kernel⟩

/-! ### Events of failures, interrupts and fetches -/

/-- A failure list of 4 records at 0x40 of the memory, for die 7. -/
def listed (x : Slot) (d : Die) : State :=
  { holding x with dies := [(7, { d with failBase := 0x40, failSize := 4, readyWord := 7 })] }
theorem witness_failure : ∃ (s t u : State) (die : Nat) (w : Wick), w.taper = none ∧
    (∀ v ∈ [s, t, u], 64 ≤ (v.die die).failBase) ∧ (s.die die).overflow = [] ∧ s.failFull die = false ∧
    (t.die die).overflow ≠ [] ∧ (t.die die).overflow.length < 64 ∧ (u.die die).overflow.length = 64 :=
  ⟨listed wick {}, listed wick { overflow := List.replicate 63 roamer.rcd }, listed wick { overflow := List.replicate 64 roamer.rcd },
    7, roamer, by decide +kernel⟩
/-- The list with its head at 4. -/
def fullList : State := (listed wick { overflow := [roamer.rcd] }).storeN 8 8 4
theorem witness_tail : ∃ (s : State) (die tail tail2 : Nat) (r : WickRec), 64 ≤ (s.die die).failBase ∧ 0 < (s.die die).failSize ∧
    (s.die die).waitFails = [] ∧ (s.die die).overflow = [r] ∧ tail < 2 ^ 64 ∧
    s.readN ((s.die die).failBase - 56) 8 - tail ≠ (s.die die).failSize ∧
    s.readN ((s.die die).failBase - 56) 8 - tail2 = (s.die die).failSize :=
  ⟨fullList, 7, 1, 0, roamer.rcd, by decide +kernel⟩
theorem witness_core_error : ∃ (s : State) (k : Nat), (s.core (coreOf k)).fenced = false ∧ s.failFull (dieOf k) = false ∧
    (s.slot k).occ = true :=
  ⟨listed wick {}, here, by decide +kernel⟩
/-- A core in error whose slot holds a wick that is not failing yet. -/
def erring : State := { listed wick {} with cores := [(coreOf here, { fenced := true })] }
theorem witness_core_error_next : ∃ (s : State) (k j : Nat), (s.core (coreOf k)).fenced = true ∧ s.failFull (dieOf k) = false ∧
    (∀ i, coreOf i = coreOf k → ∀ c, (s.slot i).wait ≠ .failing c) ∧ coreOf j = coreOf k ∧ (s.slot j).occ = true ∧
    (∀ i < j, coreOf i = coreOf k → (s.slot i).occ = false) :=
  ⟨erring, here, here, by decide +kernel, by decide +kernel, fun i _ c => by
      simp only [erring, listed, holding, State.slot, Tab.get, Tab.find?]
      split <;> simp [wick], rfl, by decide +kernel, fun i hi hc => by
      simp [coreOf, here, State.resetSlot] at hi hc
      omega⟩
theorem witness_core_error_queue : ∃ (s : State) (k : Nat) (w : Wick) (rest : List Wick), (s.core (coreOf k)).fenced = true ∧
    s.failFull (dieOf k) = false ∧ (∀ i, coreOf i = coreOf k → (s.slot i).occ = false) ∧
    (s.core (coreOf k)).runq = w :: rest :=
  ⟨{ listed {} {} with slots := [], cores := [(coreOf here, { fenced := true, runq := [roamer] })] }, here, roamer, [],
    by decide +kernel, by decide +kernel, fun _ _ => rfl, by decide +kernel⟩
/-- A slot in which an all-slots source is pending. -/
def signalled (x : Slot) : State := holding { x with irqAll := [(0xC0, near 0x4000)], tmask := 0x100000000 }
theorem witness_interrupt : ∃ (s t : State) (k c : Nat) (v : Word) (all : Bool), s.interruptFor k = some (c, v, all) ∧ c < 256 ∧
    (s.slot k).tvec ≠ 0 ∧ (s.slot k).peerOut = [] ∧ (s.slot k).latch = none ∧ all = true ∧
    t.interruptFor k = some (c, v, all) ∧ (t.slot k).tvec = 0 :=
  ⟨signalled wick, signalled { wick with tvec := 0 }, here, 0xC0, near 0x4000, true, by decide +kernel⟩
theorem witness_interrupt_waits : ∃ (s t : State) (k c : Nat) (v : Word) (all : Bool) (l : Deferred),
    s.interruptFor k = some (c, v, all) ∧ c < 256 ∧ (s.slot k).tvec ≠ 0 ∧ (s.slot k).peerOut ≠ [] ∧
    t.interruptFor k = some (c, v, all) ∧ (t.slot k).tvec ≠ 0 ∧ (t.slot k).peerOut = [] ∧ (t.slot k).latch = some l ∧
    (t.slot k).user = true ∧ (t.slot k).uvec = 0 :=
  ⟨signalled { wick with peerOut := [⟨1, 0⟩] }, signalled { userWick with latch := some ⟨near 8, 1, false, [1]⟩ }, here, 0xC0, near 0x4000,
    true, ⟨near 8, 1, false, [1]⟩, by decide +kernel⟩
theorem witness_interrupt_one : ∃ (s : State) (k c : Nat) (v : Word), s.interruptFor k = some (c, v, false) ∧ c < 256 ∧
    (s.slot k).tvec ≠ 0 ∧ (s.slot k).peerOut = [] ∧ (s.slot k).latch = none :=
  ⟨{ base with cores := [(coreOf here, { irq := [(0xC2, 4)] })] }, here, 0xC2, 4,
    by decide +kernel⟩
theorem witness_sources : ∃ (s : State) (k : Nat), (∀ j < 8, ∀ p ∈ (s.slot (k * 8 + j)).irqAll, p.1 ≠ 0xC0) ∧
    (s.slot (k * 8)).occ = true :=
  ⟨base, coreOf here, by decide +kernel⟩
theorem witness_doorbell : ∃ (s t u : State) (die : Nat), ((s.die die).readyWord.getLsbD 7 = false ∧
    (s.die die).readyWord.getLsbD 2 = true) ∧ ((t.die die).readyWord.getLsbD 7 = false ∧
    (t.die die).readyWord.getLsbD 2 = false) ∧ (u.die die).readyWord.getLsbD 7 = true :=
  ⟨listed wick {}, base, { base with dies := [(7, { readyWord := 0x80 })] }, 7, by decide +kernel⟩
theorem witness_illegal_cause : ∃ (s : State) (w l1 l2 : IWord) (c : Nat), illegalCause s s.cur w l1 l2 = some c :=
  ⟨base, 0xFE000000, 0, 0, 0, by decide +kernel⟩
theorem witness_illegal : ∃ (w l1 l2 : IWord) (c : Nat), decode w l1 l2 = .error c := ⟨0xFE000000, 0, 0, 0, by rfl⟩
theorem witness_fetch_near : ∃ (s : State) (k : Nat) (va : Word), (s.slot k).wait = .fetch va ∧ va.toNat < 2 ^ 57 ∧
    isNear va = true ∧ s.readError (nearPa (coreOf k) va) = none :=
  ⟨holding { wick with wait := .fetch (near 0) }, here, near 0, by decide +kernel, by decide, by decide,
    readable (by decide +kernel) _⟩
theorem witness_fetch_beyond : ∃ (s : State) (k : Nat) (va : Word), (s.slot k).wait = .fetch va ∧ 2 ^ 57 ≤ va.toNat ∧
    (s.slot k).upcallOk = true :=
  ⟨holding { userWick with wait := .fetch 0x0200000000000000, uvec := near 0x1000 }, here, 0x0200000000000000, by decide +kernel⟩
theorem witness_fetch_line : ∃ (s : State) (k : Nat) (va : Word) (x : Xlat) (s1 : State), (s.slot k).wait = .fetch va ∧
    va.toNat < 2 ^ 57 ∧ isNear va = false ∧
    s.xlate (coreOf k) true (s.slot k).user (s.slot k).asid .fetch va = (.ok x, s1) ∧ s1.targetCause k .fetch 4 x = none ∧
    s1.home (dieOf k) x.pa = .ok ∧ peerOf k x.pa = none ∧ (region (x.pa - va.toNat % 64)).inRange = true ∧
    s1.readFault (x.pa - va.toNat % 64) 64 = none :=
  ⟨{ paged dramLeaf with slots := [(here, { wick with wait := .fetch 0x1003C })] }, here, 0x1003C, ⟨0x1003C, 0x3C, false, false⟩,
    { paged dramLeaf with slots := [(here, { wick with wait := .fetch 0x1003C })] }, by decide +kernel, by decide, by decide,
    by decide +kernel, by decide +kernel, by decide +kernel, by decide +kernel, by decide +kernel,
    readable_all (by decide +kernel) _ _⟩
theorem witness_fetch_miss : ∃ (s : State) (k : Nat) (va : Word) (s1 : State), (s.slot k).wait = .fetch va ∧
    va.toNat < 2 ^ 57 ∧ isNear va = false ∧
    s.xlate (coreOf k) true (s.slot k).user (s.slot k).asid .fetch va = (.miss, s1) ∧ (s.cluster (clusterOf k)).missq = [] ∧
    (s.cluster (clusterOf k)).disp.length < 64 :=
  ⟨holding { wick with wait := .fetch 0x10000 }, here, 0x10000, _, by decide +kernel, by decide, by decide, rfl, by decide +kernel⟩
theorem witness_sideband : ∃ (s t u : State) (k n : Nat), (s.slot k).isPending n = false ∧ (s.slot k).isPending (32 + n) = false ∧
    (t.slot k).isPending n = true ∧ (u.slot k).isPending (16 + n) = true ∧ (u.slot k).gated = true :=
  ⟨base, holding { wick with pend := [⟨4, false, 3⟩] }, holding { wick with pend := [⟨20, false, 3⟩], gated := true }, here, 4,
    by decide +kernel⟩

/-! ### Events of power, the host link and reset -/

theorem witness_demand : ∃ (s : State) (die : Nat), (s.die die).recalled = 0 ∧ (s.die die).asking = false ∧
    (s.die die).throttled = false ∧ (s.die die).loans = [] ∧ (s.die die).lent = [] ∧ neighbours (die % 32) ≠ [] ∧
    isCompute (die % 32) = true :=
  ⟨base, 7, by decide +kernel⟩
theorem witness_demand_loan : ∃ (s t : State) (die id l u c id2 b v : Nat), (∀ x ∈ [s, t], (x.die die).recalled = 0 ∧
    (x.die die).asking = false ∧ (x.die die).throttled = false) ∧ (s.die die).loans = [⟨id, l, u, c⟩] ∧ 0 < u ∧ (s.die die).lent = [] ∧
    isCompute (die % 32) = true ∧ (t.die die).loans = [] ∧ (t.die die).lent = [⟨id2, b, v, 0⟩] ∧ v ≤ 520 :=
  ⟨withDie 7 { loans := [⟨3, 8, 20, 4⟩] }, withDie 7 { lent := [⟨4, 8, 520, 0⟩] }, 7, 3, 8, 20, 4, 4, 8, 520, by decide +kernel⟩
theorem witness_lend : ∃ (s t : State) (borrower lender units n : Nat) (rest : List Nat),
    let held := fun (s : State) => let d := s.die borrower
      (if isCompute (borrower % 32) then 520 else 90) + d.borrowed + units - d.lentOut
    (∀ x ∈ [s, t], (x.die borrower).recalled = 0 ∧ (x.die borrower).throttled = true) ∧ held s < (s.die borrower).demand ∧
    (neighbours (borrower % 32)).filter (fun n => decide (lender % 32 < n)) = n :: rest ∧ held t = (t.die borrower).demand :=
  ⟨withDie 7 { throttled := true, demand := 600 }, withDie 7 { throttled := true, demand := 530 }, 7, 1, 10, 6, [8, 13],
    by decide +kernel⟩
theorem witness_repay : ∃ (s : State) (borrower lender u c units id : Nat),
    (s.die lender).lent = [⟨id, borrower, u, c⟩] ∧ units ≤ u :=
  ⟨withDie 7 { lent := [⟨3, 8, 20, 5⟩] }, 8, 7, 20, 5, 20, 3, by decide⟩
/-- Two loans to one die, the older one recalled in part, and in whole. -/
theorem witness_repay_two : ∀ units : Nat, (units = 5 ∨ units = 20) → ∃ (s : State) (borrower lender u1 u2 c id1 id2 : Nat),
    id1 ≠ id2 ∧ units ≤ u2 ∧ u2 ≤ 520 ∧ 0 < u1 ∧
    (s.die lender).lent = [⟨id1, borrower, u1, 0⟩, ⟨id2, borrower, u2, c⟩] ∧ (s.die lender).demand = 0 ∧
    (s.die lender).loans = [] ∧ (units = u2 ↔ units = 20) := by
  rintro units (rfl | rfl) <;>
    exact ⟨withDie 7 { lent := [⟨4, 8, 30, 0⟩, ⟨3, 8, 20, 5⟩] }, 8, 7, 30, 20, 5, 4, 3, by decide⟩
theorem witness_recall : ∃ (s : State) (borrower lender u c units id : Nat),
    (s.die borrower).loans = [⟨id, lender, u, c⟩] ∧ (s.die borrower).lent = [] ∧ 0 < min units u ∧
    (if isCompute (borrower % 32) then 520 else 90) + u ≤ (s.die borrower).demand + min units u :=
  ⟨withDie 7 { loans := [⟨3, 8, 20, 0⟩], demand := 530 }, 7, 8, 20, 0, 10, 3, by decide⟩
/-- A launch queue whose entry 0 is a descriptor of one rank of kind 0. -/
def launchDie (ready : BitVec 8) (word2 : Nat) : Die :=
  { readyWord := ready, lq := { entries := [(16, BitVec.ofNat 8 word2)], tail := 1 } }
theorem witness_launch_take : ∃ (s t : State) (die : Nat) (c : Cause),
    let v := fun (s : State) =>
      leNat ((List.range 128).map (fun i => Tab.get 0 (s.die die).lq.entries (128 * ((s.die die).lq.head % 32) + i)))
    let ok := fun (s : State) => (s.die die).lq.stopped = false ∧
      ((s.die die).lq.tail + 2 ^ 16 - (s.die die).lq.head) % 2 ^ 16 ≠ 0 ∧ (s.die die).readyWord.getLsbD 1 = true
    ok s ∧ descCause (v s) true = none ∧ s.launchRoom (die / 32) (v s) = true ∧ ok t ∧ descCause (v t) true = some c :=
  ⟨withDie 6 (launchDie 7 1), withDie 6 (launchDie 7 0), 6, 0x0A, by decide +kernel⟩
/-- A die answers for an attestation (R413). -/
def answersB (s : State) (dev so : Nat) : Bool :=
  decide (24 ≤ so) || (s.die (dieKey dev so)).readyWord.getLsbD 0 || (s.die (dieKey dev so)).readyWord.getLsbD 7
theorem witness_attestation : ∃ (s t : State) (dev : Nat) (v w : Word), (s.mod dev).attStatus.getLsbD 0 = false ∧
    v.getLsbD 8 = true ∧ answersB s dev (v.toNat % 32) = true ∧ w.getLsbD 8 = false ∧ (t.mod dev).attStatus.getLsbD 0 = true ∧
    answersB t dev (v.toNat % 32) = false :=
  ⟨withDie 7 { readyWord := 7 }, { base with mods := [(0, { attStatus := 1 })] }, 0, 0x107, 7, by decide +kernel⟩
theorem witness_attestation_failed : ∃ (s t : State) (dev so : Nat), (∀ x ∈ [s, t], (x.mod dev).attStatus.getLsbD 0 = true) ∧
    so < 24 ∧ (s.die (dieKey dev so)).readyWord.getLsbD 7 = true ∧ (t.die (dieKey dev so)).readyWord.getLsbD 7 = false :=
  ⟨{ base with mods := [(0, { attStatus := 1 })], dies := [(23, { readyWord := 0x80 })] },
    { base with mods := [(0, { attStatus := 1 })], dies := [(23, { readyWord := 1 })] }, 0, 23, by decide +kernel⟩
theorem witness_host_write : ∃ (s : State) (dev off1 off2 off3 off4 off5 : Nat), off1 % 8 ≠ 0 ∧ (off2 % 8 = 0 ∧ 0x1020 ≤ off2 ∧
    off2 < 0x1040) ∧ (off3 % 8 = 0 ∧ 2 ^ 16 ≤ off3 ∧ off3 < 2 ^ 16 + 0x1000) ∧ (off4 = 2 ^ 16 + 0x1000 ∧
    ((s.die (dieKey dev 6)).lq.tail + 2 ^ 16 - (s.die (dieKey dev 6)).lq.head) % 2 ^ 16 = 0) ∧
    (off5 % 8 = 0 ∧ 2 ^ 17 + 0x1000 < off5 ∧ off5 < 2 ^ 17 + 2 ^ 16) :=
  ⟨base, 0, 1, 0x1038, 2 ^ 16 + 0xFF8, 2 ^ 16 + 0x1000, 2 ^ 17 + 0xFFF8, by decide +kernel⟩
theorem witness_host_link : ∃ (s t : State) (die : Nat), (die % 32 = 6 ∨ die % 32 = 12) ∧
    (s.die die).readyWord.getLsbD 7 = false ∧ (t.die die).readyWord.getLsbD 7 = true :=
  ⟨base, withDie 12 { readyWord := 0x80 }, 12, by decide +kernel⟩
/-- The Ed448 public key of a secret of 57 bytes 0x01. -/
def firmKey : List Byte := natLe 0x808516D1CBB32881F4291B30E9CDE116DAE9F7D769F5B09456FCF99FFDDDFC2B9E28C11AC9892EBCCE51E82E20CB5CFB94A3397926338A75E0 57
/-- A firmware image of the null section alone, with a signature block made by that secret (R71, Table 4.11). -/
def firmware : List Byte :=
  natLe 0xD000000000000000780000000000000000000000000000000100000000000000700000000000000040000000010000000100030001314B4E47 120 ++
    (natLe 1 8 ++ natLe 0x97136DE4FEBAA4014F26E7764A6F57D6 16 ++
      natLe 0x8EE4A3A40AE3213B802F9D854B70AF946300F7DF3E27B5817AF4A1941DB40AC01CED33F34D4A10E3AA208AFFDEE3D61BEA06CF04D055957F86AB7D040CAEB657 64 ++
      natLe 0x21811E124A8173436B91CE560376318DEF3F12E239FAC98C302087018372C5341E8DB1B9321975E9502BB5F837006057B94E085DC60B44FB0097366325F7AA261529E2AA0BA7B6673C065255C2A459A9EEC32E7C93A81D7123224B97ADB401D2B2B6C0F6C3CBB8BC613133DD0218AAC8BC 114 ++
      natLe 0 6)
theorem firmware_verifies : Gnonik.firmwareOk [firmKey] firmware = true := by decide +kernel
/-- One byte of the signature changed. -/
theorem firmware_changed : Gnonik.firmwareOk [firmKey] (firmware.set 300 0) = false := by decide +kernel
/-- A load of 8 bytes from another die of the module that waits at die 7's router, and the die whose firmware verifies
where the module holds the key. -/
def waitingAt : State :=
  { State.reset with slots := [(8 * 8192, wick)], dies := [(7, { router := [loadOf] })] }
where loadOf : PeerReq := ⟨8 * 8192, near 0, 5, 0, scratchPa (7 * 64) 0, 8, .load, 0, 0, none, .none, 0⟩
theorem witness_die_reset : ∃ (s : State) (image other : List Byte), (s.die 7).router = [] ∧
    (Config.firmwareKeys 7 = [firmKey] → (true && Gnonik.firmwareOk (Config.firmwareKeys 7) image) = true) ∧
    (true && Gnonik.firmwareOk (Config.firmwareKeys 7) other) = false :=
  ⟨base, firmware, [], by decide, fun h => by rw [h, Bool.true_and]; exact firmware_verifies, by rfl⟩
theorem witness_die_reset_load : ∃ (s : State) (image : List Byte) (q : PeerReq) (c off : Nat), (s.die 7).router = [q] ∧
    (Config.firmwareKeys 7 = [firmKey] → (true && Gnonik.firmwareOk (Config.firmwareKeys 7) image) = true) ∧
    q.kind = .load ∧ q.flight = none ∧ s.holds q = true ∧ dieOf q.src ≠ 7 ∧ s.reserved q.pa q.n = false ∧
    (region q.pa = .scratch c off ∧ dieOfCluster c = 7) ∧
    (Config.failBase 7 = 64 → s.home 7 (64 * Config.failBase 7 - 64) ≠ .ok) ∧ s.readFault q.pa q.n = none :=
  ⟨waitingAt, firmware, waitingAt.loadOf, 7 * 64, 0, by decide, fun h => by rw [h, Bool.true_and]; exact firmware_verifies,
    rfl, rfl, by decide +kernel, by decide, by decide +kernel, by decide +kernel, fun h => by rw [h]; decide +kernel,
    readable_all (by decide +kernel) _ _⟩

/-! ### The machine as a whole -/

/-- The next step fetches the first of these words in the current slot. -/
def placed (nbits w : Nat) : State := State.reset.withFetchWord nbits w
/-- What a step asks for before its slot takes an interrupt or fetches. -/
def turned (s : State) (k : Nat) : Prop :=
  s.agenda = [] ∧ (∀ t ∈ s.timers, s.tick < t.1) ∧ s.turn = [k] ∧ ({ s with turn := [k] } : State).coreEvent k = none
/-- The core's cycle begins. -/
def begun (s : State) (k : Nat) : State :=
  { ({ s with turn := [k] } : State).onCore k (fun c => { c with cycle := c.cycle + 1 }) with tick := s.tick + 1 }
/-- The slot with a pre-emption pending. -/
def preempted : State :=
  { placed 32 0x10307FFB with
    slots := (placed 32 0x10307FFB).slots.map
      (fun e => (e.1, { e.2 with irqAll := [(0xC0, near 0x4000)], tmask := 0x100000000 })) }
/-- The checks of the step's turn, decided. -/
def pickB (s : State) (k slot : Nat) : Bool :=
  !((begun s k).core k).fenced && !(begun s k).withholds k && (begun s k).pick k == some slot
theorem witness_step : ∃ (s : State) (k slot : Nat), turned s k ∧ pickB s k slot = true ∧
    ((begun s k).issueFrom k slot).interrupted slot = false ∧
    ((begun s k).issueFrom k slot).fetch slot = .ok (0x10307FFB, 0, 0) ∧ ∃ i, decode 0x10307FFB 0 0 = .ok i :=
  ⟨placed 32 0x10307FFB, coreOf here, here, by unfold turned; decide +kernel, by decide +kernel, by decide +kernel,
    by rfl, _, rfl⟩
theorem witness_step_undecoded : ∃ (s : State) (k slot : Nat) (c : Nat), turned s k ∧ pickB s k slot = true ∧
    ((begun s k).issueFrom k slot).interrupted slot = false ∧
    ((begun s k).issueFrom k slot).fetch slot = .ok (0xFE000000, 0, 0) ∧ decode 0xFE000000 0 0 = .error c :=
  ⟨placed 32 0xFE000000, coreOf here, here, 0, by unfold turned; decide +kernel, by decide +kernel, by decide +kernel,
    by rfl, rfl⟩
theorem witness_step_interrupted : ∃ (s : State) (k slot : Nat), turned s k ∧ pickB s k slot = true ∧
    (begun s k).goesOn slot = false ∧ ((begun s k).issueFrom k slot).interrupted slot = true :=
  ⟨preempted, coreOf here, here, by unfold turned; decide +kernel, by decide +kernel, by decide +kernel, by decide +kernel⟩
/-- An instruction that goes on after a wait executes, though an interrupt is pending. -/
theorem witness_step_goes_on : ∃ (s : State) (k slot : Nat), turned s k ∧ pickB s k slot = true ∧
    (begun s k).goesOn slot = true ∧ ((begun s k).issueFrom k slot).interrupted slot = true ∧
    ((begun s k).issueFrom k slot).fetch slot = .ok (0x10307FFB, 0, 0) :=
  ⟨{ preempted with slots := preempted.slots.map (fun e => (e.1, { e.2 with firm := true })) }, coreOf here, here,
    by unfold turned; decide +kernel, by decide +kernel, by decide +kernel, by decide +kernel, by rfl⟩
theorem witness_step_event : ∃ (s : State) (e : Event) (rest : List Event), s.agenda = e :: rest :=
  ⟨{ base with agenda := [.dispenserPass 0] }, .dispenserPass 0, [], rfl⟩
theorem witness_fetch_words : ∃ (s : State) (slot : Nat), clusterOk (clusterOf slot) = true ∧ isNear (s.slot slot).pc = true ∧
    bits (s.slot slot).pc.toNat 0 31 + 12 ≤ 0x10000 ∧
    ∀ j < 3, s.readError (nearPa (coreOf slot) (s.slot slot).pc + 4 * j) = none ∧
      s.rowMarked (nearPa (coreOf slot) (s.slot slot).pc + 4 * j) = false :=
  ⟨base, here, by decide +kernel, by decide +kernel, by decide +kernel, fun _ _ => ⟨readable (by decide +kernel) _, by
    unfold State.rowMarked; split <;> rfl⟩⟩
theorem witness_well_formed : (Instr.mxMma mma).WellFormed ∧ (Instr.aluiAdd ⟨3, .reg 0, 0x7FFB⟩).WellFormed ∧
    (Instr.trapSw ⟨0, .lit32 3, .reg 0, 15⟩).WellFormed := by decide
theorem reset_inv : State.reset.memOk = true ∧ State.reset.regsOk = true := by decide
/-- What a step comes to. -/
def goesOn (s : State) : Bool := match step s with | .next _ => true | _ => false
theorem witness_step_keeps : ∃ s t : State, s.memOk = true ∧ s.regsOk = true ∧ step s = .next t := by
  refine ⟨placed 32 0x10307FFB, _, by decide +kernel, by decide +kernel, rfl⟩
theorem witness_frame : ∃ (i : Instr) (s t : State), i.enc.encoded = true ∧ Claims.opcode i ∈ Claims.storesNothing ∧
    exec i s = .next t ∧ (s.slot s.cur).regsOk = true ∧ (s.slot s.cur).replies = 0 ∧ (s.slot s.cur).polled = none :=
  ⟨.aluiAdd ⟨3, .reg 0, 0x7FFB⟩, base, _, by decide, by decide, rfl, by decide⟩

/-! ### Well-formedness -/

/-! ### Decoding -/

/-- Words of one instruction word each decode to the instructions beside them. -/
def decodes (l : List (Nat × Instr)) : Bool := l.all (fun p => decide (decodeTableWord 32 p.1 = some p.2))
theorem words_alu : decodes [
    (0x02953580, .aluAdd ⟨9, .reg 10, .reg 13, 6⟩), (0x02953581, .aluSub ⟨9, .reg 10, .reg 13, 6⟩),
    (0x02953582, .aluMul ⟨9, .reg 10, .reg 13, 6⟩), (0x02953583, .aluMulh ⟨9, .reg 10, .reg 13, 6⟩),
    (0x02953584, .aluMulhz ⟨9, .reg 10, .reg 13, 6⟩), (0x02953585, .aluDiv ⟨9, .reg 10, .reg 13, 6⟩),
    (0x02953586, .aluDivz ⟨9, .reg 10, .reg 13, 6⟩), (0x02953587, .aluRem ⟨9, .reg 10, .reg 13, 6⟩),
    (0x02953588, .aluRemz ⟨9, .reg 10, .reg 13, 6⟩), (0x02953589, .aluAnd ⟨9, .reg 10, .reg 13, 6⟩),
    (0x0295358A, .aluOr ⟨9, .reg 10, .reg 13, 6⟩), (0x0295358B, .aluXor ⟨9, .reg 10, .reg 13, 6⟩),
    (0x0295358C, .aluAndn ⟨9, .reg 10, .reg 13, 6⟩), (0x0295358D, .aluShl ⟨9, .reg 10, .reg 13, 6⟩),
    (0x0295358E, .aluShr ⟨9, .reg 10, .reg 13, 6⟩), (0x0295358F, .aluSra ⟨9, .reg 10, .reg 13, 6⟩),
    (0x02953590, .aluMin ⟨9, .reg 10, .reg 13, 6⟩), (0x02953591, .aluMax ⟨9, .reg 10, .reg 13, 6⟩),
    (0x02953592, .aluMinz ⟨9, .reg 10, .reg 13, 6⟩), (0x02953593, .aluMaxz ⟨9, .reg 10, .reg 13, 6⟩),
    (0x02953594, .aluAdds ⟨9, .reg 10, .reg 13, 6⟩), (0x02953595, .aluSubs ⟨9, .reg 10, .reg 13, 6⟩),
    (0x02950196, .aluClz ⟨9, .reg 10, .reg 0, 6⟩), (0x02950197, .aluCtz ⟨9, .reg 10, .reg 0, 6⟩),
    (0x02950198, .aluPopc ⟨9, .reg 10, .reg 0, 6⟩)] = true := by decide +kernel
theorem words_alui : decodes [
    (0x10950025, .aluiAdd ⟨9, .reg 10, 37⟩), (0x12950025, .aluiAnd ⟨9, .reg 10, 37⟩),
    (0x14950025, .aluiOr ⟨9, .reg 10, 37⟩), (0x16950025, .aluiXor ⟨9, .reg 10, 37⟩),
    (0x18950025, .aluiShl ⟨9, .reg 10, 37⟩), (0x1A950025, .aluiShr ⟨9, .reg 10, 37⟩),
    (0x1C950025, .aluiSra ⟨9, .reg 10, 37⟩), (0x1E950025, .aluiMul ⟨9, .reg 10, 37⟩)] = true := by decide +kernel
theorem words_fpu : decodes [
    (0x04953582, .fpuAdd ⟨⟨9, .reg 10, .reg 13, 6⟩, 2⟩), (0x04953586, .fpuSub ⟨⟨9, .reg 10, .reg 13, 6⟩, 2⟩),
    (0x0495358A, .fpuMul ⟨⟨9, .reg 10, .reg 13, 6⟩, 2⟩), (0x0495358E, .fpuDiv ⟨⟨9, .reg 10, .reg 13, 6⟩, 2⟩),
    (0x04950192, .fpuSqrt ⟨⟨9, .reg 10, .reg 0, 6⟩, 2⟩), (0x04953596, .fpuFma ⟨⟨9, .reg 10, .reg 13, 6⟩, 2⟩),
    (0x0495359A, .fpuFms ⟨⟨9, .reg 10, .reg 13, 6⟩, 2⟩), (0x0495359C, .fpuMin ⟨9, .reg 10, .reg 13, 6⟩),
    (0x049535A0, .fpuMax ⟨9, .reg 10, .reg 13, 6⟩), (0x049501A4, .fpuAbs ⟨9, .reg 10, .reg 0, 6⟩),
    (0x049501A8, .fpuNeg ⟨9, .reg 10, .reg 0, 6⟩), (0x049501AE, .fpuCvti ⟨⟨9, .reg 10, .reg 0, 6⟩, 2⟩),
    (0x049501B2, .fpuCvtf ⟨⟨9, .reg 10, .reg 0, 6⟩, 2⟩), (0x049501B6, .fpuCvtw ⟨⟨9, .reg 10, .reg 0, 6⟩, 2⟩),
    (0x049501BA, .fpuCvtb ⟨⟨9, .reg 10, .reg 0, 6⟩, 2⟩), (0x049501BE, .fpuCvt8 ⟨⟨9, .reg 10, .reg 0, 6⟩, 2⟩)] = true := by decide +kernel
theorem words_fpd : decodes [
    (0x0C953582, .fpdAdd ⟨⟨9, .reg 10, .reg 13, 6⟩, 2⟩), (0x0C953586, .fpdSub ⟨⟨9, .reg 10, .reg 13, 6⟩, 2⟩),
    (0x0C95358A, .fpdMul ⟨⟨9, .reg 10, .reg 13, 6⟩, 2⟩), (0x0C95358E, .fpdDiv ⟨⟨9, .reg 10, .reg 13, 6⟩, 2⟩),
    (0x0C950192, .fpdSqrt ⟨⟨9, .reg 10, .reg 0, 6⟩, 2⟩), (0x0C953596, .fpdFma ⟨⟨9, .reg 10, .reg 13, 6⟩, 2⟩),
    (0x0C95359A, .fpdFms ⟨⟨9, .reg 10, .reg 13, 6⟩, 2⟩), (0x0C95359C, .fpdMin ⟨9, .reg 10, .reg 13, 6⟩),
    (0x0C9535A0, .fpdMax ⟨9, .reg 10, .reg 13, 6⟩), (0x0C9501A4, .fpdAbs ⟨9, .reg 10, .reg 0, 6⟩),
    (0x0C9501A8, .fpdNeg ⟨9, .reg 10, .reg 0, 6⟩), (0x0C9501AE, .fpdCvti ⟨⟨9, .reg 10, .reg 0, 6⟩, 2⟩),
    (0x0C9501B2, .fpdCvtf ⟨⟨9, .reg 10, .reg 0, 6⟩, 2⟩), (0x0C9501B6, .fpdCvtw ⟨⟨9, .reg 10, .reg 0, 6⟩, 2⟩),
    (0x0C9501BA, .fpdCvtb ⟨⟨9, .reg 10, .reg 0, 6⟩, 2⟩), (0x0C9501BE, .fpdCvt8 ⟨⟨9, .reg 10, .reg 0, 6⟩, 2⟩)] = true := by decide +kernel
theorem words_cmp : decodes [
    (0x06853582, .cmpEq ⟨⟨8, .reg 10, .reg 13, 6⟩, 2⟩), (0x0685358A, .cmpNe ⟨⟨8, .reg 10, .reg 13, 6⟩, 2⟩),
    (0x06853592, .cmpLt ⟨⟨8, .reg 10, .reg 13, 6⟩, 2⟩), (0x0685359A, .cmpGe ⟨⟨8, .reg 10, .reg 13, 6⟩, 2⟩),
    (0x068535A0, .cmpLo ⟨⟨8, .reg 10, .reg 13, 6⟩, 0⟩), (0x068535A8, .cmpHs ⟨⟨8, .reg 10, .reg 13, 6⟩, 0⟩),
    (0x068535B1, .cmpUn ⟨⟨8, .reg 10, .reg 13, 6⟩, 1⟩)] = true := by decide +kernel
theorem words_mov : decodes [
    (0x08950180, .movCp ⟨9, .reg 10, .reg 0, 6⟩), (0x08900181, .movRdp ⟨9, .reg 0, .reg 0, 6⟩),
    (0x08053582, .movWrp ⟨0, .reg 10, .reg 13, 6⟩), (0x08950183, .movSxb ⟨9, .reg 10, .reg 0, 6⟩),
    (0x08950184, .movSxh ⟨9, .reg 10, .reg 0, 6⟩), (0x08950185, .movSxw ⟨9, .reg 10, .reg 0, 6⟩),
    (0x08950186, .movZxb ⟨9, .reg 10, .reg 0, 6⟩), (0x08950187, .movZxh ⟨9, .reg 10, .reg 0, 6⟩),
    (0x08950188, .movZxw ⟨9, .reg 10, .reg 0, 6⟩)] = true := by decide +kernel
theorem words_sys : decodes [
    (0x0A950196, .sysRw ⟨9, .reg 10, 0x19, 6⟩)] = true := by decide +kernel
theorem words_br : decodes [
    (0x20CFFFE5, .br ⟨6, 0xFFFE5⟩), (0x20DFFFE5, .brLink ⟨6, 0xFFFE5⟩)] = true := by decide +kernel
theorem words_jmp : decodes [
    (0x22053580, .jmpJr ⟨0, .reg 10, .reg 13, 6⟩), (0x22953581, .jmpJl ⟨9, .reg 10, .reg 13, 6⟩)] = true := by decide +kernel
theorem words_wk : decodes [
    (0x24950180, .wkSpawn ⟨9, .reg 10, .reg 0, 6⟩), (0x24050181, .wkMigr ⟨0, .reg 10, .reg 0, 6⟩),
    (0x24000182, .wkWaitw ⟨0, .reg 0, .reg 0, 6⟩), (0x24050183, .wkSusp ⟨0, .reg 10, .reg 0, 6⟩),
    (0x24000184, .wkDone ⟨0, .reg 0, .reg 0, 6⟩), (0x24003585, .wkSnuffSelf ⟨0, .reg 0, .reg 13, 6⟩),
    (0x24953585, .wkSnuff ⟨9, .reg 10, .reg 13, 6⟩), (0x24050186, .wkLaunch ⟨0, .reg 10, .reg 0, 6⟩),
    (0x24950187, .wkPrio ⟨9, .reg 10, .reg 0, 6⟩)] = true := by decide +kernel
theorem words_ld : decodes [
    (0x3095359A, .ld ⟨⟨9, .reg 10, .reg 13, 6⟩, true, true, 1⟩),
    (0x309535B8, .ldAcq ⟨⟨9, .reg 10, .reg 13, 6⟩, true, 8⟩)] = true := by decide +kernel
theorem words_st : decodes [
    (0x32953592, .st ⟨⟨9, .reg 10, .reg 13, 6⟩, true, false, 1⟩),
    (0x329535B8, .stRel ⟨⟨9, .reg 10, .reg 13, 6⟩, true, 8⟩)] = true := by decide +kernel
theorem words_amo : decodes [
    (0x34953582, .amoAdd ⟨⟨9, .reg 10, .reg 13, 6⟩, true, false⟩),
    (0x34953586, .amoAnd ⟨⟨9, .reg 10, .reg 13, 6⟩, true, false⟩),
    (0x3495358A, .amoOr ⟨⟨9, .reg 10, .reg 13, 6⟩, true, false⟩),
    (0x3495358E, .amoXor ⟨⟨9, .reg 10, .reg 13, 6⟩, true, false⟩),
    (0x34953592, .amoMin ⟨⟨9, .reg 10, .reg 13, 6⟩, true, false⟩),
    (0x34953596, .amoMax ⟨⟨9, .reg 10, .reg 13, 6⟩, true, false⟩),
    (0x3495359A, .amoMinz ⟨⟨9, .reg 10, .reg 13, 6⟩, true, false⟩),
    (0x3495359E, .amoMaxz ⟨⟨9, .reg 10, .reg 13, 6⟩, true, false⟩),
    (0x349535A2, .amoSwap ⟨⟨9, .reg 10, .reg 13, 6⟩, true, false⟩),
    (0x349535A6, .amoCas ⟨⟨9, .reg 10, .reg 13, 6⟩, true, false⟩),
    (0x349535AA, .amoFadd ⟨⟨9, .reg 10, .reg 13, 6⟩, true, false⟩)] = true := by decide +kernel
theorem words_fence : decodes [
    (0x36000188, .fenceAll ⟨⟨0, .reg 0, .reg 0, 6⟩, 8⟩), (0x36000198, .fenceSt ⟨⟨0, .reg 0, .reg 0, 6⟩, 8⟩),
    (0x360001A8, .fenceLd ⟨⟨0, .reg 0, .reg 0, 6⟩, 8⟩)] = true := by decide +kernel
theorem words_mon : decodes [
    (0x38950180, .monArm ⟨9, .reg 10, .reg 0, 6⟩), (0x38050181, .monDis ⟨0, .reg 10, .reg 0, 6⟩),
    (0x38950182, .monWait ⟨9, .reg 10, .reg 0, 6⟩), (0x38050183, .monClr ⟨0, .reg 10, .reg 0, 6⟩)] = true := by decide +kernel
theorem words_vec : decodes [
    (0x4135AD80, .vecAdd ⟨9, 10, 13, 6, 6⟩), (0x4135AD81, .vecSub ⟨9, 10, 13, 6, 6⟩),
    (0x4135AD82, .vecMul ⟨9, 10, 13, 6, 6⟩), (0x4135AD83, .vecFma ⟨9, 10, 13, 6, 6⟩),
    (0x4135AD84, .vecMin ⟨9, 10, 13, 6, 6⟩), (0x4135AD85, .vecMax ⟨9, 10, 13, 6, 6⟩),
    (0x41340D86, .vecAbs ⟨9, 10, 0, 6, 6⟩), (0x41340D87, .vecNeg ⟨9, 10, 0, 6, 6⟩),
    (0x4135AD88, .vecAnd ⟨9, 10, 13, 6, 6⟩), (0x4135AD89, .vecOr ⟨9, 10, 13, 6, 6⟩),
    (0x4135AD8A, .vecXor ⟨9, 10, 13, 6, 6⟩), (0x4135AD8B, .vecShl ⟨9, 10, 13, 6, 6⟩),
    (0x4135AD8C, .vecShr ⟨9, 10, 13, 6, 6⟩), (0x4135AD8D, .vecSra ⟨9, 10, 13, 6, 6⟩),
    (0x4135AD8E, .vecSel ⟨9, 10, 13, 6, 6⟩), (0x4135AD8F, .vecShuf ⟨9, 10, 13, 6, 6⟩),
    (0x41340D90, .vecBcast ⟨9, 10, 0, 6, 6⟩), (0x41340D91, .vecRsum ⟨9, 10, 0, 6, 6⟩),
    (0x41340D92, .vecRmax ⟨9, 10, 0, 6, 6⟩), (0x41340D93, .vecRmin ⟨9, 10, 0, 6, 6⟩),
    (0x41300C94, .vecCvt ⟨9, 8, 0, 6, 2⟩), (0x4115AC95, .vecScale ⟨8, 10, 13, 6, 2⟩),
    (0x4135AD96, .vecCeq ⟨9, 10, 13, 6, 6⟩), (0x4135AD97, .vecClt ⟨9, 10, 13, 6, 6⟩)] = true := by decide +kernel
theorem words_vld : decodes [
    (0x4335AD80, .vldC ⟨9, 10, 13, 6, 6⟩), (0x4335AD81, .vldS ⟨9, 10, 13, 6, 6⟩),
    (0x4335AD82, .vldCR ⟨9, 10, 13, 6, 6⟩), (0x4335AD83, .vldSR ⟨9, 10, 13, 6, 6⟩)] = true := by decide +kernel
theorem words_vst : decodes [
    (0x4535AD80, .vstC ⟨9, 10, 13, 6, 6⟩), (0x4535AD81, .vstS ⟨9, 10, 13, 6, 6⟩),
    (0x4535AD82, .vstCR ⟨9, 10, 13, 6, 6⟩), (0x4535AD83, .vstSR ⟨9, 10, 13, 6, 6⟩)] = true := by decide +kernel
theorem words_vgth : decodes [
    (0x4735AC00, .vgthG ⟨9, 10, 13, 6, 0⟩), (0x4735AD01, .vgthGt ⟨9, 10, 13, 6, 4⟩)] = true := by decide +kernel
theorem words_enq : decodes [
    (0x60951180, .enqWt ⟨9, .reg 10, 4, 6⟩), (0x60950181, .enqTry ⟨9, .reg 10, 0, 6⟩)] = true := by decide +kernel
theorem words_vg : decodes [
    (0x62953580, .vgInit ⟨9, .reg 10, .reg 13, 6⟩), (0x62950181, .vgJoin ⟨9, .reg 10, .reg 0, 6⟩),
    (0x62900182, .vgLeave ⟨9, .reg 0, .reg 0, 6⟩), (0x62050183, .vgArr ⟨0, .reg 10, .reg 0, 6⟩),
    (0x62950184, .vgWait ⟨9, .reg 10, .reg 0, 6⟩), (0x62950185, .vgArrw ⟨9, .reg 10, .reg 0, 6⟩),
    (0x62053586, .vgBrk ⟨0, .reg 10, .reg 13, 6⟩), (0x62003586, .vgBrkGroup ⟨0, .reg 0, .reg 13, 6⟩),
    (0x62953587, .vgStat ⟨9, .reg 10, .reg 13, 6⟩)] = true := by decide +kernel
theorem words_trap : decodes [
    (0x64050180, .trapSw ⟨0, .reg 10, .reg 0, 6⟩), (0x64000181, .trapRet ⟨0, .reg 0, .reg 0, 6⟩),
    (0x64000182, .trapBrk ⟨0, .reg 0, .reg 0, 6⟩), (0x64953583, .trapMsk ⟨9, .reg 10, .reg 13, 6⟩)] = true := by decide +kernel
theorem words_tlb : decodes [
    (0x66953580, .tlbFill ⟨9, .reg 10, .reg 13, 6⟩), (0x66053581, .tlbInvr ⟨0, .reg 10, .reg 13, 6⟩),
    (0x66050182, .tlbInva ⟨0, .reg 10, .reg 0, 6⟩), (0x66953583, .tlbPrb ⟨9, .reg 10, .reg 13, 6⟩)] = true := by decide +kernel
theorem words_fab : decodes [
    (0x68950180, .fabConn ⟨9, .reg 10, .reg 0, 6⟩), (0x68050181, .fabClose ⟨0, .reg 10, .reg 0, 6⟩),
    (0x68953582, .fabSlot ⟨9, .reg 10, .reg 13, 6⟩), (0x68950183, .fabStat ⟨9, .reg 10, .reg 0, 6⟩),
    (0x68053584, .fabGnt ⟨0, .reg 10, .reg 13, 6⟩)] = true := by decide +kernel
theorem words_lan : decodes [
    (0x6A953580, .lanInst ⟨9, .reg 10, .reg 13, 6⟩), (0x6A950181, .lanDrop ⟨9, .reg 10, .reg 0, 6⟩),
    (0x6A953582, .lanStat ⟨9, .reg 10, .reg 13, 6⟩), (0x6A000183, .lanDflt ⟨0, .reg 0, .reg 0, 6⟩)] = true := by decide +kernel
theorem words_tap : decodes [
    (0x6C950180, .tapLoad ⟨9, .reg 10, .reg 0, 6⟩), (0x6C050181, .tapGo ⟨0, .reg 10, .reg 0, 6⟩),
    (0x6C900182, .tapHalt ⟨9, .reg 0, .reg 0, 6⟩), (0x6C950183, .tapStat ⟨9, .reg 10, .reg 0, 6⟩),
    (0x6C900184, .tapHead ⟨9, .reg 0, .reg 0, 6⟩)] = true := by decide +kernel
theorem words_cx : decodes [
    (0x80AE6300, .cxLoad ⟨2, 5, 6, 6, 3⟩), (0x80AE6001, .cxBind ⟨2, 5, 6, 6, 0⟩),
    (0x80A86002, .cxRebind ⟨2, 5, 0, 6, 0⟩), (0x80A86503, .cxGen ⟨2, 5, 0, 6, 5⟩),
    (0x80006304, .cxDrop ⟨0, 0, 0, 6, 3⟩)] = true := by decide +kernel
theorem words_ck : decodes [
    (0x82A86200, .ckDx ⟨2, 5, 0, 6, 2⟩), (0x82A86201, .ckStar ⟨2, 5, 0, 6, 2⟩),
    (0x82A86202, .ckIstar ⟨2, 5, 0, 6, 2⟩), (0x82A86203, .ckCodif ⟨2, 5, 0, 6, 2⟩),
    (0x82AE6204, .ckWedge ⟨2, 5, 6, 6, 2⟩), (0x82AE6205, .ckInterp ⟨2, 5, 6, 6, 2⟩),
    (0x82A86206, .ckCvt ⟨2, 5, 0, 6, 2⟩), (0x82A86307, .ckAnch ⟨2, 5, 0, 6, 3⟩),
    (0x82AE6E08, .ckAxpy ⟨2, 5, 6, 6, 14⟩), (0x822E6E09, .ckDot ⟨0, 5, 6, 6, 14⟩),
    (0x82286C0A, .ckHpack ⟨0, 5, 0, 6, 12⟩), (0x82806C0B, .ckHunp ⟨2, 0, 0, 6, 12⟩)] = true := by decide +kernel
theorem words_mx : decodes [
    (0xA15CC0C0, .mxMma ⟨2, 5, 6, 6, 0xC0⟩), (0xA15CC1C0, .mxMmaz0 ⟨2, 5, 6, 6, 0xC0⟩),
    (0xA15CC2C0, .mxMmaz1 ⟨2, 5, 6, 6, 0xC0⟩), (0xA100C300, .mxClr ⟨2, 0, 0, 6, 0x0⟩),
    (0xA150C400, .mxSt ⟨2, 5, 0, 6, 0x0⟩), (0xA150C580, .mxLd ⟨2, 5, 0, 6, 0x80⟩)] = true := by decide +kernel

/-- Literals follow the word, low half first (R39): the words of 03_encoding.md's and 14_prog_chain.md's listings. -/
theorem words_literals : decodeTableWord 64 0x493E002327800 = some (.aluAdd ⟨3, .reg 4, .lit32 0x493E0, 0⟩) ∧
    decodeTableWord 96 0x0706050403020100088F8000 = some (.movCp ⟨8, .lit64 0x0706050403020100, .reg 0, 0⟩) := by decide +kernel
/-- The encoder writes the words of the spec's listings. -/
theorem words_encoded : encode (.aluAdd ⟨3, .reg 4, .lit32 0x493E0, 0⟩) = [0x02327800, 0x000493E0] ∧
    encode (.movCp ⟨8, .lit64 0x0706050403020100, .reg 0, 0⟩) = [0x088F8000, 0x03020100, 0x07060504] ∧
    encode (.mxMma ⟨2, 1, 3, 0, 0xC0⟩) = [0xA11600C0] ∧ encode (.ckDx ⟨2, 1, 0, 0, 0⟩) = [0x82880000] ∧
    encode (.br ⟨6, 0xFFFE0⟩) = [0x20CFFFE0] ∧ encode (.vecScale ⟨0, 12, 13, 0, 2⟩) = [0x4019A095] := by decide +kernel
/-- The cause that a word raises at decode. -/
def refusal (w : IWord) : Option Cause := match decode w 0 0 with | .error c => some c | .ok _ => none
/-- R45, R46: an unassigned opcode raises 0x00, an unassigned function 0x01, a field that must be zero 0x09. -/
theorem words_refused : refusal 0xFE000000 = some 0 ∧ refusal 0x0200003F = some 1 ∧ refusal 0x64100001 = some 9 := by
  decide +kernel

/-! ### Well-formedness refuses a term for each check -/

theorem refuses_event : Instr.dispenserPass.wellFormed = false := by decide
theorem refuses_literal_code : (Instr.aluAdd ⟨3, .reg 30, .reg 0, 0⟩).wellFormed = false ∧
    (Instr.aluiAdd ⟨3, .reg 31, 0⟩).wellFormed = false ∧ (Instr.sysRw ⟨3, .reg 30, 2, 0⟩).wellFormed = false ∧
    (Instr.enqWt ⟨3, .reg 31, 0, 0⟩).wellFormed = false := by decide
theorem refuses_other_row : (Instr.wkSnuff ⟨0, .reg 0, .reg 2, 0⟩).wellFormed = false ∧
    (Instr.vgBrk ⟨0, .reg 0, .reg 2, 0⟩).wellFormed = false := by decide
theorem refuses_roles : (Instr.trapRet ⟨1, .reg 0, .reg 0, 0⟩).wellFormed = false ∧
    (Instr.aluAdd ⟨24, .reg 0, .reg 0, 0⟩).wellFormed = false ∧ (Instr.aluAdd ⟨3, .reg 26, .reg 0, 0⟩).wellFormed = false ∧
    (Instr.fpuFma ⟨⟨30, .reg 2, .reg 3, 0⟩, 0⟩).wellFormed = false ∧
    (Instr.cmpEq ⟨⟨5, .reg 2, .reg 3, 0⟩, 0⟩).wellFormed = false ∧
    (Instr.amoAdd ⟨⟨0, .reg 2, .reg 3, 0⟩, true, false⟩).wellFormed = false ∧
    (Instr.amoCas ⟨⟨15, .reg 2, .reg 3, 0⟩, true, false⟩).wellFormed = false ∧
    (Instr.st ⟨⟨30, .reg 2, .reg 3, 0⟩, false, false, 3⟩).wellFormed = false := by decide
theorem refuses_two_literals : (Instr.aluAdd ⟨3, .lit32 1, .lit32 2, 0⟩).wellFormed = false := by decide
theorem refuses_functions : (Instr.cmpUn ⟨⟨4, .reg 2, .reg 3, 0⟩, 0⟩).wellFormed = false ∧
    (Instr.ld ⟨⟨4, .reg 2, .reg 3, 0⟩, false, true, 3⟩).wellFormed = false ∧
    (Instr.st ⟨⟨4, .reg 2, .reg 3, 0⟩, false, true, 2⟩).wellFormed = false ∧
    (Instr.fenceAll ⟨⟨0, .reg 0, .reg 0, 0⟩, 12⟩).wellFormed = false ∧ (Instr.aluiShl ⟨3, .reg 2, 64⟩).wellFormed = false ∧
    (Instr.enqTry ⟨0, .reg 2, 0, 0⟩).wellFormed = false ∧ (Instr.sysRw ⟨3, .reg 2, 0x7FF, 0⟩).wellFormed = false := by decide
theorem refuses_vectors : (Instr.vecAdd ⟨1, 2, 3, 0, 7⟩).wellFormed = false ∧ (Instr.vecAnd ⟨1, 2, 3, 0, 0⟩).wellFormed = false ∧
    (Instr.vecAbs ⟨1, 2, 3, 0, 0⟩).wellFormed = false ∧ (Instr.vecCvt ⟨1, 2, 0, 0, 0⟩).wellFormed = false ∧
    (Instr.vecScale ⟨2, 12, 13, 0, 2⟩).wellFormed = false ∧ (Instr.vldC ⟨1, 2, 3, 0, 3⟩).wellFormed = false ∧
    (Instr.vgthG ⟨1, 2, 3, 0, 1⟩).wellFormed = false := by decide
theorem refuses_cochains : (Instr.cxLoad ⟨1, 2, 3, 0, 4⟩).wellFormed = false ∧ (Instr.cxBind ⟨1, 2, 3, 0, 1⟩).wellFormed = false ∧
    (Instr.cxGen ⟨1, 1, 0, 0, 3⟩).wellFormed = false ∧ (Instr.cxGen ⟨1, 0, 0, 0, 6⟩).wellFormed = false ∧
    (Instr.ckDx ⟨1, 2, 3, 0, 0⟩).wellFormed = false ∧ (Instr.ckHpack ⟨0, 2, 0, 0, 1⟩).wellFormed = false := by decide
theorem refuses_matrix : (Instr.mxMma ⟨1, 2, 2, 0, 0⟩).wellFormed = false ∧ (Instr.mxMma ⟨1, 0, 1, 0, 1⟩).wellFormed = false ∧
    (Instr.mxClr ⟨1, 1, 0, 0, 0⟩).wellFormed = false := by decide

/-! ### Single steps of the spec's own examples -/

/-- A value of the state that a step or an instruction leads to. -/
def after {α : Type} (r : Host.Outcome State Fault Refusal) (f : State → α) : Option α :=
  match r with | .next t => some (f t) | _ => none
/-- `alui.add g3, g0, #-5` (06_registers.md), fetched by the first step after reset. -/
theorem test_step_alui : after (step (placed 32 0x10307FFB)) (fun t => ((t.slot here).g, (t.slot here).pc)) =
    some ([(3, 0xFFFFFFFFFFFFFFFB)], near 4) := by decide +kernel
/-- `mov.wrp g0, g3, g4` with 0x10 and 0x30 sets p4 and clears p5 (06_registers.md). -/
theorem test_wrp : after (exec (.movWrp ⟨0, .reg 3, .reg 4, 0⟩) (holding { wick with g := [(3, 0x10), (4, 0x30)], pred := 0x0061 }))
    (fun t => (t.slot here).pred) = some 0x0051 := by decide +kernel
/-- 0 + 20.0 × 23.5 = 470.0, exact (06_registers.md). -/
theorem test_fma : after (exec (.fpuFma ⟨⟨9, .reg 7, .reg 8, 0⟩, 0⟩) (holding { wick with g := [(7, 0x41A00000), (8, 0x41BC0000)] }))
    (fun t => (Tab.get 0 (t.slot here).g 9, (t.slot here).fflags)) = some (0x43EB0000, 0) := by decide +kernel
/-- 470.0 in FP8 is 0x7E with sat and nx (R21). -/
theorem test_cvt8 : after (exec (.fpuCvt8 ⟨⟨10, .reg 9, .reg 0, 0⟩, 0⟩) (holding { wick with g := [(9, 0x43EB0000)] }))
    (fun t => (Tab.get 0 (t.slot here).g 10, (t.slot here).fflags)) = some (0x7E, 0x30) := by decide +kernel
/-- −2.5 rounded downward is −3, with nx (06_registers.md). -/
theorem test_cvti : after (exec (.fpuCvti ⟨⟨12, .reg 14, .reg 0, 0⟩, 3⟩) (holding { wick with g := [(14, 0xC0200000)] }))
    (fun t => (Tab.get 0 (t.slot here).g 12, (t.slot here).fflags)) = some (0xFFFFFFFFFFFFFFFD, 0x10) := by decide +kernel
/-- `trap.sw` enters the handler at tvec with its code (R243). -/
theorem test_trap : after (exec (.trapSw ⟨0, .lit32 3, .reg 0, 0⟩) base)
    (fun t => ((t.slot here).pc, (t.slot here).tval, bits (t.slot here).tcause.toNat 0 8)) = some (near 0x1000, 3, 0xE3) := by
  decide +kernel

/-! ### Objects and the assembler (04_objects.md, worked example; 03_encoding.md, Table 3.11) -/

/-- The source of the chapter's worked example. -/
def exampleSource : List (List Char) :=
  ["        .text".toList, "        .global start".toList,
    "start:  mov.cp  g8, #:32 table      ; table address, 32-bit literal".toList,
    "        ld.d    g9, g8, g0          ; first table entry".toList,
    "        b       helper              ; defined in another object".toList,
    "        .data".toList, "        .align  3".toList, "table:  .dword  start".toList,
    "        .wick   entry0, start, prio=1, fmt=3, aff=0x40".toList]
/-- A source that defines the other routine. -/
def helperSource : List (List Char) := ["        .text".toList, ".global helper".toList, "helper: nop".toList]
/-- No file to include. -/
def noFile : List Char → Option (List Byte) := fun _ => none

theorem test_assemble_words :
    (Asm.assemble noFile exampleSource).map (fun o => (o.bytes 1, o.rels.map (fun l => l.map (fun r => (r.offset, r.rtype, r.addend))))) =
      some (natLe 0x088F0000 4 ++ natLe 0 4 ++ natLe 0x30940006 4 ++ natLe 0x20000000 4,
        [[], [(4, 3, 0), (12, 5, 0)], [(0, 1, 0)], [(0, 8, 0)]]) := by decide +kernel

/-- The linked example, with the other routine at a given address. -/
def linkedExample (helper : Nat) : Except Gnonik.LinkError (List Nat) :=
  match Asm.assemble noFile exampleSource, Asm.assemble noFile helperSource with
  | some o, some p =>
    (Gnonik.link [(o.write, [0, 0x100000, 0x200000, 0x300000]), (p.write, [0, helper])]).map
      (fun r => ((r.headD []).drop 1).map (fun bs => Gnonik.numAt bs 0 16))
  | _, _ => .error .rejected
/-- What a link gives. -/
def linkResult : Except Gnonik.LinkError (List Nat) → List Nat × Option Gnonik.LinkError
  | .ok l => (l, none)
  | .error e => ([], some e)

theorem test_link_example : linkResult (linkedExample 0x100400) =
    ([0x088F0000 + 0x00200000 * 2 ^ 32 + 0x30940006 * 2 ^ 64 + 0x200000FD * 2 ^ 96, 0x100000,
      0x0200000000100000 + 0x0000004006000200 * 2 ^ 64], none) := by decide +kernel

/-- R67: the error names the section, the offset and the symbol. -/
theorem test_link_too_far : linkResult (linkedExample 0x400000) =
    ([], some (.reloc (Crypto.ascii ".text") 12 (Crypto.ascii "helper"))) := by decide +kernel

/-- R60: a rejected file is not linked. -/
theorem test_link_rejected : linkResult ((Gnonik.link [([], [])]).map (fun _ => [])) = ([], some .rejected) := by decide +kernel

/-- Table 11.8: a slot's frame holds the latch of a vigil wait (R216). -/
theorem test_frame_latch (x y : Slot) : (Slot.restoreFrame x.frame y).vlatch = x.vlatch := rfl

theorem test_object_accepted :
    (Asm.assemble noFile exampleSource).map (fun o => (Gnonik.accepts o.write, Gnonik.accepts (0 :: o.write))) =
      some (true, false) := by decide +kernel

theorem test_reloc_check : Gnonik.relocValue 2 (2 ^ 32) 0 0 = none ∧ Gnonik.relocValue 8 2 0 0 = none ∧
    Gnonik.relocValue 6 0 (2 ^ 64 - 1) 0 = some (2 ^ 64 - 1) := by decide +kernel

theorem test_assembler_short_spelling :
    Asm.instruction [] (0, 0) none "add".toList ["g3".toList, "g4".toList, "#300000".toList] =
      some ([0x02327800, 0x000493E0], []) ∧
    Asm.instruction [] (0, 0) none "sub".toList ["g3".toList, "g4".toList, "#5".toList] =
      Asm.instruction [] (0, 0) none "alui.add".toList ["g3".toList, "g4".toList, "#-5".toList] := by decide +kernel

theorem test_assembler_rejects :
    Asm.instruction [] (0, 0) none "cmp.eq.i".toList ["p3".toList, "g1".toList, "g2".toList] = none ∧
    Asm.instruction [] (0, 0) none "shl".toList ["g3".toList, "g1".toList, "#64".toList] = none ∧
    Asm.instruction [] (0, 0) none "alu.add".toList ["g3".toList, "#1".toList, "#2".toList] = none ∧
    Asm.instruction [] (0, 0) none "br".toList ["16".toList, "off=4".toList] = none ∧
    Asm.assemble noFile ["  .text".toList, "g3: nop".toList] = none := by decide +kernel

theorem test_assembler_floating :
    Asm.instruction [] (0, 0) none "fpu.add".toList ["g1".toList, "g2".toList, "#-2.5".toList] =
      some ([0x04117800, 0xC0200000], []) ∧
    Asm.instruction [] (0, 0) none "alu.add".toList ["g1".toList, "g2".toList, "#2.5".toList] = none := by decide +kernel

theorem test_assembler_stale :
    (Asm.assemble noFile [" .text".toList, " wk.susp g0, g6".toList, " mov g1, g7".toList]).isSome = false ∧
    (Asm.assemble noFile [" .text".toList, " wk.susp g0, g6".toList, " li g7, #1".toList, " mov g1, g7".toList]).isSome := by decide +kernel

/-- R57: a name that begins with a letter or a low line is no floating value, in a long or a short spelling. -/
theorem test_assembler_symbol_value :
    (Asm.instruction [] (0, 0) none "fpu.add".toList ["g1".toList, "g2".toList, "#_e5".toList]).map (fun r => r.1) ≠
      (Asm.instruction [] (0, 0) none "fpu.add".toList ["g1".toList, "g2".toList, "#0".toList]).map (fun r => r.1) := by
  decide +kernel

/-- R73: a shift by a symbol takes the 64-bit literal, one by a number the short spelling. -/
theorem test_assembler_shift :
    (Asm.instruction [] (0, 0) none "shl".toList ["g3".toList, "g1".toList, "#3".toList]).map (fun r => r.1) =
      (Asm.instruction [] (0, 0) none "alui.shl".toList ["g3".toList, "g1".toList, "#3".toList]).map (fun r => r.1) ∧
    (Asm.instruction [] (0, 0) none "alui.shl".toList ["g3".toList, "g1".toList, "imm=100".toList]).isSome = false := by
  decide +kernel

end Sys2Proof.Tests
end

section
/-!
SUPPORT. What a store at a home does: the three things it can come to (nothing, a refusal in the fault log, the bytes
written), and what of the state each of them keeps.
-/

namespace Sys2Proof.Machine

/-! ### The bytes that a home takes -/

/-- No home takes more bytes than the store has. -/
theorem Region.room_le (r : Region) (n : Nat) : r.room n ≤ n := by
  cases r with
  | scratch _ off => exact Nat.min_le_left n (0x400000 - off)
  | loc _ off => exact Nat.min_le_left n (0x10000 - off)
  | dram => exact Nat.le_refl n
  | host => exact Nat.le_refl n
  | reserved => exact Nat.zero_le n
  | noSocket => exact Nat.zero_le n

/-- A home that does not hold the first byte takes none (R156). -/
theorem Region.room_eq_zero {r : Region} (h : r.inRange = false) (n : Nat) : r.room n = 0 := by
  cases r with
  | scratch _ off =>
    have hoff : ¬ off < 0x400000 := of_decide_eq_false h
    change min n (0x400000 - off) = 0
    omega
  | loc _ off =>
    have hoff : ¬ off < 0x10000 := of_decide_eq_false h
    change min n (0x10000 - off) = 0
    omega
  | dram => cases h
  | host => cases h
  | reserved => rfl
  | noSocket => rfl

/-! ### What a firing monitor keeps of a slot -/

/-- Two slots that differ at most in what they wait for and in the fired bits of their monitors: every other field
agrees, and each monitor watches the same line or vigil. -/
def Slot.SameButFired (x y : Slot) : Prop :=
  { y with wait := .none, mons := [] } = { x with wait := .none, mons := [] } ∧
  ∀ j, (Tab.find? j y.mons).map (fun m => (m.line, m.vigil)) = (Tab.find? j x.mons).map (fun m => (m.line, m.vigil))

theorem Slot.SameButFired.refl (x : Slot) : x.SameButFired x := ⟨rfl, fun _ => rfl⟩

theorem Slot.SameButFired.trans {x y z : Slot} (hxy : x.SameButFired y) (hyz : y.SameButFired z) : x.SameButFired z :=
  ⟨hyz.1.trans hxy.1, fun j => (hyz.2 j).trans (hxy.2 j)⟩

/-- Firing sets fired bits and may end a wait for a monitor (R171). -/
theorem Slot.sameButFired_fire (x : Slot) (line : Nat) (vigil : Bool) : x.SameButFired (x.fire line vigil) := by
  unfold Slot.fire
  dsimp only
  split
  · refine ⟨rfl, fun j => ?_⟩
    rw [Tab.find?_mapVals]
    cases Tab.find? j x.mons with
    | none => rfl
    | some m => by_cases hm : m.line = line ∧ m.vigil = vigil <;> simp [hm]
  · exact .refl x

/-- A look at the rings only ends a wait (R154). -/
theorem Slot.sameButFired_ringWake (x : Slot) (slot line : Nat) : x.SameButFired (x.ringWake slot line) := by
  unfold Slot.ringWake
  split
  · exact ⟨rfl, fun _ => rfl⟩
  · exact .refl x

/-- A slot after the monitors on a line have fired. A slot that is not listed has no monitor and waits for nothing. -/
theorem State.slot_fireLine (s : State) (line : Nat) (vigil : Bool) (k : Nat) :
    (s.fireLine line vigil).slot k = ((s.slot k).fire line vigil).ringWake k line :=
  Tab.get_mapVals _ _ k s.slots rfl

theorem State.sameButFired_fireLines (s : State) (line n k : Nat) :
    (s.slot k).SameButFired ((s.fireLines line n).slot k) := by
  induction n generalizing s line with
  | zero => exact .refl _
  | succ n ih =>
    have hfire : (s.slot k).SameButFired ((s.fireLine line false).slot k) := by
      rw [State.slot_fireLine]
      exact (Slot.sameButFired_fire ..).trans (Slot.sameButFired_ringWake ..)
    exact hfire.trans (ih _ _)

/-! ### What a store keeps of the state -/

/-- Two states with the same current slot, cores, clusters and modules, whose slots differ at most as firing monitors
make them differ. -/
structure State.SameUnits (s u : State) : Prop where
  cores : u.cores = s.cores
  clusters : u.clusters = s.clusters
  mods : u.mods = s.mods
  cur : u.cur = s.cur
  slot : ∀ k, (s.slot k).SameButFired (u.slot k)

theorem State.SameUnits.refl (s : State) : s.SameUnits s := ⟨rfl, rfl, rfl, rfl, fun _ => .refl _⟩

theorem State.sameUnits_fireLines (s : State) (line n : Nat) : s.SameUnits (s.fireLines line n) := by
  have hunits : (s.fireLines line n).cores = s.cores ∧ (s.fireLines line n).clusters = s.clusters ∧
      (s.fireLines line n).mods = s.mods ∧ (s.fireLines line n).cur = s.cur := by
    induction n generalizing s line with
    | zero => exact ⟨rfl, rfl, rfl, rfl⟩
    | succ n ih => exact ih (s.fireLine line false) (line + 1)
  obtain ⟨hcores, hclusters, hmods, hcur⟩ := hunits
  exact ⟨hcores, hclusters, hmods, hcur, s.sameButFired_fireLines line n⟩

/-- Writing the bytes changes no unit by itself: only the monitors that fire do. -/
theorem State.sameUnits_storeN (s : State) (pa n v : Nat) : s.SameUnits (s.storeN pa n v) := by
  obtain ⟨hcores, hclusters, hmods, hcur, hslot⟩ :=
    (({ s with mem := writeBytes s.mem pa v n } : State).rewrote pa n).sameUnits_fireLines (pa / 64)
      ((pa + n - 1) / 64 + 1 - pa / 64)
  exact ⟨hcores, hclusters, hmods, hcur, hslot⟩

/-! ### What a store at a home comes to -/

/-- A write from outside the cluster into one of its slot regions (R306), as the home of the address sees it. -/
def State.RegionRefuses (s : State) (ck pa n : Nat) : Prop :=
  ∃ c off, region pa = .scratch c off ∧ c ≠ ck ∧ (s.cluster c).inRegion off ((region pa).room n) = true

theorem State.storeHome_of_room_eq_zero (s : State) {ck pa n v : Nat} (h : (region pa).room n = 0) :
    s.storeHome ck pa n v = s := by
  simp [State.storeHome, h]

/-- A refused write is logged, and nothing else happens (R306). -/
theorem State.storeHome_of_refused (s : State) {ck pa n v : Nat} (h0 : (region pa).room n ≠ 0)
    (h : s.RegionRefuses ck pa n) : ∃ die, s.storeHome ck pa n v = s.log die 0x77 [BitVec.ofNat 64 pa] := by
  obtain ⟨c, off, hr, hc, hin⟩ := h
  rw [hr] at h0 hin
  exact ⟨dieOfCluster c, by simp [State.storeHome, hr, h0, hc, hin]⟩

/-- A write that its home takes stores the bytes it has room for, and may send messages: a failure list's new tail
(R233). -/
theorem State.storeHome_of_taken (s : State) {ck pa n v : Nat} (h0 : (region pa).room n ≠ 0)
    (h : ¬ s.RegionRefuses ck pa n) :
    ∃ es, s.storeHome ck pa n v = (s.storeN pa ((region pa).room n) v).postAll es := by
  have silent (t : State) : t = t.postAll [] := by simp [State.postAll]
  simp only [State.storeHome, if_neg h0]
  split
  next c off hr =>
    have htaken : ¬ (c ≠ ck ∧ (s.cluster c).inRegion off ((region pa).room n) = true) :=
      fun ⟨hc, hin⟩ => h ⟨c, off, hr, hc, hin⟩
    rw [if_neg htaken]
    exact ⟨[], silent _⟩
  next => exact ⟨_, rfl⟩
  next => exact ⟨[], silent _⟩

/-- Everything that a store at a home can come to. -/
theorem State.storeHome_cases (s : State) (ck pa n v : Nat) :
    s.storeHome ck pa n v = s ∨ (∃ die, s.storeHome ck pa n v = s.log die 0x77 [BitVec.ofNat 64 pa]) ∨
      ∃ es, s.storeHome ck pa n v = (s.storeN pa ((region pa).room n) v).postAll es := by
  by_cases h0 : (region pa).room n = 0
  · exact .inl (s.storeHome_of_room_eq_zero h0)
  · by_cases h : s.RegionRefuses ck pa n
    · exact .inr (.inl (s.storeHome_of_refused h0 h))
    · exact .inr (.inr (s.storeHome_of_taken h0 h))

/-- A store at a home changes no byte outside its own. -/
theorem State.byte_storeHome_out (s : State) {ck pa n v a : Nat} (h : a < pa ∨ pa + n ≤ a) :
    (s.storeHome ck pa n v).byte a = s.byte a := by
  obtain heq | ⟨die, heq⟩ | ⟨es, heq⟩ := s.storeHome_cases ck pa n v <;> rw [heq]
  · rfl
  · have hroom := (region pa).room_le n
    exact s.byte_storeN_out (by omega)

/-- A write into another cluster's slot region changes no byte (R306). -/
theorem State.storeHome_mem_of_refused (s : State) {ck pa n v : Nat} (h : s.RegionRefuses ck pa n) :
    (s.storeHome ck pa n v).mem = s.mem := by
  by_cases h0 : (region pa).room n = 0
  · rw [s.storeHome_of_room_eq_zero h0]
  · obtain ⟨die, heq⟩ := s.storeHome_of_refused (v := v) h0 h
    rw [heq, State.log_mem]

/-- The bytes of a store that its home takes whole hold the value, least significant byte first (R3). -/
theorem State.readN_storeHome (s : State) {ck pa n v : Nat} (hroom : (region pa).room n = n)
    (h : ¬ s.RegionRefuses ck pa n) : (s.storeHome ck pa n v).readN pa n = v % 256 ^ n := by
  rcases Nat.eq_zero_or_pos n with rfl | hn
  · simp [State.readN, Nat.mod_one]
  · obtain ⟨es, heq⟩ := s.storeHome_of_taken (v := v) (by omega) h
    rw [heq, hroom, ← s.readN_storeN pa n v]
    exact State.readN_congr _ _ _ _ fun _ _ _ => rfl

/-- A store at a home changes no unit but by the monitors that it fires. -/
theorem State.sameUnits_storeHome (s : State) (ck pa n v : Nat) : s.SameUnits (s.storeHome ck pa n v) := by
  obtain heq | ⟨die, heq⟩ | ⟨es, heq⟩ := s.storeHome_cases ck pa n v <;> rw [heq]
  · exact .refl s
  · exact ⟨rfl, rfl, rfl, rfl, fun _ => .refl _⟩
  · obtain ⟨hcores, hclusters, hmods, hcur, hslot⟩ := s.sameUnits_storeN pa ((region pa).room n) v
    exact ⟨hcores, hclusters, hmods, hcur, hslot⟩

/-- Settles O15: a store at a home comes to nothing, to a refusal in the fault log, or to `storeN` with messages, and
each of these keeps what the statement says. -/
theorem storeChangesOnlyItsBytes : Obligations.StoreChangesOnlyItsBytes := by
  intro s ck pa w v
  obtain ⟨hcores, hclusters, hmods, hcur, hslot⟩ := s.sameUnits_storeHome ck pa w v
  refine ⟨fun a ha => s.byte_storeHome_out ha, fun hr => s.storeHome_of_room_eq_zero (Region.room_eq_zero hr w), ?value,
    fun c off hr hc hin => s.storeHome_mem_of_refused ⟨c, off, hr, hc, hin⟩, hcores, hclusters, hmods, hcur, hslot⟩
  case value =>
    intro hroom hown
    refine s.readN_storeHome hroom fun ⟨c, off, hr, hc, hin⟩ => ?_
    rw [hroom] at hin
    rcases hown c off hr with h | h
    · exact hc h
    · simp [h] at hin

end Sys2Proof.Machine
end

section
/-!
SUPPORT. The moves, `sys.rw`, and the system registers: what each selector reads after a write of any selector, and the
fields of the words that the model packs.
-/

namespace Sys2Proof.Machine

/-! ### mov (R130) -/

/-- A move that sets no flag answers its value. -/
theorem unary_flagless_next {i : Instr} {x : FmtA} {g : Word → Word} {s : State} {a : Word} {q : Reading}
    (hi : Issues i s) (hr : s.reads1 x.a a q) (hw : s.canWrite s.cur x.d.toNat = true) :
    unary i x (fun a => (g a, 0)) s = .next ((s.writeReg s.cur x.d.toNat (g a)).retired s.cur i.enc.len q) := by
  simpa [State.flagged] using unary_next (f := fun a => (g a, 0)) hi hr hw

/-- A number narrowed to `w` bits and extended with zeros is its remainder. -/
theorem zeroExtend_truncate_eq_ofInt (a : Word) (w : Nat) :
    (a.truncate w : BitVec w).zeroExtend 64 = BitVec.ofInt 64 ((a.toNat : Int) % 2 ^ w) := by
  have hcast : ((a.toNat : Int) % 2 ^ w) = ((a.toNat % 2 ^ w : Nat) : Int) := by push_cast; rfl
  rw [hcast, BitVec.ofInt_natCast]
  apply BitVec.eq_of_toNat_eq
  simp

/-- Each move of `Claims.movOne` is executed as a flagless function of one source, whose value is the claimed integer. -/
theorem exec_eq_unary_of_movOne {i : Instr} {x : FmtA} {f : Word → Int} (h : Claims.movOne i = some (x, f)) :
    ∃ g : Word → Word, (∀ s, exec i s = unary i x (fun a => (g a, 0)) s) ∧ ∀ a, g a = BitVec.ofInt 64 (f a) := by
  unfold Claims.movOne at h
  split at h <;> cases h
  case h_1 => exact ⟨_, fun _ => rfl, fun a => by simp⟩
  case h_2 | h_3 | h_4 => exact ⟨_, fun _ => rfl, fun a => rfl⟩
  case h_5 | h_6 | h_7 => exact ⟨_, fun _ => rfl, fun a => zeroExtend_truncate_eq_ofInt a _⟩

/-- The bits of a predicate word forced as p0 and p1 are (R118). -/
theorem getLsbD_forcedPred (p : BitVec 16) {j : Nat} (hj : j < 16) :
    ((p ||| 1) &&& 0xFFFD).getLsbD j = if j = 0 then true else if j = 1 then false else p.getLsbD j := by
  have hmask : ∀ j < 16, (0xFFFD : BitVec 16).getLsbD j = decide (j ≠ 1) := by decide
  have hone : (1 : BitVec 16).getLsbD j = decide (j = 0) := by simp
  rw [BitVec.getLsbD_and, BitVec.getLsbD_or, hmask j hj, hone]
  split
  next h => simp [h]
  next h0 =>
    split
    next h => simp [h]
    next h1 => simp [h0, h1]

/-- The predicate word as `mov.rdp` reads it: bit 0 set and bit 1 clear (R118). -/
theorem forcedPred_eq (p : BitVec 16) :
    ((p ||| 1) &&& 0xFFFD : BitVec 16).zeroExtend 64 = BitVec.ofNat 64 (p.toNat / 4 * 4 + 1) := by
  apply BitVec.eq_of_getLsbD_eq
  intro j hj
  have hbits : (p.toNat / 4 * 4 + 1).testBit j = if j = 0 then true else if j = 1 then false else p.getLsbD j := by
    rw [show p.toNat / 4 * 4 = 2 ^ 2 * (p.toNat / 2 ^ 2) by omega, Nat.testBit_two_pow_mul_add _ (by decide)]
    rcases j with _ | _ | j
    · rfl
    · rfl
    · exact Nat.testBit_div_two_pow ..
  rw [BitVec.getLsbD_ofNat, hbits, BitVec.getLsbD_setWidth]
  by_cases h16 : j < 16
  · rw [getLsbD_forcedPred p h16]
  · have h0 : j ≠ 0 ∧ j ≠ 1 := by omega
    rw [BitVec.getLsbD_of_ge _ j (by omega), BitVec.getLsbD_of_ge p j (by omega), if_neg h0.1, if_neg h0.2]

/-- The predicates of a mask replaced, as `mov.wrp` does. -/
theorem getLsbD_mergedPred (p : BitVec 16) (a b : Word) {j : Nat} (hj : j < 16) :
    (p &&& ~~~(b.truncate 16) ||| a.truncate 16 &&& b.truncate 16).getLsbD j =
      if b.getLsbD j then a.getLsbD j else p.getLsbD j := by
  cases hb : b.getLsbD j <;> simp [hj, hb]

/-- `mov.rdp` answers the predicate word. -/
theorem execMovRdp_next {s : State} {x : FmtA} (hi : Issues (.movRdp x) s) (hw : s.canWrite s.cur x.d.toNat = true) :
    execMovRdp x s = .next ((s.writeReg s.cur x.d.toNat
      (BitVec.ofNat 64 ((s.slot s.cur).pred.toNat / 4 * 4 + 1))).retired s.cur (Instr.movRdp x).enc.len {}) :=
  runInstr_retired hi (by simp [result_go _ _ _ hw, State.flagged, ← forcedPred_eq])

/-- `mov.wrp` writes the predicates of its mask. -/
theorem execMovWrp_next {s : State} {x : FmtA} {a b : Word} {q : Reading} (hi : Issues (.movWrp x) s)
    (hr : s.reads2 x.a x.b a b q) :
    execMovWrp x s = .next ((s.onSlot s.cur (fun y => y.setPred
      ((y.pred &&& ~~~(b.truncate 16)) ||| (a.truncate 16 &&& b.truncate 16)))).retired s.cur (Instr.movWrp x).enc.len q) := by
  obtain ⟨q1, h1, h2⟩ := hr
  exact runInstr_retired hi (by simp [rd_go h1, rd_go h2])

/-! ### sys.rw (R122) -/

/-- `sys.rw` answers the old contents, and writes the selector unless sa is g0. -/
theorem execSysRw_next {s : State} {x : FmtS} {v : Word} {q : Reading} (hi : Issues (.sysRw x) s)
    (hr : s.reads1 x.a v q) (hw : s.canWrite s.cur x.d.toNat = true) :
    execSysRw x s = .next
      (((if x.a.code ≠ 0 then s.sysWrite s.cur x.sel.toNat v else s).writeReg s.cur x.d.toNat
        (s.sysRead s.cur x.sel.toNat)).retired s.cur (Instr.sysRw x).enc.len q) := by
  refine runInstr_retired hi ?_
  by_cases h0 : x.a.code = 0 <;> simp [rd_go hr, prepDst_go q hw, h0]

/-! ### What a selector reads after a write (R122, R124, Table 6.5) -/

/-- A written slot, field by field: each field takes its own selector's value and keeps its value under any other. -/
theorem Slot.sysWrite_eq (x : Slot) (f : Nat) (v : Word) : x.sysWrite f v =
    { x with
      fflags := if f = 0x002 then v.truncate 8 &&& 0x7F else x.fflags
      cvm := if f = 0x003 then v &&& cvmMask else x.cvm
      dead := if f = 0x004 then v &&& cvmMask else x.dead
      pp := if f = 0x005 then BitVec.ofNat 3 (v.toNat / 2) else x.pp
      oob := if f = 0x006 then v &&& 0xC1FFFFFFFFFFFFFF else x.oob
      fa := if f = 0x008 then v &&& faMask else x.fa
      fb := if f = 0x009 then v &&& fbMask else x.fb
      fc := if f = 0x00A then v &&& 0x3FF else x.fc
      fs := if f = 0x00B then v &&& fsMask else x.fs
      tvec := if f = 0x010 then v &&& vecMask else x.tvec
      tcause := if f = 0x011 then v &&& 0x7FF else x.tcause
      tepc := if f = 0x012 then v &&& vecMask else x.tepc
      tval := if f = 0x013 then v else x.tval
      tsave := if f = 0x014 then v else x.tsave
      tmask := if f = 0x015 then v &&& 0x1FFFFFFFF else x.tmask
      uvec := if f = 0x018 then v &&& vecMask else x.uvec
      ucause := if f = 0x019 then v &&& 0x1FF else x.ucause
      uepc := if f = 0x01A then v &&& (vecMask ||| 1) else x.uepc
      parkU := if f = 0x01A then (if v.getLsbD 0 then x.parkU else none) else x.parkU
      uval := if f = 0x01B then v else x.uval } := by
  unfold Slot.sysWrite
  split
  case h_20 => simp (disch := assumption) only [if_neg]
  all_goals rfl

/-- A write of any selector but the scheduler control word is one of the slot. -/
theorem State.sysWrite_of_ne (s : State) (k : Nat) (v : Word) {f : Nat} (h : f ≠ 0x020) :
    s.sysWrite k f v = s.onSlot k (fun x => x.sysWrite f v) := if_neg h

/-- A selector other than the one written reads what it read before: by the selector read, whose contents hold no field
that the write changes. -/
theorem State.sysRead_sysWrite_ne (s : State) (k : Nat) (v : Word) {f sel : Nat} (h : sel ≠ f) :
    (s.sysWrite k f v).sysRead k sel = s.sysRead k sel := by
  by_cases hf : f = 0x020
  case pos =>
    subst hf
    simp only [State.sysWrite, if_true]
    unfold State.sysRead
    split
    case h_23 => exact absurd rfl h
    all_goals simp [Die.borrowed, Die.lentOut]
  case neg =>
    rw [s.sysWrite_of_ne k v hf]
    unfold State.sysRead
    simp only [State.slot_onSlot_self, Slot.sysWrite_eq]
    split
    all_goals simp [qctlWord, h.symm, Slot.record, Slot.user]

/-- A word masked to its `n` low bits is its remainder. -/
theorem toNat_and_ofNat_two_pow_sub_one (v : Word) {n : Nat} (hn : n ≤ 64) :
    (v &&& BitVec.ofNat 64 (2 ^ n - 1)).toNat = v.toNat % 2 ^ n := by
  have hlt : 2 ^ n - 1 < 2 ^ 64 :=
    Nat.lt_of_lt_of_le (Nat.sub_lt (Nat.two_pow_pos n) Nat.one_pos) (Nat.pow_le_pow_right (by decide) hn)
  rw [BitVec.toNat_and, BitVec.toNat_ofNat, Nat.mod_eq_of_lt hlt, Nat.and_two_pow_sub_one_eq_mod]

/-- fflags keeps seven bits of the value written: bit 7 is reserved (Table 6.5). -/
theorem zeroExtend_fflags_eq (v : Word) : (v.truncate 8 &&& 0x7F : BitVec 8).zeroExtend 64 = v &&& 0x7F := by
  have hlow (u : Word) : (u &&& 0x7F).toNat = u.toNat % 2 ^ 7 := toNat_and_ofNat_two_pow_sub_one u (n := 7) (by decide)
  have hand : (v.truncate 8 &&& 0x7F : BitVec 8).zeroExtend 64 = (v.truncate 8 : BitVec 8).zeroExtend 64 &&& 0x7F :=
    BitVec.setWidth_and
  apply BitVec.eq_of_toNat_eq
  rw [hand, hlow, hlow, BitVec.toNat_setWidth, BitVec.toNat_setWidth]
  omega

/-- A selector of a slot reads the fields written, its reserved bits zero. -/
theorem State.sysRead_sysWrite_self (s : State) (k : Nat) (v : Word) :
    ∀ f ∈ Claims.sysFields, (s.sysWrite k f.1 v).sysRead k f.1 = v &&& f.2 := by
  have hall : v = v &&& 0xFFFFFFFFFFFFFFFF := BitVec.and_allOnes.symm
  simp only [Claims.sysFields, List.forall_mem_cons, State.sysRead, State.sysWrite_of_ne, ne_eq, Nat.reduceEqDiff,
    not_false_eq_true, State.slot_onSlot_self, Slot.sysWrite, true_and]
  exact ⟨zeroExtend_fflags_eq v, rfl, rfl, rfl, rfl, rfl, rfl, rfl, hall, hall, rfl, rfl, hall, List.forall_mem_nil _⟩

/-- A write of a read-only selector leaves the slot alone (Table 6.5). -/
theorem Slot.sysWrite_readOnly (x : Slot) (v : Word) {f : Nat} (hf : f ∈ Claims.sysReadOnly) : x.sysWrite f v = x := by
  simp only [Claims.sysReadOnly, List.mem_cons, List.not_mem_nil, or_false] at hf
  rcases hf with rfl | rfl | rfl | rfl | rfl | rfl | rfl <;> rfl

/-- A write of a read-only selector changes nothing that a selector reads. -/
theorem State.sysRead_sysWrite_readOnly (s : State) (k : Nat) (v : Word) {f : Nat} (hf : f ∈ Claims.sysReadOnly)
    (sel : Nat) : (s.sysWrite k f v).sysRead k sel = s.sysRead k sel := by
  have hsched : f ≠ 0x020 := by
    rintro rfl
    revert hf
    decide
  rw [s.sysWrite_of_ne k v hsched]
  simp only [State.sysRead, State.slot_onSlot_self, Slot.sysWrite_readOnly _ v hf, State.core_onSlot, State.die_onSlot]

/-- qctl takes pp only; its count of words is the receive queue's (Table 6.6). -/
theorem State.sysRead_sysWrite_qctl (s : State) (k : Nat) (v : Word) :
    (s.sysWrite k 0x005 v).sysRead k 0x005 =
      BitVec.ofNat 64 ((s.core (coreOf k)).rq.length % 64 * 2 ^ 8 + v.toNat / 2 % 8 * 2) := by
  simp [State.sysWrite, State.sysRead, Slot.sysWrite, qctlWord]

/-- sched takes the low-water mark (R123). -/
theorem State.sysRead_sysWrite_sched (s : State) (k : Nat) (v : Word) :
    (s.sysWrite k 0x020 v).sysRead k 0x020 = v &&& 0x3FFF := by
  apply BitVec.eq_of_toNat_eq
  have hlow : (v &&& 0x3FFF).toNat = v.toNat % 2 ^ 14 := toNat_and_ofNat_two_pow_sub_one v (n := 14) (by decide)
  simp only [State.sysWrite, if_true, State.sysRead, State.die_post, State.die_onDie_self, BitVec.toNat_ofNat, hlow]
  omega

/-- The event of a write of sched follows it (R123). -/
theorem State.schedWrite_mem_agenda_sysWrite (s : State) (k : Nat) (v : Word) :
    Event.schedWrite (dieOf k) (v.toNat % 2 ^ 14) ∈ (s.sysWrite k 0x020 v).agenda := by
  simp [State.sysWrite, State.post]

/-! ### What the selectors hold (R11, R122, R123, R403) -/

/-- The bits of a field are those of the number. -/
theorem testBit_bits (w lo : Nat) {n j : Nat} (hj : j < n) : (bits w lo n).testBit j = w.testBit (lo + j) := by
  rw [bits, Nat.testBit_mod_two_pow, Nat.testBit_div_two_pow]
  simp [hj, Nat.add_comm]

/-- The location word has the slot's number in bits 23:0 and its core's kind above them (Table 1.3). -/
theorem bits_locWord {k : Nat} (hk : k < 2 ^ 24) : bits (locWord k).toNat 0 24 = k ∧
    bits (locWord k).toNat 24 40 = if k / 8 % 16 = 15 then 3 else if 36 ≤ k / 128 % 64 then 1 else 0 := by
  have hservice : isService (coreOf k) = true ↔ k / 8 % 16 = 15 := decide_eq_true_iff
  have hw : isW (clusterOf k) = true ↔ 36 ≤ k / 128 % 64 := decide_eq_true_iff
  simp only [locWord, hservice, hw, BitVec.toNat_ofNat, bits]
  split
  next => omega
  next => split <;> omega

/-- The word w1 of a record whose status is 0, as a number: its fields side by side (Table 5.2). -/
theorem toNat_record_w1 (x : Slot) (st : Nat) (pc : Word) (sys : Bool) : (x.record st 0 pc sys).w1.toNat =
    x.grp.toNat * 2 ^ 40 + x.aff.toNat * 2 ^ 32 + x.fmt.toNat * 2 ^ 25 + x.pred.toNat * 2 ^ 9 + x.asid.toNat := by
  have hgrp := x.grp.isLt
  have haff := x.aff.isLt
  have hfmt := x.fmt.isLt
  have hpred := x.pred.isLt
  have hasid := x.asid.isLt
  simp only [Slot.record, BitVec.toNat_ofNat]
  omega

/-- The predicates in that word. -/
theorem getLsbD_record_w1 (x : Slot) (st : Nat) (pc : Word) (sys : Bool) {n : Nat} (hn : n < 16) :
    (x.record st 0 pc sys).w1.getLsbD (9 + n) = x.p n := by
  have hpred : bits (x.record st 0 pc sys).w1.toNat 9 16 = x.pred.toNat := by
    have hlt := x.pred.isLt
    have hasid := x.asid.isLt
    simp only [toNat_record_w1, bits]
    omega
  rw [BitVec.getLsbD, ← testBit_bits _ _ hn, hpred]
  rfl

/-- The fields of that word, which the wick's own selector 0x007 reads. -/
theorem record_w1_fields (x : Slot) (st : Nat) (pc : Word) (sys : Bool) :
    let w := (x.record st 0 pc sys).w1
    bits w.toNat 0 9 = x.asid.toNat ∧ (∀ n < 16, w.getLsbD (9 + n) = x.p n) ∧ bits w.toNat 25 7 = x.fmt.toNat ∧
      bits w.toNat 32 8 = x.aff.toNat ∧ bits w.toNat 40 16 = x.grp.toNat ∧ bits w.toNat 56 8 = 0 := by
  have hgrp := x.grp.isLt
  have haff := x.aff.isLt
  have hfmt := x.fmt.isLt
  have hpred := x.pred.isLt
  have hasid := x.asid.isLt
  refine ⟨?_, fun n hn => getLsbD_record_w1 x st pc sys hn, ?_⟩ <;> simp only [toNat_record_w1, bits] <;> omega

/-- The allotment at rest as selector 0x030 holds it. -/
theorem allotment_word (socket : Nat) :
    BitVec.ofNat 64 (allotment socket) = (if isCompute socket then 520 else 90 : Word) := by
  unfold allotment
  split <;> rfl

/-- Settles O6: each of the moves and `sys.rw` completes with what its body writes; a written slot is given field by
field, so that a selector reads back the fields written into it and every other one what it read before; and each
selector's contents are the model's words, taken apart. -/
theorem moveAndSystemRegisterResults : Obligations.MoveAndSystemRegisterResults := by
  refine ⟨⟨?movOne, fun s x hi hw => execMovRdp_next hi hw, ?movWrp⟩, fun s x v q hi hr hw => execSysRw_next hi hr hw,
    ?selectors⟩
  case movOne =>
    intro i s x f a q hmov hi hr hw
    obtain ⟨g, hexec, hg⟩ := exec_eq_unary_of_movOne hmov
    rw [hexec, unary_flagless_next hi hr hw, hg]
  case movWrp =>
    intro s x a b q hi hr
    refine ⟨_, execMovWrp_next hi hr, fun j hj => ?_⟩
    rw [getLsbD_forcedPred _ hj, getLsbD_mergedPred _ a b hj]
    rfl
  case selectors =>
    intro s k v x c d
    exact ⟨fun f hf => ⟨s.sysRead_sysWrite_self k v f hf, fun sel h => s.sysRead_sysWrite_ne k v h⟩,
      s.sysRead_sysWrite_qctl k v, s.sysRead_sysWrite_sched k v, s.schedWrite_mem_agenda_sysWrite k v,
      fun sel hsel n => s.sysRead_sysWrite_readOnly k v hsel n, bits_locWord, rfl, record_w1_fields x 0 x.pc _,
      allotment_word _, rfl, rfl, rfl, rfl, rfl⟩

end Sys2Proof.Machine
end

section
/-!
SUPPORT. Floating formats: a pattern that an operation answers fits in the storage width of its format.
-/

namespace Sys2Proof.Machine

/-! ### Two scaled numbers compared -/

theorem scale2_snd_pos (n : Nat) (e : Int) : 0 < (scale2 n 1 e).2 := by
  unfold scale2
  split
  · exact Nat.mul_pos Nat.one_pos (Nat.two_pow_pos _)
  · exact Nat.one_pos

/-- The fraction is the number times the power of two, where `k` is large enough to make the exponent a natural number. -/
theorem scale2_fst_mul (n : Nat) {e : Int} {k : Nat} (hk : 0 ≤ e + k) :
    (scale2 n 1 e).1 * 2 ^ k = n * 2 ^ (e + k).toNat * (scale2 n 1 e).2 := by
  unfold scale2
  split
  next h =>
    have hsum : k = (e + k).toNat + e.natAbs := by omega
    calc n * 2 ^ k = n * (2 ^ (e + k).toNat * 2 ^ e.natAbs) := by rw [← Nat.pow_add, ← hsum]
      _ = n * 2 ^ (e + k).toNat * (1 * 2 ^ e.natAbs) := by rw [Nat.one_mul, Nat.mul_assoc]
  next h =>
    have hsum : (e + k).toNat = e.natAbs + k := by omega
    rw [hsum, Nat.pow_add, Nat.mul_one, Nat.mul_assoc]

/-- A number with its leading one at bit `k` or above is at most one below 2^(k+1) only under an exponent that is no
greater. -/
theorem exponent_le_of_scale2_le {k m n : Nat} {q e : Int} (hm : 2 ^ k ≤ m) (hn : n < 2 ^ (k + 1))
    (h : (scale2 m 1 q).1 * (scale2 n 1 e).2 ≤ (scale2 n 1 e).1 * (scale2 m 1 q).2) : q ≤ e := by
  obtain ⟨N, hq, he⟩ : ∃ N : Nat, 0 ≤ q + N ∧ 0 ≤ e + N := ⟨q.natAbs + e.natAbs, by omega, by omega⟩
  have hfm := scale2_fst_mul m hq
  have hfn := scale2_fst_mul n he
  have hdm := scale2_snd_pos m q
  have hdn := scale2_snd_pos n e
  have hle : m * 2 ^ (q + N).toNat ≤ n * 2 ^ (e + N).toNat := by
    refine Nat.le_of_mul_le_mul_right (c := (scale2 m 1 q).2 * (scale2 n 1 e).2) ?_ (Nat.mul_pos hdm hdn)
    calc m * 2 ^ (q + N).toNat * ((scale2 m 1 q).2 * (scale2 n 1 e).2)
        = (scale2 m 1 q).1 * (scale2 n 1 e).2 * 2 ^ N := by rw [← Nat.mul_assoc, ← hfm, Nat.mul_right_comm]
      _ ≤ (scale2 n 1 e).1 * (scale2 m 1 q).2 * 2 ^ N := Nat.mul_le_mul_right _ h
      _ = n * 2 ^ (e + N).toNat * ((scale2 m 1 q).2 * (scale2 n 1 e).2) := by
        rw [Nat.mul_right_comm, hfn, Nat.mul_assoc, Nat.mul_comm (scale2 n 1 e).2]
  have hlt : 2 ^ (k + (q + N).toNat) < 2 ^ (k + 1 + (e + N).toNat) :=
    calc 2 ^ (k + (q + N).toNat) = 2 ^ k * 2 ^ (q + N).toNat := Nat.pow_add ..
      _ ≤ m * 2 ^ (q + N).toNat := Nat.mul_le_mul_right _ hm
      _ ≤ n * 2 ^ (e + N).toNat := hle
      _ < 2 ^ (k + 1) * 2 ^ (e + N).toNat := Nat.mul_lt_mul_of_pos_right hn (Nat.two_pow_pos _)
      _ = 2 ^ (k + 1 + (e + N).toNat) := (Nat.pow_add ..).symm
  have hexp := (Nat.pow_lt_pow_iff_right (by decide)).mp hlt
  omega

/-! ### The formats (R20, R22, R25) -/

/-- What the formats share: below the sign bit there is room for NaN, for infinity and for the largest finite value, which
is a significand of `p` bits under an exponent field of the format. -/
structure FFmt.Sound (f : FFmt) : Prop where
  two_le_p : 2 ≤ f.p
  p_lt_width : f.p < f.width
  nan_lt_sign : f.nan < 2 ^ (f.width - 1)
  inf_lt_sign : f.inf false < 2 ^ (f.width - 1)
  maxFinite_lt_sign : f.maxFinite false < 2 ^ (f.width - 1)
  decode_maxFinite : ∃ m e : Nat, m < 2 ^ f.p ∧ e + 1 < 2 ^ (f.width - f.p) ∧
    f.decode (f.maxFinite false) =
      .fin false (scale2 m 1 (f.emin - ((f.p : Int) - 1) + e)).1 (scale2 m 1 (f.emin - ((f.p : Int) - 1) + e)).2

theorem fp32_sound : fp32.Sound :=
  ⟨by decide, by decide, by decide, by decide, by decide, 2 ^ 24 - 1, 253, by decide, by decide, by decide +kernel⟩
theorem bf16_sound : bf16.Sound :=
  ⟨by decide, by decide, by decide, by decide, by decide, 2 ^ 8 - 1, 253, by decide, by decide, by decide +kernel⟩
theorem fp8_sound : fp8.Sound :=
  ⟨by decide, by decide, by decide, by decide, by decide, 14, 14, by decide, by decide, by decide +kernel⟩
theorem fp4_sound : fp4.Sound :=
  ⟨by decide, by decide, by decide, by decide, by decide, 3, 2, by decide, by decide, by decide +kernel⟩

/-- A choice of two numbers below a bound is below it. -/
theorem ite_lt {p : Prop} [Decidable p] {a b n : Nat} (ha : a < n) (hb : b < n) : (if p then a else b) < n := by
  split
  · exact ha
  · exact hb

section
variable {f : FFmt} (hf : f.Sound)
include hf

theorem FFmt.Sound.two_pow_width : 2 ^ f.width = 2 ^ (f.width - 1) + 2 ^ (f.width - 1) := by
  obtain ⟨k, hk⟩ := Nat.exists_eq_add_of_lt hf.p_lt_width
  rw [hk, show f.p + k + 1 - 1 = f.p + k by omega, Nat.pow_succ]
  omega

/-- A pattern below the sign bit fits with either sign. -/
theorem FFmt.Sound.signBit_add_lt (neg : Bool) {n : Nat} (hn : n < 2 ^ (f.width - 1)) : f.signBit neg + n < 2 ^ f.width := by
  have hw := hf.two_pow_width
  cases neg <;> simp only [FFmt.signBit, Bool.false_eq_true, if_false, if_true] <;> omega

theorem FFmt.Sound.inf_lt (neg : Bool) : f.inf neg < 2 ^ f.width :=
  hf.signBit_add_lt neg (by simpa [FFmt.inf, FFmt.signBit] using hf.inf_lt_sign)

theorem FFmt.Sound.maxFinite_lt (neg : Bool) : f.maxFinite neg < 2 ^ f.width :=
  hf.signBit_add_lt neg (by simpa [FFmt.maxFinite, FFmt.signBit] using hf.maxFinite_lt_sign)

theorem FFmt.Sound.nan_lt : f.nan < 2 ^ f.width := by
  have := hf.nan_lt_sign
  have := hf.two_pow_width
  omega

theorem FFmt.Sound.overflow_lt (rm : Rm) (neg : Bool) : f.overflow rm neg < 2 ^ f.width := by
  have hinf := hf.inf_lt neg
  have hmax := hf.maxFinite_lt neg
  cases rm <;> cases neg <;> assumption

/-- A magnitude that is not too big has an exponent field of the format (R25). -/
theorem FFmt.Sound.exponent_lt {m : Nat} {q : Int} (hm : 2 ^ (f.p - 1) ≤ m) (h : f.tooBig m q = false) :
    (q - (f.emin - ((f.p : Int) - 1)) + 1).toNat < 2 ^ (f.width - f.p) := by
  obtain ⟨n, e, hn, he, hdec⟩ := hf.decode_maxFinite
  rw [FFmt.tooBig, hdec, decide_eq_false_iff_not, Nat.not_lt] at h
  have hp := hf.two_le_p
  have hle := exponent_le_of_scale2_le hm (by rwa [show f.p - 1 + 1 = f.p by omega]) h
  omega

/-- The fields of a rounded value side by side. -/
theorem FFmt.Sound.fields_lt {b m : Nat} (hb : b < 2 ^ (f.width - f.p)) (hm : m < 2 ^ (f.p - 1)) :
    b * 2 ^ (f.p - 1) + m < 2 ^ (f.width - 1) := by
  have hp := hf.two_le_p
  have hw := hf.p_lt_width
  calc b * 2 ^ (f.p - 1) + m < (b + 1) * 2 ^ (f.p - 1) := by rw [Nat.succ_mul]; omega
    _ ≤ 2 ^ (f.width - f.p) * 2 ^ (f.p - 1) := Nat.mul_le_mul_right _ hb
    _ = 2 ^ (f.width - 1) := by rw [← Nat.pow_add]; congr 1; omega

theorem FFmt.Sound.roundFin_lt (rm : Rm) (neg : Bool) (n d : Nat) : (f.roundFin rm neg n d).1 < 2 ^ f.width := by
  unfold FFmt.roundFin
  split
  · exact hf.signBit_add_lt neg (n := 0) (Nat.two_pow_pos _)
  · extract_lets e qmin qe q r u tiny
    generalize (if r.1 = 2 ^ f.p then (2 ^ (f.p - 1), q + 1) else (r.1, q) : Nat × Int) = mq
    obtain ⟨m, q'⟩ := mq
    dsimp only
    split
    · split
      · exact hf.overflow_lt rm neg
      · exact hf.maxFinite_lt neg
    next hbig =>
      rw [Nat.add_assoc]
      refine hf.signBit_add_lt neg (hf.fields_lt ?_ (Nat.mod_lt _ (Nat.two_pow_pos _)))
      split
      next => exact Nat.two_pow_pos _
      next hm => exact hf.exponent_lt (Nat.le_of_not_lt hm) (Bool.not_eq_true _ ▸ hbig)

theorem FFmt.Sound.round_lt (rm : Rm) (v : FV) : (f.round rm v).1 < 2 ^ f.width := by
  have hnan := hf.nan_lt
  have hmax := hf.maxFinite_lt
  have hinf := hf.inf_lt
  cases v with
  | nan =>
    simp only [FFmt.round]
    split
    · exact hnan
    · split
      · exact hnan
      · exact Nat.two_pow_pos _
  | inf neg =>
    simp only [FFmt.round]
    split
    · exact hinf neg
    · split
      · exact hf.signBit_add_lt neg hf.nan_lt_sign
      · exact hmax neg
  | fin neg n d => exact hf.roundFin_lt rm neg n d

theorem FFmt.Sound.finish_lt (rm : Rm) (r : FV × Fl) : (f.finish rm r).1 < 2 ^ f.width := hf.round_lt rm r.1

theorem FFmt.Sound.min_lt {x y : Nat} (hx : x < 2 ^ f.width) (hy : y < 2 ^ f.width) : f.min x y < 2 ^ f.width :=
  ite_lt (ite_lt hf.nan_lt hy) (ite_lt hx (ite_lt hx (ite_lt hy (ite_lt hx hy))))

theorem FFmt.Sound.max_lt {x y : Nat} (hx : x < 2 ^ f.width) (hy : y < 2 ^ f.width) : f.max x y < 2 ^ f.width :=
  ite_lt (ite_lt hf.nan_lt hy) (ite_lt hx (ite_lt hy (ite_lt hx (ite_lt hy hx))))

theorem FFmt.Sound.absBits_lt (x : Nat) : f.absBits x < 2 ^ f.width := by
  have hw := hf.two_pow_width
  have hmod := Nat.mod_lt x (Nat.two_pow_pos (f.width - 1))
  exact ite_lt hf.nan_lt (by omega)

theorem FFmt.Sound.negBits_lt (x : Nat) : f.negBits x < 2 ^ f.width := by
  have hw := hf.two_pow_width
  have hmod := Nat.mod_lt x (Nat.two_pow_pos (f.width - 1))
  exact ite_lt hf.nan_lt (ite_lt (by omega) (by omega))

end

end Sys2Proof.Machine
end

section
/-!
SUPPORT. The lane-by-lane `vec` functions (R136, R137, R142): the lanes of a register put together, integer lanes as bit
vectors, and what an instruction of either shape answers.
-/

namespace Sys2Proof.Machine

/-! ### Lanes of a register (Table 7.1) -/

theorem joinLanes_lt (w : Nat) (ls : List Nat) : joinLanes w ls < 2 ^ (w * ls.length) := by
  induction ls with
  | nil => exact Nat.one_pos
  | cons x xs ih =>
    have hx := Nat.mod_lt x (Nat.two_pow_pos w)
    calc x % 2 ^ w + 2 ^ w * joinLanes w xs < 2 ^ w * (joinLanes w xs + 1) := by rw [Nat.mul_succ]; omega
      _ ≤ 2 ^ w * 2 ^ (w * xs.length) := Nat.mul_le_mul_left _ ih
      _ = 2 ^ (w * (xs.length + 1)) := by rw [← Nat.pow_add, Nat.mul_succ, Nat.add_comm]

/-- Lane j of lanes side by side. -/
theorem bits_joinLanes (w : Nat) (ls : List Nat) (j : Nat) (hj : j < ls.length) :
    bits (joinLanes w ls) (w * j) w = ls[j] % 2 ^ w := by
  induction ls generalizing j with
  | nil => cases hj
  | cons x xs ih =>
    have hx := Nat.mod_lt x (Nat.two_pow_pos w)
    cases j with
    | zero => simp [bits, joinLanes]
    | succ j =>
      have hdiv : (x % 2 ^ w + 2 ^ w * joinLanes w xs) / 2 ^ (w * (j + 1)) = joinLanes w xs / 2 ^ (w * j) := by
        rw [Nat.mul_succ, Nat.add_comm (w * j) w, Nat.pow_add, ← Nat.div_div_eq_div_mul,
          Nat.add_mul_div_left _ _ (Nat.two_pow_pos w), Nat.div_eq_of_lt hx, Nat.zero_add]
      rw [bits, joinLanes, hdiv]
      exact ih j (Nat.lt_of_succ_lt_succ hj)

/-- Lane j of a register made from lanes. -/
theorem vget_vecOfLanes (w : Nat) (ls : List Nat) (j : Nat) (hj : j < ls.length) (hfit : w * ls.length ≤ 1024) :
    vget (vecOfLanes w ls) (w * j) w = ls[j] % 2 ^ w := by
  have hlt : joinLanes w ls < 2 ^ 1024 := Nat.lt_of_lt_of_le (joinLanes_lt w ls) (Nat.pow_le_pow_right (by decide) hfit)
  rw [vget, vecOfLanes, BitVec.toNat_ofNat, Nat.mod_eq_of_lt hlt, bits_joinLanes w ls j hj]

/-- The lanes of every type fill the register. -/
theorem laneBits_mul_laneCount (t : Nat) : laneBits t * laneCount t = 1024 := by
  rcases t with _ | _ | _ | _ | _ | _ | t
  case succ.succ.succ.succ.succ.succ => simp [laneBits, laneCount]
  all_goals rfl

theorem laneBits_pos (t : Nat) : 0 < laneBits t :=
  Nat.pos_of_mul_pos_right (Nat.lt_of_lt_of_eq (by decide : 0 < 1024) (laneBits_mul_laneCount t).symm)

theorem vget_lt (x : VWord) (lo w : Nat) : vget x lo w < 2 ^ w := Nat.mod_lt _ (Nat.two_pow_pos w)

/-- The lanes that a lane function answers under a type, where it answers patterns of the type's width. -/
theorem vget_vecOfLanes_lanewise {f : LaneFn} {t : Nat} {a b c : VWord}
    (hf : ∀ {x y z}, x < 2 ^ laneBits t → y < 2 ^ laneBits t → (f t x y z).1 < 2 ^ laneBits t) {j : Nat}
    (hj : j < laneCount t) :
    vget (vecOfLanes (laneBits t) ((lanewise f t a b c).map Prod.fst)) (laneBits t * j) (laneBits t) =
      (f t (vget a (laneBits t * j) (laneBits t)) (vget b (laneBits t * j) (laneBits t))
        (vget c (laneBits t * j) (laneBits t))).1 := by
  have hlen : ((lanewise f t a b c).map Prod.fst).length = laneCount t := by simp [lanewise]
  rw [vget_vecOfLanes _ _ _ (by rwa [hlen]) (Nat.le_of_eq (by rw [hlen, laneBits_mul_laneCount]))]
  simpa [lanewise] using Nat.mod_eq_of_lt (hf (vget_lt a _ _) (vget_lt b _ _))

theorem orFlags_lanewise (f : LaneFn) (t : Nat) (a b c : VWord) :
    orFlags (lanewise f t a b c) = Claims.laneFlags (laneCount t) (fun j =>
      (f t (vget a (laneBits t * j) (laneBits t)) (vget b (laneBits t * j) (laneBits t))
        (vget c (laneBits t * j) (laneBits t))).2) := by
  simp [orFlags, lanewise, Claims.laneFlags, List.foldl_map]

/-! ### Integer lanes as bit vectors -/

/-- A lane as an integer is its bit vector's. -/
theorem laneInt_eq_toInt {w : Nat} (hw : 0 < w) (x : Nat) : laneInt w x = (BitVec.ofNat w x).toInt := by
  obtain ⟨k, rfl⟩ := Nat.exists_eq_succ_of_ne_zero (Nat.pos_iff_ne_zero.mp hw)
  have hpow : 2 ^ (k + 1) = 2 * 2 ^ k := by rw [Nat.pow_succ, Nat.mul_comm]
  have hcond : x % 2 ^ (k + 1) < 2 ^ k ↔ 2 * (x % 2 ^ (k + 1)) < 2 ^ (k + 1) := by omega
  simp only [laneInt, BitVec.toInt_eq_toNat_cond, BitVec.toNat_ofNat, Nat.succ_eq_add_one, Nat.add_sub_cancel, hcond]
  push_cast
  rfl

/-- An integer modulo 2^w is its bit vector's number. -/
theorem wrapTo_eq_toNat (w : Nat) (z : Int) : wrapTo w z = (BitVec.ofInt w z).toNat := by
  rw [wrapTo, BitVec.toNat_ofInt]
  push_cast
  rfl

/-- The model's function by type is the one claimed, where the integer function wraps to the one on bit vectors. -/
theorem byType_eq_laneFn {ff : FFmt → Nat → Nat → Nat → Nat × Fl} {fi : Nat → Int → Int → Int → Int}
    {fb : (w : Nat) → BitVec w → BitVec w → BitVec w → BitVec w}
    (h : ∀ w (a b c : BitVec w), BitVec.ofInt w (fi w a.toInt b.toInt c.toInt) = fb w a b c) :
    byType ff fi = Claims.laneFn ff fb := by
  funext t a b c
  unfold byType Claims.laneFn
  dsimp only
  by_cases h2 : t = 2
  · subst h2; rfl
  · by_cases h4 : t < 4
    · simp [h2, h4]
    · simp only [h2, h4, if_false, wrapTo_eq_toNat, laneInt_eq_toInt (laneBits_pos t), h]

theorem ofInt_add_toInt (w : Nat) (a b _ : BitVec w) : BitVec.ofInt w (a.toInt + b.toInt) = a + b := by
  rw [BitVec.ofInt_add, BitVec.ofInt_toInt, BitVec.ofInt_toInt]

theorem ofInt_sub_toInt (w : Nat) (a b _ : BitVec w) : BitVec.ofInt w (a.toInt - b.toInt) = a - b := by
  rw [Int.sub_eq_add_neg, BitVec.ofInt_add, BitVec.ofInt_neg, BitVec.ofInt_toInt, BitVec.ofInt_toInt, BitVec.sub_eq_add_neg]

theorem ofInt_mul_toInt (w : Nat) (a b _ : BitVec w) : BitVec.ofInt w (a.toInt * b.toInt) = a * b := by
  rw [BitVec.ofInt_mul, BitVec.ofInt_toInt, BitVec.ofInt_toInt]

theorem ofInt_fma_toInt (w : Nat) (a b c : BitVec w) :
    BitVec.ofInt w (c.toInt + a.toInt * b.toInt) = c + a * b := by
  rw [BitVec.ofInt_add, ofInt_mul_toInt w a b c, BitVec.ofInt_toInt]

theorem ofInt_neg_toInt {w : Nat} (a : BitVec w) : BitVec.ofInt w (0 - a.toInt) = -a := by
  rw [Int.zero_sub, BitVec.ofInt_neg, BitVec.ofInt_toInt]

theorem ofInt_min_toInt {w : Nat} (a b : BitVec w) :
    BitVec.ofInt w (min a.toInt b.toInt) = if a.slt b then a else b := by
  by_cases h : a.toInt < b.toInt
  · simp [BitVec.slt, h, Int.min_eq_left (Int.le_of_lt h)]
  · simp [BitVec.slt, h, Int.min_eq_right (Int.le_of_not_gt h)]

theorem ofInt_max_toInt {w : Nat} (a b : BitVec w) :
    BitVec.ofInt w (max a.toInt b.toInt) = if a.slt b then b else a := by
  by_cases h : a.toInt < b.toInt
  · simp [BitVec.slt, h, Int.max_eq_right (Int.le_of_lt h)]
  · simp [BitVec.slt, h, Int.max_eq_left (Int.le_of_not_gt h)]

theorem ofInt_natAbs_toInt {w : Nat} (a : BitVec w) :
    BitVec.ofInt w (a.toInt.natAbs : Int) = if a.msb then -a else a := by
  rw [BitVec.msb_eq_toInt]
  by_cases h : a.toInt < 0
  · rw [Int.ofNat_natAbs_of_nonpos (Int.le_of_lt h), BitVec.ofInt_neg, BitVec.ofInt_toInt]
    simp [h]
  · rw [Int.natAbs_of_nonneg (Int.le_of_not_gt h), BitVec.ofInt_toInt]
    simp [h]

/-- A shift right of the integer is the bit vector's with sign copies. -/
theorem wrapTo_laneInt_div {w : Nat} (hw : 0 < w) (a k : Nat) :
    wrapTo w (laneInt w a / 2 ^ k) = ((BitVec.ofNat w a).sshiftRight k).toNat := by
  rw [wrapTo_eq_toNat, laneInt_eq_toInt hw, BitVec.sshiftRight, Int.shiftRight_eq_div_pow]
  push_cast
  rfl

/-- A comparison of the integers is the bit vectors'. -/
theorem laneInt_lt_laneInt {w : Nat} (hw : 0 < w) (a b : Nat) :
    decide (laneInt w a < laneInt w b) = (BitVec.ofNat w a).slt (BitVec.ofNat w b) := by
  rw [laneInt_eq_toInt hw, laneInt_eq_toInt hw, BitVec.slt]

/-! ### The results fit their lanes -/

/-- The format of a floating lane type is sound and as wide as the lane. -/
theorem laneFmt_sound {t : Nat} (h : t < 4) : (laneFmt t).Sound ∧ (laneFmt t).width = laneBits t := by
  rcases t with _ | _ | _ | _ | t
  case zero => exact ⟨fp32_sound, rfl⟩
  case succ.zero => exact ⟨bf16_sound, rfl⟩
  case succ.succ.zero => exact ⟨fp8_sound, rfl⟩
  case succ.succ.succ.zero => exact ⟨fp4_sound, rfl⟩
  case succ.succ.succ.succ => omega

/-- A function by type answers patterns of the lane's width, where its floating part answers patterns of the format's. -/
theorem laneFn_lt {ff : FFmt → Nat → Nat → Nat → Nat × Fl} {fb : (w : Nat) → BitVec w → BitVec w → BitVec w → BitVec w}
    (h : ∀ f : FFmt, f.Sound → ∀ a b c, a < 2 ^ f.width → b < 2 ^ f.width → (ff f a b c).1 < 2 ^ f.width)
    {t a b c : Nat} (ha : a < 2 ^ laneBits t) (hb : b < 2 ^ laneBits t) :
    (Claims.laneFn ff fb t a b c).1 < 2 ^ laneBits t := by
  unfold Claims.laneFn
  by_cases h4 : t < 4
  · obtain ⟨hs, hw⟩ := laneFmt_sound h4
    rw [← hw] at ha hb ⊢
    simpa [h4] using h _ hs a b c ha hb
  · simpa [h4] using BitVec.isLt _

theorem mask_lt (n : Nat) (c : Bool) : (if c then 2 ^ n - 1 else 0) < 2 ^ n :=
  ite_lt (Nat.sub_lt (Nat.two_pow_pos n) Nat.one_pos) (Nat.two_pow_pos n)

/-- Every function of Table 7.2 answers a pattern of the lane's width. -/
theorem vecLane_lt {i : Instr} {x : FmtV} {f : LaneFn} (h : Claims.vecLane i = some (x, f)) {t a b c : Nat}
    (ha : a < 2 ^ laneBits t) (hb : b < 2 ^ laneBits t) : (f t a b c).1 < 2 ^ laneBits t := by
  unfold Claims.vecLane at h
  split at h <;> cases h
  case h_1 | h_2 | h_3 | h_4 => exact laneFn_lt (fun f hf _ _ _ _ _ => hf.finish_lt _ _) ha hb
  case h_5 => exact laneFn_lt (fun f hf _ _ _ hx hy => hf.min_lt hx hy) ha hb
  case h_6 => exact laneFn_lt (fun f hf _ _ _ hx hy => hf.max_lt hx hy) ha hb
  case h_7 => exact laneFn_lt (fun f hf _ _ _ _ _ => hf.absBits_lt _) ha hb
  case h_8 => exact laneFn_lt (fun f hf _ _ _ _ _ => hf.negBits_lt _) ha hb
  case h_9 => exact Nat.and_lt_two_pow _ hb
  case h_10 => exact Nat.or_lt_two_pow ha hb
  case h_11 => exact Nat.xor_lt_two_pow ha hb
  case h_12 => exact Nat.mod_lt _ (Nat.two_pow_pos _)
  case h_13 => exact Nat.lt_of_le_of_lt (Nat.div_le_self _ _) ha
  case h_14 => exact BitVec.isLt _
  case h_15 | h_16 => exact mask_lt _ _

/-! ### The instructions -/

theorem vecLanes_byType {i : Instr} {x : FmtV} {s : State} {ff : FFmt → Nat → Nat → Nat → Nat × Fl}
    {fi : Nat → Int → Int → Int → Int} {fb : (w : Nat) → BitVec w → BitVec w → BitVec w → BitVec w}
    (h : ∀ w (a b c : BitVec w), BitVec.ofInt w (fi w a.toInt b.toInt c.toInt) = fb w a b c) :
    vecLanes i x (byType ff fi) s = vecLanes i x (Claims.laneFn ff fb) s := by rw [byType_eq_laneFn h]

theorem vecLanes1_byType {i : Instr} {x : FmtV} {s : State} {ff : FFmt → Nat → Nat → Nat → Nat × Fl}
    {fi : Nat → Int → Int → Int → Int} {fb : (w : Nat) → BitVec w → BitVec w → BitVec w → BitVec w}
    (h : ∀ w (a b c : BitVec w), BitVec.ofInt w (fi w a.toInt b.toInt c.toInt) = fb w a b c) :
    vecLanes1 i x (byType ff fi) s = vecLanes1 i x (Claims.laneFn ff fb) s := by rw [byType_eq_laneFn h]

theorem execVecSra_eq (x : FmtV) (s : State) : execVecSra x s = vecLanes (.vecSra x) x
    (fun t a b _ => (((BitVec.ofNat (laneBits t) a).sshiftRight (b % laneBits t)).toNat, 0)) s := by
  simp only [execVecSra, wrapTo_laneInt_div (laneBits_pos _)]

theorem execVecClt_eq (x : FmtV) (s : State) : execVecClt x s = vecLanes (.vecClt x) x
    (fun t a b _ => (if (if t < 4 then ((laneFmt t).decode a).lt ((laneFmt t).decode b)
      else (BitVec.ofNat (laneBits t) a).slt (BitVec.ofNat (laneBits t) b)) then 2 ^ laneBits t - 1 else 0, 0)) s := by
  simp only [execVecClt, maskLane, laneInt_lt_laneInt (laneBits_pos _)]

/-- Each function of Table 7.2 is executed by the shape for three registers, or by the one for one source when it looks at
lane a alone. -/
theorem exec_eq_of_vecLane {i : Instr} {x : FmtV} {f : LaneFn} (h : Claims.vecLane i = some (x, f)) :
    (∀ s, exec i s = vecLanes i x f s) ∨
      (∀ s, exec i s = vecLanes1 i x f s) ∧ ∀ t a b c, f t a b c = f t a 0 0 := by
  unfold Claims.vecLane at h
  split at h <;> cases h
  case h_1 => exact .inl fun s => vecLanes_byType ofInt_add_toInt
  case h_2 => exact .inl fun s => vecLanes_byType ofInt_sub_toInt
  case h_3 => exact .inl fun s => vecLanes_byType ofInt_mul_toInt
  case h_4 => exact .inl fun s => vecLanes_byType ofInt_fma_toInt
  case h_5 => exact .inl fun s => vecLanes_byType fun _ a b _ => ofInt_min_toInt a b
  case h_6 => exact .inl fun s => vecLanes_byType fun _ a b _ => ofInt_max_toInt a b
  case h_7 => exact .inr ⟨fun s => vecLanes1_byType fun _ a _ _ => ofInt_natAbs_toInt a, fun _ _ _ _ => rfl⟩
  case h_8 => exact .inr ⟨fun s => vecLanes1_byType fun _ a _ _ => ofInt_neg_toInt a, fun _ _ _ _ => rfl⟩
  case h_14 => exact .inl fun s => execVecSra_eq _ s
  case h_16 => exact .inl fun s => execVecClt_eq _ s
  case h_9 | h_10 | h_11 | h_12 | h_13 | h_15 => exact .inl fun s => rfl

/-- A vector register that is not pending is read. -/
theorem rdV_go {s : State} {slot n : Nat} (q : Reading) (h : (s.slot slot).isPending (32 + n) = false) :
    (rdV n).go (ctx slot s q) = (.ok ((s.slot slot).vreg n), ctx slot s q) := by
  simp [rdV, h]

/-- A vector register that is not pending can be written. -/
theorem prepV_go {s : State} {slot n : Nat} (q : Reading) (h : (s.slot slot).isPending (32 + n) = false) :
    (prepV n).go (ctx slot s q) = (.ok (), ctx slot s q) := by
  simp [prepV, h]

section
variable {i : Instr} {s : State} (hi : Issues i s) (hp : ∀ c, (s.slot s.cur).isPending c = false)
include hi hp

/-- A lane-by-lane instruction of three registers answers its lanes and flags. -/
theorem vecLanes_next (x : FmtV) (f : LaneFn) :
    let r := lanewise f x.t.toNat ((s.slot s.cur).vreg x.a.toNat) ((s.slot s.cur).vreg x.b.toNat)
      ((s.slot s.cur).vreg x.d.toNat)
    vecLanes i x f s = .next (((s.onSlot s.cur (fun z => z.setV x.d.toNat
      (vecOfLanes (laneBits x.t.toNat) (r.map Prod.fst)))).flagged s.cur (orFlags r)).retired s.cur i.enc.len {}) :=
  runInstr_retired hi (by simp [rdV_go _ (hp _), wrV])

/-- One of a single source answers the same, where its function looks at lane a alone. -/
theorem vecLanes1_next (x : FmtV) {f : LaneFn} (hf : ∀ t a b c, f t a b c = f t a 0 0) :
    let r := lanewise f x.t.toNat ((s.slot s.cur).vreg x.a.toNat) ((s.slot s.cur).vreg x.b.toNat)
      ((s.slot s.cur).vreg x.d.toNat)
    vecLanes1 i x f s = .next (((s.onSlot s.cur (fun z => z.setV x.d.toNat
      (vecOfLanes (laneBits x.t.toNat) (r.map Prod.fst)))).flagged s.cur (orFlags r)).retired s.cur i.enc.len {}) := by
  intro r
  have hr : r = lanewise f x.t.toNat ((s.slot s.cur).vreg x.a.toNat) 0 0 := by
    refine List.map_congr_left fun j _ => ?_
    dsimp only
    rw [hf, hf _ _ (vget 0 _ _)]
  rw [hr]
  exact runInstr_retired hi (by simp [rdV_go _ (hp _), prepV_go _ (hp _), wrV])

end

/-- Settles O20: each function of Table 7.2 is executed by one of the two lane-by-lane shapes with the function claimed,
whose patterns fit their lanes, so that the register made from them holds each as its lane. -/
theorem vectorLanesResult : Obligations.VectorLanesResult := by
  intro i s x f hfn hi hp y t w r
  refine ⟨_, ?_, fun j hj => vget_vecOfLanes_lanewise (a := y.vreg x.a.toNat) (b := y.vreg x.b.toNat)
    (c := y.vreg x.d.toNat) (vecLane_lt hfn) hj⟩
  rw [← orFlags_lanewise f]
  rcases exec_eq_of_vecLane hfn with hexec | ⟨hexec, hone⟩
  · rw [hexec, vecLanes_next hi hp]
  · rw [hexec, vecLanes1_next hi hp x hone]

end Sys2Proof.Machine
end

section
/-!
SUPPORT. A plain `vst` of FP4 blocks of which a reserved word holds a part, but not the first byte: the block waits behind
the reservation (R146, R168).
-/

namespace Sys2Proof.Machine

/-- The fields of `vst.c.fp4 v2, g1, g0`: block i is lane i of v3, its scale, and 32 nibbles of v2. -/
def blockStore : FmtV := ⟨2, 1, 0, 0, 3⟩

/-- A wick with g1 at the start of its cluster's scratchpad and the scale word 1 for block 0. -/
def blockWick : Slot := { occ := true, g := [(1, nearVa 0)], v := [(3, 1)] }

/-- The physical address of an offset in the scratchpad of the wick's cluster. -/
def blockPa (off : Nat) : Nat := scratchPa (clusterOf State.resetSlot) off

/-- An atomic add to the second word of the scratchpad, by a slot of another core. -/
def secondWordAdd : PeerReq :=
  { src := State.resetSlot + 8, pc := 0, asid := 0, wick := 1, pa := blockPa 8, n := 8, kind := .atomic 0, v := 0, v2 := 0,
    flight := none, dst := .none }

/-- That atomic holds the reservation of its word: bytes 8 to 15, of the 20 bytes of block 0. -/
def secondWordReserved : State :=
  { State.reset with
    slots := [(State.resetSlot, blockWick)]
    resv := [⟨resvWord secondWordAdd.pa, [secondWordAdd]⟩] }

/-- The blocks' translations: the near window, 20 bytes apart. -/
def blockXlats : List Xlat := (List.range 8).map (fun i => ⟨nearVa (20 * i), blockPa (20 * i), false, true⟩)

theorem issues_blockStore : Issues (.vstC blockStore) secondWordReserved := by
  unfold Issues
  decide

theorem translated_blocks :
    Claims.translated State.resetSlot .store secondWordReserved (Claims.laneVas 3 false (nearVa 0) 0) blockXlats
      secondWordReserved := by
  have hvas : Claims.laneVas 3 false (nearVa 0) 0 = blockXlats.map (fun u => u.va) := by decide +kernel
  have hall : ∀ u ∈ blockXlats, secondWordReserved.xlate (coreOf State.resetSlot) true blockWick.user blockWick.asid .store u.va =
      (.ok u, secondWordReserved) := by decide +kernel
  rw [hvas]
  revert hall
  generalize blockXlats = us
  induction us with
  | nil => exact fun _ => rfl
  | cons u us ih =>
    exact fun hall => ⟨_, hall u (List.mem_cons_self ..), ih fun w hw => hall w (List.mem_cons_of_mem _ hw)⟩

theorem lanesPass_blocks : Claims.lanesPass secondWordReserved State.resetSlot .store 20 4 false blockXlats := by
  unfold Claims.lanesPass
  decide +kernel

/-- No reserved word holds the first byte of a block. -/
theorem unreserved_blocks : ∀ u ∈ blockXlats, secondWordReserved.reserved u.pa = false := by decide +kernel

/-- The model queues block 0, so that its first byte stays 0. -/
theorem byte_blockStore : ∀ z, exec (.vstC blockStore) secondWordReserved = .next z → z.byte (blockPa 0) = 0 := by
  intro z hz
  have hrun : (match exec (.vstC blockStore) secondWordReserved with | .next u => u.byte (blockPa 0) | _ => 0) = 0 := by
    decide +kernel
  rwa [hz] at hrun

/-- The blocks stored in order put the scale's low byte there. -/
theorem byte_storedBlocks :
    (((List.range blockXlats.length).zip blockXlats).foldl (fun st e =>
      if peerOf State.resetSlot e.2.pa = none then
        st.storeHome (clusterOf State.resetSlot) e.2.pa (e.2.width 20) (Claims.storedLane blockWick 2 3 e.1 e.2.tol)
      else st) secondWordReserved).byte (blockPa 0) = 1 := by decide +kernel

/-- Refutes O23: the statement asks of a plain store only that no lane's first byte lies in a reserved word. An FP4 block of
20 bytes also touches the words that follow; with the second of them reserved the model queues the block behind the
reservation (R146, R168), and its bytes are not those of the stores performed in lane order. -/
theorem not_vectorMemoryAndGathers : ¬ Obligations.VectorMemoryAndGathers := by
  intro h
  obtain ⟨z, hz, -, -, -, -, -, -, hbytes, -⟩ :=
    h.1 (.vstC blockStore) secondWordReserved secondWordReserved blockStore false false false (nearVa 0) 0 {} {} blockXlats
      rfl issues_blockStore (fun _ => rfl) rfl rfl translated_blocks lanesPass_blocks nofun
      (fun _ _ u hu _ => unreserved_blocks u hu)
  have hstored := (hbytes rfl rfl (blockPa 0)).trans byte_storedBlocks
  rw [byte_blockStore z hz] at hstored
  exact absurd hstored (by decide)

end Sys2Proof.Machine
end

section
/-!
SUPPORT. What leaves memory alone: each function of the model on states, and each part of an instruction's or a
request's body, that stores nothing (spec 08_scratchpad.md, R149).
-/

namespace Sys2Proof.Machine

/-! ### What leaves memory alone -/

/-- A fold of updates that leave memory alone leaves it alone. -/
@[simp] theorem State.foldl_mem {α : Type} (f : State → α → State) (h : ∀ s a, (f s a).mem = s.mem) (l : List α)
    (s : State) : (l.foldl f s).mem = s.mem := by
  induction l generalizing s with
  | nil => rfl
  | cons a l ih => rw [List.foldl_cons, ih, h]
@[simp] theorem State.ite_mem (p : Prop) [Decidable p] (s t : State) :
    (if p then s else t).mem = if p then s.mem else t.mem := apply_ite State.mem p s t
@[simp] theorem State.foldl_serve_mem {α : Type} (g : α → Nat) (b : Bool) (l : List α) (s : State) :
    (l.foldl (fun s a => s.serve (g a) b) s).mem = s.mem := by simp

section
variable {P : State → Prop} {α β : Type}

/-! ### Bodies of an engine's requests -/

/-- Run a request's body on a state. -/
def EM.go (m : EM α) (s : State) : Except EStop α × State := (m.run).run s

/-- A request's body keeps a property of the state, however it ends. -/
def EM.Keeps (P : State → Prop) (m : EM α) : Prop := ∀ s, P s → P (m.go s).2

theorem EM.go_bind (m : EM α) (f : α → EM β) (s : State) :
    (m >>= f).go s = match m.go s with
      | (.ok a, s1) => (f a).go s1
      | (.error e, s1) => (.error e, s1) := by
  change (ExceptT.run (ExceptT.bind m f) s).run = _
  simp only [EM.go, ExceptT.run, ExceptT.bind, ExceptT.mk, ExceptT.bindCont, StateT.bind, bind, Id.run, StateT.run]
  rcases m s with ⟨_ | _, _⟩ <;> rfl

theorem EM.keeps_pure (a : α) : EM.Keeps P (pure a : EM α) := fun _ h => h
theorem EM.keeps_bind {m : EM α} {f : α → EM β} (hm : EM.Keeps P m) (hf : ∀ a, EM.Keeps P (f a)) :
    EM.Keeps P (m >>= f) := by
  intro s h
  have hm := hm s h
  rw [EM.go_bind]
  rcases hr : m.go s with ⟨_ | a, s1⟩ <;> rw [hr] at hm
  · exact hm
  · exact hf a s1 hm
theorem EM.keeps_throw (e : EStop) : EM.Keeps P (throw e : EM α) := fun _ h => h
theorem EM.keeps_state : EM.Keeps P EM.state := fun _ h => h
theorem EM.keeps_upd {f : State → State} (hf : ∀ s, P s → P (f s)) : EM.Keeps P (EM.upd f) := fun s h => hf s h
theorem EM.keeps_set {s : State} (hs : P s) : EM.Keeps P (set s : EM PUnit) := fun _ _ => hs
/-- A body that reads the state first: what follows may use that the property holds of what was read. -/
theorem EM.keeps_state_bind {f : State → EM β} (hf : ∀ s, P s → EM.Keeps P (f s)) : EM.Keeps P (EM.state >>= f) :=
  fun s h => hf s h s h
theorem EM.keeps_ite (p : Prop) [Decidable p] {m n : EM α} (hm : EM.Keeps P m) (hn : EM.Keeps P n) :
    EM.Keeps P (if p then m else n) := by split <;> assumption
theorem EM.keeps_forM {f : α → EM PUnit} (hf : ∀ a, EM.Keeps P (f a)) (l : List α) : EM.Keeps P (l.forM f) := by
  induction l with
  | nil => exact EM.keeps_pure _
  | cons a l ih => exact EM.keeps_bind (hf a) fun _ => ih
theorem EM.keeps_mapM {f : α → EM β} (hf : ∀ a, EM.Keeps P (f a)) (l : List α) : EM.Keeps P (l.mapM f) := by
  induction l with
  | nil => exact EM.keeps_pure _
  | cons a l ih =>
    rw [List.mapM_cons]
    exact EM.keeps_bind (hf a) fun _ => EM.keeps_bind ih fun _ => EM.keeps_pure _

/-! ### Bodies that loop or catch -/

theorem keeps_forM {f : α → M PUnit} (hf : ∀ a, M.Keeps P (f a)) (l : List α) : M.Keeps P (l.forM f) := by
  induction l with
  | nil => exact keeps_pure _
  | cons a l ih => exact keeps_bind (hf a) fun _ => ih
theorem keeps_mapM {f : α → M β} (hf : ∀ a, M.Keeps P (f a)) (l : List α) : M.Keeps P (l.mapM f) := by
  induction l with
  | nil => exact keeps_pure _
  | cons a l ih =>
    rw [List.mapM_cons]
    exact keeps_bind (hf a) fun _ => keeps_bind ih fun _ => keeps_pure _
/-- What follows a stop that is caught. -/
theorem M.go_tryCatch (m : M α) (f : Stop → M α) (c : Ctx) :
    (tryCatch m f).go c = match m.go c with
      | (.ok a, c1) => (.ok a, c1)
      | (.error e, c1) => (f e).go c1 := by
  change (ExceptT.run (ExceptT.tryCatch m f) c).run = _
  simp only [M.go, ExceptT.run, ExceptT.tryCatch, ExceptT.mk, StateT.bind, bind, Id.run]
  rcases m c with ⟨_ | _, _⟩ <;> rfl
theorem keeps_tryCatch {m : M α} {f : Stop → M α} (hm : M.Keeps P m) (hf : ∀ e, M.Keeps P (f e)) :
    M.Keeps P (tryCatch m f) := by
  intro c h
  have hm := hm c h
  rw [M.go_tryCatch]
  rcases hr : m.go c with ⟨e | a, c1⟩ <;> rw [hr] at hm
  · exact hf e c1 hm
  · exact hm
/-- A home's service changes no memory. -/
theorem keeps_serve_mem {Q : List Host.Cell → Prop} (pa : Nat) (g : Bool) :
    M.Keeps (fun s => Q s.mem) (modS fun s => s.serve pa g) := keeps_modS fun s h => by rwa [State.serve_mem]
end

/-! ### Function by function -/

@[simp] theorem State.wakeCluster_mem (s : State) (ck : Nat) (w : Wait) : (s.wakeCluster ck w).mem = s.mem := rfl
@[simp] theorem State.wakeDev_mem (s : State) (dev : Nat) (w : Wait) : (s.wakeDev dev w).mem = s.mem := rfl
@[simp] theorem State.releaseWords_mem (s : State) (slot wick : Nat) : (s.releaseWords slot wick).mem = s.mem := rfl
@[simp] theorem State.postIrq_mem (s : State) (corek cause : Nat) (v : Word) :
    (s.postIrq corek cause v).mem = s.mem :=
  rfl
@[simp] theorem State.failOut_mem (s : State) (slot cause : Nat) (pc : Word) :
    (s.failOut slot cause pc).mem = s.mem := by
  simp [State.failOut]
@[simp] theorem State.reserveTaken_mem (s : State) (slot n : Nat) : (s.reserveTaken slot n).mem = s.mem := rfl
@[simp] theorem State.logError_mem (s : State) (slot cause addr : Nat) : (s.logError slot cause addr).mem = s.mem :=
  rfl
@[simp] theorem State.loseRow_mem (s : State) (pa : Nat) : (s.loseRow pa).mem = s.mem := rfl
@[simp] theorem State.machineError_mem (s : State) (slot cause addr : Nat) (pc : Word) :
    (s.machineError slot cause addr pc).mem = s.mem := by
  simp [State.machineError]
@[simp] theorem State.writeRegAt_mem (s : State) (cycle slot code : Nat) (v : Word) :
    (s.writeRegAt cycle slot code v).mem = s.mem := by
  unfold State.writeRegAt
  split
  · rfl
  · split
    · rfl
    · split
      · rfl
      · split <;> rfl
theorem keeps_flagM_mem {Q : List Host.Cell → Prop} (f : Fl) : M.Keeps (fun s => Q s.mem) (flagM f) := by
  unfold flagM
  exact keeps_bind keeps_here fun _ => keeps_ite _ (keeps_pure _) (keeps_modS fun _ h => h)
theorem keeps_result_mem {Q : List Host.Cell → Prop} (d : BitVec 5) (v : Word) (f : Fl) :
    M.Keeps (fun s => Q s.mem) (result d v f) := by
  unfold result
  exact keeps_bind (keeps_prepDst _) fun _ => keeps_bind (keeps_wr_mem _ _) fun _ =>
    keeps_bind (keeps_flagM_mem _) fun _ => keeps_pure _
@[simp] theorem State.sysWrite_mem (s : State) (slot sel : Nat) (v : Word) : (s.sysWrite slot sel v).mem = s.mem := by
  simp [State.sysWrite]
@[simp] theorem State.compareMark_mem (s : State) (die : Nat) : (s.compareMark die).mem = s.mem := by
  unfold State.compareMark
  split <;> simp
@[simp] theorem State.setMark_mem (s : State) (die v : Nat) : (s.setMark die v).mem = s.mem := by simp [State.setMark]
theorem keeps_jmpTarget_mem {Q : List Host.Cell → Prop} (i : Instr) (x : FmtA) :
    M.Keeps (fun s => Q s.mem) (jmpTarget i x) := by
  unfold jmpTarget
  exact keeps_bind (keeps_rd _) fun _ => keeps_bind (keeps_rd _) fun _ => keeps_bind (keeps_needM _ _ _) fun _ =>
    keeps_pure _
@[simp] theorem State.useEntry_mem (s : State) (ck : Nat) (corek : Option Nat) (e : TlbEntry) (inMicro : Bool)
    (va : Nat) :
    (s.useEntry ck corek e inMicro va).mem = s.mem := by
  unfold State.useEntry
  dsimp only
  split <;> simp
@[simp] theorem State.lookup_mem (s : State) (ck : Nat) (co : Option Nat) (asid : BitVec 9) (va : Nat) :
    (s.lookup ck co asid va).2.mem = s.mem := by
  obtain ⟨cl, ks, h⟩ := s.lookup_frame ck co asid va
  rw [h]
@[simp] theorem State.xlate_mem (s : State) (corek : Nat) (micro user : Bool) (asid : BitVec 9) (k : XKind)
  (va : Word) :
    (s.xlate corek micro user asid k va).2.mem = s.mem := by
  obtain ⟨cl, ks, h⟩ := s.xlate_frame corek micro user asid k va
  rw [h]
@[simp] theorem State.enqMiss_mem (s : State) (ck : Nat) (asid : BitVec 9) (va kind : Nat)
  (slot gather : Option Nat) :
    (s.enqMiss ck asid va kind slot gather).1.mem = s.mem := by
  unfold State.enqMiss
  dsimp only
  split
  · rfl
  · split <;> rfl
theorem keeps_missM_mem {Q : List Host.Cell → Prop} {α : Type} (k : XKind) (va : Word) :
    M.Keeps (fun s => Q s.mem) (missM (α := α) k va) := by
  unfold missM
  exact keeps_bind keeps_here fun _ => keeps_bind keeps_slotM fun _ => keeps_bind (keeps_modS fun _ h =>
    by simpa using h) fun _ => keeps_waitM _
theorem keeps_xlateM_mem {Q : List Host.Cell → Prop} (k : XKind) (va : Word) :
    M.Keeps (fun s => Q s.mem) (xlateM k va) := by
  unfold xlateM
  refine keeps_bind keeps_here fun _ => keeps_bind keeps_slotM fun _ => keeps_getS_bind fun _ h =>
    keeps_bind (keeps_setS (by simpa using h)) fun _ => ?_
  split
  · exact keeps_pure _
  · exact keeps_trapM _ _
  · exact keeps_missM_mem _ _
theorem keeps_checkM_mem {Q : List Host.Cell → Prop} (k : XKind) (n : Nat) (tolOk : Bool) (t : Xlat) :
    M.Keeps (fun s => Q s.mem) (checkM k n tolOk t) := by
  unfold checkM
  refine keeps_bind keeps_here fun _ => keeps_bind keeps_slotM fun _ => keeps_bind keeps_getS fun _ =>
    keeps_bind (keeps_needM _ _ _) fun _ => keeps_bind (keeps_needM _ _ _) fun _ =>
    keeps_bind (keeps_needM _ _ _) fun _ => ?_
  split
  · exact keeps_trapM _ _
  · exact keeps_pure _
theorem keeps_accessM_mem {Q : List Host.Cell → Prop} (k : XKind) (n : Nat) (tolOk : Bool) (va : Word) :
    M.Keeps (fun s => Q s.mem) (accessM k n tolOk va) := by
  unfold accessM
  exact keeps_bind (keeps_xlateM_mem _ _) fun _ => keeps_bind (keeps_checkM_mem _ _ _ _) fun _ => keeps_pure _
theorem keeps_readyM_mem {Q : List Host.Cell → Prop} (pa : Nat) : M.Keeps (fun s => Q s.mem) (readyM pa) := by
  unfold readyM
  refine keeps_bind keeps_here fun _ => keeps_bind keeps_getS fun _ => ?_
  split
  · exact keeps_pure _
  · exact keeps_pure _
  · exact keeps_waitM _
  · exact keeps_failM _ _
@[simp] theorem State.visit_mem (s : State) (ck core : Nat) : (s.visit ck core).mem = s.mem := by simp [State.visit]
@[simp] theorem State.askTurn_mem (s : State) (slot n : Nat) : (s.askTurn slot n).mem = s.mem := by
  simp [State.askTurn]
theorem keeps_turnM_mem {Q : List Host.Cell → Prop} (pas : List Nat) : M.Keeps (fun s => Q s.mem) (turnM pas) := by
  unfold turnM
  exact keeps_bind keeps_here fun _ => keeps_bind keeps_getS fun _ => keeps_ite _ (keeps_modS fun _ h =>
    by simpa using h) (keeps_bind (keeps_modS fun _ h => by simpa using h) fun _ => keeps_waitM _)
theorem keeps_oobM_mem {Q : List Host.Cell → Prop} (t : Xlat) (wr : Bool) :
    M.Keeps (fun s => Q s.mem) (oobM t wr) := by
  unfold oobM
  exact keeps_bind (keeps_turnM_mem _) fun _ => keeps_ite _ (keeps_pure _) (keeps_onSlotM fun _ _ h => h)
theorem keeps_errorsM_mem {Q : List Host.Cell → Prop} (pa : Nat) (n : Nat) :
    M.Keeps (fun s => Q s.mem) (errorsM pa n) := by
  unfold errorsM
  refine keeps_bind keeps_getS fun _ => ?_
  split
  · exact keeps_failM _ _
  · exact keeps_pure _
@[simp] theorem State.acquiredAt_mem (s : State) (slot sc pa : Nat) : (s.acquiredAt slot sc pa).mem = s.mem := by
  unfold State.acquiredAt
  split <;> simp
@[simp] theorem State.repairRow_mem (s : State) (pa : Nat) : (s.repairRow pa).mem = s.mem := by
  unfold State.repairRow
  split <;> simp
@[simp] theorem State.lineHere_mem (s : State) (slot pa : Nat) (turned : Bool) :
    (s.lineHere slot pa turned).mem = s.mem := by
  simp [State.lineHere]
theorem keeps_requestM_mem {Q : List Host.Cell → Prop} (k : AccKind) (t : Xlat) (n : Nat) (v : Nat) (v2 : Nat)
    (flight : Option Nat) (dst : RegDst) :
    M.Keeps (fun s => Q s.mem) (requestM k t n v v2 flight dst) := by
  unfold requestM
  exact keeps_bind keeps_here fun _ => keeps_bind keeps_slotM fun _ => keeps_pure _
theorem keeps_keepM_mem {Q : List Host.Cell → Prop} (regs : List Nat) : M.Keeps (fun s => Q s.mem) (keepM regs) := by
  unfold keepM
  exact keeps_onSlotM fun _ _ h => h
theorem keeps_peerLineM_mem {Q : List Host.Cell → Prop} {α : Type} (k : AccKind) (t : Xlat) (v : Nat) :
    M.Keeps (fun s => Q s.mem) (peerLineM (α := α) k t v) := by
  unfold peerLineM
  exact keeps_bind keeps_slotM fun _ => keeps_ite _ (keeps_bind (keeps_keepM_mem _) fun _ =>
    keeps_bind (keeps_oobM_mem _ _) fun _ => keeps_bind (keeps_requestM_mem _ _ _ _ _ _ _) fun _ =>
    keeps_bind (keeps_modS fun _ h => h) fun _ => keeps_bind (keeps_onSlotM fun _ _ h => h) fun _ =>
    keeps_waitM _) (keeps_bind (keeps_oobM_mem _ _) fun _ => keeps_bind (keeps_requestM_mem _ _ _ _ _ _ _) fun _ =>
    keeps_bind (keeps_modS fun _ h => h) fun _ => keeps_bind (keeps_onSlotM fun _ _ h => h) fun _ => keeps_waitM _)
theorem keeps_readLineM_mem {Q : List Host.Cell → Prop} (va : Word) : M.Keeps (fun s => Q s.mem) (readLineM va) := by
  unfold readLineM
  refine keeps_bind keeps_here fun _ => keeps_bind (keeps_accessM_mem _ _ _ _) fun _ =>
    keeps_bind keeps_slotM fun _ => ?_
  split
  · exact keeps_pure _
  · exact keeps_bind (keeps_readyM_mem _) fun _ => keeps_ite _ (keeps_bind (keeps_peerLineM_mem _ _ _) fun _ =>
      keeps_bind keeps_getS fun _ => keeps_bind (keeps_oobM_mem _ _) fun _ =>
      keeps_bind (keeps_errorsM_mem _ _) fun _ => keeps_bind keeps_getS fun _ => keeps_bind (keeps_modS fun _ h =>
      by simpa using h) fun _ => keeps_pure _) (keeps_bind keeps_getS fun _ =>
      keeps_bind (keeps_oobM_mem _ _) fun _ => keeps_bind (keeps_errorsM_mem _ _) fun _ =>
      keeps_bind keeps_getS fun _ => keeps_bind (keeps_modS fun _ h => by simpa using h) fun _ => keeps_pure _)
theorem keeps_linesDoneM_mem {Q : List Host.Cell → Prop}  : M.Keeps (fun s => Q s.mem) (linesDoneM ) := by
  unfold linesDoneM
  exact keeps_onSlotM fun _ _ h => h
theorem keeps_latchM_mem {Q : List Host.Cell → Prop}  : M.Keeps (fun s => Q s.mem) (latchM ) := by
  unfold latchM
  refine keeps_bind keeps_slotM fun _ => ?_
  split
  · exact keeps_throw _
  · exact keeps_pure _
theorem keeps_releaseM_mem {Q : List Host.Cell → Prop} (sc : Nat) (only : Option Nat) (loads : Bool)
    (stores : Bool) (held : Bool) :
    M.Keeps (fun s => Q s.mem) (releaseM sc only loads stores held) := by
  unfold releaseM
  exact keeps_bind keeps_here fun _ => keeps_bind keeps_getS fun _ =>
    keeps_ite _ (keeps_bind (keeps_waitM _) fun _ => keeps_ite _ (keeps_bind keeps_getS fun _ =>
    keeps_ite _ (keeps_bind (keeps_waitM _) fun _ => keeps_latchM_mem) keeps_latchM_mem) (keeps_pure _)) (keeps_ite _
    (keeps_bind keeps_getS fun _ => keeps_ite _ (keeps_bind (keeps_waitM _) fun _ =>
    keeps_latchM_mem) keeps_latchM_mem) (keeps_pure _))
theorem keeps_releaseDevM_mem {Q : List Host.Cell → Prop} (held : Bool) :
    M.Keeps (fun s => Q s.mem) (releaseDevM held) := by
  unfold releaseDevM
  exact keeps_bind keeps_here fun _ => keeps_releaseM_mem _ _ _ _ _
@[simp] theorem State.makeReady_mem (s : State) (die : Nat) (e : RqEntry) : (s.makeReady die e).mem = s.mem := by
  simp [State.makeReady]
@[simp] theorem State.readyWick_mem (s : State) (home : Nat) (w : Wick) (reserved : Bool) :
    (s.readyWick home w reserved).mem = s.mem := by
  simp [State.readyWick]
theorem keeps_suspendM_mem {Q : List Host.Cell → Prop} (pod : Bool) : M.Keeps (fun s => Q s.mem) (suspendM pod) := by
  unfold suspendM
  exact keeps_bind keeps_latchM_mem fun _ => keeps_bind keeps_slotM fun _ =>
    keeps_ite _ (keeps_bind (keeps_waitM _) fun _ => keeps_releaseM_mem _ _ _ _ _) (keeps_releaseM_mem _ _ _ _ _)
theorem keeps_commitReadsM_mem {Q : List Host.Cell → Prop} : M.Keeps (fun s => Q s.mem) commitReadsM := by
  refine keeps_modify fun c h => ?_
  split
  · exact h
  · simpa using h
theorem keeps_leaveM_mem {Q : List Host.Cell → Prop}  : M.Keeps (fun s => Q s.mem) (leaveM ) := by
  unfold leaveM
  exact keeps_bind keeps_here fun _ => keeps_bind (keeps_modS fun _ h => by simpa using h) fun _ => keeps_pure _
theorem keeps_taperOutputM_mem {Q : List Host.Cell → Prop}  : M.Keeps (fun s => Q s.mem) (taperOutputM ) := by
  unfold taperOutputM
  refine keeps_bind keeps_slotM fun _ => ?_
  split
  · exact keeps_bind keeps_getS fun _ => keeps_pure _
  · exact keeps_pure _
theorem keeps_taperEndM_mem {Q : List Host.Cell → Prop}  : M.Keeps (fun s => Q s.mem) (taperEndM ) := by
  unfold taperEndM
  refine keeps_bind keeps_slotM fun _ => ?_
  split
  · exact keeps_modS fun _ h => h
  · exact keeps_pure _
@[simp] theorem State.countRefusal_mem (s : State) (dev dst : Nat) : (s.countRefusal dev dst).mem = s.mem := rfl
@[simp] theorem State.onGrant_mem (s : State) (dev src : Nat) (f : Grant → Grant) :
    (s.onGrant dev src f).mem = s.mem :=
  rfl
@[simp] theorem State.refuse_mem (s : State) (dev src pa : Nat) : (s.refuse dev src pa).mem = s.mem := by
  simp [State.refuse]
theorem keeps_peerTakeM_mem {Q : List Host.Cell → Prop} (k : AccKind) (pa : Nat) (n : Nat) :
    M.Keeps (fun s => Q s.mem) (peerTakeM k pa n) := by
  unfold peerTakeM
  refine keeps_bind keeps_here fun _ => keeps_bind keeps_slotM fun _ => ?_
  split
  · exact keeps_pure _
  · exact keeps_bind keeps_getS fun _ => keeps_ite _ (keeps_pure _) (keeps_bind (keeps_modS fun _ h =>
      by simpa using h) fun _ => keeps_bind (keeps_onSlotM fun _ _ h => h) fun _ => keeps_pure _)
@[simp] theorem State.releasedAt_mem (s : State) (slot sc pa : Nat) (nums : List Nat) :
    (s.releasedAt slot sc pa nums).mem = s.mem := by
  simp [State.releasedAt]
@[simp] theorem State.rewrote_mem (s : State) (pa n : Nat) : (s.rewrote pa n).mem = s.mem := rfl
@[simp] theorem State.launch_mem (s : State) (dev v asid grp : Nat) (seen : List Nat) :
    (s.launch dev v asid grp seen).mem = s.mem := by
  simp [State.launch]
theorem keeps_addressM_mem {Q : List Host.Cell → Prop} (a : Src) (b : Src) :
    M.Keeps (fun s => Q s.mem) (addressM a b) := by
  unfold addressM
  exact keeps_bind (keeps_rd _) fun _ => keeps_bind (keeps_rd _) fun _ => keeps_pure _
theorem keeps_underWayM_mem {Q : List Host.Cell → Prop} (w : Wait) (n : Nat) :
    M.Keeps (fun s => Q s.mem) (underWayM w n) := by
  unfold underWayM
  exact keeps_onSlotM fun _ _ h => h
theorem keeps_errorM_mem {Q : List Host.Cell → Prop} (pa : Nat) : M.Keeps (fun s => Q s.mem) (errorM pa) := by
  unfold errorM
  refine keeps_bind keeps_getS fun _ => ?_
  split
  · exact keeps_failM _ _
  · exact keeps_pure _
theorem keeps_loadM_mem {Q : List Host.Cell → Prop} (d : BitVec 5) (n : Nat) (sx : Bool) (va : Word)
    (acq : Option Nat) :
    M.Keeps (fun s => Q s.mem) (loadM d n sx va acq) := by
  unfold loadM
  refine keeps_bind keeps_here fun _ => keeps_bind (keeps_accessM_mem _ _ _ _) fun _ =>
    keeps_bind (keeps_prepDst _) fun _ => keeps_bind (keeps_readyM_mem _) fun _ =>
    keeps_ite _ (keeps_bind (keeps_keepM_mem _) fun _ => keeps_bind (keeps_oobM_mem _ _) fun _ =>
    ?_) (keeps_bind (keeps_oobM_mem _ _) fun _ => ?_)
  · split
    · exact keeps_bind (keeps_requestM_mem _ _ _ _ _ _ _) fun _ => keeps_bind (keeps_modS fun _ h => h) fun _ =>
        keeps_underWayM_mem _ _
    · refine keeps_bind (keeps_errorM_mem _) fun _ => keeps_bind keeps_getS fun _ =>
        keeps_bind (keeps_modS fun _ h => by simpa using h) fun _ => ?_
      dsimp only
      split
      · exact keeps_bind (keeps_modS fun _ h => by simpa using h) fun _ => keeps_wr_mem _ _
      · exact keeps_wr_mem _ _
  · split
    · exact keeps_bind (keeps_requestM_mem _ _ _ _ _ _ _) fun _ => keeps_bind (keeps_modS fun _ h => h) fun _ =>
        keeps_underWayM_mem _ _
    · refine keeps_bind (keeps_errorM_mem _) fun _ => keeps_bind keeps_getS fun _ =>
        keeps_bind (keeps_modS fun _ h => by simpa using h) fun _ => ?_
      dsimp only
      split
      · exact keeps_bind (keeps_modS fun _ h => by simpa using h) fun _ => keeps_wr_mem _ _
      · exact keeps_wr_mem _ _
theorem keeps_flightRoomM_mem {Q : List Host.Cell → Prop}  : M.Keeps (fun s => Q s.mem) (flightRoomM ) := by
  unfold flightRoomM
  exact keeps_bind keeps_coreM fun _ => keeps_ite _ (keeps_waitM _) (keeps_pure _)
theorem keeps_freshM_mem {Q : List Host.Cell → Prop}  : M.Keeps (fun s => Q s.mem) (freshM ) := by
  unfold freshM
  exact keeps_bind keeps_getS fun _ => keeps_bind (keeps_modS fun _ h => h) fun _ => keeps_pure _
theorem keeps_flyM_mem {Q : List Host.Cell → Prop} (id : Nat) (qs : List PeerReq) (regs : List Nat) :
    M.Keeps (fun s => Q s.mem) (flyM id qs regs) := by
  unfold flyM
  refine keeps_bind keeps_here fun _ => ?_
  split
  · exact keeps_pure _
  · exact keeps_bind (keeps_onSlotM fun _ _ h => h) fun _ => keeps_modS fun _ h => h
theorem keeps_loadRelaxedM_mem {Q : List Host.Cell → Prop} (d : BitVec 5) (n : Nat) (sx : Bool) (va : Word) :
    M.Keeps (fun s => Q s.mem) (loadRelaxedM d n sx va) := by
  unfold loadRelaxedM
  refine keeps_ite _ (keeps_loadM_mem _ _ _ _ _) (keeps_bind keeps_here fun _ =>
    keeps_bind (keeps_accessM_mem _ _ _ _) fun _ => keeps_bind (keeps_prepDst _) fun _ =>
    keeps_bind (keeps_readyM_mem _) fun _ => keeps_bind keeps_flightRoomM_mem fun _ =>
    keeps_bind (keeps_oobM_mem _ _) fun _ => keeps_bind keeps_freshM_mem fun _ =>
    keeps_bind (keeps_requestM_mem _ _ _ _ _ _ _) fun _ => keeps_bind (keeps_flyM_mem _ _ _) fun _ => ?_)
  split
  · exact keeps_modS fun _ h => h
  · exact keeps_modS fun _ h => h
@[simp] theorem State.reserve_mem (s : State) (dev : Nat) (q : PeerReq) : (s.reserve dev q).mem = s.mem := by
  unfold State.reserve
  split <;> simp
theorem keeps_storeRelaxedM_mem {Q : List Host.Cell → Prop} (n : Nat) (v : Word) (va : Word) :
    M.Keeps (fun s => Q s.mem) (storeRelaxedM n v va) := by
  unfold storeRelaxedM
  refine keeps_bind keeps_here fun _ => keeps_bind (keeps_accessM_mem _ _ _ _) fun _ =>
    keeps_bind (keeps_readyM_mem _) fun _ => keeps_bind keeps_flightRoomM_mem fun _ =>
    keeps_bind (keeps_oobM_mem _ _) fun _ => keeps_bind keeps_freshM_mem fun _ =>
    keeps_bind (keeps_requestM_mem _ _ _ _ _ _ _) fun _ => keeps_bind (keeps_flyM_mem _ _ _) fun _ => ?_
  split
  · exact keeps_bind (keeps_onSlotM fun _ _ h => h) fun _ => keeps_modS fun _ h => h
  · exact keeps_bind keeps_getS fun _ => keeps_ite _ (keeps_modS fun _ h => by simpa using h) (keeps_modS fun _ h =>
      h)
theorem keeps_mergeErrorM_mem {Q : List Host.Cell → Prop} (pa : Nat) (n : Nat) :
    M.Keeps (fun s => Q s.mem) (mergeErrorM pa n) := by
  unfold mergeErrorM
  refine keeps_bind keeps_getS fun _ => ?_
  split
  · exact keeps_failM _ _
  · exact keeps_pure _
theorem keeps_atomicAwayM_mem {Q : List Host.Cell → Prop} (q : PeerReq) :
    M.Keeps (fun s => Q s.mem) (atomicAwayM q) := by
  unfold atomicAwayM
  refine keeps_bind keeps_here fun _ => ?_
  split
  · exact keeps_modS fun _ h => h
  · split
    · exact keeps_modS fun _ h => h
    · exact keeps_modS fun _ h => by simpa using h
theorem keeps_fenceM_mem {Q : List Host.Cell → Prop} (sc : Nat) (loads : Bool) (stores : Bool) :
    M.Keeps (fun s => Q s.mem) (fenceM sc loads stores) := by
  unfold fenceM
  exact keeps_bind (keeps_releaseM_mem _ _ _ _ _) fun _ => keeps_pure _
theorem keeps_rdV_mem {Q : List Host.Cell → Prop} (n : Nat) : M.Keeps (fun s => Q s.mem) (rdV n) := by
  unfold rdV
  exact keeps_bind keeps_slotM fun _ => keeps_ite _ (keeps_waitM _) (keeps_pure _)
theorem keeps_wrV_mem {Q : List Host.Cell → Prop} (n : Nat) (v : VWord) : M.Keeps (fun s => Q s.mem) (wrV n v) := by
  unfold wrV
  exact keeps_onSlotM fun _ _ h => h
theorem keeps_prepV_mem {Q : List Host.Cell → Prop} (n : Nat) : M.Keeps (fun s => Q s.mem) (prepV n) := by
  unfold prepV
  exact keeps_bind keeps_slotM fun _ => keeps_ite _ (keeps_waitM _) (keeps_pure _)
theorem keeps_wrGroup_mem {Q : List Host.Cell → Prop} (w : Nat) (base : Nat) (ls : List Nat) (n : Nat) (r : Nat) :
    M.Keeps (fun s => Q s.mem) (wrGroup w base ls n r) := by
  unfold wrGroup
  exact keeps_forM (fun _ => keeps_wrV_mem _ _) _
theorem keeps_xlateLanesM_mem {Q : List Host.Cell → Prop} (k : XKind) (ls : List LaneAcc) :
    M.Keeps (fun s => Q s.mem) (xlateLanesM k ls) := by
  unfold xlateLanesM
  exact keeps_mapM (fun _ => keeps_bind (keeps_xlateM_mem _ _) fun _ => keeps_pure _) _
theorem keeps_checkLanesM_mem {Q : List Host.Cell → Prop} (k : XKind) (tolOk : Bool) (ls : List (LaneAcc × Xlat)) :
    M.Keeps (fun s => Q s.mem) (checkLanesM k tolOk ls) := by
  unfold checkLanesM
  refine keeps_bind keeps_here fun _ => keeps_bind keeps_slotM fun _ => keeps_bind keeps_getS fun _ =>
    keeps_bind (keeps_forM (fun _ => keeps_needM _ _ _) _) fun _ => keeps_bind (keeps_forM (fun _ =>
    keeps_needM _ _ _) _) fun _ => keeps_bind (keeps_forM (fun _ => keeps_needM _ _ _) _) fun _ =>
    keeps_forM (fun _ => ?_) _
  split
  · exact keeps_trapM _ _
  · exact keeps_pure _
theorem keeps_lanesReadyM_mem {Q : List Host.Cell → Prop} (k : AccKind) (ls : List (LaneAcc × Xlat)) :
    M.Keeps (fun s => Q s.mem) (lanesReadyM k ls) := by
  unfold lanesReadyM
  exact keeps_bind (keeps_forM (fun _ => keeps_readyM_mem _) _) fun _ => keeps_bind (keeps_turnM_mem _) fun _ =>
    keeps_bind (keeps_forM (fun _ => keeps_ite _ (keeps_pure _) (keeps_onSlotM fun _ _ h => h)) _) fun _ =>
    keeps_bind keeps_here fun _ => keeps_forM (fun _ => keeps_ite _ (keeps_pure _) (keeps_ite _ (keeps_errorsM_mem _
    _) (keeps_mergeErrorM_mem _ _))) _
theorem keeps_laneReqM_mem {Q : List Host.Cell → Prop} (k : AccKind) (d : Nat) (t : Nat) (flight : Option Nat)
    (p : LaneAcc × Xlat) :
    M.Keeps (fun s => Q s.mem) (laneReqM k d t flight p) := by
  unfold laneReqM
  exact keeps_bind keeps_slotM fun _ => keeps_requestM_mem _ _ _ _ _ _ _
theorem keeps_relaxedLanesM_mem {Q : List Host.Cell → Prop} (k : AccKind) (id : Nat) (qs : List PeerReq)
    (regs : List Nat) :
    M.Keeps (fun s => Q s.mem) (relaxedLanesM k id qs regs) := by
  unfold relaxedLanesM
  exact keeps_bind keeps_here fun _ => keeps_bind (keeps_flyM_mem _ _ _) fun _ =>
    keeps_ite _ (keeps_bind (keeps_modS fun _ h => h) fun _ => keeps_bind (keeps_modS fun _ h => h) fun _ =>
    keeps_ite _ (keeps_onSlotM fun _ _ h => h) (keeps_pure _)) (keeps_bind (keeps_modS fun _ h => h) fun _ =>
    keeps_ite _ (keeps_onSlotM fun _ _ h => h) (keeps_pure _))
@[simp] theorem State.land_mem (s : State) (cycle slot : Nat) (d : RegDst) (v : Nat) :
    (s.land cycle slot d v).mem = s.mem := by
  cases d <;> simp [State.land]
@[simp] theorem State.serveSpan_mem (s : State) (pa n : Nat) : (s.serveSpan pa n).mem = s.mem := by
  simp [State.serveSpan]
theorem keeps_keepLanesM_mem {Q : List Host.Cell → Prop} (ls : List (LaneAcc × Xlat)) (regs : List Nat) :
    M.Keeps (fun s => Q s.mem) (keepLanesM ls regs) := by
  unfold keepLanesM
  exact keeps_bind keeps_here fun _ => keeps_ite _ (keeps_pure _) (keeps_keepM_mem _)
theorem keeps_gatherXlateM_mem {Q : List Host.Cell → Prop} (l : LaneAcc) :
    M.Keeps (fun s => Q s.mem) (gatherXlateM l) := by
  unfold gatherXlateM
  refine keeps_bind keeps_here fun _ => keeps_bind keeps_slotM fun _ => keeps_getS_bind fun _ h => ?_
  dsimp only
  split
  · refine keeps_ite _ (keeps_bind (keeps_onSlotM fun _ _ h => h) fun _ => keeps_bind (keeps_trapM _ _) fun _ =>
      keeps_bind (keeps_setS (by simpa using h)) fun _ => ?_) (keeps_bind (keeps_setS (by simpa using h)) fun _ => ?_)
    · split
      · exact keeps_pure _
      · exact keeps_trapM _ _
      · exact keeps_getS_bind fun _ h => keeps_bind (keeps_setS (by simpa using h)) fun _ =>
          keeps_ite _ (keeps_bind (keeps_waitM _) fun _ => keeps_pure _) (keeps_pure _)
    · split
      · exact keeps_pure _
      · exact keeps_trapM _ _
      · exact keeps_getS_bind fun _ h => keeps_bind (keeps_setS (by simpa using h)) fun _ =>
          keeps_ite _ (keeps_bind (keeps_waitM _) fun _ => keeps_pure _) (keeps_pure _)
  · refine keeps_bind (keeps_setS (by simpa using h)) fun _ => ?_
    split
    · exact keeps_pure _
    · exact keeps_trapM _ _
    · exact keeps_getS_bind fun _ h => keeps_bind (keeps_setS (by simpa using h)) fun _ =>
        keeps_ite _ (keeps_bind (keeps_waitM _) fun _ => keeps_pure _) (keeps_pure _)
theorem keeps_keepCommandM_mem {Q : List Host.Cell → Prop} {α : Type} (o : EngOp) (body : M α)
    (hbody : M.Keeps (fun s => Q s.mem) body) :
    M.Keeps (fun s => Q s.mem) (keepCommandM (α := α) o body) := by
  unfold keepCommandM
  refine keeps_tryCatch hbody fun _ => ?_
  split
  · exact keeps_bind (keeps_onSlotM fun _ _ h => h) fun _ => keeps_waitM _
  · exact keeps_throw _
theorem keeps_vigilXlateM_mem {Q : List Host.Cell → Prop} (va : Word) :
    M.Keeps (fun s => Q s.mem) (vigilXlateM va) := by
  unfold vigilXlateM
  refine keeps_bind keeps_here fun _ => keeps_bind keeps_slotM fun _ => keeps_getS_bind fun _ h => ?_
  dsimp only
  split
  · exact keeps_bind (keeps_setS (by simpa using h)) fun _ => keeps_pure _
  · exact keeps_bind (keeps_xlateM_mem _ _) fun _ => keeps_pure _
theorem keeps_laserM_mem {Q : List Host.Cell → Prop} (o : EngOp) : M.Keeps (fun s => Q s.mem) (laserM o) := by
  unfold laserM
  refine keeps_bind keeps_here fun _ => keeps_bind keeps_slotM fun _ => keeps_getS_bind fun _ h =>
    keeps_bind (keeps_needM _ _ _) fun _ => ?_
  dsimp only
  split
  · exact keeps_bind (keeps_setS (by simpa using h)) fun _ => keeps_missM_mem _ _
  · exact keeps_bind (keeps_setS (by simpa using h)) fun _ => keeps_needM _ _ _
theorem keeps_enqLookupM_mem {Q : List Host.Cell → Prop} (o : EngOp) : M.Keeps (fun s => Q s.mem) (enqLookupM o) := by
  unfold enqLookupM
  exact keeps_ite _ (keeps_bind (keeps_laserM_mem _) fun _ => keeps_ite _ (keeps_bind (keeps_vigilXlateM_mem _) fun
    _ => keeps_pure _) (keeps_pure _)) (keeps_ite _ (keeps_bind (keeps_vigilXlateM_mem _) fun _ =>
    keeps_pure _) (keeps_pure _))
theorem keeps_localErrorsM_mem {Q : List Host.Cell → Prop} (off : Nat) (n : Nat) :
    M.Keeps (fun s => Q s.mem) (localErrorsM off n) := by
  unfold localErrorsM
  exact keeps_bind keeps_here fun _ => keeps_ite _ (keeps_errorsM_mem _ _) (keeps_pure _)
theorem keeps_commandErrorsM_mem {Q : List Host.Cell → Prop} (off : Nat) (o : EngOp) :
    M.Keeps (fun s => Q s.mem) (commandErrorsM off o) := by
  unfold commandErrorsM
  exact keeps_bind keeps_here fun _ => keeps_bind (keeps_localErrorsM_mem _ _) fun _ =>
    keeps_ite _ (keeps_bind (keeps_localErrorsM_mem _ _) fun _ => keeps_ite _ (keeps_bind (keeps_localErrorsM_mem _
    _) fun _ => keeps_ite _ (keeps_localErrorsM_mem _ _) (keeps_pure _)) (keeps_ite _ (keeps_localErrorsM_mem _ _)
    (keeps_pure _))) (keeps_ite _ (keeps_localErrorsM_mem _ _) (keeps_pure _))
theorem keeps_enqCopyM_mem {Q : List Host.Cell → Prop} (i : Instr) (x : FmtE) :
    M.Keeps (fun s => Q s.mem) (enqCopyM i x) := by
  unfold enqCopyM
  refine keeps_bind keeps_here fun _ => keeps_bind keeps_slotM fun _ => keeps_bind (keeps_rd _) fun _ =>
    keeps_bind (keeps_needM _ _ _) fun _ => keeps_bind keeps_getS fun _ => keeps_bind (keeps_needM _ _ _) fun _ =>
    keeps_bind (keeps_commandErrorsM_mem _ _) fun _ => ?_
  dsimp only
  split
  · exact keeps_trapM _ _
  · exact keeps_pure _
theorem keeps_enqM_mem {Q : List Host.Cell → Prop} (i : Instr) (x : FmtE) :
    M.Keeps (fun s => Q s.mem) (enqM i x) := by
  unfold enqM
  refine keeps_bind (keeps_prepDst _) fun _ => keeps_bind keeps_slotM fun _ => ?_
  dsimp only
  split
  · exact keeps_bind (keeps_pure _) fun _ => keeps_keepCommandM_mem _ _ (keeps_enqLookupM_mem _)
  · exact keeps_bind (keeps_enqCopyM_mem _ _) fun _ => keeps_keepCommandM_mem _ _ (keeps_enqLookupM_mem _)
@[simp] theorem State.enqRegister_mem (s : State) (o : EngOp) (rs : List Range) :
    (s.enqRegister o rs).mem = s.mem := by
  simp [State.enqRegister]
@[simp] theorem State.readsDone_mem (s : State) (slot : Nat) : (s.readsDone slot).mem = s.mem := by
  simp [State.readsDone]
theorem keeps_enqFlow_mem {Q : List Host.Cell → Prop} (i : Instr) (x : FmtE) (try_ : Bool) :
    M.Keeps (fun s => Q s.mem) (enqFlow i x try_) := by
  unfold enqFlow
  refine keeps_bind keeps_here fun _ => keeps_bind keeps_slotM fun _ => keeps_bind (keeps_enqM_mem _ _) fun _ =>
    keeps_bind keeps_getS fun _ => ?_
  split
  · exact keeps_trapM _ _
  · exact keeps_bind (keeps_modS fun _ h => by simpa using h) fun _ => keeps_ite _ (keeps_bind (keeps_modS fun _ h =>
      by simpa using h) fun _ => keeps_pure _) (keeps_pure _)
  · exact keeps_ite _ (keeps_bind (keeps_wr_mem _ _) fun _ => keeps_ite _ (keeps_bind (keeps_modS fun _ h =>
      by simpa using h) fun _ => keeps_pure _) (keeps_pure _)) (keeps_bind (keeps_onSlotM fun _ _ h => h) fun _ =>
      keeps_bind (keeps_modS fun _ h => h) fun _ => keeps_waitM _)
theorem keeps_vigilCheckM_mem {Q : List Host.Cell → Prop} (k : XKind) (va : Word) :
    M.Keeps (fun s => Q s.mem) (vigilCheckM k va) := by
  unfold vigilCheckM
  refine keeps_bind keeps_here fun _ => keeps_bind keeps_slotM fun _ => keeps_bind (keeps_xlateM_mem _ _) fun _ =>
    keeps_bind (keeps_needM _ _ _) fun _ => ?_
  split
  · exact keeps_trapM _ _
  · exact keeps_trapM _ _
  · exact keeps_bind (keeps_needM _ _ _) fun _ => keeps_bind keeps_getS fun _ =>
      keeps_bind (keeps_needM _ _ _) fun _ => keeps_pure _
theorem keeps_vigilReadyM_mem {Q : List Host.Cell → Prop} (line : Nat) :
    M.Keeps (fun s => Q s.mem) (vigilReadyM line) := by
  unfold vigilReadyM
  exact keeps_bind (keeps_readyM_mem _) fun _ => keeps_bind (keeps_turnM_mem _) fun _ => keeps_errorM_mem _
@[simp] theorem State.notifyVigil_mem (s : State) (line : Nat) : (s.notifyVigil line).mem = s.mem := rfl
@[simp] theorem State.newEpoch_mem (s : State) (line e : Nat) : (s.newEpoch line e).mem = s.mem := rfl
theorem keeps_vigilM_mem {Q : List Host.Cell → Prop} (k : XKind) (va : Word) :
    M.Keeps (fun s => Q s.mem) (vigilM k va) := by
  unfold vigilM
  exact keeps_bind (keeps_vigilCheckM_mem _ _) fun _ => keeps_bind (keeps_vigilReadyM_mem _) fun _ => keeps_pure _
theorem keeps_readVigilM_mem {Q : List Host.Cell → Prop} (line : Nat) :
    M.Keeps (fun s => Q s.mem) (readVigilM line) := by
  unfold readVigilM
  exact keeps_bind (keeps_errorM_mem _) fun _ => keeps_modS fun _ h => by simpa using h
@[simp] theorem State.setHeld_mem (s : State) (st : VStage) (l : List Arrival) : (s.setHeld st l).mem = s.mem := by
  unfold State.setHeld
  split <;> simp
@[simp] theorem State.hold_mem (s : State) (st : VStage) (a : Arrival) : (s.hold st a).mem = s.mem := by
  simp [State.hold]
theorem keeps_arriveM_mem {Q : List Host.Cell → Prop} (va : Word) (line : Nat) :
    M.Keeps (fun s => Q s.mem) (arriveM va line) := by
  unfold arriveM
  exact keeps_bind keeps_here fun _ => keeps_bind (keeps_releaseDevM_mem _) fun _ =>
    keeps_bind (keeps_readVigilM_mem _) fun _ => keeps_bind keeps_getS fun _ => keeps_bind keeps_slotM fun _ =>
    keeps_bind (keeps_needM _ _ _) fun _ => keeps_bind (keeps_needM _ _ _) fun _ =>
    keeps_ite _ (keeps_bind (keeps_modS fun _ h => by simpa using h) fun _ => keeps_bind (keeps_onSlotM fun _ _ h =>
    h) fun _ => keeps_pure _) (keeps_pure _)
theorem keeps_vigilLoopM_mem {Q : List Host.Cell → Prop} (d : BitVec 5) (line : Nat) (e : Nat) :
    M.Keeps (fun s => Q s.mem) (vigilLoopM d line e) := by
  unfold vigilLoopM
  exact keeps_bind keeps_getS fun _ => keeps_ite _ (keeps_bind (keeps_onSlotM fun _ _ h => h) fun _ =>
    keeps_waitM _) (keeps_bind keeps_here fun _ => keeps_ite _ (keeps_bind (keeps_modS fun _ h =>
    by simpa using h) fun _ => keeps_bind (keeps_onSlotM fun _ _ h => h) fun _ =>
    keeps_bind (keeps_wr_mem _ _) fun _ => keeps_pure _) (keeps_bind (keeps_onSlotM fun _ _ h => h) fun _ =>
    keeps_bind (keeps_wr_mem _ _) fun _ => keeps_pure _))
theorem keeps_noticedM_mem {Q : List Host.Cell → Prop} (d : BitVec 5) (first : M Flow)
    (hfirst : M.Keeps (fun s => Q s.mem) first) :
    M.Keeps (fun s => Q s.mem) (noticedM d first) := by
  unfold noticedM
  refine keeps_bind keeps_slotM fun _ => ?_
  split
  · exact keeps_bind (keeps_turnM_mem _) fun _ => keeps_bind (keeps_readVigilM_mem _) fun _ =>
      keeps_vigilLoopM_mem _ _ _
  · exact hfirst
theorem keeps_awaitM_mem {Q : List Host.Cell → Prop} (d : BitVec 5) (va : Word) (line : Nat) :
    M.Keeps (fun s => Q s.mem) (awaitM d va line) := by
  unfold awaitM
  exact keeps_bind (keeps_readVigilM_mem _) fun _ => keeps_bind keeps_getS fun _ =>
    keeps_bind (keeps_needM _ _ _) fun _ => keeps_vigilLoopM_mem _ _ _
@[simp] theorem State.vigilOpens_mem (s : State) (line : Nat) : (s.vigilOpens line).mem = s.mem := rfl
@[simp] theorem State.takeMisses_mem (s : State) (ck : Nat) (p : Miss → Bool) : (s.takeMisses ck p).2.mem = s.mem :=
  rfl
@[simp] theorem State.missRetry_mem (s : State) (ck : Nat) : (s.missRetry ck).mem = s.mem := rfl
@[simp] theorem State.missesDone_mem (s : State) (ck : Nat) : (s.missesDone ck).mem = s.mem := rfl
@[simp] theorem State.missRefused_mem (s : State) (slot : Nat) (m : Miss) (cause : Cause) :
    (s.missRefused slot m cause).mem = s.mem := by
  unfold State.missRefused
  dsimp only
  split <;> (try split) <;> simp
@[simp] theorem State.onOp_mem (s : State) (ck id : Nat) (f : EngOp → EngOp) : (s.onOp ck id f).mem = s.mem := rfl
@[simp] theorem State.opEnd_mem (s : State) (ck id : Nat) : (s.opEnd ck id).mem = s.mem := by
  unfold State.opEnd
  split <;> simp
@[simp] theorem State.failOp_mem (s : State) (ck id code : Nat) : (s.failOp ck id code).mem = s.mem := by
  unfold State.failOp
  split <;> simp
@[simp] theorem State.failStep_mem (s : State) (ck : Nat) (o : EngOp) (code : Nat) :
    (s.failStep ck o code).mem = s.mem := by
  simp [State.failStep]
@[simp] theorem State.engineAnswer_mem (s : State) (ck : Nat) (m : Miss) (refused : Bool) :
    (s.engineAnswer ck m refused).mem = s.mem := by
  refine State.foldl_mem _ (fun s o => ?_) _ _
  split
  · rfl
  · split
    · cases refused <;> simp
    · rfl
@[simp] theorem State.refuseMiss_mem (s : State) (ck : Nat) (m : Miss) (cause : Cause) :
    (s.refuseMiss ck m cause).mem = s.mem := by
  unfold State.refuseMiss
  dsimp only
  split
  · rw [State.engineAnswer_mem, State.foldl_mem _ (by exact fun _ _ => rfl)]
    simp
  · rw [State.foldl_mem _ (by exact fun _ _ => rfl)]
    simp
@[simp] theorem State.tlbRefuse_mem (s : State) (ck : Nat) (asid : BitVec 9) (va : Nat) (cause : Cause) :
    (s.tlbRefuse ck asid va cause).mem = s.mem := by
  simp [State.tlbRefuse]
@[simp] theorem State.trimMicro_mem (s : State) (ck : Nat) (new : TlbEntry) : (s.trimMicro ck new).mem = s.mem := rfl
@[simp] theorem State.missDone_mem (s : State) (slot : Nat) (m : Miss) : (s.missDone slot m).mem = s.mem := by
  simp [State.missDone]
@[simp] theorem State.invalidate_mem (s : State) (dev : Nat) (v : Inval) : (s.invalidate dev v).mem = s.mem := rfl
theorem keeps_invalM_mem {Q : List Host.Cell → Prop} (v : Inval) : M.Keeps (fun s => Q s.mem) (invalM v) := by
  unfold invalM
  exact keeps_bind keeps_here fun _ => keeps_ite _ (keeps_pure _) (keeps_bind keeps_getS fun _ =>
    keeps_ite _ (keeps_bind (keeps_waitM _) fun _ => keeps_bind (keeps_modS fun _ h => by simpa using h) fun _ =>
    keeps_pure _) (keeps_bind (keeps_modS fun _ h => by simpa using h) fun _ => keeps_pure _))
theorem keeps_ioReadyM_mem {Q : List Host.Cell → Prop} (k : Nat) : M.Keeps (fun s => Q s.mem) (ioReadyM k) := by
  unfold ioReadyM
  refine keeps_bind keeps_here fun _ => keeps_bind keeps_getS fun _ => ?_
  split
  · exact keeps_pure _
  · exact keeps_waitM _
  · exact keeps_failM _ _
theorem keeps_readLines_mem {Q : List Host.Cell → Prop} (a : Word) (i n : Nat) :
    M.Keeps (fun s => Q s.mem) (readLines a i n) := by
  induction n generalizing i with
  | zero => exact keeps_pure _
  | succ n ih =>
    unfold readLines
    exact keeps_bind (keeps_readLineM_mem _) fun _ => keeps_bind (ih _) fun _ => keeps_pure _
@[simp] theorem State.openEntry_mem (s : State) (die e : Nat) : (s.openEntry die e).mem = s.mem := by
  simp [State.openEntry]
@[simp] theorem State.installSlots_mem (s : State) (dev : Nat) (t : List Byte) (n : Nat) :
    (s.installSlots dev t n).mem = s.mem := by
  simp [State.installSlots]
theorem keeps_slotInstallM_mem {Q : List Host.Cell → Prop} (a : Word) (b : Word) :
    M.Keeps (fun s => Q s.mem) (slotInstallM a b) := by
  unfold slotInstallM
  exact keeps_bind keeps_here fun _ => keeps_bind (keeps_needM _ _ _) fun _ =>
    keeps_bind (keeps_needM _ _ _) fun _ => keeps_bind (keeps_forM (fun _ => keeps_ioReadyM_mem _) _) fun _ =>
    keeps_bind keeps_getS fun _ => keeps_ite _ (keeps_bind (keeps_waitM _) fun _ =>
    keeps_bind (keeps_readLines_mem _ _ _) fun _ => keeps_bind (keeps_needM _ _ _) fun _ =>
    keeps_bind keeps_getS fun _ => keeps_bind (keeps_modS fun _ h => by simpa using h) fun _ =>
    keeps_bind keeps_linesDoneM_mem fun _ => keeps_pure _) (keeps_bind (keeps_readLines_mem _ _ _) fun _ =>
    keeps_bind (keeps_needM _ _ _) fun _ => keeps_bind keeps_getS fun _ => keeps_bind (keeps_modS fun _ h =>
    by simpa using h) fun _ => keeps_bind keeps_linesDoneM_mem fun _ => keeps_pure _)
theorem keeps_firmM_mem {Q : List Host.Cell → Prop} {α : Type} (body : M α)
    (hbody : M.Keeps (fun s => Q s.mem) body) :
    M.Keeps (fun s => Q s.mem) (firmM (α := α) body) := by
  unfold firmM
  refine keeps_tryCatch hbody fun _ => ?_
  split
  · exact keeps_waitM _
  · exact keeps_throw _
theorem keeps_stacksReadyM_mem {Q : List Host.Cell → Prop}  : M.Keeps (fun s => Q s.mem) (stacksReadyM ) := by
  unfold stacksReadyM
  exact keeps_bind keeps_here fun _ => keeps_forM (fun _ => keeps_readyM_mem _) _
@[simp] theorem State.setStream_mem (s : State) (dev n : Nat) (img : Option (List Byte)) :
    (s.setStream dev n img).mem = s.mem :=
  rfl
@[simp] theorem State.clearLanterns_mem (s : State) (dev : Nat) : (s.clearLanterns dev).mem = s.mem := rfl
@[simp] theorem State.emptyStreams_mem (s : State) (dev : Nat) : (s.emptyStreams dev).mem = s.mem :=
  State.foldl_mem _ (by exact fun _ _ => rfl) _ _
@[simp] theorem State.onTaper_mem (s : State) (dev : Nat) (f : Taper → Taper) : (s.onTaper dev f).mem = s.mem := rfl
theorem keeps_tapLoadM_mem {Q : List Host.Cell → Prop} (dev : Nat) (me : Nat) (a : Word) :
    M.Keeps (fun s => Q s.mem) (tapLoadM dev me a) := by
  unfold tapLoadM
  refine keeps_tryCatch (keeps_bind (keeps_modS fun _ h => by simpa using h) fun _ =>
    keeps_bind (keeps_readLines_mem _ _ _) fun _ => keeps_bind (keeps_readLines_mem _ _ _) fun _ =>
    keeps_bind (keeps_needM _ _ _) fun _ => keeps_bind (keeps_modS fun _ h => by simpa using h) fun _ =>
    keeps_bind keeps_linesDoneM_mem fun _ => keeps_pure _) fun _ => ?_
  dsimp only
  split
  · exact keeps_throw _
  · exact keeps_bind (keeps_modS fun _ h => by simpa using h) fun _ => keeps_throw _
@[simp] theorem State.taperGo_mem (s : State) (dev asid : Nat) : (s.taperGo dev asid).mem = s.mem := by
  simp [State.taperGo]
theorem keeps_rdK_mem {Q : List Host.Cell → Prop} (a : BitVec 3) : M.Keeps (fun s => Q s.mem) (rdK a) := by
  unfold rdK
  exact keeps_rdCode _
@[simp] theorem State.onCx_mem (s : State) (ck n : Nat) (f : CxSlot → CxSlot) : (s.onCx ck n f).mem = s.mem := rfl
theorem keeps_wrK_mem {Q : List Host.Cell → Prop} (d : BitVec 3) (v : Word) :
    M.Keeps (fun s => Q s.mem) (wrK d v) := by
  unfold wrK
  exact keeps_wr_mem _ _
theorem keeps_cxBeginM_mem {Q : List Host.Cell → Prop} (n : Nat) (a : Word) (off : Nat) :
    M.Keeps (fun s => Q s.mem) (cxBeginM n a off) := by
  unfold cxBeginM
  exact keeps_bind keeps_here fun _ => keeps_bind (keeps_needM _ _ _) fun _ =>
    keeps_bind (keeps_readLineM_mem _) fun _ => keeps_bind keeps_clusterM fun _ =>
    keeps_bind (keeps_needM _ _ _) fun _ => keeps_bind (keeps_needM _ _ _) fun _ =>
    keeps_bind (keeps_needM _ _ _) fun _ => keeps_bind (keeps_modS fun _ h => by simpa using h) fun _ =>
    keeps_onSlotM fun _ _ h => h
theorem keeps_imageM_mem {Q : List Host.Cell → Prop} (cs : List Coch) : M.Keeps (fun s => Q s.mem) (imageM cs) := by
  unfold imageM
  exact keeps_bind keeps_here fun _ => keeps_bind keeps_clusterM fun _ => keeps_bind (keeps_needM _ _ _) fun _ =>
    keeps_bind (keeps_needM _ _ _) fun _ => keeps_bind (keeps_needM _ _ _) fun _ => keeps_bind keeps_getS fun _ =>
    keeps_pure _
theorem keeps_windowsM_mem {Q : List Host.Cell → Prop} (w : Img) (cs : List Coch) (reads : List (Coch × List Nat)) :
    M.Keeps (fun s => Q s.mem) (windowsM w cs reads) := by
  unfold windowsM
  exact keeps_needM _ _ _
theorem keeps_ownM_mem {Q : List Host.Cell → Prop} (w : Img) (d : Coch) (is : List Nat) :
    M.Keeps (fun s => Q s.mem) (ownM w d is) := by
  unfold ownM
  exact keeps_needM _ _ _
@[simp] theorem State.readElems_mem (s : State) (ck : Nat) (reads : List CElem) :
    (s.readElems ck reads).mem = s.mem :=
  State.foldl_serve_mem (scratchPa ck) _ _ _
theorem keeps_elemsM_mem {Q : List Host.Cell → Prop} (reads : List CElem) (writes : List CElem) :
    M.Keeps (fun s => Q s.mem) (elemsM reads writes) := by
  unfold elemsM
  refine keeps_bind keeps_here fun _ => keeps_bind keeps_slotM fun _ => keeps_bind keeps_getS fun _ => ?_
  dsimp only
  split
  · exact keeps_trapM _ _
  · split
    · exact keeps_failM _ _
    · exact keeps_modS fun _ h => by simpa using h
theorem keeps_packM_mem {Q : List Host.Cell → Prop} (c : Coch) (h : Word) :
    M.Keeps (fun s => Q s.mem) (packM c h) := by
  unfold packM
  exact keeps_bind keeps_here fun _ => keeps_bind (keeps_imageM_mem _) fun _ =>
    keeps_bind (keeps_needM _ _ _) fun _ => keeps_bind (keeps_forM (fun _ => keeps_errorM_mem _) _) fun _ =>
    keeps_bind keeps_getS fun _ => keeps_bind (keeps_needM _ _ _) fun _ => keeps_pure _
theorem keeps_issueM_mem {Q : List Host.Cell → Prop} (check : M MxIssue) (hcheck : M.Keeps (fun s => Q s.mem) check) :
    M.Keeps (fun s => Q s.mem) (issueM check) := by
  unfold issueM
  refine keeps_bind keeps_slotM fun _ => ?_
  split
  · exact keeps_pure _
  · exact keeps_bind hcheck fun _ => keeps_bind (keeps_onSlotM fun _ _ h => h) fun _ => keeps_pure _
theorem keeps_walkM_mem {Q : List Host.Cell → Prop} (sparse : Option Nat) (n : Nat) :
    M.Keeps (fun s => Q s.mem) (walkM sparse n) := by
  unfold walkM
  refine keeps_bind keeps_here fun _ => keeps_bind keeps_slotM fun _ => keeps_bind keeps_getS fun _ => ?_
  split
  · exact keeps_pure _
  · refine keeps_bind (keeps_forM (fun _ => keeps_errorM_mem _) _) fun _ => ?_
    split
    · exact keeps_trapM _ _
    · exact keeps_pure _
theorem keeps_mmaIssueM_mem {Q : List Host.Cell → Prop} (x : FmtM) (sparse : Option Nat) :
    M.Keeps (fun s => Q s.mem) (mmaIssueM x sparse) := by
  unfold mmaIssueM
  exact keeps_bind keeps_here fun _ => keeps_bind keeps_slotM fun _ => keeps_bind (keeps_needM _ _ _) fun _ =>
    keeps_bind (keeps_needM _ _ _) fun _ => keeps_bind (keeps_needM _ _ _) fun _ =>
    keeps_bind (keeps_walkM_mem _ _) fun _ => keeps_bind keeps_getS fun _ => keeps_bind (keeps_needM _ _ _) fun _ =>
    keeps_pure _
theorem keeps_ringsSeenM_mem {Q : List Host.Cell → Prop} (ks : List Nat) :
    M.Keeps (fun s => Q s.mem) (ringsSeenM ks) := by
  unfold ringsSeenM
  exact keeps_bind keeps_here fun _ => keeps_modS fun _ h => by simpa using h
theorem keeps_rangesM_mem {Q : List Host.Cell → Prop} (rs : List Range) :
    M.Keeps (fun s => Q s.mem) (rangesM rs) := by
  unfold rangesM
  exact keeps_bind keeps_slotM fun _ => keeps_bind keeps_clusterM fun _ => keeps_bind (keeps_needM _ _ _) fun _ =>
    keeps_bind (keeps_needM _ _ _) fun _ => keeps_ite _ (keeps_waitM _) (keeps_pure _)
theorem keeps_rowsM_mem {Q : List Host.Cell → Prop} (off n : Nat) : M.Keeps (fun s => Q s.mem) (rowsM off n) := by
  unfold rowsM
  exact keeps_bind keeps_here fun _ => keeps_forM (fun _ => keeps_bind (keeps_errorM_mem _) fun _ =>
    keeps_serve_mem _ _) _
theorem keeps_mxOpM_mem {Q : List Host.Cell → Prop} (x : FmtM) (fn : Nat) (cycles : Nat) :
    M.Keeps (fun s => Q s.mem) (mxOpM x fn cycles) := by
  unfold mxOpM
  exact keeps_bind keeps_here fun _ => keeps_bind keeps_slotM fun _ => keeps_pure _
@[simp] theorem State.mxStart_mem (s : State) (corek : Nat) (o : MxOp) : (s.mxStart corek o).mem = s.mem := rfl
theorem keeps_mxReadyM_mem {Q : List Host.Cell → Prop} (o : MxOp) (rs : List Range) :
    M.Keeps (fun s => Q s.mem) (mxReadyM o rs) := by
  unfold mxReadyM
  exact keeps_bind keeps_here fun _ => keeps_bind keeps_slotM fun _ => keeps_bind keeps_freshM_mem fun _ =>
    keeps_bind keeps_coreM fun _ => keeps_bind (keeps_modS fun _ h => h) fun _ => keeps_bind (keeps_modS fun _ h =>
    h) fun _ => keeps_bind (keeps_onSlotM fun _ _ h => h) fun _ => keeps_ite _ (keeps_bind (keeps_modS fun _ h =>
    by simpa using h) fun _ => keeps_bind (keeps_onSlotM fun _ _ h => h) fun _ => keeps_pure _) (keeps_waitM _)
theorem keeps_mmaM_mem {Q : List Host.Cell → Prop} (x : FmtM) (sparse : Option Nat) :
    M.Keeps (fun s => Q s.mem) (mmaM x sparse) := by
  unfold mmaM
  refine keeps_bind keeps_here fun _ => keeps_bind keeps_slotM fun _ =>
    keeps_bind (keeps_issueM_mem _ (keeps_mmaIssueM_mem _ _)) fun _ => keeps_bind keeps_getS fun _ =>
    keeps_ite _ (keeps_bind (keeps_waitM _) fun _ => keeps_bind (keeps_ringsSeenM_mem _) fun _ =>
    keeps_bind (keeps_rangesM_mem _) fun _ => keeps_bind (keeps_forM (fun _ => keeps_rowsM_mem _ _) _) fun _ =>
    ?_) (keeps_bind (keeps_ringsSeenM_mem _) fun _ => keeps_bind (keeps_rangesM_mem _) fun _ =>
    keeps_bind (keeps_forM (fun _ => keeps_rowsM_mem _ _) _) fun _ => ?_)
  · dsimp only
    split
    · exact keeps_trapM _ _
    · exact keeps_bind (keeps_mxOpM_mem _ _ _) fun _ => keeps_mxReadyM_mem _ _
  · dsimp only
    split
    · exact keeps_trapM _ _
    · exact keeps_bind (keeps_mxOpM_mem _ _ _) fun _ => keeps_mxReadyM_mem _ _
theorem keeps_tileIssueM_mem {Q : List Host.Cell → Prop} (x : FmtM) (code : Slot → Nat) (takes : Nat → Bool) :
    M.Keeps (fun s => Q s.mem) (tileIssueM x code takes) := by
  unfold tileIssueM
  exact keeps_bind keeps_here fun _ => keeps_bind keeps_slotM fun _ => keeps_bind (keeps_needM _ _ _) fun _ =>
    keeps_bind (keeps_needM _ _ _) fun _ => keeps_bind (keeps_needM _ _ _) fun _ => keeps_bind keeps_getS fun _ =>
    keeps_bind (keeps_needM _ _ _) fun _ => keeps_pure _
theorem EM.keeps_vigilMemberM_mem {Q : List Host.Cell → Prop} (ck : Nat) (o : EngOp) :
    EM.Keeps (fun s => Q s.mem) (vigilMemberM ck o) := by
  unfold vigilMemberM
  split
  · exact EM.keeps_bind EM.keeps_state fun _ => EM.keeps_ite _ (EM.keeps_throw _) (EM.keeps_pure _)
  · exact EM.keeps_pure _
theorem EM.keeps_engXlate_mem {Q : List Host.Cell → Prop} (ck : Nat) (o : EngOp) (va : Nat) (wr : Bool) :
    EM.Keeps (fun s => Q s.mem) (engXlate ck o va wr) := by
  unfold engXlate
  refine EM.keeps_state_bind fun _ h => EM.keeps_ite _ (EM.keeps_throw _) (EM.keeps_ite _ (EM.keeps_pure _)
    (EM.keeps_bind (EM.keeps_set (by simpa using h)) fun _ => ?_))
  split
  · exact EM.keeps_bind (EM.keeps_set (by simpa using h)) fun _ => EM.keeps_ite _ (EM.keeps_throw _) (EM.keeps_throw
      _)
  · dsimp only
    split
    · exact EM.keeps_ite _ (EM.keeps_pure _) (EM.keeps_throw _)
    · exact EM.keeps_pure _
theorem EM.keeps_engTarget_mem {Q : List Host.Cell → Prop} (ck : Nat) (o : EngOp) (t : Xlat) (wr : Bool)
    (peerOk : Bool) :
    EM.Keeps (fun s => Q s.mem) (engTarget ck o t wr peerOk) := by
  unfold engTarget
  refine EM.keeps_bind EM.keeps_state fun _ => EM.keeps_ite _ (EM.keeps_bind (EM.keeps_throw _) fun _ =>
    EM.keeps_ite _ (EM.keeps_bind (EM.keeps_throw _) fun _ => ?_) ?_) (EM.keeps_ite _ (EM.keeps_bind (EM.keeps_throw
    _) fun _ => ?_) ?_)
  · split
    · exact EM.keeps_throw _
    · exact EM.keeps_throw _
    · refine EM.keeps_ite _ (EM.keeps_pure _) ?_
      split
      · exact EM.keeps_pure _
      · exact EM.keeps_throw _
      · exact EM.keeps_throw _
  · split
    · exact EM.keeps_throw _
    · exact EM.keeps_throw _
    · refine EM.keeps_ite _ (EM.keeps_pure _) ?_
      split
      · exact EM.keeps_pure _
      · exact EM.keeps_throw _
      · exact EM.keeps_throw _
  · split
    · exact EM.keeps_throw _
    · exact EM.keeps_throw _
    · refine EM.keeps_ite _ (EM.keeps_pure _) ?_
      split
      · exact EM.keeps_pure _
      · exact EM.keeps_throw _
      · exact EM.keeps_throw _
  · split
    · exact EM.keeps_throw _
    · exact EM.keeps_throw _
    · refine EM.keeps_ite _ (EM.keeps_pure _) ?_
      split
      · exact EM.keeps_pure _
      · exact EM.keeps_throw _
      · exact EM.keeps_throw _
theorem EM.keeps_pieceM_mem {Q : List Host.Cell → Prop} (ck : Nat) (o : EngOp) (wr : Bool) (peerOk : Bool)
    (r : Nat × Nat) :
    EM.Keeps (fun s => Q s.mem) (pieceM ck o wr peerOk r) := by
  unfold pieceM
  exact EM.keeps_bind (EM.keeps_engXlate_mem _ _ _ _) fun _ => EM.keeps_bind (EM.keeps_engTarget_mem _ _ _ _ _) fun
    _ => EM.keeps_ite _ (EM.keeps_bind (EM.keeps_throw _) fun _ => EM.keeps_pure _) (EM.keeps_pure _)
theorem EM.keeps_piecesM_mem {Q : List Host.Cell → Prop} (ck : Nat) (o : EngOp) (wr : Bool) (peerOk : Bool)
    (va : Nat) (n : Nat) :
    EM.Keeps (fun s => Q s.mem) (piecesM ck o wr peerOk va n) := by
  unfold piecesM
  exact EM.keeps_mapM (fun _ => EM.keeps_pieceM_mem _ _ _ _ _) _
theorem EM.keeps_oobOp_mem {Q : List Host.Cell → Prop} (ck : Nat) (id : Nat) (ps : List Piece) :
    EM.Keeps (fun s => Q s.mem) (oobOp ck id ps) := by
  unfold oobOp
  exact EM.keeps_ite _ (EM.keeps_pure _) (EM.keeps_upd fun _ h => by simpa using h)
@[simp] theorem State.lanternFail_mem (s : State) (pa : Nat) : (s.lanternFail pa).mem = s.mem := by
  unfold State.lanternFail
  split <;> simp
@[simp] theorem State.failErrors_mem (s : State) (slot : Nat) (l : List (Nat × Nat)) :
    (s.failErrors slot l).mem = s.mem := by
  simp [State.failErrors]
@[simp] theorem State.engServe_mem (s : State) (pa : Nat) : (s.engServe pa).mem = s.mem := by simp [State.engServe]
@[simp] theorem State.readErrors_mem (s : State) (slot : Nat) (gs : List Nat) (l : List (Nat × Nat)) :
    (s.readErrors slot gs l).mem = s.mem := by
  simp [State.readErrors]
theorem EM.keeps_errorsE_mem {Q : List Host.Cell → Prop} (slot : Nat) (gs : List Nat) (l : List (Nat × Nat)) :
    EM.Keeps (fun s => Q s.mem) (errorsE slot gs l) := by
  unfold errorsE
  exact EM.keeps_ite _ (EM.keeps_pure _) (EM.keeps_bind (EM.keeps_upd fun _ h => by simpa using h) fun _ =>
    EM.keeps_throw _)
@[simp] theorem State.repairRows_mem (s : State) (pa n : Nat) : (s.repairRows pa n).mem = s.mem := by
  simp [State.repairRows]
@[simp] theorem State.repairPieces_mem (s : State) (ps : List Piece) : (s.repairPieces ps).mem = s.mem := by
  simp [State.repairPieces]
theorem EM.keeps_takenM_mem {Q : List Host.Cell → Prop} (ck : Nat) (o : EngOp) (pa : Nat) :
    EM.Keeps (fun s => Q s.mem) (takenM ck o pa) := by
  unfold takenM
  exact EM.keeps_bind (EM.keeps_upd fun _ h => by simpa using h) fun _ => EM.keeps_bind EM.keeps_state fun _ =>
    EM.keeps_ite _ (EM.keeps_pure _) (EM.keeps_bind (EM.keeps_upd fun _ h => by simpa using h) fun _ =>
    EM.keeps_throw _)
theorem EM.keeps_streamM_mem {Q : List Host.Cell → Prop} (ck : Nat) (o : EngOp) (wr : Bool) (t : Tab Byte) :
    EM.Keeps (fun s => Q s.mem) (streamM ck o wr t) := by
  unfold streamM
  refine EM.keeps_bind (EM.keeps_forM (fun _ => EM.keeps_takenM_mem _ _ _) _) fun _ => ?_
  split
  · exact EM.keeps_pure _
  · refine EM.keeps_ite _ (EM.keeps_pure _) ?_
    split
    · exact EM.keeps_pure _
    · exact EM.keeps_bind (EM.keeps_forM (fun _ => EM.keeps_upd fun _ h => by simpa using h) _) fun _ =>
        EM.keeps_throw _
theorem EM.keeps_readPieces_mem {Q : List Host.Cell → Prop} (ck : Nat) (o : EngOp) (ps : List Piece) :
    EM.Keeps (fun s => Q s.mem) (readPieces ck o ps) := by
  unfold readPieces
  exact EM.keeps_bind EM.keeps_state fun _ => EM.keeps_bind (EM.keeps_oobOp_mem _ _ _) fun _ =>
    EM.keeps_bind (EM.keeps_errorsE_mem _ _ _) fun _ => EM.keeps_bind (EM.keeps_upd fun _ h =>
    by simpa using h) fun _ => EM.keeps_bind (EM.keeps_streamM_mem _ _ _ _) fun _ => EM.keeps_pure _
theorem EM.keeps_unitWordsM_mem {Q : List Host.Cell → Prop} (ck : Nat) (o : EngOp) (pa : Nat) (bs : List Byte) :
    EM.Keeps (fun s => Q s.mem) (unitWordsM ck o pa bs) := by
  unfold unitWordsM
  refine EM.keeps_bind (EM.keeps_takenM_mem _ _ _) fun _ => ?_
  split
  · exact EM.keeps_pure _
  · exact EM.keeps_bind (EM.keeps_upd fun _ h => by simpa using h) fun _ => EM.keeps_throw _
theorem EM.keeps_unitErrorsE_mem {Q : List Host.Cell → Prop} (slot pa : Nat) (l : List (Nat × Nat)) :
    EM.Keeps (fun s => Q s.mem) (unitErrorsE slot pa l) := by
  unfold unitErrorsE
  refine EM.keeps_ite _ (EM.keeps_pure _) (EM.keeps_bind (EM.keeps_upd fun s h => ?_) fun _ => EM.keeps_throw _)
  rwa [State.foldl_mem _ (by exact fun _ _ => rfl), State.lanternFail_mem]
theorem EM.keeps_mergeCheckM_mem {Q : List Host.Cell → Prop} (slot : Nat) (l : List (Nat × List Byte)) :
    EM.Keeps (fun s => Q s.mem) (mergeCheckM slot l) := by
  unfold mergeCheckM
  exact EM.keeps_bind EM.keeps_state fun _ => EM.keeps_ite _ (EM.keeps_pure _) (EM.keeps_bind (EM.keeps_upd fun _
    h => by simpa using h) fun _ => EM.keeps_throw _)
theorem EM.keeps_unitFailM_mem {Q : List Host.Cell → Prop} (ck : Nat) (o : EngOp) (va : Nat) (wr : Bool) :
    EM.Keeps (fun s => Q s.mem) (unitFailM ck o va wr) := by
  unfold unitFailM
  exact EM.keeps_bind (EM.keeps_engXlate_mem _ _ _ _) fun _ => EM.keeps_bind (EM.keeps_upd fun _ h =>
    by simpa using h) fun _ => EM.keeps_throw _
theorem EM.keeps_readBelow_mem {Q : List Host.Cell → Prop} (slot : Nat) (pa : Nat) (ps : List Piece) :
    EM.Keeps (fun s => Q s.mem) (readBelow slot pa ps) := by
  unfold readBelow
  exact EM.keeps_bind EM.keeps_state fun _ => EM.keeps_bind (EM.keeps_unitErrorsE_mem _ _ _) fun _ => EM.keeps_pure _
@[simp] theorem State.performed_mem (s : State) (ck : Nat) (o : EngOp) (b : Nat) :
    (s.performed ck o b).mem = s.mem := by
  unfold State.performed
  split <;> simp
@[simp] theorem State.opStop_mem (s : State) (ck : Nat) (o : EngOp) (e : EStop) : (s.opStop ck o e).mem = s.mem := by
  unfold State.opStop
  split <;> simp
@[simp] theorem State.setQuanta_mem (s : State) (ck : Nat) (o : EngOp) : (s.setQuanta ck o).mem = s.mem := rfl
@[simp] theorem State.startOps_mem (s : State) (ck core n : Nat) : (s.startOps ck core n).mem = s.mem := by
  induction n generalizing s with
  | zero => rfl
  | succ n ih =>
    simp only [State.startOps]
    split <;> simp [ih]
@[simp] theorem State.takeTurn_mem (s : State) (slot : Nat) (left : List Nat) :
    (s.takeTurn slot left).mem = s.mem := by
  simp [State.takeTurn]
@[simp] theorem State.grants_mem (s : State) (ck core n : Nat) : (s.grants ck core n).mem = s.mem := by
  induction n generalizing s with
  | zero => rfl
  | succ n ih =>
    simp only [State.grants]
    split
    · simp [ih]
    · split <;> simp [ih]
@[simp] theorem State.grantVisit_mem (s : State) (ck core : Nat) : (s.grantVisit ck core).mem = s.mem := by
  unfold State.grantVisit
  dsimp only
  split <;> simp
@[simp] theorem State.ringWritten_mem (s : State) (slot k : Nat) (nums : List Nat) :
    (s.ringWritten slot k nums).mem = s.mem := by
  simp [State.ringWritten]
@[simp] theorem State.writeToken_mem (s : State) (o : EngOp) (v : Word) : (s.writeToken o v).mem = s.mem := by
  simp [State.writeToken]
@[simp] theorem State.nextPushes_mem (s : State) (ck slot ring : Nat) : (s.nextPushes ck slot ring).mem = s.mem := by
  simp [State.nextPushes]
theorem EM.keeps_ioReadyE_mem {Q : List Host.Cell → Prop} (ck : Nat) (k : Nat) :
    EM.Keeps (fun s => Q s.mem) (ioReadyE ck k) := by
  unfold ioReadyE
  refine EM.keeps_bind EM.keeps_state fun _ => ?_
  split
  · exact EM.keeps_pure _
  · exact EM.keeps_throw _
  · exact EM.keeps_throw _
theorem EM.keeps_fabricDest_mem {Q : List Host.Cell → Prop} (s : State) (ck : Nat) (o : EngOp) (ps : List Piece) :
    EM.Keeps (fun s => Q s.mem) (fabricDest s ck o ps) := by
  unfold fabricDest
  refine EM.keeps_ite _ (EM.keeps_bind (EM.keeps_throw _) fun _ => EM.keeps_ite _ (EM.keeps_bind (EM.keeps_throw _)
    fun _ => ?_) ?_) (EM.keeps_ite _ (EM.keeps_bind (EM.keeps_throw _) fun _ => ?_) ?_)
  · dsimp only
    split
    · refine EM.keeps_ite _ (EM.keeps_bind (EM.keeps_throw _) fun _ => ?_) ?_
      · split
        · exact EM.keeps_ite _ (EM.keeps_bind (EM.keeps_throw _) fun _ => EM.keeps_pure _) (EM.keeps_pure _)
        · exact EM.keeps_pure _
      · split
        · exact EM.keeps_ite _ (EM.keeps_bind (EM.keeps_throw _) fun _ => EM.keeps_pure _) (EM.keeps_pure _)
        · exact EM.keeps_pure _
    · split
      · exact EM.keeps_ite _ (EM.keeps_bind (EM.keeps_throw _) fun _ => EM.keeps_pure _) (EM.keeps_pure _)
      · exact EM.keeps_pure _
  · dsimp only
    split
    · refine EM.keeps_ite _ (EM.keeps_bind (EM.keeps_throw _) fun _ => ?_) ?_
      · split
        · exact EM.keeps_ite _ (EM.keeps_bind (EM.keeps_throw _) fun _ => EM.keeps_pure _) (EM.keeps_pure _)
        · exact EM.keeps_pure _
      · split
        · exact EM.keeps_ite _ (EM.keeps_bind (EM.keeps_throw _) fun _ => EM.keeps_pure _) (EM.keeps_pure _)
        · exact EM.keeps_pure _
    · split
      · exact EM.keeps_ite _ (EM.keeps_bind (EM.keeps_throw _) fun _ => EM.keeps_pure _) (EM.keeps_pure _)
      · exact EM.keeps_pure _
  · dsimp only
    split
    · refine EM.keeps_ite _ (EM.keeps_bind (EM.keeps_throw _) fun _ => ?_) ?_
      · split
        · exact EM.keeps_ite _ (EM.keeps_bind (EM.keeps_throw _) fun _ => EM.keeps_pure _) (EM.keeps_pure _)
        · exact EM.keeps_pure _
      · split
        · exact EM.keeps_ite _ (EM.keeps_bind (EM.keeps_throw _) fun _ => EM.keeps_pure _) (EM.keeps_pure _)
        · exact EM.keeps_pure _
    · split
      · exact EM.keeps_ite _ (EM.keeps_bind (EM.keeps_throw _) fun _ => EM.keeps_pure _) (EM.keeps_pure _)
      · exact EM.keeps_pure _
  · dsimp only
    split
    · refine EM.keeps_ite _ (EM.keeps_bind (EM.keeps_throw _) fun _ => ?_) ?_
      · split
        · exact EM.keeps_ite _ (EM.keeps_bind (EM.keeps_throw _) fun _ => EM.keeps_pure _) (EM.keeps_pure _)
        · exact EM.keeps_pure _
      · split
        · exact EM.keeps_ite _ (EM.keeps_bind (EM.keeps_throw _) fun _ => EM.keeps_pure _) (EM.keeps_pure _)
        · exact EM.keeps_pure _
    · split
      · exact EM.keeps_ite _ (EM.keeps_bind (EM.keeps_throw _) fun _ => EM.keeps_pure _) (EM.keeps_pure _)
      · exact EM.keeps_pure _
@[simp] theorem State.slotPump_mem (s : State) (die : Nat) : (s.slotPump die).mem = s.mem := by simp [State.slotPump]
theorem EM.keeps_fabricChunk_mem {Q : List Host.Cell → Prop} (ck : Nat) (o : EngOp) :
    EM.Keeps (fun s => Q s.mem) (fabricChunk ck o) := by
  unfold fabricChunk
  exact EM.keeps_bind (EM.keeps_vigilMemberM_mem _ _) fun _ => EM.keeps_bind (EM.keeps_ioReadyE_mem _ _) fun _ =>
    EM.keeps_bind (EM.keeps_piecesM_mem _ _ _ _ _ _) fun _ => EM.keeps_bind (EM.keeps_piecesM_mem _ _ _ _ _ _) fun
    _ => EM.keeps_bind EM.keeps_state fun _ => EM.keeps_bind (EM.keeps_fabricDest_mem _ _ _ _) fun _ =>
    EM.keeps_bind (EM.keeps_readPieces_mem _ _ _) fun _ => EM.keeps_bind (EM.keeps_upd fun _ h =>
    by simpa using h) fun _ => EM.keeps_ite _ (EM.keeps_upd fun _ h => h) (EM.keeps_upd fun _ h => by simpa using h)
theorem EM.keeps_multicastChunk_mem {Q : List Host.Cell → Prop} (ck : Nat) (o0 : EngOp) :
    EM.Keeps (fun s => Q s.mem) (multicastChunk ck o0) := by
  unfold multicastChunk
  exact EM.keeps_bind (EM.keeps_ioReadyE_mem _ _) fun _ => EM.keeps_bind EM.keeps_state fun _ =>
    EM.keeps_bind (EM.keeps_piecesM_mem _ _ _ _ _ _) fun _ => EM.keeps_bind (EM.keeps_piecesM_mem _ _ _ _ _ _) fun
    _ => EM.keeps_ite _ (EM.keeps_bind (EM.keeps_throw _) fun _ => EM.keeps_bind (EM.keeps_readPieces_mem _ _ _) fun
    _ => EM.keeps_bind (EM.keeps_upd fun _ h => by simpa using h) fun _ => EM.keeps_upd fun _ h =>
    h) (EM.keeps_bind (EM.keeps_readPieces_mem _ _ _) fun _ => EM.keeps_bind (EM.keeps_upd fun _ h =>
    by simpa using h) fun _ => EM.keeps_upd fun _ h => h)
theorem EM.keeps_stacksReadyE_mem {Q : List Host.Cell → Prop} (ck : Nat) :
    EM.Keeps (fun s => Q s.mem) (stacksReadyE ck) := by
  unfold stacksReadyE
  refine EM.keeps_bind EM.keeps_state fun _ => EM.keeps_forM (fun _ => ?_) _
  split
  · exact EM.keeps_pure _
  · exact EM.keeps_throw _
  · exact EM.keeps_throw _
theorem EM.keeps_engImage_mem {Q : List Host.Cell → Prop} (ck : Nat) (o : EngOp) (va : Nat) (n : Nat) :
    EM.Keeps (fun s => Q s.mem) (engImage ck o va n) := by
  unfold engImage
  exact EM.keeps_bind (EM.keeps_piecesM_mem _ _ _ _ _ _) fun _ => EM.keeps_bind (EM.keeps_readPieces_mem _ _ _) fun
    _ => EM.keeps_pure _
theorem EM.keeps_installBody_mem {Q : List Host.Cell → Prop} (ck : Nat) (o : EngOp) :
    EM.Keeps (fun s => Q s.mem) (installBody ck o) := by
  unfold installBody
  exact EM.keeps_ite _ (EM.keeps_bind (EM.keeps_throw _) fun _ => EM.keeps_bind (EM.keeps_stacksReadyE_mem _) fun
    _ => EM.keeps_bind (EM.keeps_engImage_mem _ _ _ _) fun _ => EM.keeps_ite _ (EM.keeps_bind (EM.keeps_throw _) fun
    _ => EM.keeps_bind (EM.keeps_upd fun _ h => by simpa using h) fun _ =>
    EM.keeps_pure _) (EM.keeps_bind (EM.keeps_upd fun _ h => by simpa using h) fun _ =>
    EM.keeps_pure _)) (EM.keeps_bind (EM.keeps_stacksReadyE_mem _) fun _ =>
    EM.keeps_bind (EM.keeps_engImage_mem _ _ _ _) fun _ => EM.keeps_ite _ (EM.keeps_bind (EM.keeps_throw _) fun _ =>
    EM.keeps_bind (EM.keeps_upd fun _ h => by simpa using h) fun _ =>
    EM.keeps_pure _) (EM.keeps_bind (EM.keeps_upd fun _ h => by simpa using h) fun _ => EM.keeps_pure _))
theorem EM.keeps_dropBody_mem {Q : List Host.Cell → Prop} (ck : Nat) (o : EngOp) :
    EM.Keeps (fun s => Q s.mem) (dropBody ck o) := by
  unfold dropBody
  exact EM.keeps_ite _ (EM.keeps_bind (EM.keeps_throw _) fun _ => EM.keeps_bind (EM.keeps_stacksReadyE_mem _) fun
    _ => EM.keeps_bind (EM.keeps_upd fun _ h => by simpa using h) fun _ =>
    EM.keeps_pure _) (EM.keeps_bind (EM.keeps_stacksReadyE_mem _) fun _ => EM.keeps_bind (EM.keeps_upd fun _ h =>
    by simpa using h) fun _ => EM.keeps_pure _)
theorem EM.keeps_resetBody_mem {Q : List Host.Cell → Prop} (ck : Nat) (o : EngOp) :
    EM.Keeps (fun s => Q s.mem) (resetBody ck o) := by
  unfold resetBody
  refine EM.keeps_bind (EM.keeps_stacksReadyE_mem _) fun _ => EM.keeps_bind (EM.keeps_upd fun s h => ?_) fun _ =>
    EM.keeps_pure _
  rwa [State.clearLanterns_mem, State.emptyStreams_mem]
theorem EM.keeps_engLines_mem {Q : List Host.Cell → Prop} (ck : Nat) (o : EngOp) (va n : Nat) :
    EM.Keeps (fun s => Q s.mem) (engLines ck o va n) := by
  induction n generalizing va with
  | zero => exact EM.keeps_pure _
  | succ n ih =>
    unfold engLines
    exact EM.keeps_bind (EM.keeps_engImage_mem _ _ _ _) fun _ => EM.keeps_bind (ih _) fun _ => EM.keeps_pure _
theorem EM.keeps_tapLoadBody_mem {Q : List Host.Cell → Prop} (ck : Nat) (o : EngOp) :
    EM.Keeps (fun s => Q s.mem) (tapLoadBody ck o) := by
  unfold tapLoadBody
  exact EM.keeps_bind (EM.keeps_ioReadyE_mem _ _) fun _ => EM.keeps_bind (EM.keeps_ite _ (EM.keeps_pure _)
    (EM.keeps_throw _)) fun _ => EM.keeps_bind EM.keeps_state fun _ =>
    EM.keeps_bind (EM.keeps_ite _ (EM.keeps_pure _) (EM.keeps_throw _)) fun _ =>
    EM.keeps_bind (EM.keeps_upd fun _ h => by simpa using h) fun _ =>
    EM.keeps_bind (EM.keeps_engLines_mem _ _ _ _) fun _ => EM.keeps_bind (EM.keeps_engLines_mem _ _ _ _) fun _ =>
    EM.keeps_bind (EM.keeps_ite _ (EM.keeps_pure _) (EM.keeps_throw _)) fun _ =>
    EM.keeps_bind (EM.keeps_upd fun _ h => by simpa using h) fun _ => EM.keeps_pure _
theorem EM.keeps_tapGoBody_mem {Q : List Host.Cell → Prop} (ck : Nat) (o : EngOp) :
    EM.Keeps (fun s => Q s.mem) (tapGoBody ck o) := by
  unfold tapGoBody
  exact EM.keeps_bind (EM.keeps_ioReadyE_mem _ _) fun _ => EM.keeps_bind EM.keeps_state fun _ =>
    EM.keeps_ite _ (EM.keeps_bind (EM.keeps_throw _) fun _ => EM.keeps_bind (EM.keeps_upd fun _ h =>
    by simpa using h) fun _ => EM.keeps_pure _) (EM.keeps_bind (EM.keeps_upd fun _ h => by simpa using h) fun _ =>
    EM.keeps_pure _)
theorem EM.keeps_tapHaltBody_mem {Q : List Host.Cell → Prop} (ck : Nat) (z1 : EngOp) :
    EM.Keeps (fun s => Q s.mem) (tapHaltBody ck z1) := by
  unfold tapHaltBody
  exact EM.keeps_bind (EM.keeps_ioReadyE_mem _ _) fun _ => EM.keeps_bind (EM.keeps_upd fun _ h =>
    by simpa using h) fun _ => EM.keeps_pure _
@[simp] theorem State.admitArriving_mem (s : State) (die : Nat) : (s.admitArriving die).mem = s.mem := by
  unfold State.admitArriving
  dsimp only
  split
  · rfl
  · split
    · rfl
    · split
      · rfl
      · split <;> rfl
@[simp] theorem State.dispatch_mem (s : State) (die : Nat) : (s.dispatch die).mem = s.mem := by
  unfold State.dispatch
  split
  · rfl
  · split
    · rfl
    · dsimp only
      split <;> simp
@[simp] theorem State.freed_mem (s : State) (die n : Nat) : (s.freed die n).mem = s.mem := by
  unfold State.freed
  split <;> simp
@[simp] theorem State.serveSteal_mem (s : State) (thief victim room : Nat) :
    (s.serveSteal thief victim room).mem = s.mem := by
  unfold State.serveSteal
  dsimp only
  split
  · rfl
  · split <;> simp
@[simp] theorem State.enterReserved_mem (s : State) (die : Nat) (e : RqEntry) : (s.enterReserved die e).mem = s.mem :=
  rfl
@[simp] theorem State.stolen_mem (s : State) (thief : Nat) (given : List StolenWick) :
    (s.stolen thief given).mem = s.mem := by
  have h1 : (given.foldl (fun (s : State) x =>
    s.enterReserved thief (stolenEntry x)) s).mem = s.mem := State.foldl_mem _ (by exact fun _ _ => rfl) _ _
  unfold State.stolen
  rw [State.post_mem, ← h1]
  dsimp only
  split
  · rfl
  · split
    · rfl
    · split
      · split
        · rfl
        · exact State.compareMark_mem _ _
      · rfl
@[simp] theorem State.activate_mem (s : State) (corek : Nat) : (s.activate corek).mem = s.mem := by
  simp [State.activate]
@[simp] theorem State.arriveAt_mem (s : State) (ck : Nat) (w : Wick) : (s.arriveAt ck w).mem = s.mem := by
  simp [State.arriveAt]
@[simp] theorem State.reach_mem (s : State) (ck : Nat) (w : Wick) (srcDev srcDie : Nat) :
    (s.reach ck w srcDev srcDie).mem = s.mem := by
  simp [State.reach]
@[simp] theorem State.migrate_mem (s : State) (ck : Nat) (w : Wick) (srcDev srcDie : Nat) :
    (s.migrate ck w srcDev srcDie).mem = s.mem := by
  simp [State.migrate]
@[simp] theorem State.wordArrives_mem (s : State) (corek : Nat) (w : Word) : (s.wordArrives corek w).mem = s.mem := by
  simp [State.wordArrives]
@[simp] theorem State.repliesIn_mem (s : State) (slot : Nat) (dst : RegDst) : (s.repliesIn slot dst).mem = s.mem := by
  simp [State.repliesIn]
@[simp] theorem State.onFlight_mem (s : State) (corek id : Nat) (f : Flight → Flight) :
    (s.onFlight corek id f).mem = s.mem :=
  rfl
@[simp] theorem State.flightAnswered_mem (s : State) (corek id pa : Nat) :
    (s.flightAnswered corek id pa).mem = s.mem :=
  rfl
@[simp] theorem State.accessError_mem (s : State) (q : PeerReq) (cause addr : Nat) :
    (s.accessError q cause addr).mem = s.mem := by
  simp [State.accessError]
@[simp] theorem State.wakeCore_mem (s : State) (corek : Nat) (w : Wait) : (s.wakeCore corek w).mem = s.mem := rfl
@[simp] theorem State.endFlight_mem (s : State) (corek id : Nat) : (s.endFlight corek id).mem = s.mem := by
  unfold State.endFlight
  split <;> simp
@[simp] theorem State.answer_mem (s : State) (q : PeerReq) (v : Nat) : (s.answer q v).mem = s.mem := by
  unfold State.answer
  split <;> simp
@[simp] theorem State.failRequest_mem (s : State) (q : PeerReq) (cause addr : Nat) :
    (s.failRequest q cause addr).mem = s.mem := by
  simp [State.failRequest]
@[simp] theorem State.storeDone_mem (s : State) (dev : Nat) (q : PeerReq) : (s.storeDone dev q).mem = s.mem := by
  simp [State.storeDone]
@[simp] theorem State.onReqOp_mem (s : State) (q : PeerReq) (f : EngOp → EngOp) : (s.onReqOp q f).mem = s.mem := rfl
@[simp] theorem State.bytesSettled_mem (s : State) (q : PeerReq) : (s.bytesSettled q).mem = s.mem := by
  simp [State.bytesSettled]
@[simp] theorem State.storeSettled_mem (s : State) (q : PeerReq) : (s.storeSettled q).mem = s.mem := by
  simp [State.storeSettled]
@[simp] theorem State.peerFailed_mem (s : State) (q : PeerReq) : (s.peerFailed q).mem = s.mem := by
  simp [State.peerFailed]
@[simp] theorem State.acknowledged_mem (s : State) (q : PeerReq) : (s.acknowledged q).mem = s.mem := by
  unfold State.acknowledged
  split <;> (try split) <;> simp
@[simp] theorem State.recordRefusal_mem (s : State) (q : PeerReq) : (s.recordRefusal q).mem = s.mem := by
  simp [State.recordRefusal]
@[simp] theorem State.refused_mem (s : State) (q : PeerReq) : (s.refused q).mem = s.mem := by
  unfold State.refused
  dsimp only
  split <;> (try split) <;> simp
@[simp] theorem State.dropOutstanding_mem (s : State) (p : PeerReq → Bool) : (s.dropOutstanding p).mem = s.mem := rfl
@[simp] theorem State.dropAccess_mem (s : State) (slot wick : Nat) : (s.dropAccess slot wick).mem = s.mem := by
  simp [State.dropAccess]
@[simp] theorem State.abandonAccess_mem (s : State) (q : PeerReq) : (s.abandonAccess q).mem = s.mem := by
  simp [State.abandonAccess]
@[simp] theorem State.leavePod_mem (s : State) (dev peer : Nat) : (s.leavePod dev peer).mem = s.mem := by
  simp [State.leavePod]
@[simp] theorem State.requestFails_mem (s : State) (dev : Nat) (q : LanternReq) (l : List (Nat × Nat)) :
    (s.requestFails dev q l).mem = s.mem := by
  unfold State.requestFails
  rw [State.foldl_mem _ (by exact fun _ _ => rfl), State.lanternFail_mem]
@[simp] theorem State.vigilApplied_mem (s : State) (line : Nat) : (s.vigilApplied line).mem = s.mem := rfl
@[simp] theorem State.forward_mem (s : State) (st : VStage) (key : Arrival) : (s.forward st key).mem = s.mem := by
  unfold State.forward
  split <;> (try split) <;> simp
@[simp] theorem State.settleEntries_mem (s : State) (dev : Nat) : (s.settleEntries dev).mem = s.mem := rfl
@[simp] theorem State.entryEnd_mem (s : State) (g : TaperTag) (failed : Bool) :
    (s.entryEnd g failed).mem = s.mem := by
  unfold State.entryEnd
  dsimp only
  split <;> simp
@[simp] theorem State.failNext_mem (s : State) (slot : Nat) : (s.failNext slot).mem = s.mem := by
  unfold State.failNext
  dsimp only
  split <;> (try split) <;> simp
@[simp] theorem State.fence_mem (s : State) (slot : Nat) : (s.fence slot).mem = s.mem := by
  unfold State.fence
  rw [State.log_mem, State.wakeCluster_mem, State.foldl_mem _ (by exact fun _ _ => rfl)]
  rfl
@[simp] theorem State.postAllSlots_mem (s : State) (corek cause : Nat) (v : Word) :
    (s.postAllSlots corek cause v).mem = s.mem := by
  unfold State.postAllSlots
  split
  · rfl
  · exact State.foldl_mem _ (by exact fun _ _ => rfl) _ _
@[simp] theorem State.withdraw_mem (s : State) (corek cause : Nat) : (s.withdraw corek cause).mem = s.mem := rfl
@[simp] theorem State.abandonWait_mem (s : State) (slot : Nat) : (s.abandonWait slot).mem = s.mem := by
  simp [State.abandonWait]
@[simp] theorem State.clearIrq_mem (s : State) (slot cause : Nat) (all : Bool) :
    (s.clearIrq slot cause all).mem = s.mem := by
  simp [State.clearIrq]
@[simp] theorem State.interrupt_mem (s : State) (slot cause : Nat) (tval : Word) (all : Bool) :
    (s.interrupt slot cause tval all).mem = s.mem := by
  unfold State.interrupt
  dsimp only
  split <;> (try split) <;> (try split) <;> simp
@[simp] theorem State.closeSoon_mem (s : State) (die : Nat) : (s.closeSoon die).mem = s.mem := by
  simp [State.closeSoon]
@[simp] theorem State.slotSend_mem (s : State) (die : Nat) : (s.slotSend die).mem = s.mem := by simp [State.slotSend]
@[simp] theorem State.nextEntry_mem (s : State) (die : Nat) : (s.nextEntry die).mem = s.mem := by
  simp [State.nextEntry]
@[simp] theorem State.taperCycle_mem (s : State) (dev : Nat) : (s.taperCycle dev).mem = s.mem := by
  simp [State.taperCycle]
@[simp] theorem State.throttleCheck_mem (s : State) (die : Nat) : (s.throttleCheck die).mem = s.mem := by
  unfold State.throttleCheck
  dsimp only
  split
  · split
    · rw [State.foldl_mem _ (by exact fun _ _ => rfl), State.setDie_mem]
    · rfl
  · split <;> rfl
@[simp] theorem State.recall_mem (s : State) (die : Nat) : (s.recall die).mem = s.mem := rfl
@[simp] theorem State.repay_mem (s : State) (die : Nat) : (s.repay die).mem = s.mem := rfl
@[simp] theorem State.comparePowerAgain_mem (s : State) (die : Nat) : (s.comparePowerAgain die).mem = s.mem := by
  simp [State.comparePowerAgain]
@[simp] theorem State.ask_mem (s : State) (die so : Nat) : (s.ask die so).mem = s.mem := by
  unfold State.ask
  split <;> simp
@[simp] theorem State.settlePower_mem (s : State) (die : Nat) : (s.settlePower die).mem = s.mem := by
  unfold State.settlePower
  dsimp only
  split <;> simp
@[simp] theorem State.onQueue_mem (s : State) (die : Nat) (f : LaunchQ → LaunchQ) : (s.onQueue die f).mem = s.mem :=
  rfl
@[simp] theorem State.takeEntry_mem (s : State) (die : Nat) : (s.takeEntry die).mem = s.mem := by
  unfold State.takeEntry
  dsimp only
  split <;> (try split) <;> simp
@[simp] theorem State.clearDie_mem (s : State) (die : Nat) : (s.clearDie die).mem = s.mem := rfl
@[simp] theorem State.drawKeys_mem (s : State) (die : Nat) (agreed : Bool) : (s.drawKeys die agreed).mem = s.mem :=
  rfl
@[simp] theorem State.startDie_mem (s : State) (die : Nat) : (s.startDie die).mem = s.mem := by
  unfold State.startDie
  dsimp only
  rw [State.ite_mem, State.post_mem, ite_self]
  split
  · rfl
  · split
    · rw [State.foldl_mem _ (by exact fun _ _ => rfl)]
    · rfl
@[simp] theorem State.wakeRouters_mem (s : State) : (s.wakeRouters).mem = s.mem := rfl
@[simp] theorem State.fetchLine_mem (s : State) (slot pa : Nat) : (s.fetchLine slot pa).2.mem = s.mem := by
  unfold State.fetchLine
  dsimp only
  split
  · simp
  · split <;> simp
@[simp] theorem State.fillLine_mem (s : State) (slot : Nat) (va : Word) (pa : Nat) (user : Bool) :
    (s.fillLine slot va pa user).mem = s.mem := by
  simp [State.fillLine]
@[simp] theorem State.fetchFill_mem (s : State) (slot : Nat) (va : Word) : (s.fetchFill slot va).mem = s.mem := by
  unfold State.fetchFill
  dsimp only
  split
  · simp
  split
  · split <;> simp
  split
  · simp
  · simp
  split
  · simp
  split
  · simp
  · simp
  · split <;> simp
@[simp] theorem State.countWithheld_mem (s : State) (corek : Nat) : (s.countWithheld corek).mem = s.mem := by
  simp [State.countWithheld]
@[simp] theorem State.leaveRouter_mem (s : State) (slot : Nat) : (s.leaveRouter slot).mem = s.mem := by
  unfold State.leaveRouter
  split <;> simp
@[simp] theorem State.issueFrom_mem (s : State) (corek slot : Nat) : (s.issueFrom corek slot).mem = s.mem := by
  simp [State.issueFrom]
@[simp] theorem State.foldl_onSlot_mem {α : Type} (k : α → Nat) (f : α → Slot → Slot) (l : List α) (s : State) :
    (l.foldl (fun s a => s.onSlot (k a) (f a)) s).mem = s.mem := State.foldl_mem _ (by exact fun _ _ => rfl) _ _
@[simp] theorem State.answerMiss_mem (s : State) (ck : Nat) (m : Miss) (leaf : Word) :
    (s.answerMiss ck m leaf).mem = s.mem := by
  have h : (m.slots.foldl (fun s k => s.missDone k m) s).mem = s.mem := by simp
  unfold State.answerMiss
  dsimp only
  rw [State.ite_mem, State.engineAnswer_mem, ite_self]
  split
  · exact h
  · rw [State.foldl_mem _ (by exact fun _ _ => rfl), h]
@[simp] theorem State.tlbFill_mem (s : State) (ck : Nat) (asid : BitVec 9) (va : Nat) (leaf : Word) :
    (s.tlbFill ck asid va leaf).2.mem = s.mem := by simp [State.tlbFill]
theorem State.chunkStep_mem {Q : List Host.Cell → Prop} {body : EngOp → EM Unit}
    (hb : ∀ o, EM.Keeps (fun s => Q s.mem) (body o)) (s : State) (ck id : Nat) (h : Q s.mem) :
    Q (s.chunkStep ck id body).mem := by
  unfold State.chunkStep
  split
  · exact h
  next o _ =>
    split
    · exact h
    · have hr := hb o s h
      unfold EM.go at hr
      split
      next s1 hs =>
        rw [hs] at hr
        dsimp only
        split <;> simpa using hr
      next e s1 hs =>
        rw [hs] at hr
        simpa using hr
theorem State.oneStep_mem {Q : List Host.Cell → Prop} {body : EngOp → EM Nat}
    (hb : ∀ o, EM.Keeps (fun s => Q s.mem) (body o)) (s : State) (ck id : Nat) (h : Q s.mem) :
    Q (s.oneStep ck id body).mem := by
  unfold State.oneStep
  split
  · exact h
  next o _ =>
    split
    · exact h
    · have hr := hb o s h
      unfold EM.go at hr
      split
      next b s1 hs =>
        rw [hs] at hr
        simpa using hr
      next e s1 hs =>
        rw [hs] at hr
        simpa using hr

end Sys2Proof.Machine
end

section
/-!
SUPPORT. What writes memory keeps its canonical form: the stores at a home, and all that stores through them
(notes/assumptions 3).
-/

namespace Sys2Proof.Machine

/-! ### What keeps memory canonical -/

/-- The canonical form of memory: addresses strictly rising, and no byte listed that an unlisted address reads as. -/
def Memory.Canonical (m : List Host.Cell) : Prop := Memory.wf m = true

theorem State.foldl_canonical {α : Type} (f : State → α → State)
    (hf : ∀ s a, Memory.Canonical s.mem → Memory.Canonical (f s a).mem) (l : List α) (s : State)
    (h : Memory.Canonical s.mem) : Memory.Canonical (l.foldl f s).mem := by
  induction l generalizing s with
  | nil => exact h
  | cons a l ih => exact ih _ (hf s a h)
@[simp] theorem Memory.canonical_writeBytes (m : List Host.Cell) (pa v n : Nat) (h : Memory.Canonical m) :
    Memory.Canonical (writeBytes m pa v n) := writeBytes_wf m pa v n h
@[simp] theorem Memory.canonical_ite (p : Prop) [Decidable p] {m n : List Host.Cell} (hm : Memory.Canonical m)
    (hn : Memory.Canonical n) : Memory.Canonical (if p then m else n) := by split <;> assumption
@[simp] theorem State.storeTail_canonical (s : State) (pa n v : Nat) (h : Memory.Canonical s.mem) :
    Memory.Canonical (s.storeTail pa n v).mem := by
  simp [State.storeTail, h]
@[simp] theorem State.storeHome_canonical (s : State) (ck pa n v : Nat) (h : Memory.Canonical s.mem) :
    Memory.Canonical (s.storeHome ck pa n v).mem := by
  obtain heq | ⟨die, heq⟩ | ⟨es, heq⟩ := s.storeHome_cases ck pa n v <;> simp [heq, h]
theorem keeps_storeM_canonical (n : Nat) (v : Word) (sc : Option Nat) (va : Word) :
    M.Keeps (fun s => Memory.Canonical s.mem) (storeM n v sc va) := by
  unfold storeM
  refine keeps_bind keeps_here fun _ => keeps_bind (keeps_accessM_mem _ _ _ _) fun _ => ?_
  dsimp only
  split
  · refine keeps_bind (keeps_releaseM_mem _ _ _ _ _) fun _ => keeps_bind (keeps_readyM_mem _) fun _ =>
      keeps_bind (keeps_oobM_mem _ _) fun _ => ?_
    split
    · exact keeps_bind keeps_freshM_mem fun _ => keeps_bind (keeps_requestM_mem _ _ _ _ _ _ _) fun _ =>
        keeps_bind (keeps_onSlotM fun _ _ h => h) fun _ => keeps_bind (keeps_modS fun _ h => h) fun _ =>
        keeps_ite _ (keeps_underWayM_mem _ _) (keeps_pure _)
    · split
      · exact keeps_bind (keeps_modS fun _ h => by simp [h]) fun _ => keeps_bind keeps_getS fun _ =>
          keeps_ite _ (keeps_bind (keeps_requestM_mem _ _ _ _ _ _ _) fun _ => keeps_bind (keeps_modS fun _ h =>
          by simp [h]) fun _ => keeps_underWayM_mem _ _) (keeps_bind (keeps_mergeErrorM_mem _ _) fun _ =>
          keeps_modS fun _ h => by simp [h])
      · exact keeps_bind keeps_getS fun _ => keeps_ite _ (keeps_bind (keeps_requestM_mem _ _ _ _ _ _ _) fun _ =>
          keeps_bind (keeps_modS fun _ h => by simp [h]) fun _ =>
          keeps_underWayM_mem _ _) (keeps_bind (keeps_mergeErrorM_mem _ _) fun _ => keeps_modS fun _ h => by simp [h])
  · refine keeps_bind (keeps_readyM_mem _) fun _ => keeps_bind (keeps_oobM_mem _ _) fun _ => ?_
    split
    · exact keeps_bind keeps_freshM_mem fun _ => keeps_bind (keeps_requestM_mem _ _ _ _ _ _ _) fun _ =>
        keeps_bind (keeps_onSlotM fun _ _ h => h) fun _ => keeps_bind (keeps_modS fun _ h => h) fun _ =>
        keeps_ite _ (keeps_underWayM_mem _ _) (keeps_pure _)
    · split
      · exact keeps_bind (keeps_modS fun _ h => by simp [h]) fun _ => keeps_bind keeps_getS fun _ =>
          keeps_ite _ (keeps_bind (keeps_requestM_mem _ _ _ _ _ _ _) fun _ => keeps_bind (keeps_modS fun _ h =>
          by simp [h]) fun _ => keeps_underWayM_mem _ _) (keeps_bind (keeps_mergeErrorM_mem _ _) fun _ =>
          keeps_modS fun _ h => by simp [h])
      · exact keeps_bind keeps_getS fun _ => keeps_ite _ (keeps_bind (keeps_requestM_mem _ _ _ _ _ _ _) fun _ =>
          keeps_bind (keeps_modS fun _ h => by simp [h]) fun _ =>
          keeps_underWayM_mem _ _) (keeps_bind (keeps_mergeErrorM_mem _ _) fun _ => keeps_modS fun _ h => by simp [h])
@[simp] theorem State.atomicHome_canonical (s : State) (ck pa n op v v2 : Nat) (h : Memory.Canonical s.mem) :
    Memory.Canonical (s.atomicHome ck pa n op v v2).2.mem := by
  unfold State.atomicHome
  split
  · exact h
  · dsimp only
    split
    · exact State.storeHome_canonical _ _ _ _ _ h
    · exact h
theorem keeps_atomicM_canonical (x : FmtN) (op : Nat) : M.Keeps (fun s => Memory.Canonical s.mem) (atomicM x op) := by
  unfold atomicM
  exact keeps_bind keeps_here fun _ => keeps_bind (keeps_addressM_mem _ _) fun _ =>
    keeps_bind (keeps_rdCode _) fun _ => keeps_ite _ (keeps_bind (keeps_rdCode _) fun _ =>
    keeps_bind (keeps_accessM_mem _ _ _ _) fun _ => keeps_bind (keeps_readyM_mem _) fun _ =>
    keeps_ite _ (keeps_bind keeps_flightRoomM_mem fun _ => keeps_bind (keeps_oobM_mem _ _) fun _ =>
    keeps_bind keeps_freshM_mem fun _ => keeps_bind (keeps_requestM_mem _ _ _ _ _ _ _) fun _ =>
    keeps_bind (keeps_flyM_mem _ _ _) fun _ => keeps_bind (keeps_atomicAwayM_mem _) fun _ =>
    keeps_pure _) (keeps_getS_bind fun _ h => keeps_ite _ (keeps_bind (keeps_errorM_mem _) fun _ =>
    keeps_bind (keeps_oobM_mem _ _) fun _ => keeps_getS_bind fun _ h =>
    keeps_bind (keeps_setS (by simp [h])) fun _ => keeps_bind (keeps_wr_mem _ _) fun _ =>
    keeps_pure _) (keeps_ite _ (keeps_bind (keeps_keepM_mem _) fun _ => keeps_bind (keeps_oobM_mem _ _) fun _ =>
    keeps_bind (keeps_requestM_mem _ _ _ _ _ _ _) fun _ => keeps_bind keeps_getS fun _ =>
    keeps_bind (keeps_atomicAwayM_mem _) fun _ => keeps_bind (keeps_underWayM_mem _ _) fun _ =>
    keeps_pure _) (keeps_bind (keeps_oobM_mem _ _) fun _ => keeps_bind (keeps_requestM_mem _ _ _ _ _ _ _) fun _ =>
    keeps_bind keeps_getS fun _ => keeps_bind (keeps_atomicAwayM_mem _) fun _ =>
    keeps_bind (keeps_underWayM_mem _ _) fun _ => keeps_pure _)))) (keeps_bind (keeps_pure _) fun _ =>
    keeps_bind (keeps_accessM_mem _ _ _ _) fun _ => keeps_bind (keeps_readyM_mem _) fun _ =>
    keeps_ite _ (keeps_bind keeps_flightRoomM_mem fun _ => keeps_bind (keeps_oobM_mem _ _) fun _ =>
    keeps_bind keeps_freshM_mem fun _ => keeps_bind (keeps_requestM_mem _ _ _ _ _ _ _) fun _ =>
    keeps_bind (keeps_flyM_mem _ _ _) fun _ => keeps_bind (keeps_atomicAwayM_mem _) fun _ =>
    keeps_pure _) (keeps_getS_bind fun _ h => keeps_ite _ (keeps_bind (keeps_errorM_mem _) fun _ =>
    keeps_bind (keeps_oobM_mem _ _) fun _ => keeps_getS_bind fun _ h =>
    keeps_bind (keeps_setS (by simp [h])) fun _ => keeps_bind (keeps_wr_mem _ _) fun _ =>
    keeps_pure _) (keeps_ite _ (keeps_bind (keeps_keepM_mem _) fun _ => keeps_bind (keeps_oobM_mem _ _) fun _ =>
    keeps_bind (keeps_requestM_mem _ _ _ _ _ _ _) fun _ => keeps_bind keeps_getS fun _ =>
    keeps_bind (keeps_atomicAwayM_mem _) fun _ => keeps_bind (keeps_underWayM_mem _ _) fun _ =>
    keeps_pure _) (keeps_bind (keeps_oobM_mem _ _) fun _ => keeps_bind (keeps_requestM_mem _ _ _ _ _ _ _) fun _ =>
    keeps_bind keeps_getS fun _ => keeps_bind (keeps_atomicAwayM_mem _) fun _ =>
    keeps_bind (keeps_underWayM_mem _ _) fun _ => keeps_pure _))))
@[simp] theorem State.performNow_canonical (s : State) (q : PeerReq) (h : Memory.Canonical s.mem) :
    Memory.Canonical (s.performNow q).mem := by
  unfold State.performNow
  split <;> simp [h]
theorem keeps_plainLanesM_canonical (k : AccKind) (qs : List PeerReq) :
    M.Keeps (fun s => Memory.Canonical s.mem) (plainLanesM k qs) := by
  unfold plainLanesM
  refine keeps_bind keeps_here fun _ => keeps_forM (fun _ => ?_) _
  split
  · exact keeps_ite _ (keeps_bind keeps_freshM_mem fun _ => keeps_bind (keeps_modS fun _ h => h) fun _ =>
      keeps_onSlotM fun _ _ h => h) (keeps_bind (keeps_modS fun _ h => h) fun _ => keeps_onSlotM fun _ _ h => h)
  · exact keeps_bind keeps_getS fun _ => keeps_ite _ (keeps_bind (keeps_modS fun _ h => by simp [h]) fun _ =>
      keeps_onSlotM fun _ _ h => h) (keeps_modS fun _ h => by simp [h])
theorem keeps_vmemM_canonical (k : AccKind) (x : FmtV) (strided relaxed : Bool) :
    M.Keeps (fun s => Memory.Canonical s.mem) (vmemM k x strided relaxed) := by
  unfold vmemM
  exact keeps_bind (keeps_rdCode _) fun _ => keeps_bind (keeps_rdCode _) fun _ => keeps_bind (keeps_forM (fun _ =>
    keeps_prepV_mem _) _) fun _ => keeps_bind (keeps_xlateLanesM_mem _ _) fun _ =>
    keeps_bind (keeps_checkLanesM_mem _ _ _) fun _ => keeps_bind (keeps_forM (fun _ =>
    keeps_readyM_mem _) _) fun _ => keeps_ite _ (keeps_bind keeps_flightRoomM_mem fun _ =>
    keeps_ite _ (keeps_bind (keeps_keepLanesM_mem _ _) fun _ => keeps_bind (keeps_lanesReadyM_mem _ _) fun _ =>
    keeps_ite _ (keeps_bind keeps_freshM_mem fun _ => keeps_bind (keeps_mapM (fun _ =>
    keeps_laneReqM_mem _ _ _ _ _) _) fun _ => keeps_bind (keeps_relaxedLanesM_mem _ _ _ _) fun _ =>
    keeps_pure _) (keeps_bind (keeps_mapM (fun _ => keeps_laneReqM_mem _ _ _ _ _) _) fun _ =>
    keeps_bind (keeps_plainLanesM_canonical _ _) fun _ => keeps_pure _)) (keeps_bind (keeps_lanesReadyM_mem _ _) fun
    _ => keeps_ite _ (keeps_bind keeps_freshM_mem fun _ => keeps_bind (keeps_mapM (fun _ =>
    keeps_laneReqM_mem _ _ _ _ _) _) fun _ => keeps_bind (keeps_relaxedLanesM_mem _ _ _ _) fun _ =>
    keeps_pure _) (keeps_bind (keeps_mapM (fun _ => keeps_laneReqM_mem _ _ _ _ _) _) fun _ =>
    keeps_bind (keeps_plainLanesM_canonical _ _) fun _ => keeps_pure _))) (keeps_ite _ (keeps_bind
    (keeps_keepLanesM_mem _ _) fun _ => keeps_bind (keeps_lanesReadyM_mem _ _) fun _ =>
    keeps_ite _ (keeps_bind keeps_freshM_mem fun _ => keeps_bind (keeps_mapM (fun _ =>
    keeps_laneReqM_mem _ _ _ _ _) _) fun _ => keeps_bind (keeps_relaxedLanesM_mem _ _ _ _) fun _ =>
    keeps_pure _) (keeps_bind (keeps_mapM (fun _ => keeps_laneReqM_mem _ _ _ _ _) _) fun _ =>
    keeps_bind (keeps_plainLanesM_canonical _ _) fun _ => keeps_pure _)) (keeps_bind (keeps_lanesReadyM_mem _ _) fun
    _ => keeps_ite _ (keeps_bind keeps_freshM_mem fun _ => keeps_bind (keeps_mapM (fun _ =>
    keeps_laneReqM_mem _ _ _ _ _) _) fun _ => keeps_bind (keeps_relaxedLanesM_mem _ _ _ _) fun _ =>
    keeps_pure _) (keeps_bind (keeps_mapM (fun _ => keeps_laneReqM_mem _ _ _ _ _) _) fun _ =>
    keeps_bind (keeps_plainLanesM_canonical _ _) fun _ => keeps_pure _)))
@[simp] theorem State.armVigil_canonical (s0 : State) (line asid grp n b : Nat) (h : Memory.Canonical s0.mem) :
    Memory.Canonical (State.armVigil s0 line asid grp n b).mem := by
  simp [State.armVigil, h]
@[simp] theorem State.endVigil_canonical (s : State) (line st cause : Nat) (h : Memory.Canonical s.mem) :
    Memory.Canonical (s.endVigil line st cause).mem := by
  simp [State.endVigil, h]
@[simp] theorem State.breakVigil_canonical (s0 : State) (line cause : Nat) (h : Memory.Canonical s0.mem) :
    Memory.Canonical (State.breakVigil s0 line cause).mem := by
  simp [State.breakVigil, h]
@[simp] theorem State.setScratchN_canonical (s : State) (ck off n v : Nat) (h : Memory.Canonical s.mem) :
    Memory.Canonical (s.setScratchN ck off n v).mem := by
  simp [State.setScratchN, h]
@[simp] theorem State.storeLines_canonical (s : State) (ck off : Nat) (l : List Nat) (h : Memory.Canonical s.mem) :
    Memory.Canonical (s.storeLines ck off l).mem := by
  induction l generalizing s off with
  | nil => exact h
  | cons v t ih => exact ih _ _ (State.setScratchN_canonical s ck off 64 v h)
@[simp] theorem State.putElems_canonical (s : State) (ck : Nat) (l : List (CElem × Nat)) (h :
  Memory.Canonical s.mem) :
    Memory.Canonical (s.putElems ck l).mem := by
  induction l generalizing s with
  | nil => exact h
  | cons e t ih => exact ih _ (State.setScratchN_canonical s ck e.1.1 e.1.2 e.2 h)
theorem keeps_writeM_canonical (d : Coch) (rs : List (Nat × Nat × Fl × Bool)) :
    M.Keeps (fun s => Memory.Canonical s.mem) (writeM d rs) := by
  unfold writeM
  exact keeps_bind keeps_here fun _ => keeps_bind (keeps_needM _ _ _) fun _ => keeps_bind (keeps_modS fun _ h =>
    by simp [h]) fun _ => keeps_bind (keeps_flagM_mem _) fun _ => keeps_pure _
@[simp] theorem State.engStore_canonical (s : State) (pa : Nat) (bs : List Byte) (h : Memory.Canonical s.mem) :
    Memory.Canonical (s.engStore pa bs).mem := by
  simp [State.engStore, h]
@[simp] theorem State.storeRuns_canonical (s : State) (l : List (Nat × List Byte)) (h : Memory.Canonical s.mem) :
    Memory.Canonical (s.storeRuns l).mem := State.foldl_canonical _ (fun s r h =>
      State.engStore_canonical s r.1 r.2 h) _ _ h
theorem EM.keeps_writePieces_canonical (ck : Nat) (o : EngOp) (ps : List (Piece × List Byte)) :
    EM.Keeps (fun s => Memory.Canonical s.mem) (writePieces ck o ps) := by
  unfold writePieces
  exact EM.keeps_bind (EM.keeps_oobOp_mem _ _ _) fun _ => EM.keeps_bind (EM.keeps_streamM_mem _ _ _ _) fun _ =>
    EM.keeps_bind (EM.keeps_mergeCheckM_mem _ _) fun _ => EM.keeps_bind (EM.keeps_upd fun _ h =>
    by simp [h]) fun _ => EM.keeps_bind (EM.keeps_upd fun _ h => by simp [h]) fun _ => EM.keeps_upd fun _ h =>
    by simp [h]
@[simp] theorem State.foldl_engStore_canonical (l : List (Nat × List Byte)) (s : State) (h : Memory.Canonical s.mem) :
    Memory.Canonical (l.foldl (fun (s : State) p => s.engStore p.1 p.2) s).mem := State.foldl_canonical _ (fun s p
      h => State.engStore_canonical s p.1 p.2 h) l s h
theorem EM.keeps_moveUnitM_canonical (ck : Nat) (o : EngOp) (u : Nat) :
    EM.Keeps (fun s => Memory.Canonical s.mem) (moveUnitM ck o u) := by
  unfold moveUnitM
  exact EM.keeps_ite _ (EM.keeps_bind (EM.keeps_unitFailM_mem _ _ _ _) fun _ =>
    EM.keeps_bind (EM.keeps_piecesM_mem _ _ _ _ _ _) fun _ => EM.keeps_bind (EM.keeps_piecesM_mem _ _ _ _ _ _) fun
    _ => EM.keeps_ite _ (EM.keeps_bind (EM.keeps_throw _) fun _ => EM.keeps_ite _ (EM.keeps_ite _ (EM.keeps_bind
    (EM.keeps_unitFailM_mem _ _ _ _) fun _ => EM.keeps_ite _ (EM.keeps_bind (EM.keeps_piecesM_mem _ _ _ _ _ _) fun
    _ => EM.keeps_bind (EM.keeps_readPieces_mem _ _ _) fun _ => EM.keeps_bind (EM.keeps_unitWordsM_mem _ _ _ _) fun
    _ => EM.keeps_bind EM.keeps_state fun _ => EM.keeps_bind (EM.keeps_unitErrorsE_mem _ _ _) fun _ =>
    EM.keeps_bind (EM.keeps_upd fun _ h => by simp [h]) fun _ => EM.keeps_bind (EM.keeps_writePieces_canonical _ _ _)
    fun _ => EM.keeps_pure _) (EM.keeps_bind (EM.keeps_pure _) fun _ =>
    EM.keeps_bind (EM.keeps_readPieces_mem _ _ _) fun _ => EM.keeps_bind (EM.keeps_unitWordsM_mem _ _ _ _) fun _ =>
    EM.keeps_bind EM.keeps_state fun _ => EM.keeps_bind (EM.keeps_unitErrorsE_mem _ _ _) fun _ =>
    EM.keeps_bind (EM.keeps_upd fun _ h => by simp [h]) fun _ => EM.keeps_bind (EM.keeps_writePieces_canonical _ _ _)
    fun _ => EM.keeps_pure _)) (EM.keeps_ite _ (EM.keeps_bind (EM.keeps_piecesM_mem _ _ _ _ _ _) fun _ =>
    EM.keeps_bind (EM.keeps_readPieces_mem _ _ _) fun _ => EM.keeps_bind (EM.keeps_unitWordsM_mem _ _ _ _) fun _ =>
    EM.keeps_bind EM.keeps_state fun _ => EM.keeps_bind (EM.keeps_unitErrorsE_mem _ _ _) fun _ =>
    EM.keeps_bind (EM.keeps_upd fun _ h => by simp [h]) fun _ => EM.keeps_bind (EM.keeps_writePieces_canonical _ _ _)
    fun _ => EM.keeps_pure _) (EM.keeps_bind (EM.keeps_pure _) fun _ =>
    EM.keeps_bind (EM.keeps_readPieces_mem _ _ _) fun _ => EM.keeps_bind (EM.keeps_unitWordsM_mem _ _ _ _) fun _ =>
    EM.keeps_bind EM.keeps_state fun _ => EM.keeps_bind (EM.keeps_unitErrorsE_mem _ _ _) fun _ =>
    EM.keeps_bind (EM.keeps_upd fun _ h => by simp [h]) fun _ => EM.keeps_bind (EM.keeps_writePieces_canonical _ _ _)
    fun _ => EM.keeps_pure _))) (EM.keeps_bind (EM.keeps_readBelow_mem _ _ _) fun _ =>
    EM.keeps_bind (EM.keeps_unitWordsM_mem _ _ _ _) fun _ => EM.keeps_bind (EM.keeps_writePieces_canonical _ _ _) fun
    _ => EM.keeps_pure _)) (EM.keeps_ite _ (EM.keeps_ite _ (EM.keeps_bind (EM.keeps_unitFailM_mem _ _ _ _) fun _ =>
    EM.keeps_ite _ (EM.keeps_bind (EM.keeps_piecesM_mem _ _ _ _ _ _) fun _ =>
    EM.keeps_bind (EM.keeps_readPieces_mem _ _ _) fun _ => EM.keeps_bind (EM.keeps_unitWordsM_mem _ _ _ _) fun _ =>
    EM.keeps_bind EM.keeps_state fun _ => EM.keeps_bind (EM.keeps_unitErrorsE_mem _ _ _) fun _ =>
    EM.keeps_bind (EM.keeps_upd fun _ h => by simp [h]) fun _ => EM.keeps_bind (EM.keeps_writePieces_canonical _ _ _)
    fun _ => EM.keeps_pure _) (EM.keeps_bind (EM.keeps_pure _) fun _ =>
    EM.keeps_bind (EM.keeps_readPieces_mem _ _ _) fun _ => EM.keeps_bind (EM.keeps_unitWordsM_mem _ _ _ _) fun _ =>
    EM.keeps_bind EM.keeps_state fun _ => EM.keeps_bind (EM.keeps_unitErrorsE_mem _ _ _) fun _ =>
    EM.keeps_bind (EM.keeps_upd fun _ h => by simp [h]) fun _ => EM.keeps_bind (EM.keeps_writePieces_canonical _ _ _)
    fun _ => EM.keeps_pure _)) (EM.keeps_ite _ (EM.keeps_bind (EM.keeps_piecesM_mem _ _ _ _ _ _) fun _ =>
    EM.keeps_bind (EM.keeps_readPieces_mem _ _ _) fun _ => EM.keeps_bind (EM.keeps_unitWordsM_mem _ _ _ _) fun _ =>
    EM.keeps_bind EM.keeps_state fun _ => EM.keeps_bind (EM.keeps_unitErrorsE_mem _ _ _) fun _ =>
    EM.keeps_bind (EM.keeps_upd fun _ h => by simp [h]) fun _ => EM.keeps_bind (EM.keeps_writePieces_canonical _ _ _)
    fun _ => EM.keeps_pure _) (EM.keeps_bind (EM.keeps_pure _) fun _ =>
    EM.keeps_bind (EM.keeps_readPieces_mem _ _ _) fun _ => EM.keeps_bind (EM.keeps_unitWordsM_mem _ _ _ _) fun _ =>
    EM.keeps_bind EM.keeps_state fun _ => EM.keeps_bind (EM.keeps_unitErrorsE_mem _ _ _) fun _ =>
    EM.keeps_bind (EM.keeps_upd fun _ h => by simp [h]) fun _ => EM.keeps_bind (EM.keeps_writePieces_canonical _ _ _)
    fun _ => EM.keeps_pure _))) (EM.keeps_bind (EM.keeps_readBelow_mem _ _ _) fun _ =>
    EM.keeps_bind (EM.keeps_unitWordsM_mem _ _ _ _) fun _ => EM.keeps_bind (EM.keeps_writePieces_canonical _ _ _) fun
    _ => EM.keeps_pure _))) (EM.keeps_bind (EM.keeps_piecesM_mem _ _ _ _ _ _) fun _ =>
    EM.keeps_bind (EM.keeps_piecesM_mem _ _ _ _ _ _) fun _ => EM.keeps_ite _ (EM.keeps_bind (EM.keeps_throw _) fun
    _ => EM.keeps_ite _ (EM.keeps_ite _ (EM.keeps_bind (EM.keeps_unitFailM_mem _ _ _ _) fun _ =>
    EM.keeps_ite _ (EM.keeps_bind (EM.keeps_piecesM_mem _ _ _ _ _ _) fun _ =>
    EM.keeps_bind (EM.keeps_readPieces_mem _ _ _) fun _ => EM.keeps_bind (EM.keeps_unitWordsM_mem _ _ _ _) fun _ =>
    EM.keeps_bind EM.keeps_state fun _ => EM.keeps_bind (EM.keeps_unitErrorsE_mem _ _ _) fun _ =>
    EM.keeps_bind (EM.keeps_upd fun _ h => by simp [h]) fun _ => EM.keeps_bind (EM.keeps_writePieces_canonical _ _ _)
    fun _ => EM.keeps_pure _) (EM.keeps_bind (EM.keeps_pure _) fun _ =>
    EM.keeps_bind (EM.keeps_readPieces_mem _ _ _) fun _ => EM.keeps_bind (EM.keeps_unitWordsM_mem _ _ _ _) fun _ =>
    EM.keeps_bind EM.keeps_state fun _ => EM.keeps_bind (EM.keeps_unitErrorsE_mem _ _ _) fun _ =>
    EM.keeps_bind (EM.keeps_upd fun _ h => by simp [h]) fun _ => EM.keeps_bind (EM.keeps_writePieces_canonical _ _ _)
    fun _ => EM.keeps_pure _)) (EM.keeps_ite _ (EM.keeps_bind (EM.keeps_piecesM_mem _ _ _ _ _ _) fun _ =>
    EM.keeps_bind (EM.keeps_readPieces_mem _ _ _) fun _ => EM.keeps_bind (EM.keeps_unitWordsM_mem _ _ _ _) fun _ =>
    EM.keeps_bind EM.keeps_state fun _ => EM.keeps_bind (EM.keeps_unitErrorsE_mem _ _ _) fun _ =>
    EM.keeps_bind (EM.keeps_upd fun _ h => by simp [h]) fun _ => EM.keeps_bind (EM.keeps_writePieces_canonical _ _ _)
    fun _ => EM.keeps_pure _) (EM.keeps_bind (EM.keeps_pure _) fun _ =>
    EM.keeps_bind (EM.keeps_readPieces_mem _ _ _) fun _ => EM.keeps_bind (EM.keeps_unitWordsM_mem _ _ _ _) fun _ =>
    EM.keeps_bind EM.keeps_state fun _ => EM.keeps_bind (EM.keeps_unitErrorsE_mem _ _ _) fun _ =>
    EM.keeps_bind (EM.keeps_upd fun _ h => by simp [h]) fun _ => EM.keeps_bind (EM.keeps_writePieces_canonical _ _ _)
    fun _ => EM.keeps_pure _))) (EM.keeps_bind (EM.keeps_readBelow_mem _ _ _) fun _ =>
    EM.keeps_bind (EM.keeps_unitWordsM_mem _ _ _ _) fun _ => EM.keeps_bind (EM.keeps_writePieces_canonical _ _ _) fun
    _ => EM.keeps_pure _)) (EM.keeps_ite _ (EM.keeps_ite _ (EM.keeps_bind (EM.keeps_unitFailM_mem _ _ _ _) fun _ =>
    EM.keeps_ite _ (EM.keeps_bind (EM.keeps_piecesM_mem _ _ _ _ _ _) fun _ =>
    EM.keeps_bind (EM.keeps_readPieces_mem _ _ _) fun _ => EM.keeps_bind (EM.keeps_unitWordsM_mem _ _ _ _) fun _ =>
    EM.keeps_bind EM.keeps_state fun _ => EM.keeps_bind (EM.keeps_unitErrorsE_mem _ _ _) fun _ =>
    EM.keeps_bind (EM.keeps_upd fun _ h => by simp [h]) fun _ => EM.keeps_bind (EM.keeps_writePieces_canonical _ _ _)
    fun _ => EM.keeps_pure _) (EM.keeps_bind (EM.keeps_pure _) fun _ =>
    EM.keeps_bind (EM.keeps_readPieces_mem _ _ _) fun _ => EM.keeps_bind (EM.keeps_unitWordsM_mem _ _ _ _) fun _ =>
    EM.keeps_bind EM.keeps_state fun _ => EM.keeps_bind (EM.keeps_unitErrorsE_mem _ _ _) fun _ =>
    EM.keeps_bind (EM.keeps_upd fun _ h => by simp [h]) fun _ => EM.keeps_bind (EM.keeps_writePieces_canonical _ _ _)
    fun _ => EM.keeps_pure _)) (EM.keeps_ite _ (EM.keeps_bind (EM.keeps_piecesM_mem _ _ _ _ _ _) fun _ =>
    EM.keeps_bind (EM.keeps_readPieces_mem _ _ _) fun _ => EM.keeps_bind (EM.keeps_unitWordsM_mem _ _ _ _) fun _ =>
    EM.keeps_bind EM.keeps_state fun _ => EM.keeps_bind (EM.keeps_unitErrorsE_mem _ _ _) fun _ =>
    EM.keeps_bind (EM.keeps_upd fun _ h => by simp [h]) fun _ => EM.keeps_bind (EM.keeps_writePieces_canonical _ _ _)
    fun _ => EM.keeps_pure _) (EM.keeps_bind (EM.keeps_pure _) fun _ =>
    EM.keeps_bind (EM.keeps_readPieces_mem _ _ _) fun _ => EM.keeps_bind (EM.keeps_unitWordsM_mem _ _ _ _) fun _ =>
    EM.keeps_bind EM.keeps_state fun _ => EM.keeps_bind (EM.keeps_unitErrorsE_mem _ _ _) fun _ =>
    EM.keeps_bind (EM.keeps_upd fun _ h => by simp [h]) fun _ => EM.keeps_bind (EM.keeps_writePieces_canonical _ _ _)
    fun _ => EM.keeps_pure _))) (EM.keeps_bind (EM.keeps_readBelow_mem _ _ _) fun _ =>
    EM.keeps_bind (EM.keeps_unitWordsM_mem _ _ _ _) fun _ => EM.keeps_bind (EM.keeps_writePieces_canonical _ _ _) fun
    _ => EM.keeps_pure _)))
@[simp] theorem State.mergeAdd_canonical (s : State) (p : Piece) (merge v : Nat) (h : Memory.Canonical s.mem) :
    Memory.Canonical (s.mergeAdd p merge v).mem := by
  unfold State.mergeAdd
  dsimp only
  split <;> simp [h]
theorem EM.keeps_mergeM_canonical (ck : Nat) (o : EngOp) (write : Bool) (p : Piece) (bs : List Byte) :
    EM.Keeps (fun s => Memory.Canonical s.mem) (mergeM ck o write p bs) := by
  unfold mergeM
  exact EM.keeps_bind (EM.keeps_oobOp_mem _ _ _) fun _ => EM.keeps_ite _ (EM.keeps_ite _ (EM.keeps_bind
    (EM.keeps_throw _) fun _ => EM.keeps_bind (EM.keeps_streamM_mem _ _ _ _) fun _ =>
    EM.keeps_bind EM.keeps_state fun _ => EM.keeps_ite _ (EM.keeps_bind (EM.keeps_upd fun _ h =>
    by simp [h]) fun _ => EM.keeps_bind (EM.keeps_throw _) fun _ => EM.keeps_upd fun _ h =>
    by simp [h]) (EM.keeps_upd fun _ h => by simp [h])) (EM.keeps_bind (EM.keeps_streamM_mem _ _ _ _) fun _ =>
    EM.keeps_bind EM.keeps_state fun _ => EM.keeps_ite _ (EM.keeps_bind (EM.keeps_upd fun _ h =>
    by simp [h]) fun _ => EM.keeps_bind (EM.keeps_throw _) fun _ => EM.keeps_upd fun _ h =>
    by simp [h]) (EM.keeps_upd fun _ h => by simp [h]))) (EM.keeps_ite _ (EM.keeps_bind (EM.keeps_throw _) fun _ =>
    EM.keeps_bind EM.keeps_state fun _ => EM.keeps_bind (EM.keeps_errorsE_mem _ _ _) fun _ => EM.keeps_upd fun _ h =>
    by simp [h]) (EM.keeps_bind EM.keeps_state fun _ => EM.keeps_bind (EM.keeps_errorsE_mem _ _ _) fun _ =>
    EM.keeps_upd fun _ h => by simp [h]))
theorem EM.keeps_moveM_canonical (ck : Nat) (o : EngOp) (l hi : Nat) :
    EM.Keeps (fun s => Memory.Canonical s.mem) (moveM ck o l hi) := by
  unfold moveM
  refine EM.keeps_bind EM.keeps_state fun _ => EM.keeps_ite _ (EM.keeps_bind (EM.keeps_upd fun _ h =>
    by simp [h]) fun _ => EM.keeps_bind (EM.keeps_errorsE_mem _ _ _) fun _ => EM.keeps_bind (EM.keeps_mapM (fun _ =>
    ?_) _) fun _ => EM.keeps_bind (EM.keeps_mapM (fun _ => EM.keeps_piecesM_mem _ _ _ _ _ _) _) fun _ =>
    EM.keeps_bind (EM.keeps_readPieces_mem _ _ _) fun _ =>
    EM.keeps_ite _ (EM.keeps_bind (EM.keeps_writePieces_canonical _ _ _) fun _ =>
    EM.keeps_pure _) (EM.keeps_ite _ (EM.keeps_bind (EM.keeps_forM (fun _ =>
    EM.keeps_mergeM_canonical _ _ _ _ _) _) fun _ => EM.keeps_pure _) (EM.keeps_bind (EM.keeps_forM (fun _ =>
    EM.keeps_mergeM_canonical _ _ _ _ _) _) fun _ => EM.keeps_pure _))) (EM.keeps_bind (EM.keeps_errorsE_mem _ _ _)
    fun _ => EM.keeps_bind (EM.keeps_mapM (fun _ => ?_) _) fun _ => EM.keeps_bind (EM.keeps_mapM (fun _ =>
    EM.keeps_piecesM_mem _ _ _ _ _ _) _) fun _ => EM.keeps_bind (EM.keeps_readPieces_mem _ _ _) fun _ =>
    EM.keeps_ite _ (EM.keeps_bind (EM.keeps_writePieces_canonical _ _ _) fun _ =>
    EM.keeps_pure _) (EM.keeps_ite _ (EM.keeps_bind (EM.keeps_forM (fun _ =>
    EM.keeps_mergeM_canonical _ _ _ _ _) _) fun _ => EM.keeps_pure _) (EM.keeps_bind (EM.keeps_forM (fun _ =>
    EM.keeps_mergeM_canonical _ _ _ _ _) _) fun _ => EM.keeps_pure _)))
  · split
    · exact EM.keeps_piecesM_mem _ _ _ _ _ _
    · exact EM.keeps_pure _
  · split
    · exact EM.keeps_piecesM_mem _ _ _ _ _ _
    · exact EM.keeps_pure _
@[simp] theorem State.copyStep_canonical (s : State) (ck id : Nat) (h : Memory.Canonical s.mem) :
    Memory.Canonical (s.copyStep ck id).mem := by
  unfold State.copyStep
  split
  · exact h
  next o _ =>
  split
  · exact h
  split
  · exact h
  have hb : EM.Keeps (fun s => Memory.Canonical s.mem) (do
      vigilMemberM ck o
      if o.conv then moveUnitM ck o o.next else moveM ck o o.next (s.request ck o o.next).1) :=
    EM.keeps_bind (EM.keeps_vigilMemberM_mem _ _) fun _ =>
      EM.keeps_ite _ (EM.keeps_moveUnitM_canonical _ _ _) (EM.keeps_moveM_canonical _ _ _ _)
  have hr := hb s h
  unfold EM.go at hr
  dsimp only
  split
  next b s1 hs =>
    rw [hs] at hr
    simpa using hr
  next e s1 hs =>
    rw [hs] at hr
    simpa using hr
@[simp] theorem State.setLocalN_canonical (s : State) (corek off n v : Nat) (h : Memory.Canonical s.mem) :
    Memory.Canonical (s.setLocalN corek off n v).mem := by
  simp [State.setLocalN, h]
@[simp] theorem State.setRingHead_canonical (s : State) (slot k v : Nat) (h : Memory.Canonical s.mem) :
    Memory.Canonical (s.setRingHead slot k v).mem := by
  simp [State.setRingHead, h]
/-- The request that a halo operation carries on next (R326): an element between the buffer and the scratchpad. -/
def haloBody (ck : Nat) (o : EngOp) : EM Unit := do
  vigilMemberM ck o
  let ps ← piecesM ck o (decide (o.cmd = 1)) false (o.f 148 57 + o.coch.esize * o.next) o.coch.esize
  let near : Piece := ⟨0, scratchPa ck (o.coch.off (o.idx.getD o.next 0)), o.coch.esize, false, false⟩
  if o.cmd = 1 then do
    let d ← readPieces ck { o with image := none } [near]
    writePieces ck { o with image := none } (overPieces ps d.flatten)
  else do
    let d ← readPieces ck { o with image := none } ps
    writePieces ck { o with image := none } [(near, d.flatten)]
theorem EM.keeps_haloBody_canonical (ck : Nat) (o : EngOp) :
    EM.Keeps (fun s => Memory.Canonical s.mem) (haloBody ck o) := by
  unfold haloBody
  exact EM.keeps_bind (EM.keeps_vigilMemberM_mem _ _) fun _ => EM.keeps_bind (EM.keeps_piecesM_mem _ _ _ _ _ _) fun
    _ => EM.keeps_ite _ (EM.keeps_bind (EM.keeps_readPieces_mem _ _ _) fun _ =>
    EM.keeps_writePieces_canonical _ _ _) (EM.keeps_bind (EM.keeps_readPieces_mem _ _ _) fun _ =>
    EM.keeps_writePieces_canonical _ _ _)
@[simp] theorem State.haloStep_canonical (s : State) (ck id : Nat) (ev : Event) (h : Memory.Canonical s.mem) :
    Memory.Canonical (s.haloStep ck id ev).mem := by
  unfold State.haloStep
  split
  · exact h
  next o _ =>
  split
  · exact h
  have hr := EM.keeps_haloBody_canonical ck o s h
  unfold EM.go haloBody at hr
  dsimp only at hr ⊢
  split
  next b s1 hs =>
    rw [hs] at hr
    split <;> simpa using hr
  next e s1 hs =>
    rw [hs] at hr
    simpa using hr
@[simp] theorem State.shapeFor_canonical (s : State) (corek : Nat) (w : Wick) (h : Memory.Canonical s.mem) :
    Memory.Canonical (s.shapeFor corek w).mem := by
  unfold State.shapeFor
  split
  · exact h
  · split
    · exact h
    · rw [State.onCore_mem]
      exact State.setLocalN_canonical _ _ _ _ _ h
@[simp] theorem State.pass_canonical (s : State) (ck : Nat) (h : Memory.Canonical s.mem) :
    Memory.Canonical (s.pass ck).mem := by
  unfold State.pass
  split
  · exact h
  · simp only [State.post_mem, State.postNext_mem, State.missRetry_mem, State.onCore_mem]
    exact State.shapeFor_canonical _ _ _ h
@[simp] theorem State.clearRings_canonical (s : State) (slot : Nat) (h : Memory.Canonical s.mem) :
    Memory.Canonical (s.clearRings slot).mem := by
  simp [State.clearRings, h]
@[simp] theorem State.enterWick_canonical (s : State) (slot : Nat) (w : Wick) (h : Memory.Canonical s.mem) :
    Memory.Canonical (s.enterWick slot w).mem := by
  simp [State.enterWick, h]
@[simp] theorem State.fill_canonical (s : State) (slot : Nat) (h : Memory.Canonical s.mem) :
    Memory.Canonical (s.fill slot).mem := by
  unfold State.fill
  dsimp only
  split
  · exact h
  split
  · rw [State.post_mem, State.post_mem]
    exact State.enterWick_canonical _ _ _ h
  · exact h
@[simp] theorem State.storeReq_canonical (s : State) (ck : Nat) (q : PeerReq) (h : Memory.Canonical s.mem) :
    Memory.Canonical (s.storeReq ck q).mem := by
  unfold State.storeReq
  split <;> simp [h]
@[simp] theorem State.performNear_canonical (s : State) (corek cycle : Nat) (q : PeerReq)
    (h : Memory.Canonical s.mem) :
    Memory.Canonical (s.performNear corek cycle q).mem := by
  unfold State.performNear
  split <;> (try split) <;> simp [h]
@[simp] theorem State.relaxedStep_canonical (s : State) (corek id pa : Nat) (dst : RegDst) (v : Option Nat) (h :
  Memory.Canonical s.mem) :
    Memory.Canonical (s.relaxedStep corek id pa dst v).mem := by
  unfold State.relaxedStep
  split
  · exact h
  next f _ =>
  rw [State.endFlight_mem]
  split
  · exact State.foldl_canonical _ (fun s q h => State.performNear_canonical s corek f.cycle q h) _ _ h
  · simp [h]
@[simp] theorem State.perform_canonical (s : State) (ck : Nat) (q : PeerReq) (h : Memory.Canonical s.mem) :
    Memory.Canonical (s.perform ck q).mem := by
  unfold State.perform
  split <;> (try split) <;> simp [h]
@[simp] theorem State.grantWord_canonical (s : State) (dev word : Nat) (h : Memory.Canonical s.mem) :
    Memory.Canonical (s.grantWord dev word).mem := by
  unfold State.grantWord
  split <;> (try split) <;> simp [h]
@[simp] theorem State.peerPerform_canonical (s : State) (q : PeerReq) (h : Memory.Canonical s.mem) :
    Memory.Canonical (s.peerPerform q).mem := by
  unfold State.peerPerform
  split <;> (try split) <;> (try split) <;> simp [h]
@[simp] theorem State.peerLands_canonical (s : State) (q : PeerReq) (h : Memory.Canonical s.mem) :
    Memory.Canonical (s.peerLands q).mem := by
  unfold State.peerLands
  split <;> simp [h]
@[simp] theorem State.peerArrives_canonical (s : State) (q : PeerReq) (h : Memory.Canonical s.mem) :
    Memory.Canonical (s.peerArrives q).mem := by
  simp [State.peerArrives, h]
@[simp] theorem State.requestWrite_canonical (s : State) (merge : Nat) (q : LanternReq) (t : Tab Byte) (h :
  Memory.Canonical s.mem) :
    Memory.Canonical (s.requestWrite merge q t).mem := by
  unfold State.requestWrite
  split
  · exact State.storeRuns_canonical _ _ h
  · exact State.foldl_canonical _ (fun s j h => State.mergeAdd_canonical s _ _ _ h) _ _ h
@[simp] theorem State.takeRequest_canonical (s : State) (dev : Nat) (q : LanternReq) (h : Memory.Canonical s.mem) :
    Memory.Canonical (s.takeRequest dev q).mem := by
  have h1 : Memory.Canonical (s.engServe q.pa).mem := by simpa using h
  unfold State.takeRequest
  dsimp only
  split
  · simpa using h1
  split
  · simpa using h1
  · simp only [State.ite_mem, State.requestFails_mem]
    exact Memory.canonical_ite _ h1 (Memory.canonical_ite _ (State.requestWrite_canonical _ _ _ _ h1) h1)
@[simp] theorem State.storeList_canonical (s : State) (pa : Nat) (bs : List Byte) (h : Memory.Canonical s.mem) :
    Memory.Canonical (s.storeList pa bs).mem := by
  simp [State.storeList, h]
@[simp] theorem State.writeBeacon_canonical (s : State) (dev stack ctl : Nat) (h : Memory.Canonical s.mem) :
    Memory.Canonical (s.writeBeacon dev stack ctl).mem := by
  simp [State.writeBeacon, h]
@[simp] theorem State.openIfZero_canonical (s : State) (line : Nat) (h : Memory.Canonical s.mem) :
    Memory.Canonical (s.openIfZero line).mem := by
  simp [State.openIfZero, h]
@[simp] theorem State.arriveVigil_canonical (s0 : State) (line epoch n : Nat) (h : Memory.Canonical s0.mem) :
    Memory.Canonical (State.arriveVigil s0 line epoch n).mem := by
  unfold State.arriveVigil
  dsimp only
  split <;> (try split) <;> (try split) <;> simp [h]
@[simp] theorem State.landVigil_canonical (s0 : State) (line b : Nat) (h : Memory.Canonical s0.mem) :
    Memory.Canonical (State.landVigil s0 line b).mem := by
  unfold State.landVigil
  dsimp only
  split <;> (try split) <;> (try split) <;> simp [h]
@[simp] theorem State.appendRecord_canonical (s : State) (die : Nat) (r : WickRec) (h : Memory.Canonical s.mem) :
    Memory.Canonical (s.appendRecord die r).mem := by
  simp [State.appendRecord, h]
@[simp] theorem State.failRecord_canonical (s : State) (die : Nat) (r : WickRec) (h : Memory.Canonical s.mem) :
    Memory.Canonical (s.failRecord die r).mem := by
  simp [State.failRecord, h]
@[simp] theorem State.failEnter_canonical (s : State) (die : Nat) (w : Wick) (h : Memory.Canonical s.mem) :
    Memory.Canonical (s.failEnter die w).mem := by
  unfold State.failEnter
  split <;> simp [h]
@[simp] theorem State.admitFailure_canonical (s : State) (die : Nat) (f : FailWait) (h : Memory.Canonical s.mem) :
    Memory.Canonical (s.admitFailure die f).mem := by
  unfold State.admitFailure
  dsimp only
  split <;> (try split) <;> simp [h]
@[simp] theorem State.admitFailures_canonical (s : State) (die : Nat) (l : List FailWait) (h :
  Memory.Canonical s.mem) :
    Memory.Canonical (s.admitFailures die l).mem := by
  induction l generalizing s with
  | nil => exact h
  | cons f t ih =>
    unfold State.admitFailures
    split
    · exact h
    · exact ih _ (State.admitFailure_canonical s die f h)
@[simp] theorem State.drainOverflow_canonical (s : State) (die n : Nat) (h : Memory.Canonical s.mem) :
    Memory.Canonical (s.drainOverflow die n).mem := by
  induction n generalizing s with
  | zero => exact h
  | succ n ih =>
    unfold State.drainOverflow
    split
    · exact h
    · split
      · exact h
      · exact ih _ (State.appendRecord_canonical s die _ h)
@[simp] theorem State.zeroStack_canonical (s : State) (die : Nat) (h : Memory.Canonical s.mem) :
    Memory.Canonical (s.zeroStack die).mem := Tab.wf_filter _ _ h
@[simp] theorem State.sizeWord_canonical (s : State) (die : Nat) (h : Memory.Canonical s.mem) :
    Memory.Canonical (s.sizeWord die).mem := by
  simp [State.sizeWord, h]
@[simp] theorem State.bringUp_canonical (s : State) (die : Nat) (h : Memory.Canonical s.mem) :
    Memory.Canonical (s.bringUp die).mem := by
  unfold State.bringUp
  dsimp only
  split
  · rw [State.foldl_mem _ (by exact fun _ _ => rfl)]
    exact State.sizeWord_canonical _ _ h
  · split <;> exact h
@[simp] theorem State.verified_canonical (s : State) (die : Nat) (image : List Byte) (signed : Bool) (h :
  Memory.Canonical s.mem) :
    Memory.Canonical (s.verified die image signed).mem := by
  unfold State.verified
  simp only [State.startDie_mem]
  split
  · refine State.foldl_canonical _ (fun s d h => State.sizeWord_canonical s d h) _ _ (State.bringUp_canonical _ _ ?_)
    simpa using State.zeroStack_canonical s die h
  · exact State.bringUp_canonical _ _ h
@[simp] theorem State.routerPerforms_canonical (s : State) (q : PeerReq) (h : Memory.Canonical s.mem) :
    Memory.Canonical (s.routerPerforms q).mem := by
  unfold State.routerPerforms
  split <;> simp [h]
@[simp] theorem State.routerLets_canonical (s : State) (q : PeerReq) (h : Memory.Canonical s.mem) :
    Memory.Canonical (s.routerLets q).mem := by
  unfold State.routerLets
  split <;> simp [h]
@[simp] theorem State.releaseRouter_canonical (s : State) (die : Nat) (h : Memory.Canonical s.mem) :
    Memory.Canonical (s.releaseRouter die).mem := State.foldl_canonical _ (fun s q h =>
      State.routerLets_canonical s q h) _ _ h
@[simp] theorem State.setRingTail_canonical (s : State) (slot k v : Nat) (h : Memory.Canonical s.mem) :
    Memory.Canonical (s.setRingTail slot k v).mem := by
  simp [State.setRingTail, h]
@[simp] theorem State.mxFree_canonical (s : State) (corek : Nat) (o : MxOp) (h : Memory.Canonical s.mem) :
    Memory.Canonical (s.mxFree corek o).mem := State.foldl_canonical _ (fun s k h => by simp [h]) _ _ h
@[simp] theorem State.storeTile_canonical (s : State) (ck off fmt rm : Nat) (t : Tab Nat)
    (h : Memory.Canonical s.mem) : Memory.Canonical (s.storeTile ck off fmt rm t).mem :=
  State.foldl_canonical _ (fun s _ h => State.setScratchN_canonical s _ _ _ _ h) _ _ h
@[simp] theorem State.mxWrite_canonical (s : State) (corek : Nat) (o : MxOp) (h : Memory.Canonical s.mem) :
    Memory.Canonical (s.mxWrite corek o).mem := by
  unfold State.mxWrite
  dsimp only
  split
  · rw [State.ringWritten_mem]
    exact State.setRingHead_canonical _ _ _ _ (State.storeTile_canonical _ _ _ _ _ _ h)
  · exact h
@[simp] theorem State.mxRetire_canonical (s : State) (corek : Nat) (h : Memory.Canonical s.mem) :
    Memory.Canonical (s.mxRetire corek).mem := by
  unfold State.mxRetire
  dsimp only
  split
  · exact h
  next o t _ =>
  have h1 := State.mxFree_canonical _ corek o (State.mxWrite_canonical s corek o h)
  split <;> split <;> simpa using h1
/-- What is left of an operation that ends: its ring's head moved on, or nothing of memory. -/
theorem State.completeOp_canonical (s : State) (ck id code0 : Nat) (h : Memory.Canonical s.mem) :
    Memory.Canonical (s.completeOp ck id code0).mem := by
  unfold State.completeOp
  split
  · exact h
  next o _ =>
  rw [State.visit_mem]
  cases o.push with
  | none => cases o.vigil <;> dsimp only <;> split <;> (try split) <;> simp [h]
  | some p =>
    cases o.vigil <;>
      simp only [State.nextPushes_mem, State.ite_mem, State.wakeDev_mem, ite_self, State.wakeCluster_mem,
        State.settleAll_mem, State.writeToken_mem, State.post_mem, State.ringWritten_mem] <;>
      exact Memory.canonical_ite _ (State.setRingHead_canonical _ _ _ _ h) h

end Sys2Proof.Machine
end

section
/-!
SUPPORT. Memory after the arms of the dispatch: those that store nothing keep every property of it, the others its
canonical form.
-/

namespace Sys2Proof.Machine

/-! ### Memory after a step's arm -/

/-- What holds of memory in the state that an arm answers, if it answers one. -/
def MemAfter (Q : List Host.Cell → Prop) (o : Out) : Prop := ∀ t, o = .next t → Q t.mem

section
variable {Q : List Host.Cell → Prop} {s : State}

@[simp] theorem memAfter_next (t : State) : MemAfter Q (.next t) ↔ Q t.mem :=
  ⟨fun h => h t rfl, fun h _ ht => Host.Outcome.next.inj ht ▸ h⟩
@[simp] theorem memAfter_fault (f : Fault) : MemAfter Q (.fault f) :=
  fun _ ht => Host.Outcome.noConfusion rfl rfl rfl (heq_of_eq ht)
@[simp] theorem memAfter_refused (f : Refusal) : MemAfter Q (.refused f) :=
  fun _ ht => Host.Outcome.noConfusion rfl rfl rfl (heq_of_eq ht)
theorem memAfter_runInstr {i : Instr} {body : M Flow} (h : Q s.mem) (hb : M.Keeps (fun u => Q u.mem) body) :
    MemAfter Q (runInstr i s body) := fun _ ht => runInstr_keeps_mem h hb ht
end

theorem memAfter_binary {Q : List Host.Cell → Prop} {s : State} (h : Q s.mem) (i : Instr) (x : FmtA)
    (f : Word → Word → Word × Fl) :
    MemAfter Q (binary i x f s) := by
  unfold binary
  refine memAfter_runInstr h ?_
  exact keeps_bind (keeps_rd _) fun _ => keeps_bind (keeps_rd _) fun _ => keeps_result_mem _ _ _
theorem memAfter_division {Q : List Host.Cell → Prop} {s : State} (h : Q s.mem) (i : Instr) (x : FmtA)
    (f : Word → Word → Word) :
    MemAfter Q (division i x f s) := by
  unfold division
  refine memAfter_runInstr h ?_
  exact keeps_bind (keeps_rd _) fun _ => keeps_bind (keeps_rd _) fun _ => keeps_bind (keeps_needM _ _ _) fun _ =>
    keeps_result_mem _ _ _
theorem memAfter_unary {Q : List Host.Cell → Prop} {s : State} (h : Q s.mem) (i : Instr) (x : FmtA)
    (f : Word → Word × Fl) :
    MemAfter Q (unary i x f s) := by
  unfold unary
  refine memAfter_runInstr h ?_
  exact keeps_bind (keeps_rd _) fun _ => keeps_result_mem _ _ _
theorem memAfter_immediate {Q : List Host.Cell → Prop} {s : State} (h : Q s.mem) (i : Instr) (x : FmtI)
    (f : Word → BitVec 15 → Word) :
    MemAfter Q (immediate i x f s) := by
  unfold immediate
  refine memAfter_runInstr h ?_
  exact keeps_bind (keeps_rd _) fun _ => keeps_result_mem _ _ _
theorem memAfter_ternary {Q : List Host.Cell → Prop} {s : State} (h : Q s.mem) (i : Instr) (x : FmtA)
    (f : Word → Word → Word → Word × Fl) :
    MemAfter Q (ternary i x f s) := by
  unfold ternary
  refine memAfter_runInstr h ?_
  exact keeps_bind (keeps_rd _) fun _ => keeps_bind (keeps_rd _) fun _ => keeps_bind (keeps_rdCode _) fun _ =>
    keeps_result_mem _ _ _
theorem memAfter_compare {Q : List Host.Cell → Prop} {s : State} (h : Q s.mem) (i : Instr) (x : FmtC)
    (c : Word → Word → Bool) :
    MemAfter Q (compare i x c s) := by
  unfold compare
  refine memAfter_runInstr h ?_
  exact keeps_bind (keeps_rd _) fun _ => keeps_bind (keeps_rd _) fun _ => keeps_bind (keeps_onSlotM fun _ _ h =>
    h) fun _ => keeps_pure _
theorem memAfter_execMovRdp {Q : List Host.Cell → Prop} {s : State} (h : Q s.mem) (x : FmtA) :
    MemAfter Q (execMovRdp x s) := by
  unfold execMovRdp
  refine memAfter_runInstr h ?_
  exact keeps_bind keeps_slotM fun _ => keeps_result_mem _ _ _
theorem memAfter_execMovWrp {Q : List Host.Cell → Prop} {s : State} (h : Q s.mem) (x : FmtA) :
    MemAfter Q (execMovWrp x s) := by
  unfold execMovWrp
  refine memAfter_runInstr h ?_
  exact keeps_bind (keeps_rd _) fun _ => keeps_bind (keeps_rd _) fun _ => keeps_bind (keeps_onSlotM fun _ _ h =>
    h) fun _ => keeps_pure _
theorem memAfter_execSysRw {Q : List Host.Cell → Prop} {s : State} (h : Q s.mem) (x : FmtS) :
    MemAfter Q (execSysRw x s) := by
  unfold execSysRw
  refine memAfter_runInstr h ?_
  exact keeps_bind (keeps_rd _) fun _ => keeps_bind keeps_here fun _ => keeps_bind keeps_getS fun _ =>
    keeps_bind (keeps_prepDst _) fun _ => keeps_ite _ (keeps_bind (keeps_modS fun _ h => by simpa using h) fun _ =>
    keeps_bind (keeps_wr_mem _ _) fun _ => keeps_pure _) (keeps_bind (keeps_wr_mem _ _) fun _ => keeps_pure _)
theorem memAfter_execSchedWrite {Q : List Host.Cell → Prop} {s : State} (h : Q s.mem) :
    MemAfter Q (execSchedWrite s) := by
  unfold execSchedWrite
  split <;> simp [h]
theorem memAfter_execBr {Q : List Host.Cell → Prop} {s : State} (h : Q s.mem) (x : FmtB) :
    MemAfter Q (execBr x s) := by
  unfold execBr
  refine memAfter_runInstr h ?_
  exact keeps_bind keeps_slotM fun _ => keeps_pure _
theorem memAfter_execBrLink {Q : List Host.Cell → Prop} {s : State} (h : Q s.mem) (x : FmtB) :
    MemAfter Q (execBrLink x s) := by
  unfold execBrLink
  refine memAfter_runInstr h ?_
  exact keeps_bind (keeps_prepDst _) fun _ => keeps_bind keeps_slotM fun _ => keeps_bind (keeps_onSlotM fun _ _ h =>
    h) fun _ => keeps_pure _
theorem memAfter_execJmpJr {Q : List Host.Cell → Prop} {s : State} (h : Q s.mem) (x : FmtA) :
    MemAfter Q (execJmpJr x s) := by
  unfold execJmpJr
  refine memAfter_runInstr h ?_
  exact keeps_bind (keeps_jmpTarget_mem _ _) fun _ => keeps_ite _ (keeps_bind (keeps_onSlotM fun _ _ h => h) fun _ =>
    keeps_pure _) (keeps_pure _)
theorem memAfter_execJmpJl {Q : List Host.Cell → Prop} {s : State} (h : Q s.mem) (x : FmtA) :
    MemAfter Q (execJmpJl x s) := by
  unfold execJmpJl
  refine memAfter_runInstr h ?_
  exact keeps_bind (keeps_jmpTarget_mem _ _) fun _ => keeps_bind (keeps_prepDst _) fun _ =>
    keeps_bind keeps_slotM fun _ => keeps_ite _ (keeps_bind (keeps_onSlotM fun _ _ h => h) fun _ =>
    keeps_bind (keeps_wr_mem _ _) fun _ => keeps_pure _) (keeps_bind (keeps_wr_mem _ _) fun _ => keeps_pure _)
theorem memAfter_execWkSpawn {Q : List Host.Cell → Prop} {s : State} (h : Q s.mem) (x : FmtA) :
    MemAfter Q (execWkSpawn x s) := by
  unfold execWkSpawn
  refine memAfter_runInstr h ?_
  exact keeps_bind keeps_here fun _ => keeps_bind keeps_slotM fun _ => keeps_bind (keeps_rd _) fun _ =>
    keeps_bind (keeps_prepDst _) fun _ => keeps_bind (keeps_readLineM_mem _) fun _ =>
    keeps_ite _ (keeps_bind (keeps_needM _ _ _) fun _ => keeps_bind (keeps_needM _ _ _) fun _ =>
    keeps_bind (keeps_releaseDevM_mem _) fun _ => keeps_bind keeps_getS fun _ =>
    keeps_ite _ (keeps_bind (keeps_waitM _) fun _ => keeps_bind (keeps_modS fun _ h => by simpa using h) fun _ =>
    keeps_bind keeps_linesDoneM_mem fun _ => keeps_bind (keeps_wr_mem _ _) fun _ =>
    keeps_pure _) (keeps_bind (keeps_modS fun _ h => by simpa using h) fun _ =>
    keeps_bind keeps_linesDoneM_mem fun _ => keeps_bind (keeps_wr_mem _ _) fun _ =>
    keeps_pure _)) (keeps_bind keeps_linesDoneM_mem fun _ => keeps_bind (keeps_wr_mem _ _) fun _ => keeps_pure _)
theorem memAfter_execWkMigr {Q : List Host.Cell → Prop} {s : State} (h : Q s.mem) (x : FmtA) :
    MemAfter Q (execWkMigr x s) := by
  unfold execWkMigr
  refine memAfter_runInstr h ?_
  refine keeps_bind keeps_here fun _ => keeps_bind (keeps_rd _) fun _ => keeps_bind (keeps_xlateM_mem _ _) fun _ =>
    keeps_bind (keeps_needM _ _ _) fun _ => keeps_bind keeps_slotM fun _ => ?_
  dsimp only
  split
  · exact keeps_trapM _ _
  · exact keeps_bind (keeps_needM _ _ _) fun _ => keeps_bind (keeps_suspendM_mem _) fun _ =>
      keeps_bind keeps_commitReadsM_mem fun _ => keeps_bind keeps_slotM fun _ => keeps_bind keeps_getS fun _ =>
      keeps_bind (keeps_modS fun _ h => h) fun _ => keeps_leaveM_mem
theorem memAfter_execWkWaitw {Q : List Host.Cell → Prop} {s : State} (h : Q s.mem) (x : FmtA) :
    MemAfter Q (execWkWaitw x s) := by
  unfold execWkWaitw
  refine memAfter_runInstr h ?_
  exact keeps_bind keeps_taperOutputM_mem fun _ => keeps_bind (keeps_suspendM_mem _) fun _ =>
    keeps_bind keeps_taperEndM_mem fun _ => keeps_bind (keeps_onSlotM fun _ _ h => h) fun _ => keeps_leaveM_mem
theorem memAfter_execWkSusp {s : State} (h : Memory.Canonical s.mem) (x : FmtA) :
    MemAfter Memory.Canonical (execWkSusp x s) := by
  unfold execWkSusp
  refine memAfter_runInstr h ?_
  exact keeps_bind keeps_here fun _ => keeps_bind (keeps_rd _) fun _ => keeps_bind keeps_taperOutputM_mem fun _ =>
    keeps_bind (keeps_suspendM_mem _) fun _ => keeps_bind (keeps_accessM_mem _ _ _ _) fun _ =>
    keeps_bind (keeps_readyM_mem _) fun _ => keeps_bind (keeps_oobM_mem _ _) fun _ =>
    keeps_bind keeps_commitReadsM_mem fun _ => keeps_bind keeps_slotM fun _ =>
    keeps_ite _ (keeps_bind (keeps_onSlotM fun _ _ h => h) fun _ => keeps_bind (keeps_peerTakeM_mem _ _ _) fun _ =>
    keeps_ite _ (keeps_bind (keeps_modS fun _ h => by simp [h]) fun _ => keeps_bind keeps_taperEndM_mem fun _ =>
    keeps_bind (keeps_modS fun _ h => by simp [h]) fun _ => keeps_leaveM_mem) (keeps_bind keeps_taperEndM_mem fun
    _ => keeps_bind (keeps_modS fun _ h => by simp [h]) fun _ => keeps_leaveM_mem)) (keeps_bind (keeps_peerTakeM_mem
    _ _ _) fun _ => keeps_ite _ (keeps_bind (keeps_modS fun _ h => by simp [h]) fun _ =>
    keeps_bind keeps_taperEndM_mem fun _ => keeps_bind (keeps_modS fun _ h => by simp [h]) fun _ =>
    keeps_leaveM_mem) (keeps_bind keeps_taperEndM_mem fun _ => keeps_bind (keeps_modS fun _ h =>
    by simp [h]) fun _ => keeps_leaveM_mem))
theorem memAfter_execWkDone {Q : List Host.Cell → Prop} {s : State} (h : Q s.mem) (x : FmtA) :
    MemAfter Q (execWkDone x s) := by
  unfold execWkDone
  refine memAfter_runInstr h ?_
  exact keeps_bind keeps_taperOutputM_mem fun _ => keeps_bind (keeps_suspendM_mem _) fun _ =>
    keeps_bind keeps_taperEndM_mem fun _ => keeps_leaveM_mem
theorem memAfter_execWkSnuffSelf {Q : List Host.Cell → Prop} {s : State} (h : Q s.mem) (x : FmtA) :
    MemAfter Q (execWkSnuffSelf x s) := by
  unfold execWkSnuffSelf
  refine memAfter_runInstr h ?_
  exact keeps_bind (keeps_rd _) fun _ => keeps_bind keeps_commitReadsM_mem fun _ => keeps_failM _ _
theorem memAfter_execWkSnuff {s : State} (h : Memory.Canonical s.mem) (x : FmtA) :
    MemAfter Memory.Canonical (execWkSnuff x s) := by
  unfold execWkSnuff
  refine memAfter_runInstr h ?_
  refine keeps_bind keeps_here fun _ => keeps_bind (keeps_rd _) fun _ => keeps_bind (keeps_rd _) fun _ =>
    keeps_bind (keeps_prepDst _) fun _ => keeps_bind (keeps_accessM_mem _ _ _ _) fun _ =>
    keeps_bind keeps_slotM fun _ => ?_
  dsimp only
  split
  · exact keeps_ite _ (keeps_bind (keeps_modS fun _ h => by simp [h]) fun _ =>
      keeps_bind keeps_linesDoneM_mem fun _ => keeps_bind (keeps_wr_mem _ _) fun _ =>
      keeps_pure _) (keeps_bind keeps_linesDoneM_mem fun _ => keeps_bind (keeps_wr_mem _ _) fun _ => keeps_pure _)
  · exact keeps_bind (keeps_readyM_mem _) fun _ => keeps_ite _ (keeps_bind (keeps_peerLineM_mem _ _ _) fun _ =>
      keeps_bind (keeps_oobM_mem _ _) fun _ => keeps_bind (keeps_errorsM_mem _ _) fun _ =>
      keeps_bind (keeps_modS fun _ h => by simp [h]) fun _ => keeps_bind keeps_getS fun _ =>
      keeps_ite _ (keeps_bind (keeps_modS fun _ h => by simp [h]) fun _ => keeps_bind (keeps_modS fun _ h =>
      by simp [h]) fun _ => keeps_bind (keeps_wr_mem _ _) fun _ => keeps_pure _) (keeps_bind (keeps_wr_mem _ _) fun
      _ => keeps_pure _)) (keeps_bind (keeps_oobM_mem _ _) fun _ => keeps_bind (keeps_errorsM_mem _ _) fun _ =>
      keeps_bind (keeps_modS fun _ h => by simp [h]) fun _ => keeps_bind keeps_getS fun _ =>
      keeps_ite _ (keeps_bind (keeps_modS fun _ h => by simp [h]) fun _ => keeps_bind (keeps_modS fun _ h =>
      by simp [h]) fun _ => keeps_bind (keeps_wr_mem _ _) fun _ => keeps_pure _) (keeps_bind (keeps_wr_mem _ _) fun
      _ => keeps_pure _))
theorem memAfter_execWkLaunch {Q : List Host.Cell → Prop} {s : State} (h : Q s.mem) (x : FmtA) :
    MemAfter Q (execWkLaunch x s) := by
  unfold execWkLaunch
  refine memAfter_runInstr h ?_
  refine keeps_bind keeps_here fun _ => keeps_bind keeps_slotM fun _ => keeps_bind (keeps_rd _) fun _ =>
    keeps_bind (keeps_readLineM_mem _) fun _ => keeps_bind (keeps_readLineM_mem _) fun _ => ?_
  dsimp only
  split
  · exact keeps_trapM _ _
  · exact keeps_bind (keeps_releaseDevM_mem _) fun _ => keeps_bind keeps_getS fun _ =>
      keeps_ite _ (keeps_bind (keeps_waitM _) fun _ => keeps_bind (keeps_modS fun _ h => by simpa using h) fun _ =>
      keeps_bind keeps_linesDoneM_mem fun _ => keeps_pure _) (keeps_bind (keeps_modS fun _ h =>
      by simpa using h) fun _ => keeps_bind keeps_linesDoneM_mem fun _ => keeps_pure _)
theorem memAfter_execWkPrio {Q : List Host.Cell → Prop} {s : State} (h : Q s.mem) (x : FmtA) :
    MemAfter Q (execWkPrio x s) := by
  unfold execWkPrio
  refine memAfter_runInstr h ?_
  exact keeps_bind (keeps_rd _) fun _ => keeps_bind (keeps_prepDst _) fun _ => keeps_bind keeps_slotM fun _ =>
    keeps_bind (keeps_onSlotM fun _ _ h => h) fun _ => keeps_bind (keeps_wr_mem _ _) fun _ => keeps_pure _
theorem memAfter_execLd {Q : List Host.Cell → Prop} {s : State} (h : Q s.mem) (x : FmtL) :
    MemAfter Q (execLd x s) := by
  unfold execLd
  refine memAfter_runInstr h ?_
  exact keeps_bind (keeps_addressM_mem _ _) fun _ => keeps_ite _ (keeps_bind (keeps_loadRelaxedM_mem _ _ _ _) fun
    _ => keeps_pure _) (keeps_bind (keeps_loadM_mem _ _ _ _ _) fun _ => keeps_pure _)
theorem memAfter_execLdAcq {Q : List Host.Cell → Prop} {s : State} (h : Q s.mem) (x : FmtQ) :
    MemAfter Q (execLdAcq x s) := by
  unfold execLdAcq
  refine memAfter_runInstr h ?_
  exact keeps_bind (keeps_addressM_mem _ _) fun _ => keeps_bind (keeps_loadM_mem _ _ _ _ _) fun _ => keeps_pure _
theorem memAfter_execSt {s : State} (h : Memory.Canonical s.mem) (x : FmtL) :
    MemAfter Memory.Canonical (execSt x s) := by
  unfold execSt
  refine memAfter_runInstr h ?_
  exact keeps_bind (keeps_addressM_mem _ _) fun _ => keeps_bind (keeps_rdCode _) fun _ =>
    keeps_ite _ (keeps_bind (keeps_storeRelaxedM_mem _ _ _) fun _ =>
    keeps_pure _) (keeps_bind (keeps_storeM_canonical _ _ _ _) fun _ => keeps_pure _)
theorem memAfter_execStRel {s : State} (h : Memory.Canonical s.mem) (x : FmtQ) :
    MemAfter Memory.Canonical (execStRel x s) := by
  unfold execStRel
  refine memAfter_runInstr h ?_
  exact keeps_bind (keeps_addressM_mem _ _) fun _ => keeps_bind (keeps_rdCode _) fun _ =>
    keeps_bind (keeps_storeM_canonical _ _ _ _) fun _ => keeps_pure _
theorem memAfter_execAmoAdd {s : State} (h : Memory.Canonical s.mem) (x : FmtN) :
    MemAfter Memory.Canonical (execAmoAdd x s) := by
  unfold execAmoAdd
  refine memAfter_runInstr h ?_
  exact keeps_atomicM_canonical _ _
theorem memAfter_execAmoAnd {s : State} (h : Memory.Canonical s.mem) (x : FmtN) :
    MemAfter Memory.Canonical (execAmoAnd x s) := by
  unfold execAmoAnd
  refine memAfter_runInstr h ?_
  exact keeps_atomicM_canonical _ _
theorem memAfter_execAmoOr {s : State} (h : Memory.Canonical s.mem) (x : FmtN) :
    MemAfter Memory.Canonical (execAmoOr x s) := by
  unfold execAmoOr
  refine memAfter_runInstr h ?_
  exact keeps_atomicM_canonical _ _
theorem memAfter_execAmoXor {s : State} (h : Memory.Canonical s.mem) (x : FmtN) :
    MemAfter Memory.Canonical (execAmoXor x s) := by
  unfold execAmoXor
  refine memAfter_runInstr h ?_
  exact keeps_atomicM_canonical _ _
theorem memAfter_execAmoMin {s : State} (h : Memory.Canonical s.mem) (x : FmtN) :
    MemAfter Memory.Canonical (execAmoMin x s) := by
  unfold execAmoMin
  refine memAfter_runInstr h ?_
  exact keeps_atomicM_canonical _ _
theorem memAfter_execAmoMax {s : State} (h : Memory.Canonical s.mem) (x : FmtN) :
    MemAfter Memory.Canonical (execAmoMax x s) := by
  unfold execAmoMax
  refine memAfter_runInstr h ?_
  exact keeps_atomicM_canonical _ _
theorem memAfter_execAmoMinz {s : State} (h : Memory.Canonical s.mem) (x : FmtN) :
    MemAfter Memory.Canonical (execAmoMinz x s) := by
  unfold execAmoMinz
  refine memAfter_runInstr h ?_
  exact keeps_atomicM_canonical _ _
theorem memAfter_execAmoMaxz {s : State} (h : Memory.Canonical s.mem) (x : FmtN) :
    MemAfter Memory.Canonical (execAmoMaxz x s) := by
  unfold execAmoMaxz
  refine memAfter_runInstr h ?_
  exact keeps_atomicM_canonical _ _
theorem memAfter_execAmoSwap {s : State} (h : Memory.Canonical s.mem) (x : FmtN) :
    MemAfter Memory.Canonical (execAmoSwap x s) := by
  unfold execAmoSwap
  refine memAfter_runInstr h ?_
  exact keeps_atomicM_canonical _ _
theorem memAfter_execAmoCas {s : State} (h : Memory.Canonical s.mem) (x : FmtN) :
    MemAfter Memory.Canonical (execAmoCas x s) := by
  unfold execAmoCas
  refine memAfter_runInstr h ?_
  exact keeps_atomicM_canonical _ _
theorem memAfter_execAmoFadd {s : State} (h : Memory.Canonical s.mem) (x : FmtN) :
    MemAfter Memory.Canonical (execAmoFadd x s) := by
  unfold execAmoFadd
  refine memAfter_runInstr h ?_
  exact keeps_atomicM_canonical _ _
theorem memAfter_execFenceAll {Q : List Host.Cell → Prop} {s : State} (h : Q s.mem) (x : FmtZ) :
    MemAfter Q (execFenceAll x s) := by
  unfold execFenceAll
  refine memAfter_runInstr h ?_
  exact keeps_fenceM_mem _ _ _
theorem memAfter_execFenceSt {Q : List Host.Cell → Prop} {s : State} (h : Q s.mem) (x : FmtZ) :
    MemAfter Q (execFenceSt x s) := by
  unfold execFenceSt
  refine memAfter_runInstr h ?_
  exact keeps_fenceM_mem _ _ _
theorem memAfter_execFenceLd {Q : List Host.Cell → Prop} {s : State} (h : Q s.mem) (x : FmtZ) :
    MemAfter Q (execFenceLd x s) := by
  unfold execFenceLd
  refine memAfter_runInstr h ?_
  exact keeps_fenceM_mem _ _ _
theorem memAfter_execMonArm {Q : List Host.Cell → Prop} {s : State} (h : Q s.mem) (x : FmtA) :
    MemAfter Q (execMonArm x s) := by
  unfold execMonArm
  refine memAfter_runInstr h ?_
  refine keeps_bind keeps_here fun _ => keeps_bind (keeps_rd _) fun _ => keeps_bind (keeps_xlateM_mem _ _) fun _ =>
    keeps_bind keeps_getS fun _ => ?_
  split
  · exact keeps_trapM _ _
  · refine keeps_bind (keeps_prepDst _) fun _ => keeps_bind keeps_slotM fun _ => ?_
    split
    · exact keeps_bind (keeps_onSlotM fun _ _ h => h) fun _ => keeps_bind (keeps_wr_mem _ _) fun _ => keeps_pure _
    · exact keeps_bind (keeps_onSlotM fun _ _ h => h) fun _ => keeps_bind (keeps_wr_mem _ _) fun _ => keeps_pure _
    · exact keeps_trapM _ _
theorem memAfter_execMonDis {Q : List Host.Cell → Prop} {s : State} (h : Q s.mem) (x : FmtA) :
    MemAfter Q (execMonDis x s) := by
  unfold execMonDis
  refine memAfter_runInstr h ?_
  exact keeps_bind (keeps_rd _) fun _ => keeps_bind (keeps_onSlotM fun _ _ h => h) fun _ => keeps_pure _
theorem memAfter_execMonWait {Q : List Host.Cell → Prop} {s : State} (h : Q s.mem) (x : FmtA) :
    MemAfter Q (execMonWait x s) := by
  unfold execMonWait
  refine memAfter_runInstr h ?_
  exact keeps_bind (keeps_rd _) fun _ => keeps_bind (keeps_prepDst _) fun _ => keeps_bind keeps_slotM fun _ =>
    keeps_bind keeps_coreM fun _ => keeps_ite _ (keeps_trapM _ _) (keeps_ite _ (keeps_bind (keeps_onSlotM fun _ _
    h => h) fun _ => keeps_bind (keeps_wr_mem _ _) fun _ => keeps_pure _) (keeps_waitM _))
theorem memAfter_execMonClr {Q : List Host.Cell → Prop} {s : State} (h : Q s.mem) (x : FmtA) :
    MemAfter Q (execMonClr x s) := by
  unfold execMonClr
  refine memAfter_runInstr h ?_
  exact keeps_bind (keeps_rd _) fun _ => keeps_bind (keeps_onSlotM fun _ _ h => h) fun _ => keeps_pure _
theorem memAfter_vecLanes {Q : List Host.Cell → Prop} {s : State} (h : Q s.mem) (i : Instr) (x : FmtV) (f : LaneFn) :
    MemAfter Q (vecLanes i x f s) := by
  unfold vecLanes
  refine memAfter_runInstr h ?_
  exact keeps_bind (keeps_rdV_mem _) fun _ => keeps_bind (keeps_rdV_mem _) fun _ =>
    keeps_bind (keeps_rdV_mem _) fun _ => keeps_bind (keeps_wrV_mem _ _) fun _ =>
    keeps_bind (keeps_flagM_mem _) fun _ => keeps_pure _
theorem memAfter_vecLanes1 {Q : List Host.Cell → Prop} {s : State} (h : Q s.mem) (i : Instr) (x : FmtV) (f : LaneFn) :
    MemAfter Q (vecLanes1 i x f s) := by
  unfold vecLanes1
  refine memAfter_runInstr h ?_
  exact keeps_bind (keeps_rdV_mem _) fun _ => keeps_bind (keeps_prepV_mem _) fun _ =>
    keeps_bind (keeps_wrV_mem _ _) fun _ => keeps_bind (keeps_flagM_mem _) fun _ => keeps_pure _
theorem memAfter_execVecSel {Q : List Host.Cell → Prop} {s : State} (h : Q s.mem) (x : FmtV) :
    MemAfter Q (execVecSel x s) := by
  unfold execVecSel
  refine memAfter_runInstr h ?_
  exact keeps_bind (keeps_rdV_mem _) fun _ => keeps_bind (keeps_rdV_mem _) fun _ =>
    keeps_bind (keeps_rdV_mem _) fun _ => keeps_bind (keeps_wrV_mem _ _) fun _ => keeps_pure _
theorem memAfter_execVecShuf {Q : List Host.Cell → Prop} {s : State} (h : Q s.mem) (x : FmtV) :
    MemAfter Q (execVecShuf x s) := by
  unfold execVecShuf
  refine memAfter_runInstr h ?_
  exact keeps_bind (keeps_rdV_mem _) fun _ => keeps_bind (keeps_rdV_mem _) fun _ =>
    keeps_bind (keeps_prepV_mem _) fun _ => keeps_bind (keeps_wrV_mem _ _) fun _ => keeps_pure _
theorem memAfter_execVecBcast {Q : List Host.Cell → Prop} {s : State} (h : Q s.mem) (x : FmtV) :
    MemAfter Q (execVecBcast x s) := by
  unfold execVecBcast
  refine memAfter_runInstr h ?_
  exact keeps_bind (keeps_rdV_mem _) fun _ => keeps_bind (keeps_prepV_mem _) fun _ =>
    keeps_bind (keeps_wrV_mem _ _) fun _ => keeps_pure _
theorem memAfter_vecReduce {Q : List Host.Cell → Prop} {s : State} (h : Q s.mem) (i : Instr) (x : FmtV)
    (ff : Nat → Nat → Nat × Fl) (fi : ℤ → ℤ → ℤ) :
    MemAfter Q (vecReduce i x ff fi s) := by
  unfold vecReduce
  refine memAfter_runInstr h ?_
  exact keeps_bind (keeps_rdV_mem _) fun _ => keeps_bind (keeps_prepV_mem _) fun _ =>
    keeps_bind (keeps_wrV_mem _ _) fun _ => keeps_bind (keeps_flagM_mem _) fun _ => keeps_pure _
theorem memAfter_execVecCvt {Q : List Host.Cell → Prop} {s : State} (h : Q s.mem) (x : FmtV) :
    MemAfter Q (execVecCvt x s) := by
  unfold execVecCvt
  refine memAfter_runInstr h ?_
  exact keeps_bind (keeps_mapM (fun _ => keeps_rdV_mem _) _) fun _ => keeps_bind (keeps_forM (fun _ =>
    keeps_prepV_mem _) _) fun _ => keeps_bind (keeps_wrGroup_mem _ _ _ _ _) fun _ =>
    keeps_bind (keeps_flagM_mem _) fun _ => keeps_pure _
theorem memAfter_execVecScale {Q : List Host.Cell → Prop} {s : State} (h : Q s.mem) (x : FmtV) :
    MemAfter Q (execVecScale x s) := by
  unfold execVecScale
  refine memAfter_runInstr h ?_
  exact keeps_bind (keeps_rdV_mem _) fun _ => keeps_bind (keeps_rdV_mem _) fun _ => keeps_bind (keeps_forM (fun _ =>
    keeps_prepV_mem _) _) fun _ => keeps_bind (keeps_needM _ _ _) fun _ =>
    keeps_bind (keeps_wrGroup_mem _ _ _ _ _) fun _ => keeps_bind (keeps_flagM_mem _) fun _ => keeps_pure _
theorem memAfter_execVldC {s : State} (h : Memory.Canonical s.mem) (x : FmtV) :
    MemAfter Memory.Canonical (execVldC x s) := by
  unfold execVldC
  refine memAfter_runInstr h ?_
  exact keeps_vmemM_canonical _ _ _ _
theorem memAfter_execVldS {s : State} (h : Memory.Canonical s.mem) (x : FmtV) :
    MemAfter Memory.Canonical (execVldS x s) := by
  unfold execVldS
  refine memAfter_runInstr h ?_
  exact keeps_vmemM_canonical _ _ _ _
theorem memAfter_execVldCR {s : State} (h : Memory.Canonical s.mem) (x : FmtV) :
    MemAfter Memory.Canonical (execVldCR x s) := by
  unfold execVldCR
  refine memAfter_runInstr h ?_
  exact keeps_vmemM_canonical _ _ _ _
theorem memAfter_execVldSR {s : State} (h : Memory.Canonical s.mem) (x : FmtV) :
    MemAfter Memory.Canonical (execVldSR x s) := by
  unfold execVldSR
  refine memAfter_runInstr h ?_
  exact keeps_vmemM_canonical _ _ _ _
theorem memAfter_execVstC {s : State} (h : Memory.Canonical s.mem) (x : FmtV) :
    MemAfter Memory.Canonical (execVstC x s) := by
  unfold execVstC
  refine memAfter_runInstr h ?_
  exact keeps_vmemM_canonical _ _ _ _
theorem memAfter_execVstS {s : State} (h : Memory.Canonical s.mem) (x : FmtV) :
    MemAfter Memory.Canonical (execVstS x s) := by
  unfold execVstS
  refine memAfter_runInstr h ?_
  exact keeps_vmemM_canonical _ _ _ _
theorem memAfter_execVstCR {s : State} (h : Memory.Canonical s.mem) (x : FmtV) :
    MemAfter Memory.Canonical (execVstCR x s) := by
  unfold execVstCR
  refine memAfter_runInstr h ?_
  exact keeps_vmemM_canonical _ _ _ _
theorem memAfter_execVstSR {s : State} (h : Memory.Canonical s.mem) (x : FmtV) :
    MemAfter Memory.Canonical (execVstSR x s) := by
  unfold execVstSR
  refine memAfter_runInstr h ?_
  exact keeps_vmemM_canonical _ _ _ _
theorem memAfter_execVgthG {s : State} (h : Memory.Canonical s.mem) (x : FmtV) :
    MemAfter Memory.Canonical (execVgthG x s) := by
  unfold execVgthG
  refine memAfter_runInstr h ?_
  exact keeps_bind (keeps_rdCode _) fun _ => keeps_bind (keeps_rdV_mem _) fun _ =>
    keeps_bind (keeps_prepV_mem _) fun _ => keeps_bind (keeps_xlateLanesM_mem _ _) fun _ =>
    keeps_bind (keeps_checkLanesM_mem _ _ _) fun _ => keeps_bind (keeps_keepLanesM_mem _ _) fun _ =>
    keeps_bind (keeps_lanesReadyM_mem _ _) fun _ => keeps_bind (keeps_mapM (fun _ =>
    keeps_laneReqM_mem _ _ _ _ _) _) fun _ => keeps_bind (keeps_plainLanesM_canonical _ _) fun _ => keeps_pure _
theorem memAfter_execVgthGt {s : State} (h : Memory.Canonical s.mem) (x : FmtV) :
    MemAfter Memory.Canonical (execVgthGt x s) := by
  unfold execVgthGt
  refine memAfter_runInstr h ?_
  exact keeps_bind (keeps_rdCode _) fun _ => keeps_bind (keeps_rdV_mem _) fun _ =>
    keeps_bind (keeps_prepV_mem _) fun _ => keeps_bind (keeps_mapM (fun _ => keeps_gatherXlateM_mem _) _) fun _ =>
    keeps_bind (keeps_checkLanesM_mem _ _ _) fun _ => keeps_bind (keeps_keepLanesM_mem _ _) fun _ =>
    keeps_bind (keeps_lanesReadyM_mem _ _) fun _ => keeps_bind (keeps_mapM (fun _ =>
    keeps_laneReqM_mem _ _ _ _ _) _) fun _ => keeps_bind (keeps_plainLanesM_canonical _ _) fun _ =>
    keeps_bind (keeps_onSlotM fun _ _ h => h) fun _ => keeps_bind (keeps_onSlotM fun _ _ h => h) fun _ => keeps_pure _
theorem memAfter_execEnqWt {Q : List Host.Cell → Prop} {s : State} (h : Q s.mem) (x : FmtE) :
    MemAfter Q (execEnqWt x s) := by
  unfold execEnqWt
  refine memAfter_runInstr h ?_
  exact keeps_enqFlow_mem _ _ _
theorem memAfter_execEnqTry {Q : List Host.Cell → Prop} {s : State} (h : Q s.mem) (x : FmtE) :
    MemAfter Q (execEnqTry x s) := by
  unfold execEnqTry
  refine memAfter_runInstr h ?_
  exact keeps_enqFlow_mem _ _ _
theorem memAfter_execEnqRoomRetry {Q : List Host.Cell → Prop} {s : State} (h : Q s.mem) :
    MemAfter Q (execEnqRoomRetry s) := by
  unfold execEnqRoomRetry
  dsimp only
  split <;> (try split) <;> (try split) <;> simp [h]
theorem memAfter_execVgInit {s : State} (h : Memory.Canonical s.mem) (x : FmtA) :
    MemAfter Memory.Canonical (execVgInit x s) := by
  unfold execVgInit
  refine memAfter_runInstr h ?_
  exact keeps_bind keeps_slotM fun _ => keeps_bind (keeps_rd _) fun _ => keeps_bind (keeps_rd _) fun _ =>
    keeps_bind (keeps_rdCode _) fun _ => keeps_bind (keeps_vigilCheckM_mem _ _) fun _ =>
    keeps_bind (keeps_needM _ _ _) fun _ => keeps_bind (keeps_readyM_mem _) fun _ => keeps_bind keeps_getS fun _ =>
    keeps_bind (keeps_needM _ _ _) fun _ => keeps_bind (keeps_vigilReadyM_mem _) fun _ =>
    keeps_bind (keeps_modS fun _ h => by simp [h]) fun _ => keeps_pure _
theorem memAfter_execVgJoin {Q : List Host.Cell → Prop} {s : State} (h : Q s.mem) (x : FmtA) :
    MemAfter Q (execVgJoin x s) := by
  unfold execVgJoin
  refine memAfter_runInstr h ?_
  exact keeps_bind (keeps_rd _) fun _ => keeps_bind (keeps_prepDst _) fun _ => keeps_bind keeps_slotM fun _ =>
    keeps_bind (keeps_needM _ _ _) fun _ => keeps_bind (keeps_onSlotM fun _ _ h => h) fun _ =>
    keeps_bind (keeps_wr_mem _ _) fun _ => keeps_pure _
theorem memAfter_execVgLeave {Q : List Host.Cell → Prop} {s : State} (h : Q s.mem) (x : FmtA) :
    MemAfter Q (execVgLeave x s) := by
  unfold execVgLeave
  refine memAfter_runInstr h ?_
  exact keeps_bind (keeps_prepDst _) fun _ => keeps_bind keeps_slotM fun _ => keeps_bind (keeps_needM _ _ _) fun _ =>
    keeps_bind (keeps_onSlotM fun _ _ h => h) fun _ => keeps_bind (keeps_wr_mem _ _) fun _ => keeps_pure _
theorem memAfter_execVgArr {Q : List Host.Cell → Prop} {s : State} (h : Q s.mem) (x : FmtA) :
    MemAfter Q (execVgArr x s) := by
  unfold execVgArr
  refine memAfter_runInstr h ?_
  exact keeps_bind (keeps_rd _) fun _ => keeps_bind (keeps_vigilM_mem _ _) fun _ =>
    keeps_bind (keeps_arriveM_mem _ _) fun _ => keeps_pure _
theorem memAfter_execVgWait {Q : List Host.Cell → Prop} {s : State} (h : Q s.mem) (x : FmtA) :
    MemAfter Q (execVgWait x s) := by
  unfold execVgWait
  refine memAfter_runInstr h ?_
  exact keeps_bind (keeps_rd _) fun _ => keeps_bind (keeps_prepDst _) fun _ =>
    keeps_noticedM_mem _ _ (keeps_bind (keeps_vigilM_mem _ _) fun _ => keeps_awaitM_mem _ _ _)
theorem memAfter_execVgArrw {Q : List Host.Cell → Prop} {s : State} (h : Q s.mem) (x : FmtA) :
    MemAfter Q (execVgArrw x s) := by
  unfold execVgArrw
  refine memAfter_runInstr h ?_
  exact keeps_bind (keeps_rd _) fun _ => keeps_bind (keeps_prepDst _) fun _ =>
    keeps_noticedM_mem _ _ (keeps_bind (keeps_vigilM_mem _ _) fun _ => keeps_bind (keeps_arriveM_mem _ _) fun _ =>
    keeps_bind (keeps_onSlotM fun _ _ h => h) fun _ => keeps_awaitM_mem _ _ _)
theorem memAfter_execVgBrk {s : State} (h : Memory.Canonical s.mem) (x : FmtA) :
    MemAfter Memory.Canonical (execVgBrk x s) := by
  unfold execVgBrk
  refine memAfter_runInstr h ?_
  exact keeps_bind (keeps_rd _) fun _ => keeps_bind (keeps_rd _) fun _ => keeps_bind (keeps_vigilM_mem _ _) fun _ =>
    keeps_bind (keeps_releaseDevM_mem _) fun _ => keeps_bind (keeps_readVigilM_mem _) fun _ =>
    keeps_bind keeps_getS fun _ => keeps_bind keeps_slotM fun _ => keeps_bind (keeps_needM _ _ _) fun _ =>
    keeps_bind (keeps_needM _ _ _) fun _ => keeps_bind (keeps_modS fun _ h => by simp [h]) fun _ => keeps_pure _
theorem memAfter_execVgBrkGroup {Q : List Host.Cell → Prop} {s : State} (h : Q s.mem) (x : FmtA) :
    MemAfter Q (execVgBrkGroup x s) := by
  unfold execVgBrkGroup
  refine memAfter_runInstr h ?_
  exact keeps_bind keeps_here fun _ => keeps_bind (keeps_rd _) fun _ => keeps_bind keeps_slotM fun _ =>
    keeps_bind (keeps_needM _ _ _) fun _ => keeps_bind (keeps_releaseDevM_mem _) fun _ =>
    keeps_bind (keeps_modS fun _ h => by simpa using h) fun _ => keeps_pure _
theorem memAfter_execVgStat {Q : List Host.Cell → Prop} {s : State} (h : Q s.mem) (x : FmtA) :
    MemAfter Q (execVgStat x s) := by
  unfold execVgStat
  refine memAfter_runInstr h ?_
  exact keeps_bind (keeps_rd _) fun _ => keeps_bind (keeps_rd _) fun _ => keeps_bind (keeps_prepDst _) fun _ =>
    keeps_bind (keeps_vigilM_mem _ _) fun _ => keeps_bind (keeps_readVigilM_mem _) fun _ =>
    keeps_bind keeps_getS fun _ => keeps_bind (keeps_wr_mem _ _) fun _ => keeps_pure _
theorem memAfter_execTrapSw {Q : List Host.Cell → Prop} {s : State} (h : Q s.mem) (x : FmtA) :
    MemAfter Q (execTrapSw x s) := by
  unfold execTrapSw
  refine memAfter_runInstr h ?_
  exact keeps_bind (keeps_rd _) fun _ => keeps_throw _
theorem memAfter_execTrapRet {Q : List Host.Cell → Prop} {s : State} (h : Q s.mem) (x : FmtA) :
    MemAfter Q (execTrapRet x s) := by
  unfold execTrapRet
  refine memAfter_runInstr h ?_
  exact keeps_bind keeps_slotM fun _ => keeps_bind (keeps_onSlotM fun _ _ h => h) fun _ => keeps_pure _
theorem memAfter_execTrapBrk {Q : List Host.Cell → Prop} {s : State} (h : Q s.mem) (x : FmtA) :
    MemAfter Q (execTrapBrk x s) := by
  unfold execTrapBrk
  refine memAfter_runInstr h ?_
  exact keeps_trapM _ _
theorem memAfter_execTrapMsk {Q : List Host.Cell → Prop} {s : State} (h : Q s.mem) (x : FmtA) :
    MemAfter Q (execTrapMsk x s) := by
  unfold execTrapMsk
  refine memAfter_runInstr h ?_
  exact keeps_bind (keeps_rd _) fun _ => keeps_bind (keeps_rd _) fun _ => keeps_bind (keeps_prepDst _) fun _ =>
    keeps_bind keeps_slotM fun _ => keeps_bind (keeps_onSlotM fun _ _ h => h) fun _ =>
    keeps_bind (keeps_wr_mem _ _) fun _ => keeps_pure _
theorem memAfter_execTlbFill {Q : List Host.Cell → Prop} {s : State} (h : Q s.mem) (x : FmtA) :
    MemAfter Q (execTlbFill x s) := by
  unfold execTlbFill
  refine memAfter_runInstr h ?_
  exact keeps_bind keeps_here fun _ => keeps_bind (keeps_rd _) fun _ => keeps_bind (keeps_rd _) fun _ =>
    keeps_bind (keeps_prepDst _) fun _ => keeps_ite _ (keeps_bind (keeps_modS fun _ h => by simpa using h) fun _ =>
    keeps_bind (keeps_wr_mem _ _) fun _ => keeps_pure _) (keeps_bind (keeps_needM _ _ _) fun _ =>
    keeps_getS_bind fun _ h => keeps_bind (keeps_setS (by simpa using h)) fun _ =>
    keeps_bind (keeps_wr_mem _ _) fun _ => keeps_pure _)
theorem memAfter_execTlbInvr {Q : List Host.Cell → Prop} {s : State} (h : Q s.mem) (x : FmtA) :
    MemAfter Q (execTlbInvr x s) := by
  unfold execTlbInvr
  refine memAfter_runInstr h ?_
  exact keeps_bind (keeps_rd _) fun _ => keeps_bind (keeps_rd _) fun _ => keeps_invalM_mem _
theorem memAfter_execTlbInva {Q : List Host.Cell → Prop} {s : State} (h : Q s.mem) (x : FmtA) :
    MemAfter Q (execTlbInva x s) := by
  unfold execTlbInva
  refine memAfter_runInstr h ?_
  exact keeps_bind (keeps_rd _) fun _ => keeps_invalM_mem _
theorem memAfter_execTlbPrb {Q : List Host.Cell → Prop} {s : State} (h : Q s.mem) (x : FmtA) :
    MemAfter Q (execTlbPrb x s) := by
  unfold execTlbPrb
  refine memAfter_runInstr h ?_
  exact keeps_bind keeps_here fun _ => keeps_bind (keeps_rd _) fun _ => keeps_bind (keeps_rd _) fun _ =>
    keeps_bind keeps_getS fun _ => keeps_result_mem _ _ _
theorem memAfter_execFabConn {Q : List Host.Cell → Prop} {s : State} (h : Q s.mem) (x : FmtA) :
    MemAfter Q (execFabConn x s) := by
  unfold execFabConn
  refine memAfter_runInstr h ?_
  refine keeps_bind keeps_here fun _ => keeps_bind (keeps_rd _) fun _ => keeps_bind (keeps_prepDst _) fun _ =>
    keeps_bind keeps_clusterM fun _ => keeps_bind (keeps_needM _ _ _) fun _ =>
    keeps_bind (keeps_needM _ _ _) fun _ => keeps_bind keeps_getS fun _ => keeps_bind (keeps_needM _ _ _) fun _ =>
    keeps_bind keeps_getS fun _ => keeps_ite _ (keeps_bind (keeps_waitM _) fun _ => ?_) ?_
  · split
    · exact keeps_trapM _ _
    · exact keeps_bind (keeps_modS fun _ h => h) fun _ => keeps_bind (keeps_wr_mem _ _) fun _ => keeps_pure _
  · split
    · exact keeps_trapM _ _
    · exact keeps_bind (keeps_modS fun _ h => h) fun _ => keeps_bind (keeps_wr_mem _ _) fun _ => keeps_pure _
theorem memAfter_execFabClose {Q : List Host.Cell → Prop} {s : State} (h : Q s.mem) (x : FmtA) :
    MemAfter Q (execFabClose x s) := by
  unfold execFabClose
  refine memAfter_runInstr h ?_
  refine keeps_bind keeps_here fun _ => keeps_bind (keeps_rd _) fun _ => keeps_bind keeps_clusterM fun _ => ?_
  dsimp only
  split
  · exact keeps_bind keeps_getS fun _ => keeps_ite _ (keeps_bind (keeps_waitM _) fun _ =>
      keeps_bind (keeps_modS fun _ h => h) fun _ => keeps_pure _) (keeps_bind (keeps_modS fun _ h => h) fun _ =>
      keeps_pure _)
  · exact keeps_bind (keeps_modS fun _ h => h) fun _ => keeps_pure _
theorem memAfter_execFabSlot {Q : List Host.Cell → Prop} {s : State} (h : Q s.mem) (x : FmtA) :
    MemAfter Q (execFabSlot x s) := by
  unfold execFabSlot
  refine memAfter_runInstr h ?_
  exact keeps_bind keeps_here fun _ => keeps_bind (keeps_rd _) fun _ => keeps_bind (keeps_rd _) fun _ =>
    keeps_bind (keeps_prepDst _) fun _ => keeps_bind keeps_getS fun _ =>
    keeps_ite _ (keeps_bind (keeps_pure _) fun _ => keeps_bind keeps_getS fun _ =>
    keeps_ite _ (keeps_bind (keeps_modS fun _ h => h) fun _ => keeps_bind (keeps_waitM _) fun _ =>
    keeps_bind (keeps_modS fun _ h => h) fun _ => keeps_bind (keeps_wr_mem _ _) fun _ =>
    keeps_pure _) (keeps_bind (keeps_modS fun _ h => h) fun _ => keeps_bind (keeps_wr_mem _ _) fun _ =>
    keeps_pure _)) (keeps_bind (keeps_slotInstallM_mem _ _) fun _ => keeps_bind keeps_getS fun _ =>
    keeps_ite _ (keeps_bind (keeps_modS fun _ h => h) fun _ => keeps_bind (keeps_waitM _) fun _ =>
    keeps_bind (keeps_modS fun _ h => h) fun _ => keeps_bind (keeps_wr_mem _ _) fun _ =>
    keeps_pure _) (keeps_bind (keeps_modS fun _ h => h) fun _ => keeps_bind (keeps_wr_mem _ _) fun _ => keeps_pure _))
theorem memAfter_execFabStat {Q : List Host.Cell → Prop} {s : State} (h : Q s.mem) (x : FmtA) :
    MemAfter Q (execFabStat x s) := by
  unfold execFabStat
  refine memAfter_runInstr h ?_
  refine keeps_bind keeps_here fun _ => keeps_bind (keeps_rd _) fun _ => ?_
  dsimp only
  split
  · exact keeps_bind (keeps_ioReadyM_mem _) fun _ => keeps_bind keeps_getS fun _ => keeps_result_mem _ _ _
  · exact keeps_bind keeps_getS fun _ => keeps_result_mem _ _ _
theorem memAfter_execFabGnt {Q : List Host.Cell → Prop} {s : State} (h : Q s.mem) (x : FmtA) :
    MemAfter Q (execFabGnt x s) := by
  unfold execFabGnt
  refine memAfter_runInstr h ?_
  exact keeps_bind keeps_here fun _ => keeps_bind (keeps_rd _) fun _ => keeps_bind (keeps_rd _) fun _ =>
    keeps_bind (keeps_needM _ _ _) fun _ => keeps_bind (keeps_needM _ _ _) fun _ =>
    keeps_bind (keeps_ioReadyM_mem _) fun _ => keeps_bind keeps_getS fun _ =>
    keeps_ite _ (keeps_ite _ (keeps_bind (keeps_waitM _) fun _ => keeps_bind (keeps_modS fun _ h => h) fun _ =>
    keeps_pure _) (keeps_bind (keeps_modS fun _ h => h) fun _ => keeps_pure _)) (keeps_bind (keeps_needM _ _ _) fun
    _ => keeps_bind (keeps_modS fun _ h => by simpa using h) fun _ => keeps_pure _)
theorem memAfter_execLanInst {Q : List Host.Cell → Prop} {s : State} (h : Q s.mem) (x : FmtA) :
    MemAfter Q (execLanInst x s) := by
  unfold execLanInst
  refine memAfter_runInstr h ?_
  refine keeps_firmM_mem _ (keeps_bind keeps_here fun _ => keeps_bind (keeps_rd _) fun _ =>
    keeps_bind (keeps_rd _) fun _ => keeps_bind (keeps_prepDst _) fun _ => keeps_bind (keeps_needM _ _ _) fun _ =>
    keeps_bind (keeps_needM _ _ _) fun _ => keeps_bind keeps_stacksReadyM_mem fun _ =>
    keeps_bind (keeps_readLines_mem _ _ _) fun _ => ?_)
  dsimp only
  split
  · exact keeps_bind (keeps_trapM _ _) fun _ => keeps_bind keeps_getS fun _ => keeps_bind (keeps_modS fun _ h =>
      by simpa using h) fun _ => keeps_bind keeps_linesDoneM_mem fun _ => keeps_bind (keeps_wr_mem _ _) fun _ =>
      keeps_pure _
  · exact keeps_bind keeps_getS fun _ => keeps_bind (keeps_modS fun _ h => by simpa using h) fun _ =>
      keeps_bind keeps_linesDoneM_mem fun _ => keeps_bind (keeps_wr_mem _ _) fun _ => keeps_pure _
theorem memAfter_execLanDrop {Q : List Host.Cell → Prop} {s : State} (h : Q s.mem) (x : FmtA) :
    MemAfter Q (execLanDrop x s) := by
  unfold execLanDrop
  refine memAfter_runInstr h ?_
  exact keeps_bind keeps_here fun _ => keeps_bind (keeps_rd _) fun _ => keeps_bind (keeps_prepDst _) fun _ =>
    keeps_bind (keeps_needM _ _ _) fun _ => keeps_bind keeps_stacksReadyM_mem fun _ => keeps_bind keeps_getS fun _ =>
    keeps_bind (keeps_modS fun _ h => by simpa using h) fun _ => keeps_bind (keeps_wr_mem _ _) fun _ => keeps_pure _
theorem memAfter_execLanStat {Q : List Host.Cell → Prop} {s : State} (h : Q s.mem) (x : FmtA) :
    MemAfter Q (execLanStat x s) := by
  unfold execLanStat
  refine memAfter_runInstr h ?_
  exact keeps_bind keeps_here fun _ => keeps_bind (keeps_rd _) fun _ => keeps_bind (keeps_rd _) fun _ =>
    keeps_ite _ (keeps_bind (keeps_readyM_mem _) fun _ => keeps_bind keeps_getS fun _ =>
    keeps_result_mem _ _ _) (keeps_bind keeps_getS fun _ => keeps_result_mem _ _ _)
theorem memAfter_execLanDflt {Q : List Host.Cell → Prop} {s : State} (h : Q s.mem) (x : FmtA) :
    MemAfter Q (execLanDflt x s) := by
  unfold execLanDflt
  exact memAfter_runInstr h (keeps_bind keeps_here fun _ => keeps_bind keeps_stacksReadyM_mem fun _ =>
    keeps_bind (keeps_modS fun _ h => by rw [State.clearLanterns_mem, State.emptyStreams_mem]; exact h) fun _ =>
    keeps_pure _)
theorem memAfter_execTapLoad {Q : List Host.Cell → Prop} {s : State} (h : Q s.mem) (x : FmtA) :
    MemAfter Q (execTapLoad x s) := by
  unfold execTapLoad
  refine memAfter_runInstr h ?_
  exact keeps_firmM_mem _ (keeps_bind keeps_here fun _ => keeps_bind (keeps_rd _) fun _ =>
    keeps_bind keeps_getS fun _ => keeps_ite _ (keeps_bind (keeps_prepDst _) fun _ =>
    keeps_bind (keeps_needM _ _ _) fun _ => keeps_bind (keeps_ioReadyM_mem _) fun _ => keeps_bind keeps_getS fun _ =>
    keeps_bind (keeps_needM _ _ _) fun _ => keeps_bind (keeps_tapLoadM_mem _ _ _) fun _ =>
    keeps_bind (keeps_wr_mem _ _) fun _ => keeps_pure _) (keeps_bind (keeps_needM _ _ _) fun _ =>
    keeps_bind (keeps_ioReadyM_mem _) fun _ => keeps_bind keeps_getS fun _ => keeps_bind (keeps_needM _ _ _) fun _ =>
    keeps_bind (keeps_tapLoadM_mem _ _ _) fun _ => keeps_bind (keeps_wr_mem _ _) fun _ => keeps_pure _))
theorem memAfter_execTapGo {Q : List Host.Cell → Prop} {s : State} (h : Q s.mem) (x : FmtA) :
    MemAfter Q (execTapGo x s) := by
  unfold execTapGo
  refine memAfter_runInstr h ?_
  exact keeps_bind keeps_here fun _ => keeps_bind (keeps_rd _) fun _ => keeps_bind (keeps_ioReadyM_mem _) fun _ =>
    keeps_bind keeps_getS fun _ => keeps_bind (keeps_needM _ _ _) fun _ => keeps_bind (keeps_modS fun _ h =>
    by simpa using h) fun _ => keeps_pure _
theorem memAfter_execTapHalt {Q : List Host.Cell → Prop} {s : State} (h : Q s.mem) (x : FmtA) :
    MemAfter Q (execTapHalt x s) := by
  unfold execTapHalt
  refine memAfter_runInstr h ?_
  exact keeps_bind keeps_here fun _ => keeps_bind (keeps_prepDst _) fun _ =>
    keeps_bind (keeps_ioReadyM_mem _) fun _ => keeps_bind keeps_getS fun _ => keeps_bind (keeps_modS fun _ h =>
    by simpa using h) fun _ => keeps_bind (keeps_wr_mem _ _) fun _ => keeps_pure _
theorem memAfter_execTapStat {Q : List Host.Cell → Prop} {s : State} (h : Q s.mem) (x : FmtA) :
    MemAfter Q (execTapStat x s) := by
  unfold execTapStat
  refine memAfter_runInstr h ?_
  exact keeps_bind keeps_here fun _ => keeps_bind (keeps_rd _) fun _ => keeps_bind (keeps_ioReadyM_mem _) fun _ =>
    keeps_bind keeps_getS fun _ => keeps_result_mem _ _ _
theorem memAfter_execTapHead {Q : List Host.Cell → Prop} {s : State} (h : Q s.mem) (x : FmtA) :
    MemAfter Q (execTapHead x s) := by
  unfold execTapHead
  refine memAfter_runInstr h ?_
  exact keeps_bind keeps_here fun _ => keeps_bind (keeps_ioReadyM_mem _) fun _ => keeps_bind keeps_getS fun _ =>
    keeps_result_mem _ _ _
theorem memAfter_execCxLoad {s : State} (h : Memory.Canonical s.mem) (x : FmtK) :
    MemAfter Memory.Canonical (execCxLoad x s) := by
  unfold execCxLoad
  refine memAfter_runInstr h ?_
  exact keeps_firmM_mem _ (keeps_bind keeps_here fun _ => keeps_bind (keeps_rdK_mem _) fun _ =>
    keeps_bind (keeps_rdK_mem _) fun _ => keeps_bind (keeps_prepDst _) fun _ => keeps_bind keeps_slotM fun _ =>
    keeps_ite _ (keeps_bind (keeps_cxBeginM_mem _ _ _) fun _ => keeps_bind keeps_clusterM fun _ =>
    keeps_ite _ (keeps_bind (keeps_waitM _) fun _ => keeps_bind (keeps_readLines_mem _ _ _) fun _ =>
    keeps_bind (keeps_modS fun _ h => by simp [h]) fun _ => keeps_bind keeps_getS fun _ =>
    keeps_bind (keeps_needM _ _ _) fun _ => keeps_bind (keeps_modS fun _ h => by simp [h]) fun _ =>
    keeps_bind (keeps_onSlotM fun _ _ h => h) fun _ => keeps_bind keeps_linesDoneM_mem fun _ =>
    keeps_bind (keeps_wrK_mem _ _) fun _ => keeps_pure _) (keeps_bind (keeps_readLines_mem _ _ _) fun _ =>
    keeps_bind (keeps_modS fun _ h => by simp [h]) fun _ => keeps_bind keeps_getS fun _ =>
    keeps_bind (keeps_needM _ _ _) fun _ => keeps_bind (keeps_modS fun _ h => by simp [h]) fun _ =>
    keeps_bind (keeps_onSlotM fun _ _ h => h) fun _ => keeps_bind keeps_linesDoneM_mem fun _ =>
    keeps_bind (keeps_wrK_mem _ _) fun _ => keeps_pure _)) (keeps_bind keeps_clusterM fun _ =>
    keeps_ite _ (keeps_bind (keeps_waitM _) fun _ => keeps_bind (keeps_readLines_mem _ _ _) fun _ =>
    keeps_bind (keeps_modS fun _ h => by simp [h]) fun _ => keeps_bind keeps_getS fun _ =>
    keeps_bind (keeps_needM _ _ _) fun _ => keeps_bind (keeps_modS fun _ h => by simp [h]) fun _ =>
    keeps_bind (keeps_onSlotM fun _ _ h => h) fun _ => keeps_bind keeps_linesDoneM_mem fun _ =>
    keeps_bind (keeps_wrK_mem _ _) fun _ => keeps_pure _) (keeps_bind (keeps_readLines_mem _ _ _) fun _ =>
    keeps_bind (keeps_modS fun _ h => by simp [h]) fun _ => keeps_bind keeps_getS fun _ =>
    keeps_bind (keeps_needM _ _ _) fun _ => keeps_bind (keeps_modS fun _ h => by simp [h]) fun _ =>
    keeps_bind (keeps_onSlotM fun _ _ h => h) fun _ => keeps_bind keeps_linesDoneM_mem fun _ =>
    keeps_bind (keeps_wrK_mem _ _) fun _ => keeps_pure _)))
theorem memAfter_execCxBind {Q : List Host.Cell → Prop} {s : State} (h : Q s.mem) (x : FmtK) :
    MemAfter Q (execCxBind x s) := by
  unfold execCxBind
  refine memAfter_runInstr h ?_
  exact keeps_bind (keeps_rdK_mem _) fun _ => keeps_bind (keeps_rdK_mem _) fun _ =>
    keeps_bind (keeps_needM _ _ _) fun _ => keeps_bind (keeps_onSlotM fun _ _ h => h) fun _ => keeps_pure _
theorem memAfter_execCxRebind {Q : List Host.Cell → Prop} {s : State} (h : Q s.mem) (x : FmtK) :
    MemAfter Q (execCxRebind x s) := by
  unfold execCxRebind
  refine memAfter_runInstr h ?_
  exact keeps_bind keeps_here fun _ => keeps_bind keeps_slotM fun _ => keeps_bind keeps_clusterM fun _ =>
    keeps_bind (keeps_needM _ _ _) fun _ => keeps_bind (keeps_needM _ _ _) fun _ =>
    keeps_bind (keeps_needM _ _ _) fun _ => keeps_bind keeps_getS fun _ => keeps_bind (keeps_needM _ _ _) fun _ =>
    keeps_bind (keeps_onSlotM fun _ _ h => h) fun _ => keeps_pure _
theorem memAfter_execCxGen {Q : List Host.Cell → Prop} {s : State} (h : Q s.mem) (x : FmtK) :
    MemAfter Q (execCxGen x s) := by
  unfold execCxGen
  refine memAfter_runInstr h ?_
  exact keeps_bind keeps_slotM fun _ => keeps_bind keeps_clusterM fun _ => keeps_bind (keeps_prepDst _) fun _ =>
    keeps_bind (keeps_wrK_mem _ _) fun _ => keeps_pure _
theorem memAfter_execCxDrop {Q : List Host.Cell → Prop} {s : State} (h : Q s.mem) (x : FmtK) :
    MemAfter Q (execCxDrop x s) := by
  unfold execCxDrop
  refine memAfter_runInstr h ?_
  exact keeps_bind keeps_here fun _ => keeps_bind keeps_slotM fun _ =>
    keeps_ite _ (keeps_bind keeps_clusterM fun _ => keeps_bind (keeps_needM _ _ _) fun _ =>
    keeps_bind (keeps_modS fun _ h => by simpa using h) fun _ => keeps_bind (keeps_onSlotM fun _ _ h => h) fun _ =>
    keeps_bind keeps_clusterM fun _ => keeps_ite _ (keeps_bind (keeps_waitM _) fun _ =>
    keeps_bind (keeps_modS fun _ h => by simpa using h) fun _ => keeps_bind (keeps_onSlotM fun _ _ h => h) fun _ =>
    keeps_pure _) (keeps_bind (keeps_modS fun _ h => by simpa using h) fun _ =>
    keeps_bind (keeps_onSlotM fun _ _ h => h) fun _ => keeps_pure _)) (keeps_bind keeps_clusterM fun _ =>
    keeps_ite _ (keeps_bind (keeps_waitM _) fun _ => keeps_bind (keeps_modS fun _ h => by simpa using h) fun _ =>
    keeps_bind (keeps_onSlotM fun _ _ h => h) fun _ => keeps_pure _) (keeps_bind (keeps_modS fun _ h =>
    by simpa using h) fun _ => keeps_bind (keeps_onSlotM fun _ _ h => h) fun _ => keeps_pure _))
theorem memAfter_execCkDx {s : State} (h : Memory.Canonical s.mem) (x : FmtK) :
    MemAfter Memory.Canonical (execCkDx x s) := by
  unfold execCkDx
  refine memAfter_runInstr h ?_
  exact keeps_bind keeps_here fun _ => keeps_bind keeps_slotM fun _ => keeps_bind (keeps_imageM_mem _) fun _ =>
    keeps_bind (keeps_needM _ _ _) fun _ => keeps_bind (keeps_windowsM_mem _ _ _) fun _ =>
    keeps_bind (keeps_ownM_mem _ _ _) fun _ => keeps_bind (keeps_elemsM_mem _ _) fun _ =>
    keeps_bind keeps_getS fun _ => keeps_writeM_canonical _ _
theorem memAfter_ckMap {s : State} (h : Memory.Canonical s.mem) (i : Instr) (x : FmtK)
    (rel : Img → Coch → Coch → Bool) (need : Img → Coch → Coch → Nat → List Nat)
    (f : Img → (Nat → CVal) → Coch → Coch → Nat → CVal) :
    MemAfter Memory.Canonical (ckMap i x rel need f s) := by
  unfold ckMap
  refine memAfter_runInstr h ?_
  exact keeps_bind keeps_here fun _ => keeps_bind keeps_slotM fun _ => keeps_bind (keeps_imageM_mem _) fun _ =>
    keeps_bind (keeps_needM _ _ _) fun _ => keeps_bind (keeps_windowsM_mem _ _ _) fun _ =>
    keeps_bind (keeps_ownM_mem _ _ _) fun _ => keeps_bind (keeps_elemsM_mem _ _) fun _ =>
    keeps_bind keeps_getS fun _ => keeps_writeM_canonical _ _
theorem memAfter_execCkWedge {s : State} (h : Memory.Canonical s.mem) (x : FmtK) :
    MemAfter Memory.Canonical (execCkWedge x s) := by
  unfold execCkWedge
  refine memAfter_runInstr h ?_
  exact keeps_bind keeps_here fun _ => keeps_bind keeps_slotM fun _ => keeps_bind (keeps_imageM_mem _) fun _ =>
    keeps_bind (keeps_needM _ _ _) fun _ => keeps_bind (keeps_needM _ _ _) fun _ =>
    keeps_bind (keeps_needM _ _ _) fun _ => keeps_bind (keeps_windowsM_mem _ _ _) fun _ =>
    keeps_bind (keeps_ownM_mem _ _ _) fun _ => keeps_bind (keeps_elemsM_mem _ _) fun _ =>
    keeps_bind keeps_getS fun _ => keeps_writeM_canonical _ _
theorem memAfter_execCkInterp {s : State} (h : Memory.Canonical s.mem) (x : FmtK) :
    MemAfter Memory.Canonical (execCkInterp x s) := by
  unfold execCkInterp
  refine memAfter_runInstr h ?_
  exact keeps_bind keeps_here fun _ => keeps_bind keeps_slotM fun _ => keeps_bind (keeps_imageM_mem _) fun _ =>
    keeps_bind keeps_getS fun _ => keeps_bind (keeps_needM _ _ _) fun _ => keeps_bind (keeps_needM _ _ _) fun _ =>
    keeps_bind (keeps_needM _ _ _) fun _ => keeps_bind (keeps_windowsM_mem _ _ _) fun _ =>
    keeps_bind (keeps_elemsM_mem _ _) fun _ => keeps_writeM_canonical _ _
theorem memAfter_execCkAnch {Q : List Host.Cell → Prop} {s : State} (h : Q s.mem) (x : FmtK) :
    MemAfter Q (execCkAnch x s) := by
  unfold execCkAnch
  refine memAfter_runInstr h ?_
  exact keeps_bind keeps_here fun _ => keeps_bind keeps_slotM fun _ => keeps_bind (keeps_imageM_mem _) fun _ =>
    keeps_bind (keeps_needM _ _ _) fun _ => keeps_bind (keeps_windowsM_mem _ _ _) fun _ =>
    keeps_bind (keeps_elemsM_mem _ _) fun _ => keeps_bind keeps_getS fun _ => keeps_bind (keeps_needM _ _ _) fun _ =>
    keeps_bind (keeps_onSlotM fun _ _ h => h) fun _ => keeps_bind (keeps_flagM_mem _) fun _ => keeps_pure _
theorem memAfter_execCkAxpy {s : State} (h : Memory.Canonical s.mem) (x : FmtK) :
    MemAfter Memory.Canonical (execCkAxpy x s) := by
  unfold execCkAxpy
  refine memAfter_runInstr h ?_
  exact keeps_bind keeps_here fun _ => keeps_bind keeps_slotM fun _ => keeps_bind (keeps_rdCode _) fun _ =>
    keeps_bind (keeps_imageM_mem _) fun _ => keeps_bind (keeps_needM _ _ _) fun _ =>
    keeps_bind (keeps_windowsM_mem _ _ _) fun _ => keeps_bind (keeps_ownM_mem _ _ _) fun _ =>
    keeps_bind (keeps_elemsM_mem _ _) fun _ => keeps_bind keeps_getS fun _ => keeps_writeM_canonical _ _
theorem memAfter_execCkDot {Q : List Host.Cell → Prop} {s : State} (h : Q s.mem) (x : FmtK) :
    MemAfter Q (execCkDot x s) := by
  unfold execCkDot
  refine memAfter_runInstr h ?_
  exact keeps_bind keeps_here fun _ => keeps_bind keeps_slotM fun _ => keeps_bind (keeps_imageM_mem _) fun _ =>
    keeps_bind (keeps_needM _ _ _) fun _ => keeps_bind (keeps_windowsM_mem _ _ _) fun _ =>
    keeps_bind (keeps_elemsM_mem _ _) fun _ => keeps_bind keeps_getS fun _ => keeps_bind (keeps_needM _ _ _) fun _ =>
    keeps_bind (keeps_wr_mem _ _) fun _ => keeps_bind (keeps_flagM_mem _) fun _ => keeps_pure _
theorem memAfter_execCkHpack {s : State} (h : Memory.Canonical s.mem) (x : FmtK) :
    MemAfter Memory.Canonical (execCkHpack x s) := by
  unfold execCkHpack
  refine memAfter_runInstr h ?_
  exact keeps_bind keeps_here fun _ => keeps_bind keeps_slotM fun _ => keeps_bind (keeps_rdCode _) fun _ =>
    keeps_bind (keeps_packM_mem _ _) fun _ => keeps_bind (keeps_elemsM_mem _ _) fun _ =>
    keeps_bind keeps_getS fun _ => keeps_bind (keeps_needM _ _ _) fun _ => keeps_bind (keeps_modS fun _ h =>
    by simp [h]) fun _ => keeps_bind (keeps_flagM_mem _) fun _ => keeps_pure _
theorem memAfter_execCkHunp {s : State} (h : Memory.Canonical s.mem) (x : FmtK) :
    MemAfter Memory.Canonical (execCkHunp x s) := by
  unfold execCkHunp
  refine memAfter_runInstr h ?_
  exact keeps_bind keeps_here fun _ => keeps_bind keeps_slotM fun _ => keeps_bind (keeps_rdCode _) fun _ =>
    keeps_bind (keeps_packM_mem _ _) fun _ => keeps_bind (keeps_ownM_mem _ _ _) fun _ =>
    keeps_bind (keeps_elemsM_mem _ _) fun _ => keeps_bind keeps_getS fun _ => keeps_bind (keeps_modS fun _ h =>
    by simp [h]) fun _ => keeps_pure _
theorem memAfter_execMxMma {Q : List Host.Cell → Prop} {s : State} (h : Q s.mem) (x : FmtM) :
    MemAfter Q (execMxMma x s) := by
  unfold execMxMma
  refine memAfter_runInstr h ?_
  exact keeps_mmaM_mem _ _
theorem memAfter_execMxMmaz0 {Q : List Host.Cell → Prop} {s : State} (h : Q s.mem) (x : FmtM) :
    MemAfter Q (execMxMmaz0 x s) := by
  unfold execMxMmaz0
  refine memAfter_runInstr h ?_
  exact keeps_mmaM_mem _ _
theorem memAfter_execMxMmaz1 {Q : List Host.Cell → Prop} {s : State} (h : Q s.mem) (x : FmtM) :
    MemAfter Q (execMxMmaz1 x s) := by
  unfold execMxMmaz1
  refine memAfter_runInstr h ?_
  exact keeps_mmaM_mem _ _
theorem memAfter_execMxClr {Q : List Host.Cell → Prop} {s : State} (h : Q s.mem) (x : FmtM) :
    MemAfter Q (execMxClr x s) := by
  unfold execMxClr
  refine memAfter_runInstr h ?_
  exact keeps_bind keeps_slotM fun _ => keeps_bind (keeps_needM _ _ _) fun _ =>
    keeps_bind (keeps_mxOpM_mem _ _ _) fun _ => keeps_mxReadyM_mem _ _
theorem memAfter_execMxSt {Q : List Host.Cell → Prop} {s : State} (h : Q s.mem) (x : FmtM) :
    MemAfter Q (execMxSt x s) := by
  unfold execMxSt
  refine memAfter_runInstr h ?_
  exact keeps_bind keeps_here fun _ => keeps_bind keeps_slotM fun _ =>
    keeps_bind (keeps_issueM_mem _ (keeps_tileIssueM_mem _ _ _)) fun _ => keeps_bind keeps_getS fun _ =>
    keeps_bind keeps_clusterM fun _ => keeps_ite _ (keeps_bind (keeps_waitM _) fun _ =>
    keeps_bind (keeps_ringsSeenM_mem _) fun _ => keeps_bind (keeps_rangesM_mem _) fun _ =>
    keeps_bind (keeps_mxOpM_mem _ _ _) fun _ => keeps_mxReadyM_mem _ _) (keeps_bind (keeps_ringsSeenM_mem _) fun _ =>
    keeps_bind (keeps_rangesM_mem _) fun _ => keeps_bind (keeps_mxOpM_mem _ _ _) fun _ => keeps_mxReadyM_mem _ _)
theorem memAfter_execMxLd {Q : List Host.Cell → Prop} {s : State} (h : Q s.mem) (x : FmtM) :
    MemAfter Q (execMxLd x s) := by
  unfold execMxLd
  refine memAfter_runInstr h ?_
  exact keeps_bind keeps_here fun _ => keeps_bind (keeps_issueM_mem _ (keeps_tileIssueM_mem _ _ _)) fun _ =>
    keeps_bind keeps_getS fun _ => keeps_ite _ (keeps_bind (keeps_waitM _) fun _ =>
    keeps_bind (keeps_ringsSeenM_mem _) fun _ => keeps_bind (keeps_rangesM_mem _) fun _ =>
    keeps_bind (keeps_rowsM_mem _ _) fun _ => keeps_bind (keeps_mxOpM_mem _ _ _) fun _ =>
    keeps_bind keeps_getS fun _ => keeps_mxReadyM_mem _ _) (keeps_bind (keeps_ringsSeenM_mem _) fun _ =>
    keeps_bind (keeps_rangesM_mem _) fun _ => keeps_bind (keeps_rowsM_mem _ _) fun _ =>
    keeps_bind (keeps_mxOpM_mem _ _ _) fun _ => keeps_bind keeps_getS fun _ => keeps_mxReadyM_mem _ _)
theorem memAfter_execCopy {s : State} (h : Memory.Canonical s.mem) : MemAfter Memory.Canonical (execCopy s) := by
  unfold execCopy
  split <;> simp [h]
theorem memAfter_execGather {s : State} (h : Memory.Canonical s.mem) : MemAfter Memory.Canonical (execGather s) := by
  unfold execGather
  split <;> simp [h]
theorem memAfter_execScatter {s : State} (h : Memory.Canonical s.mem) :
    MemAfter Memory.Canonical (execScatter s) := by
  unfold execScatter
  split <;> simp [h]
theorem memAfter_execFill {s : State} (h : Memory.Canonical s.mem) : MemAfter Memory.Canonical (execFill s) := by
  unfold execFill
  split <;> simp [h]
theorem memAfter_execPaddedCopy {s : State} (h : Memory.Canonical s.mem) :
    MemAfter Memory.Canonical (execPaddedCopy s) := by
  unfold execPaddedCopy
  split <;> simp [h]
theorem memAfter_execBlockedTransform {s : State} (h : Memory.Canonical s.mem) :
    MemAfter Memory.Canonical (execBlockedTransform s) := by
  unfold execBlockedTransform
  split <;> simp [h]
theorem memAfter_execQuantum {Q : List Host.Cell → Prop} {s : State} (h : Q s.mem) : MemAfter Q (execQuantum s) := by
  unfold execQuantum
  split <;> (try split) <;> (try split) <;> simp [h]
theorem memAfter_execEngineGrantVisit {Q : List Host.Cell → Prop} {s : State} (h : Q s.mem) :
    MemAfter Q (execEngineGrantVisit s) := by
  unfold execEngineGrantVisit
  split <;> simp [h]
theorem memAfter_execEngineOpComplete {s : State} (h : Memory.Canonical s.mem) :
    MemAfter Memory.Canonical (execEngineOpComplete s) := by
  unfold execEngineOpComplete
  split
  · exact (memAfter_next _).mpr (State.completeOp_canonical _ _ _ _ h)
  · exact memAfter_fault _
theorem memAfter_execFabricSend {Q : List Host.Cell → Prop} {s : State} (h : Q s.mem) :
    MemAfter Q (execFabricSend s) := by
  unfold execFabricSend
  split
  · exact (memAfter_next _).mpr (State.chunkStep_mem (EM.keeps_fabricChunk_mem _) _ _ _ h)
  · exact memAfter_fault _
theorem memAfter_execMulticastStore {Q : List Host.Cell → Prop} {s : State} (h : Q s.mem) :
    MemAfter Q (execMulticastStore s) := by
  unfold execMulticastStore
  split
  · exact (memAfter_next _).mpr (State.chunkStep_mem (EM.keeps_multicastChunk_mem _) _ _ _ h)
  · exact memAfter_fault _
theorem memAfter_execMulticastReply {s : State} (h : Memory.Canonical s.mem) :
    MemAfter Memory.Canonical (execMulticastReply s) := by
  unfold execMulticastReply
  split
  · split
    · exact (memAfter_next _).mpr h
    · exact (memAfter_next _).mpr (State.completeOp_canonical _ _ _ _ (by simp [h]))
  · exact memAfter_fault _
theorem memAfter_execHaloPack {s : State} (h : Memory.Canonical s.mem) :
    MemAfter Memory.Canonical (execHaloPack s) := by
  unfold execHaloPack
  split <;> simp [h]
theorem memAfter_execHaloUnpack {s : State} (h : Memory.Canonical s.mem) :
    MemAfter Memory.Canonical (execHaloUnpack s) := by
  unfold execHaloUnpack
  split <;> simp [h]
theorem memAfter_execLanternInstallCmd {Q : List Host.Cell → Prop} {s : State} (h : Q s.mem) :
    MemAfter Q (execLanternInstallCmd s) := by
  unfold execLanternInstallCmd
  split
  · exact (memAfter_next _).mpr (State.oneStep_mem (EM.keeps_installBody_mem _) _ _ _ h)
  · exact memAfter_fault _
theorem memAfter_execLanternDropCmd {Q : List Host.Cell → Prop} {s : State} (h : Q s.mem) :
    MemAfter Q (execLanternDropCmd s) := by
  unfold execLanternDropCmd
  split
  · exact (memAfter_next _).mpr (State.oneStep_mem (EM.keeps_dropBody_mem _) _ _ _ h)
  · exact memAfter_fault _
theorem memAfter_execLanternResetCmd {Q : List Host.Cell → Prop} {s : State} (h : Q s.mem) :
    MemAfter Q (execLanternResetCmd s) := by
  unfold execLanternResetCmd
  split
  · exact (memAfter_next _).mpr (State.oneStep_mem (EM.keeps_resetBody_mem _) _ _ _ h)
  · exact memAfter_fault _
theorem memAfter_execTaperLoadCmd {Q : List Host.Cell → Prop} {s : State} (h : Q s.mem) :
    MemAfter Q (execTaperLoadCmd s) := by
  unfold execTaperLoadCmd
  split
  · exact (memAfter_next _).mpr (State.oneStep_mem (EM.keeps_tapLoadBody_mem _) _ _ _ h)
  · exact memAfter_fault _
theorem memAfter_execTaperGoCmd {Q : List Host.Cell → Prop} {s : State} (h : Q s.mem) :
    MemAfter Q (execTaperGoCmd s) := by
  unfold execTaperGoCmd
  split
  · exact (memAfter_next _).mpr (State.oneStep_mem (EM.keeps_tapGoBody_mem _) _ _ _ h)
  · exact memAfter_fault _
theorem memAfter_execTaperHaltCmd {Q : List Host.Cell → Prop} {s : State} (h : Q s.mem) :
    MemAfter Q (execTaperHaltCmd s) := by
  unfold execTaperHaltCmd
  split
  · exact (memAfter_next _).mpr (State.oneStep_mem (EM.keeps_tapHaltBody_mem _) _ _ _ h)
  · exact memAfter_fault _
theorem memAfter_execSchedDispatch {Q : List Host.Cell → Prop} {s : State} (h : Q s.mem) :
    MemAfter Q (execSchedDispatch s) := by
  unfold execSchedDispatch
  split <;> simp [h]
theorem memAfter_execStealRequest {Q : List Host.Cell → Prop} {s : State} (h : Q s.mem) :
    MemAfter Q (execStealRequest s) := by
  unfold execStealRequest
  split <;> simp [h]
theorem memAfter_execStealReply {Q : List Host.Cell → Prop} {s : State} (h : Q s.mem) :
    MemAfter Q (execStealReply s) := by
  unfold execStealReply
  split <;> simp [h]
theorem memAfter_execStealBackoffEnd {Q : List Host.Cell → Prop} {s : State} (h : Q s.mem) :
    MemAfter Q (execStealBackoffEnd s) := by
  unfold execStealBackoffEnd
  split <;> simp [h]
theorem memAfter_execDispenserPass {s : State} (h : Memory.Canonical s.mem) :
    MemAfter Memory.Canonical (execDispenserPass s) := by
  unfold execDispenserPass
  split <;> simp [h]
theorem memAfter_execWickEntry {s : State} (h : Memory.Canonical s.mem) :
    MemAfter Memory.Canonical (execWickEntry s) := by
  unfold execWickEntry
  split <;> simp [h]
theorem memAfter_execMigrationArrival {Q : List Host.Cell → Prop} {s : State} (h : Q s.mem) :
    MemAfter Q (execMigrationArrival s) := by
  unfold execMigrationArrival
  split <;> simp [h]
theorem memAfter_execWickRefusalReturn {Q : List Host.Cell → Prop} {s : State} (h : Q s.mem) :
    MemAfter Q (execWickRefusalReturn s) := by
  unfold execWickRefusalReturn
  split <;> simp [h]
theorem memAfter_execSlotGating {s : State} (h : Memory.Canonical s.mem) :
    MemAfter Memory.Canonical (execSlotGating s) := by
  unfold execSlotGating
  split <;> simp [h]
theorem memAfter_execVectorRefresh {Q : List Host.Cell → Prop} {s : State} (h : Q s.mem) :
    MemAfter Q (execVectorRefresh s) := by
  unfold execVectorRefresh
  dsimp only
  split <;> (try split) <;> (try split) <;> simp [h]
theorem memAfter_execPortWordArrival {Q : List Host.Cell → Prop} {s : State} (h : Q s.mem) :
    MemAfter Q (execPortWordArrival s) := by
  unfold execPortWordArrival
  split <;> simp [h]
theorem memAfter_execAccessComplete {Q : List Host.Cell → Prop} {s : State} (h : Q s.mem) :
    MemAfter Q (execAccessComplete s) := by
  unfold execAccessComplete
  split <;> (try split) <;> (try split) <;> simp [h]
theorem memAfter_execRelaxedAccessComplete {s : State} (h : Memory.Canonical s.mem) :
    MemAfter Memory.Canonical (execRelaxedAccessComplete s) := by
  unfold execRelaxedAccessComplete
  split <;> simp [h]
theorem memAfter_execAtomicReservationGrant {s : State} (h : Memory.Canonical s.mem) :
    MemAfter Memory.Canonical (execAtomicReservationGrant s) := by
  unfold execAtomicReservationGrant
  split <;> simp [h]
theorem memAfter_execMonWaitTimeout {Q : List Host.Cell → Prop} {s : State} (h : Q s.mem) :
    MemAfter Q (execMonWaitTimeout s) := by
  unfold execMonWaitTimeout
  split <;> simp [h]
theorem memAfter_execPeerAccess {s : State} (h : Memory.Canonical s.mem) :
    MemAfter Memory.Canonical (execPeerAccess s) := by
  unfold execPeerAccess
  split <;> simp [h]
theorem memAfter_execPeerAck {Q : List Host.Cell → Prop} {s : State} (h : Q s.mem) : MemAfter Q (execPeerAck s) := by
  unfold execPeerAck
  split <;> simp [h]
theorem memAfter_execPeerRefusal {Q : List Host.Cell → Prop} {s : State} (h : Q s.mem) :
    MemAfter Q (execPeerRefusal s) := by
  unfold execPeerRefusal
  split <;> simp [h]
theorem memAfter_execFenceMarker {Q : List Host.Cell → Prop} {s : State} (h : Q s.mem) :
    MemAfter Q (execFenceMarker s) := by
  unfold execFenceMarker
  split <;> simp [h]
theorem memAfter_execPeerLeft {Q : List Host.Cell → Prop} {s : State} (h : Q s.mem) :
    MemAfter Q (execPeerLeft s) := by
  unfold execPeerLeft
  split <;> simp [h]
theorem memAfter_execLinkTrained {Q : List Host.Cell → Prop} {s : State} (h : Q s.mem) :
    MemAfter Q (execLinkTrained s) := by
  unfold execLinkTrained
  split <;> simp [h]
theorem memAfter_execLanternRequest {s : State} (h : Memory.Canonical s.mem) :
    MemAfter Memory.Canonical (execLanternRequest s) := by
  unfold execLanternRequest
  split <;> simp [h]
theorem memAfter_execLanternAtomic {s : State} (h : Memory.Canonical s.mem) :
    MemAfter Memory.Canonical (execLanternAtomic s) := by
  unfold execLanternAtomic
  split <;> simp [h]
theorem memAfter_execBeaconInterval {s : State} (h : Memory.Canonical s.mem) :
    MemAfter Memory.Canonical (execBeaconInterval s) := by
  unfold execBeaconInterval
  split <;> simp [h]
theorem memAfter_execVigilArrivalMessage {s : State} (h : Memory.Canonical s.mem) :
    MemAfter Memory.Canonical (execVigilArrivalMessage s) := by
  unfold execVigilArrivalMessage
  split <;> simp [h]
theorem memAfter_execVigilByteDecrement {s : State} (h : Memory.Canonical s.mem) :
    MemAfter Memory.Canonical (execVigilByteDecrement s) := by
  unfold execVigilByteDecrement
  split <;> (try split) <;> simp [h]
theorem memAfter_execGroupBreakNotice {s : State} (h : Memory.Canonical s.mem) :
    MemAfter Memory.Canonical (execGroupBreakNotice s) := by
  unfold execGroupBreakNotice
  split
  · exact (memAfter_next _).mpr (State.foldl_canonical _ (fun _ _ h => State.breakVigil_canonical _ _ _ h) _ _ h)
  · exact memAfter_fault _
theorem memAfter_execVigilNotice {Q : List Host.Cell → Prop} {s : State} (h : Q s.mem) :
    MemAfter Q (execVigilNotice s) := by
  unfold execVigilNotice
  split <;> simp [h]
theorem memAfter_execArrivalForward {Q : List Host.Cell → Prop} {s : State} (h : Q s.mem) :
    MemAfter Q (execArrivalForward s) := by
  unfold execArrivalForward
  split <;> simp [h]
theorem memAfter_execArrivalForwardTimeout {Q : List Host.Cell → Prop} {s : State} (h : Q s.mem) :
    MemAfter Q (execArrivalForwardTimeout s) := by
  unfold execArrivalForwardTimeout
  split <;> simp [h]
theorem memAfter_execWickFailure {s : State} (h : Memory.Canonical s.mem) :
    MemAfter Memory.Canonical (execWickFailure s) := by
  unfold execWickFailure
  split <;> simp [h]
theorem memAfter_execFailureListTailAdvance {s : State} (h : Memory.Canonical s.mem) :
    MemAfter Memory.Canonical (execFailureListTailAdvance s) := by
  unfold execFailureListTailAdvance
  split
  · refine (memAfter_next _).mpr ?_
    split
    · exact h
    · exact State.admitFailures_canonical _ _ _ (State.drainOverflow_canonical _ _ _ (by simp [h]))
  · exact memAfter_fault _
theorem memAfter_execCoreError {Q : List Host.Cell → Prop} {s : State} (h : Q s.mem) :
    MemAfter Q (execCoreError s) := by
  unfold execCoreError
  split <;> (try split) <;> simp [h]
theorem memAfter_execBankFailMark {Q : List Host.Cell → Prop} {s : State} (h : Q s.mem) :
    MemAfter Q (execBankFailMark s) := by
  unfold execBankFailMark
  split <;> simp [h]
theorem memAfter_execCoreReadmit {Q : List Host.Cell → Prop} {s : State} (h : Q s.mem) :
    MemAfter Q (execCoreReadmit s) := by
  unfold execCoreReadmit
  split <;> simp [h]
theorem memAfter_execPreemptionRequest {Q : List Host.Cell → Prop} {s : State} (h : Q s.mem) :
    MemAfter Q (execPreemptionRequest s) := by
  unfold execPreemptionRequest
  split <;> simp [h]
theorem memAfter_execPreemptionWithdraw {Q : List Host.Cell → Prop} {s : State} (h : Q s.mem) :
    MemAfter Q (execPreemptionWithdraw s) := by
  unfold execPreemptionWithdraw
  split <;> simp [h]
theorem memAfter_execHostDoorbell {Q : List Host.Cell → Prop} {s : State} (h : Q s.mem) :
    MemAfter Q (execHostDoorbell s) := by
  unfold execHostDoorbell
  dsimp only
  split <;> (try split) <;> (try split) <;> simp [h]
theorem memAfter_execServiceSignal {Q : List Host.Cell → Prop} {s : State} (h : Q s.mem) :
    MemAfter Q (execServiceSignal s) := by
  unfold execServiceSignal
  split <;> simp [h]
theorem memAfter_execDebugHalt {Q : List Host.Cell → Prop} {s : State} (h : Q s.mem) :
    MemAfter Q (execDebugHalt s) := by
  unfold execDebugHalt
  split <;> simp [h]
theorem memAfter_execDebugHaltEnd {Q : List Host.Cell → Prop} {s : State} (h : Q s.mem) :
    MemAfter Q (execDebugHaltEnd s) := by
  unfold execDebugHaltEnd
  split <;> simp [h]
theorem memAfter_execInterruptTake {Q : List Host.Cell → Prop} {s : State} (h : Q s.mem) :
    MemAfter Q (execInterruptTake s) := by
  unfold execInterruptTake
  split <;> (try split) <;> simp [h]
theorem memAfter_execSidebandRead {Q : List Host.Cell → Prop} {s : State} (h : Q s.mem) :
    MemAfter Q (execSidebandRead s) := by
  unfold execSidebandRead
  split <;> (try split) <;> simp [h]
theorem memAfter_execEscapeTimeout {Q : List Host.Cell → Prop} {s : State} (h : Q s.mem) :
    MemAfter Q (execEscapeTimeout s) := by
  unfold execEscapeTimeout
  split <;> simp [h]
theorem memAfter_execSlotGuardEnd {Q : List Host.Cell → Prop} {s : State} (h : Q s.mem) :
    MemAfter Q (execSlotGuardEnd s) := by
  unfold execSlotGuardEnd
  split <;> simp [h]
theorem memAfter_execSlotDurationExpiry {Q : List Host.Cell → Prop} {s : State} (h : Q s.mem) :
    MemAfter Q (execSlotDurationExpiry s) := by
  unfold execSlotDurationExpiry
  split <;> simp [h]
theorem memAfter_execSlotQueuesEmpty {Q : List Host.Cell → Prop} {s : State} (h : Q s.mem) :
    MemAfter Q (execSlotQueuesEmpty s) := by
  unfold execSlotQueuesEmpty
  split <;> simp [h]
theorem memAfter_execTaperDispatch {Q : List Host.Cell → Prop} {s : State} (h : Q s.mem) :
    MemAfter Q (execTaperDispatch s) := by
  unfold execTaperDispatch
  split <;> simp [h]
theorem memAfter_execTaperEntryEnd {Q : List Host.Cell → Prop} {s : State} (h : Q s.mem) :
    MemAfter Q (execTaperEntryEnd s) := by
  unfold execTaperEntryEnd
  split <;> simp [h]
theorem memAfter_execTaperArrival {Q : List Host.Cell → Prop} {s : State} (h : Q s.mem) :
    MemAfter Q (execTaperArrival s) := by
  unfold execTaperArrival
  split <;> simp [h]
theorem memAfter_execTaperFreeSlotCount {Q : List Host.Cell → Prop} {s : State} (h : Q s.mem) :
    MemAfter Q (execTaperFreeSlotCount s) := by
  unfold execTaperFreeSlotCount
  split <;> simp [h]
theorem memAfter_execDemandChange {Q : List Host.Cell → Prop} {s : State} (h : Q s.mem) :
    MemAfter Q (execDemandChange s) := by
  unfold execDemandChange
  split <;> simp [h]
theorem memAfter_execPowerBorrowRequest {Q : List Host.Cell → Prop} {s : State} (h : Q s.mem) :
    MemAfter Q (execPowerBorrowRequest s) := by
  unfold execPowerBorrowRequest
  split <;> simp [h]
theorem memAfter_execPowerLend {Q : List Host.Cell → Prop} {s : State} (h : Q s.mem) :
    MemAfter Q (execPowerLend s) := by
  unfold execPowerLend
  split <;> simp [h]
theorem memAfter_execPowerRepay {Q : List Host.Cell → Prop} {s : State} (h : Q s.mem) :
    MemAfter Q (execPowerRepay s) := by
  unfold execPowerRepay
  split <;> simp [h]
theorem memAfter_execPowerRecall {Q : List Host.Cell → Prop} {s : State} (h : Q s.mem) :
    MemAfter Q (execPowerRecall s) := by
  unfold execPowerRecall
  split <;> simp [h]
theorem memAfter_execLaunchTailWrite {Q : List Host.Cell → Prop} {s : State} (h : Q s.mem) :
    MemAfter Q (execLaunchTailWrite s) := by
  unfold execLaunchTailWrite
  split <;> simp [h]
theorem memAfter_execLaunchEntryTake {Q : List Host.Cell → Prop} {s : State} (h : Q s.mem) :
    MemAfter Q (execLaunchEntryTake s) := by
  unfold execLaunchEntryTake
  split <;> simp [h]
theorem memAfter_execAttestationRequest {Q : List Host.Cell → Prop} {s : State} (h : Q s.mem) :
    MemAfter Q (execAttestationRequest s) := by
  unfold execAttestationRequest
  dsimp only
  split <;> (try split) <;> (try split) <;> simp [h]
theorem memAfter_execAttestationAnswer {Q : List Host.Cell → Prop} {s : State} (h : Q s.mem) :
    MemAfter Q (execAttestationAnswer s) := by
  unfold execAttestationAnswer
  dsimp only
  split <;> (try split) <;> (try split) <;> simp [h]
theorem memAfter_execHostRegisterWrite {Q : List Host.Cell → Prop} {s : State} (h : Q s.mem) :
    MemAfter Q (execHostRegisterWrite s) := by
  unfold execHostRegisterWrite
  split <;> simp [h]
theorem memAfter_execDieReset {s : State} (h : Memory.Canonical s.mem) :
    MemAfter Memory.Canonical (execDieReset s) := by
  unfold execDieReset
  split <;> (try split) <;> simp [h]
theorem memAfter_execFlitAuthFail {Q : List Host.Cell → Prop} {s : State} (h : Q s.mem) :
    MemAfter Q (execFlitAuthFail s) := by
  unfold execFlitAuthFail
  split <;> simp [h]
theorem memAfter_execIllegalInstruction {Q : List Host.Cell → Prop} {s : State} (h : Q s.mem) :
    MemAfter Q (execIllegalInstruction s) := by
  unfold execIllegalInstruction
  split <;> (try split) <;> simp [h]
theorem memAfter_execInstructionCacheMissFill {Q : List Host.Cell → Prop} {s : State} (h : Q s.mem) :
    MemAfter Q (execInstructionCacheMissFill s) := by
  unfold execInstructionCacheMissFill
  split <;> (try split) <;> simp [h]
theorem memAfter_execMatrixOperationRetire {s : State} (h : Memory.Canonical s.mem) :
    MemAfter Memory.Canonical (execMatrixOperationRetire s) := by
  unfold execMatrixOperationRetire
  split <;> simp [h]
theorem memAfter_execHostLinkTrained {Q : List Host.Cell → Prop} {s : State} (h : Q s.mem) :
    MemAfter Q (execHostLinkTrained s) := by
  unfold execHostLinkTrained
  dsimp only
  split <;> (try split) <;> simp [h]
theorem memAfter_execAluiAdd {Q : List Host.Cell → Prop} {s : State} (h : Q s.mem) (x : FmtI) :
    MemAfter Q (execAluiAdd x s) := memAfter_immediate h _ _ _
theorem memAfter_execAluiAnd {Q : List Host.Cell → Prop} {s : State} (h : Q s.mem) (x : FmtI) :
    MemAfter Q (execAluiAnd x s) := memAfter_immediate h _ _ _
theorem memAfter_execAluiOr {Q : List Host.Cell → Prop} {s : State} (h : Q s.mem) (x : FmtI) :
    MemAfter Q (execAluiOr x s) := memAfter_immediate h _ _ _
theorem memAfter_execAluiXor {Q : List Host.Cell → Prop} {s : State} (h : Q s.mem) (x : FmtI) :
    MemAfter Q (execAluiXor x s) := memAfter_immediate h _ _ _
theorem memAfter_execAluiShl {Q : List Host.Cell → Prop} {s : State} (h : Q s.mem) (x : FmtI) :
    MemAfter Q (execAluiShl x s) := memAfter_immediate h _ _ _
theorem memAfter_execAluiShr {Q : List Host.Cell → Prop} {s : State} (h : Q s.mem) (x : FmtI) :
    MemAfter Q (execAluiShr x s) := memAfter_immediate h _ _ _
theorem memAfter_execAluiSra {Q : List Host.Cell → Prop} {s : State} (h : Q s.mem) (x : FmtI) :
    MemAfter Q (execAluiSra x s) := memAfter_immediate h _ _ _
theorem memAfter_execAluiMul {Q : List Host.Cell → Prop} {s : State} (h : Q s.mem) (x : FmtI) :
    MemAfter Q (execAluiMul x s) := memAfter_immediate h _ _ _
theorem memAfter_execCkStar {s : State} (h : Memory.Canonical s.mem) (x : FmtK) :
    MemAfter Memory.Canonical (execCkStar x s) := memAfter_ckMap h _ _ _ _ _
theorem memAfter_execCkIstar {s : State} (h : Memory.Canonical s.mem) (x : FmtK) :
    MemAfter Memory.Canonical (execCkIstar x s) := memAfter_ckMap h _ _ _ _ _
theorem memAfter_execCkCodif {s : State} (h : Memory.Canonical s.mem) (x : FmtK) :
    MemAfter Memory.Canonical (execCkCodif x s) := memAfter_ckMap h _ _ _ _ _
theorem memAfter_execCkCvt {s : State} (h : Memory.Canonical s.mem) (x : FmtK) :
    MemAfter Memory.Canonical (execCkCvt x s) := memAfter_ckMap h _ _ _ _ _

end Sys2Proof.Machine
end

section
/-!
SUPPORT. A step keeps the canonical form of memory (O58).
-/

namespace Sys2Proof.Machine

theorem memAfter_exec {s : State} (h : Memory.Canonical s.mem) (i : Instr) : MemAfter Memory.Canonical (exec i s) := by
  cases i with
  | aluAdd x | aluSub x | aluMul x | aluMulh x | aluMulhz x | aluAnd x | aluOr x | aluXor x | aluAndn x | aluShl x
  | aluShr x | aluSra x | aluMin x | aluMax x | aluMinz x | aluMaxz x | aluAdds x | aluSubs x | fpuAdd x | fpuSub x
  | fpuMul x | fpuDiv x | fpuMin x | fpuMax x | fpdAdd x | fpdSub x | fpdMul x | fpdDiv x | fpdMin x | fpdMax x
    => exact memAfter_binary h _ _ _
  | aluDiv x | aluDivz x | aluRem x | aluRemz x => exact memAfter_division h _ _ _
  | aluClz x | aluCtz x | aluPopc x | fpuSqrt x | fpuAbs x | fpuNeg x | fpuCvti x | fpuCvtf x | fpuCvtw x
  | fpuCvtb x | fpuCvt8 x | fpdSqrt x | fpdAbs x | fpdNeg x | fpdCvti x | fpdCvtf x | fpdCvtw x | fpdCvtb x
  | fpdCvt8 x | movCp x | movSxb x | movSxh x | movSxw x | movZxb x | movZxh x | movZxw x
    => exact memAfter_unary h _ _ _
  | aluiAdd x => exact memAfter_execAluiAdd h _
  | aluiAnd x => exact memAfter_execAluiAnd h _
  | aluiOr x => exact memAfter_execAluiOr h _
  | aluiXor x => exact memAfter_execAluiXor h _
  | aluiShl x => exact memAfter_execAluiShl h _
  | aluiShr x => exact memAfter_execAluiShr h _
  | aluiSra x => exact memAfter_execAluiSra h _
  | aluiMul x => exact memAfter_execAluiMul h _
  | fpuFma x | fpuFms x | fpdFma x | fpdFms x => exact memAfter_ternary h _ _ _
  | cmpEq x | cmpNe x | cmpLt x | cmpGe x | cmpLo x | cmpHs x | cmpUn x => exact memAfter_compare h _ _ _
  | movRdp x => exact memAfter_execMovRdp h _
  | movWrp x => exact memAfter_execMovWrp h _
  | sysRw x => exact memAfter_execSysRw h _
  | schedWrite => exact memAfter_execSchedWrite h
  | br x => exact memAfter_execBr h _
  | brLink x => exact memAfter_execBrLink h _
  | jmpJr x => exact memAfter_execJmpJr h _
  | jmpJl x => exact memAfter_execJmpJl h _
  | wkSpawn x => exact memAfter_execWkSpawn h _
  | wkMigr x => exact memAfter_execWkMigr h _
  | wkWaitw x => exact memAfter_execWkWaitw h _
  | wkSusp x => exact memAfter_execWkSusp h _
  | wkDone x => exact memAfter_execWkDone h _
  | wkSnuffSelf x => exact memAfter_execWkSnuffSelf h _
  | wkSnuff x => exact memAfter_execWkSnuff h _
  | wkLaunch x => exact memAfter_execWkLaunch h _
  | wkPrio x => exact memAfter_execWkPrio h _
  | ld x => exact memAfter_execLd h _
  | ldAcq x => exact memAfter_execLdAcq h _
  | st x => exact memAfter_execSt h _
  | stRel x => exact memAfter_execStRel h _
  | amoAdd x => exact memAfter_execAmoAdd h _
  | amoAnd x => exact memAfter_execAmoAnd h _
  | amoOr x => exact memAfter_execAmoOr h _
  | amoXor x => exact memAfter_execAmoXor h _
  | amoMin x => exact memAfter_execAmoMin h _
  | amoMax x => exact memAfter_execAmoMax h _
  | amoMinz x => exact memAfter_execAmoMinz h _
  | amoMaxz x => exact memAfter_execAmoMaxz h _
  | amoSwap x => exact memAfter_execAmoSwap h _
  | amoCas x => exact memAfter_execAmoCas h _
  | amoFadd x => exact memAfter_execAmoFadd h _
  | fenceAll x => exact memAfter_execFenceAll h _
  | fenceSt x => exact memAfter_execFenceSt h _
  | fenceLd x => exact memAfter_execFenceLd h _
  | monArm x => exact memAfter_execMonArm h _
  | monDis x => exact memAfter_execMonDis h _
  | monWait x => exact memAfter_execMonWait h _
  | monClr x => exact memAfter_execMonClr h _
  | vecAdd x | vecSub x | vecMul x | vecFma x | vecMin x | vecMax x | vecAnd x | vecOr x | vecXor x | vecShl x
  | vecShr x | vecSra x | vecCeq x | vecClt x => exact memAfter_vecLanes h _ _ _
  | vecAbs x | vecNeg x => exact memAfter_vecLanes1 h _ _ _
  | vecSel x => exact memAfter_execVecSel h _
  | vecShuf x => exact memAfter_execVecShuf h _
  | vecBcast x => exact memAfter_execVecBcast h _
  | vecRsum x | vecRmax x | vecRmin x => exact memAfter_vecReduce h _ _ _ _
  | vecCvt x => exact memAfter_execVecCvt h _
  | vecScale x => exact memAfter_execVecScale h _
  | vldC x => exact memAfter_execVldC h _
  | vldS x => exact memAfter_execVldS h _
  | vldCR x => exact memAfter_execVldCR h _
  | vldSR x => exact memAfter_execVldSR h _
  | vstC x => exact memAfter_execVstC h _
  | vstS x => exact memAfter_execVstS h _
  | vstCR x => exact memAfter_execVstCR h _
  | vstSR x => exact memAfter_execVstSR h _
  | vgthG x => exact memAfter_execVgthG h _
  | vgthGt x => exact memAfter_execVgthGt h _
  | enqWt x => exact memAfter_execEnqWt h _
  | enqTry x => exact memAfter_execEnqTry h _
  | enqRoomRetry => exact memAfter_execEnqRoomRetry h
  | vgInit x => exact memAfter_execVgInit h _
  | vgJoin x => exact memAfter_execVgJoin h _
  | vgLeave x => exact memAfter_execVgLeave h _
  | vgArr x => exact memAfter_execVgArr h _
  | vgWait x => exact memAfter_execVgWait h _
  | vgArrw x => exact memAfter_execVgArrw h _
  | vgBrk x => exact memAfter_execVgBrk h _
  | vgBrkGroup x => exact memAfter_execVgBrkGroup h _
  | vgStat x => exact memAfter_execVgStat h _
  | trapSw x => exact memAfter_execTrapSw h _
  | trapRet x => exact memAfter_execTrapRet h _
  | trapBrk x => exact memAfter_execTrapBrk h _
  | trapMsk x => exact memAfter_execTrapMsk h _
  | tlbFill x => exact memAfter_execTlbFill h _
  | tlbInvr x => exact memAfter_execTlbInvr h _
  | tlbInva x => exact memAfter_execTlbInva h _
  | tlbPrb x => exact memAfter_execTlbPrb h _
  | fabConn x => exact memAfter_execFabConn h _
  | fabClose x => exact memAfter_execFabClose h _
  | fabSlot x => exact memAfter_execFabSlot h _
  | fabStat x => exact memAfter_execFabStat h _
  | fabGnt x => exact memAfter_execFabGnt h _
  | lanInst x => exact memAfter_execLanInst h _
  | lanDrop x => exact memAfter_execLanDrop h _
  | lanStat x => exact memAfter_execLanStat h _
  | lanDflt x => exact memAfter_execLanDflt h _
  | tapLoad x => exact memAfter_execTapLoad h _
  | tapGo x => exact memAfter_execTapGo h _
  | tapHalt x => exact memAfter_execTapHalt h _
  | tapStat x => exact memAfter_execTapStat h _
  | tapHead x => exact memAfter_execTapHead h _
  | cxLoad x => exact memAfter_execCxLoad h _
  | cxBind x => exact memAfter_execCxBind h _
  | cxRebind x => exact memAfter_execCxRebind h _
  | cxGen x => exact memAfter_execCxGen h _
  | cxDrop x => exact memAfter_execCxDrop h _
  | ckDx x => exact memAfter_execCkDx h _
  | ckStar x => exact memAfter_execCkStar h _
  | ckIstar x => exact memAfter_execCkIstar h _
  | ckCodif x => exact memAfter_execCkCodif h _
  | ckWedge x => exact memAfter_execCkWedge h _
  | ckInterp x => exact memAfter_execCkInterp h _
  | ckCvt x => exact memAfter_execCkCvt h _
  | ckAnch x => exact memAfter_execCkAnch h _
  | ckAxpy x => exact memAfter_execCkAxpy h _
  | ckDot x => exact memAfter_execCkDot h _
  | ckHpack x => exact memAfter_execCkHpack h _
  | ckHunp x => exact memAfter_execCkHunp h _
  | mxMma x => exact memAfter_execMxMma h _
  | mxMmaz0 x => exact memAfter_execMxMmaz0 h _
  | mxMmaz1 x => exact memAfter_execMxMmaz1 h _
  | mxClr x => exact memAfter_execMxClr h _
  | mxSt x => exact memAfter_execMxSt h _
  | mxLd x => exact memAfter_execMxLd h _
  | copy => exact memAfter_execCopy h
  | gather => exact memAfter_execGather h
  | scatter => exact memAfter_execScatter h
  | fill => exact memAfter_execFill h
  | paddedCopy => exact memAfter_execPaddedCopy h
  | blockedTransform => exact memAfter_execBlockedTransform h
  | quantum => exact memAfter_execQuantum h
  | engineGrantVisit => exact memAfter_execEngineGrantVisit h
  | engineOpComplete => exact memAfter_execEngineOpComplete h
  | fabricSend => exact memAfter_execFabricSend h
  | multicastStore => exact memAfter_execMulticastStore h
  | multicastReply => exact memAfter_execMulticastReply h
  | haloPack => exact memAfter_execHaloPack h
  | haloUnpack => exact memAfter_execHaloUnpack h
  | lanternInstallCmd => exact memAfter_execLanternInstallCmd h
  | lanternDropCmd => exact memAfter_execLanternDropCmd h
  | lanternResetCmd => exact memAfter_execLanternResetCmd h
  | taperLoadCmd => exact memAfter_execTaperLoadCmd h
  | taperGoCmd => exact memAfter_execTaperGoCmd h
  | taperHaltCmd => exact memAfter_execTaperHaltCmd h
  | schedDispatch => exact memAfter_execSchedDispatch h
  | stealRequest => exact memAfter_execStealRequest h
  | stealReply => exact memAfter_execStealReply h
  | stealBackoffEnd => exact memAfter_execStealBackoffEnd h
  | dispenserPass => exact memAfter_execDispenserPass h
  | wickEntry => exact memAfter_execWickEntry h
  | migrationArrival => exact memAfter_execMigrationArrival h
  | wickRefusalReturn => exact memAfter_execWickRefusalReturn h
  | slotGating => exact memAfter_execSlotGating h
  | vectorRefresh => exact memAfter_execVectorRefresh h
  | portWordArrival => exact memAfter_execPortWordArrival h
  | accessComplete => exact memAfter_execAccessComplete h
  | relaxedAccessComplete => exact memAfter_execRelaxedAccessComplete h
  | atomicReservationGrant => exact memAfter_execAtomicReservationGrant h
  | monWaitTimeout => exact memAfter_execMonWaitTimeout h
  | peerAccess => exact memAfter_execPeerAccess h
  | peerAck => exact memAfter_execPeerAck h
  | peerRefusal => exact memAfter_execPeerRefusal h
  | fenceMarker => exact memAfter_execFenceMarker h
  | peerLeft => exact memAfter_execPeerLeft h
  | linkTrained => exact memAfter_execLinkTrained h
  | lanternRequest => exact memAfter_execLanternRequest h
  | lanternAtomic => exact memAfter_execLanternAtomic h
  | beaconInterval => exact memAfter_execBeaconInterval h
  | vigilArrivalMessage => exact memAfter_execVigilArrivalMessage h
  | vigilByteDecrement => exact memAfter_execVigilByteDecrement h
  | groupBreakNotice => exact memAfter_execGroupBreakNotice h
  | vigilNotice => exact memAfter_execVigilNotice h
  | arrivalForward => exact memAfter_execArrivalForward h
  | arrivalForwardTimeout => exact memAfter_execArrivalForwardTimeout h
  | wickFailure => exact memAfter_execWickFailure h
  | failureListTailAdvance => exact memAfter_execFailureListTailAdvance h
  | coreError => exact memAfter_execCoreError h
  | bankFailMark => exact memAfter_execBankFailMark h
  | coreReadmit => exact memAfter_execCoreReadmit h
  | preemptionRequest => exact memAfter_execPreemptionRequest h
  | preemptionWithdraw => exact memAfter_execPreemptionWithdraw h
  | hostDoorbell => exact memAfter_execHostDoorbell h
  | serviceSignal => exact memAfter_execServiceSignal h
  | debugHalt => exact memAfter_execDebugHalt h
  | debugHaltEnd => exact memAfter_execDebugHaltEnd h
  | interruptTake => exact memAfter_execInterruptTake h
  | sidebandRead => exact memAfter_execSidebandRead h
  | escapeTimeout => exact memAfter_execEscapeTimeout h
  | slotGuardEnd => exact memAfter_execSlotGuardEnd h
  | slotDurationExpiry => exact memAfter_execSlotDurationExpiry h
  | slotQueuesEmpty => exact memAfter_execSlotQueuesEmpty h
  | taperDispatch => exact memAfter_execTaperDispatch h
  | taperEntryEnd => exact memAfter_execTaperEntryEnd h
  | taperArrival => exact memAfter_execTaperArrival h
  | taperFreeSlotCount => exact memAfter_execTaperFreeSlotCount h
  | demandChange => exact memAfter_execDemandChange h
  | powerBorrowRequest => exact memAfter_execPowerBorrowRequest h
  | powerLend => exact memAfter_execPowerLend h
  | powerRepay => exact memAfter_execPowerRepay h
  | powerRecall => exact memAfter_execPowerRecall h
  | launchTailWrite => exact memAfter_execLaunchTailWrite h
  | launchEntryTake => exact memAfter_execLaunchEntryTake h
  | attestationRequest => exact memAfter_execAttestationRequest h
  | attestationAnswer => exact memAfter_execAttestationAnswer h
  | hostRegisterWrite => exact memAfter_execHostRegisterWrite h
  | dieReset => exact memAfter_execDieReset h
  | flitAuthFail => exact memAfter_execFlitAuthFail h
  | illegalInstruction => exact memAfter_execIllegalInstruction h
  | instructionCacheMissFill => exact memAfter_execInstructionCacheMissFill h
  | matrixOperationRetire => exact memAfter_execMatrixOperationRetire h
  | hostLinkTrained => exact memAfter_execHostLinkTrained h
theorem memAfter_stepEvent {s : State} (h : Memory.Canonical s.mem) (e : Event) :
    MemAfter Memory.Canonical (stepEvent e s) := memAfter_exec (s := { s with ev := some e, tick := s.tick + 1 }) h _

theorem memAfter_stepWords {s : State} (h : Memory.Canonical s.mem) (w l1 l2 : IWord) :
    MemAfter Memory.Canonical (stepWords w l1 l2 s) := by
  unfold stepWords
  split
  · exact memAfter_exec h _
  · exact memAfter_exec (by exact h) _

theorem memAfter_stepSlot {s : State} (h : Memory.Canonical s.mem) (corek slot : Nat) :
    MemAfter Memory.Canonical (stepSlot corek slot s) := by
  have h1 : Memory.Canonical (s.issueFrom corek slot).mem := by rw [State.issueFrom_mem]; exact h
  unfold stepSlot
  dsimp only
  split
  · exact memAfter_exec (by exact h1) _
  · split
    · exact (memAfter_next _).mpr (by rw [State.post_mem, State.setWait_mem]; exact h1)
    · exact memAfter_stepWords h1 _ _ _

theorem memAfter_stepCore {s : State} (h : Memory.Canonical s.mem) (corek : Nat) :
    MemAfter Memory.Canonical (stepCore corek s) := by
  unfold stepCore
  split
  · exact memAfter_stepEvent (by exact h) _
  · dsimp only
    split
    · exact (memAfter_next _).mpr (by rw [State.countWithheld_mem]; exact h)
    split
    · exact (memAfter_next _).mpr h
    split
    · exact (memAfter_next _).mpr h
    · exact memAfter_stepSlot (by exact h) _ _

theorem memAfter_step {s : State} (h : Memory.Canonical s.mem) : MemAfter Memory.Canonical (step s) := by
  unfold step
  split
  · exact memAfter_stepEvent (by exact h) _
  split
  · exact memAfter_stepEvent (by exact h) _
  split
  · exact (memAfter_next _).mpr h
  · exact memAfter_stepCore (by exact h) _

/-- Settles O58: only `storeN` and the emptying of a stack write memory, and both keep its form; every arm of the
dispatch, and so the step, is built of what keeps it. -/
theorem stepKeepsMemoryForm : Obligations.StepKeepsMemoryForm := by
  unfold Obligations.StepKeepsMemoryForm
  intro s t h hs
  exact memAfter_step h t hs

end Sys2Proof.Machine
end

section
/-!
SUPPORT. Scalar accesses: their addresses, their operands, and what stops them before their home (R155, R165, R167).
-/

namespace Sys2Proof.Machine

/-! ### Addresses and operands -/

/-- The address of a scalar access is the sum of its two sources. -/
theorem addressM_go {s : State} {slot : Nat} {a b : Src} {va vb : Word} {q1 q : Reading}
    (h1 : s.readSrc slot a {} = some (va, q1)) (h2 : s.readSrc slot b q1 = some (vb, q)) :
    (addressM a b).go (ctx slot s {}) = (.ok (va + vb), ctx slot s q) := by
  simp [addressM, rd_go h1, rd_go h2]

/-- The body of a load: its address, then the access. -/
def loadBody (x : FmtA) (m : Word → M Unit) : M Flow := do
  let va ← addressM x.a x.b
  m va
  return .next

/-- The body of a store: its address, the register in the dst field, then the access. -/
def storeBody (x : FmtA) (m : Word → Word → M Unit) : M Flow := do
  let va ← addressM x.a x.b
  let v ← rdCode x.d.toNat
  m v va
  return .next

section
variable (s : State) (x : FmtA) (sx : Bool) (w : BitVec 2) (dbl : Bool) (sc : BitVec 4)

theorem exec_ld : exec (.ld ⟨x, false, sx, w⟩) s =
    runInstr (.ld ⟨x, false, sx, w⟩) s (loadBody x (loadM x.d (2 ^ w.toNat) sx)) := rfl
theorem exec_ld_relaxed : exec (.ld ⟨x, true, sx, w⟩) s =
    runInstr (.ld ⟨x, true, sx, w⟩) s (loadBody x (loadRelaxedM x.d (2 ^ w.toNat) sx)) := rfl
theorem exec_ldAcq : exec (.ldAcq ⟨x, dbl, sc⟩) s = runInstr (.ldAcq ⟨x, dbl, sc⟩) s
    (loadBody x fun va => loadM x.d (if dbl then 8 else 4) false va (some sc.toNat)) := rfl
theorem exec_st : exec (.st ⟨x, false, sx, w⟩) s =
    runInstr (.st ⟨x, false, sx, w⟩) s (storeBody x fun v => storeM (2 ^ w.toNat) v none) := rfl
theorem exec_st_relaxed : exec (.st ⟨x, true, sx, w⟩) s =
    runInstr (.st ⟨x, true, sx, w⟩) s (storeBody x (storeRelaxedM (2 ^ w.toNat))) := rfl
theorem exec_stRel : exec (.stRel ⟨x, dbl, sc⟩) s = runInstr (.stRel ⟨x, dbl, sc⟩) s
    (storeBody x fun v => storeM (if dbl then 8 else 4) v (some sc.toNat)) := rfl

end

/-- A load that has read its sources goes on with its access. -/
theorem loadBody_go {s : State} {x : FmtA} {a b : Word} {q : Reading} (m : Word → M Unit) (h : s.reads2 x.a x.b a b q) :
    (loadBody x m).go (ctx s.cur s {}) = M.andThen ((m (a + b)).go (ctx s.cur s q)) fun _ => pure .next := by
  obtain ⟨q1, h1, h2⟩ := h
  rw [loadBody, M.go_bind, addressM_go h1 h2, M.andThen_ok, M.go_bind]

/-- A store that has read its sources and its data goes on with its access. -/
theorem storeBody_go {s : State} {x : FmtA} {a b v : Word} {q : Reading} (m : Word → Word → M Unit)
    (h : s.reads3 x.a x.b x.d.toNat a b v q) :
    (storeBody x m).go (ctx s.cur s {}) = M.andThen ((m v (a + b)).go (ctx s.cur s q)) fun _ => pure .next := by
  obtain ⟨q2, ⟨q1, h1, h2⟩, h3⟩ := h
  rw [storeBody, M.go_bind, addressM_go h1 h2, M.andThen_ok, M.go_bind, rdCode_go h3, M.andThen_ok, M.go_bind]

theorem lowest_eq_none {l : List Cause} : lowest l = none ↔ l = [] := by
  cases l with
  | nil => exact ⟨fun _ => rfl, fun _ => rfl⟩
  | cons c cs =>
    refine ⟨fun h => ?_, fun h => nomatch h⟩
    rw [lowest] at h
    split at h <;> cases h

/-- An instruction that issues raises no cause of its word. -/
theorem Issues.causes_eq_nil {i : Instr} {s : State} (h : Issues i s) : i.enc.causes = [] := by
  have := lowest_eq_none.mp h.1
  exact (List.append_eq_nil_iff.mp this).1

/-- An instruction of format A that issues raises no cause of its dst field. -/
theorem Issues.dst_ok {i : Instr} {s : State} (h : Issues i s) {op fn : Nat} {x : FmtA} {dr ar br : Role}
    {more : List Cause} (he : i.enc = .a op fn x dr ar br more) : roleCauses dr x.d.toNat = [] := by
  have hc := h.causes_eq_nil
  rw [he] at hc
  simp only [Enc.causes, List.append_eq_nil_iff] at hc
  exact hc.1.1.1.1

/-- A register of cas's pair: a general register. -/
theorem casDst_lt {c : Nat} (h : roleCauses .casDst c = []) : 0 < c ∧ c < 15 := by
  unfold roleCauses at h
  dsimp only at h
  split at h
  · cases h
  split at h
  · cases h
  · omega

theorem amoDst_lt {c : Nat} (h : roleCauses .amoDst c = []) : 0 < c ∧ c < 16 := by
  unfold roleCauses at h
  dsimp only at h
  split at h
  · cases h
  split at h
  · cases h
  · omega

/-- A general register that is not pending reads its value and takes nothing from the receive queue. -/
theorem State.readCode_general {s : State} {slot c : Nat} (q : Reading) (h0 : 0 < c) (h : c < 16)
    (hp : (s.slot slot).isPending c = false) : s.readCode slot c q = some (Tab.get 0 (s.slot slot).g c, q) := by
  simp [State.readCode, hp, h, Nat.ne_of_gt h0]

/-! ### Atomics by their operation -/

/-- The number of an atomic's operation (R167). -/
def amoOp : Instr → Nat
  | .amoAdd _ => 0
  | .amoAnd _ => 1
  | .amoOr _ => 2
  | .amoXor _ => 3
  | .amoMin _ => 4
  | .amoMax _ => 5
  | .amoMinz _ => 6
  | .amoMaxz _ => 7
  | .amoSwap _ => 8
  | .amoCas _ => 9
  | _ => 10

/-- Every atomic is `atomicM` of its operation. -/
theorem exec_atomic {i : Instr} {x : FmtN} {f : Nat → Nat → Nat → Nat → Nat}
    (h : Claims.atomicNew i = some (x, f)) (s : State) : exec i s = runInstr i s (atomicM x (amoOp i)) := by
  unfold Claims.atomicNew at h
  split at h <;> cases h <;> rfl

/-- An atomic's word: its dst field is an atomic's operand, for cas the first of two registers. -/
theorem enc_atomic {i : Instr} {x : FmtN} {f : Nat → Nat → Nat → Nat → Nat} (h : Claims.atomicNew i = some (x, f)) :
    ∃ fn, i.enc = .a 26 fn x.toFmtA (if amoOp i = 9 then .casDst else .amoDst) .rd .rd [] := by
  unfold Claims.atomicNew at h
  split at h <;> cases h <;> exact ⟨_, rfl⟩

/-- An atomic's dst is a general register other than g0, and so is the one after it for cas. -/
theorem Issues.atomic_dst {i : Instr} {s : State} {x : FmtN} {f : Nat → Nat → Nat → Nat → Nat} (hi : Issues i s)
    (h : Claims.atomicNew i = some (x, f)) :
    0 < x.d.toNat ∧ x.d.toNat < 16 ∧ (amoOp i = 9 → x.d.toNat < 15) := by
  obtain ⟨fn, he⟩ := enc_atomic h
  have hr := hi.dst_ok he
  split at hr
  · have := casDst_lt hr
    omega
  · have := amoDst_lt hr
    exact ⟨this.1, this.2, fun h9 => absurd h9 ‹_›⟩

/-- What an atomic reads of its second operand: the register after dst for cas, and nothing otherwise. -/
def State.amoSecond (s : State) (i : Instr) (d : Nat) : Word :=
  if amoOp i = 9 then Tab.get 0 (s.slot s.cur).g (d + 1) else 0

/-- The second operand of an atomic that issues takes nothing from the receive queue. -/
theorem amoSecond_go {i : Instr} {s : State} {x : FmtN} {f : Nat → Nat → Nat → Nat → Nat} (q : Reading)
    (hi : Issues i s) (h : Claims.atomicNew i = some (x, f)) (hp : ∀ c, (s.slot s.cur).isPending c = false) :
    (if amoOp i = 9 then rdCode (x.d.toNat + 1) else pure 0 : M Word).go (ctx s.cur s q) =
      (.ok (s.amoSecond i x.d.toNat), ctx s.cur s q) := by
  obtain ⟨_, _, hcas⟩ := hi.atomic_dst h
  unfold State.amoSecond
  split
  next h9 =>
    have := hcas h9
    exact rdCode_go (State.readCode_general q (by omega) (by omega) (hp _))
  · rfl

/-! ### A misaligned access (R155) -/

/-- A misaligned access traps at its address. -/
theorem accessM_misaligned_go {s s1 : State} {slot n : Nat} {k : XKind} {va : Word} {t : Xlat} (tolOk : Bool)
    (q : Reading) (hx : s.xlate (coreOf slot) true (s.slot slot).user (s.slot slot).asid k va = (.ok t, s1))
    (hn : va.toNat % n ≠ 0) :
    (accessM k n tolOk va).go (ctx slot s q) = (.error (.trap { cause := 0x20, tval := va }), ctx slot s1 q) := by
  have hv := State.xlate_va hx
  simp [accessM, xlateM_go q hx, checkM, needM_go, hv, hn]

section
variable {s s1 : State} {slot n : Nat} {va : Word} {t : Xlat}

theorem loadM_misaligned_go (d : BitVec 5) (sx : Bool) (acq : Option Nat) (q : Reading)
    (hx : s.xlate (coreOf slot) true (s.slot slot).user (s.slot slot).asid .load va = (.ok t, s1))
    (hn : va.toNat % n ≠ 0) :
    (loadM d n sx va acq).go (ctx slot s q) = (.error (.trap { cause := 0x20, tval := va }), ctx slot s1 q) := by
  simp [loadM, accessM_misaligned_go _ q hx hn]

theorem loadRelaxedM_misaligned_go (d : BitVec 5) (sx : Bool) (q : Reading)
    (hx : s.xlate (coreOf slot) true (s.slot slot).user (s.slot slot).asid .load va = (.ok t, s1))
    (hn : va.toNat % n ≠ 0) :
    (loadRelaxedM d n sx va).go (ctx slot s q) = (.error (.trap { cause := 0x20, tval := va }), ctx slot s1 q) := by
  simp [loadRelaxedM, loadM_misaligned_go d sx none q hx hn, accessM_misaligned_go _ q hx hn]

theorem storeM_misaligned_go (v : Word) (sc : Option Nat) (q : Reading)
    (hx : s.xlate (coreOf slot) true (s.slot slot).user (s.slot slot).asid .store va = (.ok t, s1))
    (hn : va.toNat % n ≠ 0) :
    (storeM n v sc va).go (ctx slot s q) = (.error (.trap { cause := 0x20, tval := va }), ctx slot s1 q) := by
  simp [storeM, accessM_misaligned_go _ q hx hn]

theorem storeRelaxedM_misaligned_go (v : Word) (q : Reading)
    (hx : s.xlate (coreOf slot) true (s.slot slot).user (s.slot slot).asid .store va = (.ok t, s1))
    (hn : va.toNat % n ≠ 0) :
    (storeRelaxedM n v va).go (ctx slot s q) = (.error (.trap { cause := 0x20, tval := va }), ctx slot s1 q) := by
  simp [storeRelaxedM, accessM_misaligned_go _ q hx hn]

end

/-- A relaxed atomic that has been checked: it leaves the core. -/
def atomicFlies (x : FmtN) (op : Nat) (t : Xlat) (a b : Nat) : M Flow := do
  flightRoomM
  oobM t true
  let id ← freshM
  let q ← requestM (.atomic op) t (dblWidth x.dbl) a b (some id) (.reg x.d.toNat (dblWidth x.dbl) false)
  flyM id [q] [x.d.toNat]
  atomicAwayM q
  return .next

/-- A plain atomic performed at once. -/
def atomicHere (me : Nat) (x : FmtN) (op : Nat) (t : Xlat) (a b : Nat) : M Flow := do
  errorM t.pa
  oobM t true
  let r := ((← getS).serve t.pa false).atomicHome (clusterOf me) t.pa (dblWidth x.dbl) op a b
  setS r.2
  wr x.d (BitVec.ofNat 64 r.1)
  return .next

/-- A plain atomic performed elsewhere: its request goes there, and the slot waits for the answer. -/
def atomicSent (me : Nat) (x : FmtN) (op : Nat) (t : Xlat) (a b : Nat) : M Flow := do
  if (peerOf me t.pa).isSome then keepM []
  oobM t true
  let q ← requestM (.atomic op) t (dblWidth x.dbl) a b none (.reg x.d.toNat (dblWidth x.dbl) false)
  let queued := (← getS).reserved t.pa
  atomicAwayM q
  underWayM (if queued then .reservation else .reply) 1
  return .next

/-- The rest of an atomic once it has read its operands. -/
def atomicAt (me : Nat) (x : FmtN) (op : Nat) (va v v2 : Word) : M Flow := do
  let t ← accessM .atomic (dblWidth x.dbl) false va
  readyM t.pa
  let a := v.toNat % 2 ^ (8 * dblWidth x.dbl)
  let b := v2.toNat % 2 ^ (8 * dblWidth x.dbl)
  if x.rel then atomicFlies x op t a b
  else if atomicNear (← getS) me t.pa then atomicHere me x op t a b
  else atomicSent me x op t a b

/-- An atomic that issues reads its operands and goes on with its access. -/
theorem atomicM_go {i : Instr} {s : State} {x : FmtN} {f : Nat → Nat → Nat → Nat → Nat} {a b v : Word} {q : Reading}
    (hi : Issues i s) (h : Claims.atomicNew i = some (x, f)) (hp : ∀ c, (s.slot s.cur).isPending c = false)
    (hr : s.reads3 x.a x.b x.d.toNat a b v q) :
    (atomicM x (amoOp i)).go (ctx s.cur s {}) =
      (atomicAt s.cur x (amoOp i) (a + b) v (s.amoSecond i x.d.toNat)).go (ctx s.cur s q) := by
  obtain ⟨q2, ⟨q1, h1, h2⟩, h3⟩ := hr
  have h4 := amoSecond_go q hi h hp
  unfold atomicM
  rw [M.go_bind, here_go, M.andThen_ok, ctx_slot]
  dsimp only
  rw [M.go_bind, addressM_go h1 h2, M.andThen_ok, M.go_bind, rdCode_go h3, M.andThen_ok]
  split at h4
  next h9 =>
    rw [if_pos h9, M.go_bind, h4, M.andThen_ok]
    rfl
  next h9 =>
    injection h4 with h4
    injection h4 with h4
    rw [if_neg h9, M.go_bind, M.go_pure, M.andThen_ok, h4]
    rfl

theorem atomicM_misaligned_go {i : Instr} {s s1 : State} {x : FmtN} {f : Nat → Nat → Nat → Nat → Nat} {a b v : Word}
    {t : Xlat} {q : Reading} (hi : Issues i s) (h : Claims.atomicNew i = some (x, f))
    (hp : ∀ c, (s.slot s.cur).isPending c = false) (hr : s.reads3 x.a x.b x.d.toNat a b v q)
    (hx : s.xlate (coreOf s.cur) true (s.slot s.cur).user (s.slot s.cur).asid .atomic (a + b) = (.ok t, s1))
    (hn : (a + b).toNat % (if x.dbl then 8 else 4) ≠ 0) :
    (atomicM x (amoOp i)).go (ctx s.cur s {}) = (.error (.trap { cause := 0x20, tval := a + b }), ctx s.cur s1 q) := by
  have hn' : (a + b).toNat % dblWidth x.dbl ≠ 0 := hn
  rw [atomicM_go hi h hp hr, atomicAt, M.go_bind, accessM_misaligned_go false q hx hn', M.andThen_error]

/-- Every scalar access comes to its trap when it is misaligned. -/
theorem exec_misaligned {i : Instr} {s s1 : State} {x : FmtA} {k : XKind} {n : Nat} {a b v : Word} {t : Xlat} {q : Reading}
    (hc : Claims.scalarAccess i = some (x, k, n)) (hi : Issues i s) (hp : ∀ c, (s.slot s.cur).isPending c = false)
    (hr : if k = .load then s.reads2 x.a x.b a b q else s.reads3 x.a x.b x.d.toNat a b v q)
    (hx : s.xlate (coreOf s.cur) true (s.slot s.cur).user (s.slot s.cur).asid k (a + b) = (.ok t, s1))
    (hn : (a + b).toNat % n ≠ 0) :
    exec i s = .next (s1.takeTrap s.cur 0x20 (a + b) (s.slot s.cur).pc false) := by
  unfold Claims.scalarAccess at hc
  split at hc
  case h_1 y =>
    obtain ⟨y, rel, sx, w⟩ := y
    cases hc
    replace hr : s.reads2 y.a y.b a b q := hr
    cases rel
    · rw [exec_ld]
      exact runInstr_raises hi (by rw [loadBody_go _ hr, loadM_misaligned_go _ _ _ _ hx hn, M.andThen_error])
    · rw [exec_ld_relaxed]
      exact runInstr_raises hi (by rw [loadBody_go _ hr, loadRelaxedM_misaligned_go _ _ _ hx hn, M.andThen_error])
  case h_2 y =>
    obtain ⟨y, dbl, sc⟩ := y
    cases hc
    replace hr : s.reads2 y.a y.b a b q := hr
    rw [exec_ldAcq]
    exact runInstr_raises hi (by rw [loadBody_go _ hr, loadM_misaligned_go _ _ _ _ hx hn, M.andThen_error])
  case h_3 y =>
    obtain ⟨y, rel, sx, w⟩ := y
    cases hc
    replace hr : s.reads3 y.a y.b y.d.toNat a b v q := hr
    cases rel
    · rw [exec_st]
      exact runInstr_raises hi (by rw [storeBody_go _ hr, storeM_misaligned_go _ _ _ hx hn, M.andThen_error])
    · rw [exec_st_relaxed]
      exact runInstr_raises hi (by rw [storeBody_go _ hr, storeRelaxedM_misaligned_go _ _ hx hn, M.andThen_error])
  case h_4 y =>
    obtain ⟨y, dbl, sc⟩ := y
    cases hc
    replace hr : s.reads3 y.a y.b y.d.toNat a b v q := hr
    rw [exec_stRel]
    exact runInstr_raises hi (by rw [storeBody_go _ hr, storeM_misaligned_go _ _ _ hx hn, M.andThen_error])
  case h_5 =>
    obtain ⟨⟨y, f⟩, hy, he⟩ := Option.map_eq_some_iff.mp hc
    cases he
    rw [exec_atomic hy]
    exact runInstr_raises hi (atomicM_misaligned_go hi hy hp hr hx hn)

/-- Settles O17: the check of alignment comes first after the translation, and before anything is read or written. -/
theorem misalignedAccessTraps : Obligations.MisalignedAccessTraps := by
  unfold Obligations.MisalignedAccessTraps
  intro i s s1 x k n a b v t q hc hi hp hr hx hn
  refine ⟨exec_misaligned hc hi hp hr hx hn, ?_⟩
  obtain ⟨cl, ks, hf⟩ := s.xlate_frame (coreOf s.cur) true (s.slot s.cur).user (s.slot s.cur).asid k (a + b)
  rw [hx] at hf
  cases hf
  exact ⟨rfl, rfl⟩

end Sys2Proof.Machine
end

section
/-!
SUPPORT. Atomics performed at once at their home (R167, R168).
-/

namespace Sys2Proof.Machine

/-- The sign of a number of `8 n` bits, as the model and as a bit vector reads it. -/
theorem toInt_ofNat_of_lt {w z : Nat} (hw : 0 < w) (hz : z < 2 ^ w) :
    (BitVec.ofNat w z).toInt = if z < 2 ^ w / 2 then (z : Int) else (z : Int) - (2 ^ w : Nat) := by
  have h2 : 2 * (2 ^ w / 2) = 2 ^ w := Nat.mul_div_cancel' (dvd_pow_self 2 (by omega))
  rw [BitVec.toInt_eq_toNat_cond, BitVec.toNat_ofNat, Nat.mod_eq_of_lt hz]
  split <;> split <;> omega

/-- R167: the model's new value of an atomic is the claimed one. -/
theorem amoNew_eq {i : Instr} {x : FmtN} {f : Nat → Nat → Nat → Nat → Nat} (h : Claims.atomicNew i = some (x, f))
    {n old v b : Nat} (b' : Nat) (hn : 0 < n) (ho : old < 2 ^ (8 * n)) (hv : v < 2 ^ (8 * n)) (hb : amoOp i = 9 → b = b') :
    amoNew (amoOp i) n old v b = f n old v b' := by
  unfold Claims.atomicNew at h
  split at h <;> cases h <;> simp only [amoOp, amoNew]
  case h_5 => rw [toInt_ofNat_of_lt (by omega) ho, toInt_ofNat_of_lt (by omega) hv]
  case h_6 => rw [toInt_ofNat_of_lt (by omega) ho, toInt_ofNat_of_lt (by omega) hv]
  case h_7 => rw [Nat.min_def]; split <;> split <;> omega
  case h_8 => rw [Nat.max_def]; split <;> split <;> omega
  case h_10 => rw [hb rfl]
  case h_11 => rfl

/-- The claimed miss: cas whose compare fails. -/
def casMiss (i : Instr) (old v : Nat) : Bool := match i with | .amoCas _ => decide (old ≠ v) | _ => false

/-- R167: an atomic writes unless it is a cas that misses. -/
theorem amoWrites_eq {i : Instr} {x : FmtN} {f : Nat → Nat → Nat → Nat → Nat} (h : Claims.atomicNew i = some (x, f))
    (old v : Nat) : amoWrites (amoOp i) old v = !casMiss i old v := by
  unfold Claims.atomicNew at h
  split at h <;> cases h <;> simp [amoOp, amoWrites, casMiss]

/-- The atomic at its home: the old value, and the new value stored unless a cas misses. -/
theorem State.atomicHome_eq {i : Instr} {x : FmtN} {f : Nat → Nat → Nat → Nat → Nat}
    (h : Claims.atomicNew i = some (x, f)) (s : State) (ck pa : Nat) {n v b b' : Nat} (hn : 0 < n) (hv : v < 2 ^ (8 * n))
    (hb : amoOp i = 9 → b = b') (hr : (region pa).inRange = true) :
    s.atomicHome ck pa n (amoOp i) v b =
      (s.readN pa n, if casMiss i (s.readN pa n) v then s else s.storeHome ck pa n (f n (s.readN pa n) v b')) := by
  have ho : s.readN pa n < 2 ^ (8 * n) := by
    have := s.readN_lt pa n
    rwa [show (256 : Nat) = 2 ^ 8 by rfl, ← Nat.pow_mul] at this
  rw [State.atomicHome, hr, if_neg (by decide)]
  dsimp only
  rw [amoNew_eq h b' hn ho hv hb, amoWrites_eq h]
  cases casMiss i (s.readN pa n) v <;> rfl

/-- Reads depend on memory alone. -/
theorem State.readN_of_mem {s t : State} (h : s.mem = t.mem) (pa n : Nat) : s.readN pa n = t.readN pa n :=
  State.readN_congr _ _ _ _ fun a _ _ => by rw [State.byte, State.byte, h]

theorem dblWidth_pos (dbl : Bool) : 0 < dblWidth dbl := by cases dbl <;> decide

/-- A plain atomic near its home, once checked. -/
theorem atomicHere_go {i : Instr} {s : State} {slot : Nat} {x : FmtN} {f : Nat → Nat → Nat → Nat → Nat}
    {t : Xlat} {v b b' : Nat}
    (q : Reading) (h : Claims.atomicNew i = some (x, f)) (hc : s.cur = slot) (he : s.readError t.pa = none)
    (hg : s.mayGo slot [t.pa] = true) (hr : (region t.pa).inRange = true) (hv : v < 2 ^ (8 * dblWidth x.dbl))
    (hb : amoOp i = 9 → b = b') :
    (atomicHere slot x (amoOp i) t v b).go (ctx slot s q) =
      (.ok .next, ctx slot ((if casMiss i (s.readN t.pa (dblWidth x.dbl)) v then (s.noted slot t true).serve t.pa false
        else ((s.noted slot t true).serve t.pa false).storeHome (clusterOf slot) t.pa (dblWidth x.dbl)
          (f (dblWidth x.dbl) (s.readN t.pa (dblWidth x.dbl)) v b')).writeReg slot x.d.toNat
            (BitVec.ofNat 64 (s.readN t.pa (dblWidth x.dbl)))) q) := by
  have hmem : ((s.noted slot t true).serve t.pa false).mem = s.mem := by simp
  simp only [atomicHere, M.go_bind, errorM_go q he, oobM_go t true q hc hg, M.andThen_ok, getS_go, ctx_st, setS_ctx,
    wr_go, M.go_pure, State.atomicHome_eq h _ _ _ (dblWidth_pos _) hv hb hr, State.readN_of_mem hmem]

/-- An atomic's access that is performed near. -/
theorem atomicAt_near_go {s s1 : State} {x : FmtN} (op : Nat) {va : Word} {t : Xlat} (v v2 : Word) (q : Reading)
    (ha : s.accessed s.cur .atomic (dblWidth x.dbl) false va t s1) (hh : s1.homeOk s.cur t.pa) (hrel : x.rel = false)
    (hnear : atomicNear s1 s.cur t.pa = true) :
    (atomicAt s.cur x op va v v2).go (ctx s.cur s q) =
      (atomicHere s.cur x op t (v.toNat % 2 ^ (8 * dblWidth x.dbl)) (v2.toNat % 2 ^ (8 * dblWidth x.dbl))).go
        (ctx s.cur s1 q) := by
  simp only [atomicAt, M.go_bind, accessM_go q ha, M.andThen_ok, readyM_go q hh, hrel, Bool.false_eq_true, if_false,
    getS_go, ctx_st, hnear, if_true]

/-- Settles O16: the atomic's operation is the claimed one, and its home holds the bytes that the access saw. -/
theorem atomicsComplete : Obligations.AtomicsComplete := by
  unfold Obligations.AtomicsComplete
  intro i s s1 x f a b v t q h hrel hi hp hr n v2 ha hh hnear he hin s2 old op miss u
  rw [exec_atomic h]
  refine runInstr_retired hi ?_
  have hv : v.toNat % 2 ^ (8 * dblWidth x.dbl) < 2 ^ (8 * dblWidth x.dbl) := Nat.mod_lt _ (Nat.two_pow_pos _)
  rw [atomicM_go hi h hp hr, atomicAt_near_go _ _ _ q ha hh hrel hnear,
    atomicHere_go q h (State.accessed_cur ha) he hh.2 hin hv (fun h9 => by rw [State.amoSecond, if_pos h9])]
  rfl

end Sys2Proof.Machine
end

section
/-!
SUPPORT. What an instruction's end does not touch, how a body waits, and the parts of an access's body that send
requests (R116, R159, R160).
-/

namespace Sys2Proof.Machine

/-! ### Waits -/

/-- A body that waits: what it has read stays with it, and its slot leaves the rotation. -/
theorem runInstr_waits {i : Instr} {s t : State} {body : M Flow} {q : Reading} {w : Wait} (hi : Issues i s)
    (h : body.go (ctx s.cur s {}) = (.error (.wait w), ctx s.cur t q)) :
    runInstr i s body = .next (t.awaiting s.cur q w) := by
  obtain ⟨hd, hg, ha⟩ := hi
  rw [runInstr_go i s body hd hg ha]
  rw [show ({ slot := s.cur, st := s } : Ctx) = ctx s.cur s {} from rfl, h]
  rfl

/-! ### What the end of an instruction leaves alone -/

/-- What the receive queue's service changes of no slot: a slot's place, its accesses, and whether it is in the
rotation. -/
structure Slot.SameAccesses (x y : Slot) : Prop where
  pc : y.pc = x.pc
  pend : y.pend = x.pend
  peerOut : y.peerOut = x.peerOut
  wait : x.wait = .none → y.wait = .none

/-- What the receive queue's service changes of no state (R116). -/
structure State.SameAccesses (s t : State) : Prop where
  agenda : t.agenda = s.agenda
  resv : t.resv = s.resv
  mem : t.mem = s.mem
  flights (k : Nat) : (t.core k).flights = (s.core k).flights
  slot (j : Nat) : (s.slot j).SameAccesses (t.slot j)

theorem Slot.SameAccesses.refl (x : Slot) : x.SameAccesses x := ⟨rfl, rfl, rfl, id⟩
theorem State.SameAccesses.refl (s : State) : s.SameAccesses s := ⟨rfl, rfl, rfl, fun _ => rfl, fun _ => .refl _⟩
theorem Slot.SameAccesses.trans {x y z : Slot} (h : x.SameAccesses y) (h' : y.SameAccesses z) : x.SameAccesses z :=
  ⟨h'.pc.trans h.pc, h'.pend.trans h.pend, h'.peerOut.trans h.peerOut, fun hw => h'.wait (h.wait hw)⟩
theorem State.SameAccesses.trans {s t u : State} (h : s.SameAccesses t) (h' : t.SameAccesses u) : s.SameAccesses u :=
  ⟨h'.agenda.trans h.agenda, h'.resv.trans h.resv, h'.mem.trans h.mem, fun k => (h'.flights k).trans (h.flights k),
    fun j => (h.slot j).trans (h'.slot j)⟩

theorem State.sameAccesses_onSlot (s : State) (k : Nat) {f : Slot → Slot} (hf : ∀ x : Slot, x.SameAccesses (f x)) :
    s.SameAccesses (s.onSlot k f) := by
  refine ⟨rfl, rfl, rfl, fun _ => rfl, fun j => ?_⟩
  by_cases hj : j = k
  · subst hj
    rw [State.slot_onSlot_self]
    exact hf _
  · rw [State.slot_onSlot_ne _ _ hj]
    exact .refl _

theorem State.sameAccesses_setCore (s : State) (k : Nat) {x : Core} (hx : x.flights = (s.core k).flights) :
    s.SameAccesses (s.setCore k x) := by
  refine ⟨rfl, rfl, rfl, fun j => ?_, fun _ => .refl _⟩
  by_cases hj : j = k
  · subst hj; simpa using hx
  · simp [hj]

theorem State.sameAccesses_foldl {α : Type} {f : State → α → State} (hf : ∀ (s : State) a, s.SameAccesses (f s a))
    (l : List α)
    (s : State) : s.SameAccesses (l.foldl f s) := by
  induction l generalizing s with
  | nil => exact .refl s
  | cons a l ih => exact (hf s a).trans (ih _)

theorem State.sameAccesses_wakeCluster (s : State) (ck : Nat) (w : Wait) : s.SameAccesses (s.wakeCluster ck w) := by
  refine ⟨rfl, rfl, rfl, fun _ => rfl, fun j => ?_⟩
  have hg : (s.wakeCluster ck w).slot j =
      if clusterOf j = ck ∧ (s.slot j).wait = w then { s.slot j with wait := .none } else s.slot j := by
    unfold State.wakeCluster State.slot
    exact Tab.get_mapVals {} (fun k (x : Slot) => if clusterOf k = ck ∧ x.wait = w then { x with wait := .none } else x)
      j s.slots (by dsimp only; split <;> rfl)
  rw [hg]
  split
  · exact ⟨rfl, rfl, rfl, fun _ => rfl⟩
  · exact .refl _

theorem State.sameAccesses_settleQueue (s : State) (k : Nat) : s.SameAccesses (s.settleQueue k) := by
  unfold State.settleQueue
  dsimp only
  refine (s.sameAccesses_setCore k (by rfl)).trans (State.sameAccesses_foldl (fun s j => ?_) _ _)
  refine s.sameAccesses_onSlot j fun x => ?_
  split
  · exact ⟨rfl, rfl, rfl, fun _ => rfl⟩
  · exact .refl x

theorem State.sameAccesses_endReservation (s : State) (slot : Nat) (f : List QWord → List QWord) :
    s.SameAccesses (s.endReservation slot f) := by
  unfold State.endReservation
  dsimp only
  split
  · exact (s.sameAccesses_setCore _ (by rfl)).trans (State.sameAccesses_settleQueue _ _)
  · exact .refl s

theorem State.sameAccesses_takeWords (s : State) (slot : Nat) : s.SameAccesses (s.takeWords slot) := by
  unfold State.takeWords
  dsimp only
  refine ((s.sameAccesses_endReservation slot _).trans (State.sameAccesses_onSlot _ slot fun x => ?_)).trans
    (State.sameAccesses_wakeCluster _ _ _)
  cases x.polled with
  | none => exact ⟨rfl, rfl, rfl, id⟩
  | some p => exact ⟨rfl, rfl, rfl, id⟩

theorem State.sameAccesses_keepReads (s : State) (slot taken : Nat) (poll : Option (Nat × Bool)) :
    s.SameAccesses (s.keepReads slot taken poll) := by
  have h1 : s.SameAccesses (if taken = 0 then s else s.reserveTaken slot taken) := by
    split
    · exact .refl s
    · exact s.sameAccesses_setCore _ (by rfl)
  unfold State.keepReads
  dsimp only
  split
  · exact h1
  · exact h1.trans (State.sameAccesses_onSlot _ slot fun x => ⟨rfl, rfl, rfl, id⟩)

/-- An instruction that completes: its reads are taken, and the pc moves on. -/
theorem State.retired_eq (s : State) (slot len : Nat) (q : Reading) :
    ∃ t, s.SameAccesses t ∧
      s.retired slot len q = t.onSlot slot (fun x => { x with pc := x.pc + BitVec.ofNat 64 len }) := by
  unfold State.retired finish
  dsimp only
  have hk := s.sameAccesses_keepReads slot q.taken q.poll
  split
  · exact ⟨_, hk, rfl⟩
  · exact ⟨_, hk.trans (State.sameAccesses_takeWords _ _), rfl⟩

section
variable (s : State) (slot len : Nat) (q : Reading)

@[simp] theorem State.retired_agenda : (s.retired slot len q).agenda = s.agenda := by
  obtain ⟨t, h, ht⟩ := s.retired_eq slot len q
  rw [ht]; exact h.agenda
@[simp] theorem State.retired_resv : (s.retired slot len q).resv = s.resv := by
  obtain ⟨t, h, ht⟩ := s.retired_eq slot len q
  rw [ht]; exact h.resv
@[simp] theorem State.retired_mem : (s.retired slot len q).mem = s.mem := by
  obtain ⟨t, h, ht⟩ := s.retired_eq slot len q
  rw [ht]; exact h.mem
@[simp] theorem State.retired_flights (k : Nat) : ((s.retired slot len q).core k).flights = (s.core k).flights := by
  obtain ⟨t, h, ht⟩ := s.retired_eq slot len q
  rw [ht]; exact h.flights k
@[simp] theorem State.retired_pc : ((s.retired slot len q).slot slot).pc = (s.slot slot).pc + BitVec.ofNat 64 len := by
  obtain ⟨t, h, ht⟩ := s.retired_eq slot len q
  rw [ht, State.slot_onSlot_self, (h.slot slot).pc]
@[simp] theorem State.retired_pend : ((s.retired slot len q).slot slot).pend = (s.slot slot).pend := by
  obtain ⟨t, h, ht⟩ := s.retired_eq slot len q
  rw [ht, State.slot_onSlot_self, (h.slot slot).pend]
@[simp] theorem State.retired_peerOut : ((s.retired slot len q).slot slot).peerOut = (s.slot slot).peerOut := by
  obtain ⟨t, h, ht⟩ := s.retired_eq slot len q
  rw [ht, State.slot_onSlot_self, (h.slot slot).peerOut]
/-- A slot in the rotation stays in it. -/
theorem State.retired_wait_none (hw : (s.slot slot).wait = .none) : ((s.retired slot len q).slot slot).wait = .none := by
  obtain ⟨t, h, ht⟩ := s.retired_eq slot len q
  rw [ht, State.slot_onSlot_self]
  exact (h.slot slot).wait hw

end
end Sys2Proof.Machine
end

section
/-!
SUPPORT. Loads (R36, R149, R159, R160, R165, R177).
-/

namespace Sys2Proof.Machine

/-! ### Parts of an access's body -/

/-- An access of a slot as a request. -/
def State.access (s : State) (slot : Nat) (k : AccKind) (t : Xlat) (n v v2 : Nat) (flight : Option Nat) (dst : RegDst) :
    PeerReq :=
  { src := slot, pc := (s.slot slot).pc, asid := (s.slot slot).asid.toNat, wick := (s.slot slot).wick, pa := t.pa,
    n := t.width n, kind := k, v := v, v2 := v2, flight := flight, dst := dst }

/-- A relaxed access of one request that has left the core, with its pending registers (R160). -/
def State.flown (s : State) (slot id : Nat) (r : PeerReq) (regs : List Nat) : State :=
  (s.onSlot slot (fun x => { x with pend := x.pend ++ regs.map (fun c => ⟨c, false, id⟩) })).onCore (coreOf slot)
    (fun k => { k with flights := k.flights ++ [{
      id := id, slot := slot, wick := r.wick, req := r
      near := [r].filter (fun r => decide (peerOf slot r.pa = none)), homes := [r.pa], cycle := k.cycle }] })

/-- The same with the number that is next. -/
def State.flying (s : State) (slot : Nat) (r : PeerReq) (regs : List Nat) : State :=
  ({ s with nextOp := s.nextOp + 1 } : State).flown slot s.nextOp r regs

section
variable (s : State) (slot : Nat) (r : PeerReq) (regs : List Nat)

@[simp] theorem State.flying_mem : (s.flying slot r regs).mem = s.mem := rfl
@[simp] theorem State.flying_resv : (s.flying slot r regs).resv = s.resv := rfl
@[simp] theorem State.flying_slot : (s.flying slot r regs).slot slot =
    { s.slot slot with pend := (s.slot slot).pend ++ regs.map (fun c => ⟨c, false, s.nextOp⟩) } := by
  rw [State.flying, State.flown, State.slot_onCore, State.slot_onSlot_self]
  rfl
/-- One access more is under way, the last of its core's. -/
theorem State.flying_flights : ∃ f : Flight, f.id = s.nextOp ∧ f.req = r ∧ f.homes = [r.pa] ∧
    ((s.flying slot r regs).core (coreOf slot)).flights = (s.core (coreOf slot)).flights ++ [f] := by
  refine ⟨{
      id := s.nextOp, slot := slot, wick := r.wick, req := r
      near := [r].filter (fun r => decide (peerOf slot r.pa = none)), homes := [r.pa]
      cycle := (s.core (coreOf slot)).cycle }, rfl, rfl, rfl, ?_⟩
  exact congrArg Core.flights (State.core_onCore_self _ _ _)
theorem State.flying_flights_length : ((s.flying slot r regs).core (coreOf slot)).flights.length =
    (s.core (coreOf slot)).flights.length + 1 := by
  obtain ⟨f, _, _, _, h⟩ := s.flying_flights slot r regs
  rw [h, List.length_append, List.length_singleton]

end

section
variable {s : State} {slot : Nat} (q : Reading)

@[simp] theorem requestM_go (k : AccKind) (t : Xlat) (n v v2 : Nat) (flight : Option Nat) (dst : RegDst) :
    (requestM k t n v v2 flight dst).go (ctx slot s q) = (.ok (s.access slot k t n v v2 flight dst), ctx slot s q) := rfl

@[simp] theorem freshM_go : freshM.go (ctx slot s q) = (.ok s.nextOp, ctx slot { s with nextOp := s.nextOp + 1 } q) := rfl

theorem flightRoomM_go (h : (s.core (coreOf slot)).flights.length < 32) :
    flightRoomM.go (ctx slot s q) = (.ok (), ctx slot s q) := by
  simp [flightRoomM, Nat.not_le.mpr h]

theorem flyM_go (hc : s.cur = slot) (id : Nat) (r : PeerReq) (regs : List Nat) :
    (flyM id [r] regs).go (ctx slot s q) = (.ok (), ctx slot (s.flown slot id r regs) q) := by
  subst hc; rfl

theorem underWayM_go (hc : s.cur = slot) (w : Wait) (n : Nat) : (underWayM w n).go (ctx slot s q) =
    (.ok (), ctx slot (s.onSlot slot (fun x => { x with wait := w, replies := n })) q) := by
  subst hc; rfl

/-- An access that leaves the cluster before its turn waits for it (R177). -/
theorem oobM_turn_go (t : Xlat) (wr : Bool) (h : s.mayGo slot [t.pa] = false) :
    (oobM t wr).go (ctx slot s q) = (.error (.wait .turn), ctx slot (s.askTurn slot 1) q) := by
  have hlen : (outsides slot [t.pa]).length = 1 := by
    have : (outsides slot [t.pa]).isEmpty = false := by
      simp only [State.mayGo, Bool.or_eq_false_iff] at h
      exact h.1.1
    unfold outsides at this ⊢
    rw [List.filter_cons] at this ⊢
    split at this <;> simp_all
  simp [oobM, turnM, h, hlen]

@[simp] theorem State.kept_cur : (s.kept slot).cur = s.cur := rfl
@[simp] theorem State.kept_mayGo (pas : List Nat) : (s.kept slot).mayGo slot pas = s.mayGo slot pas := by
  simp [State.mayGo, State.kept]

end

/-! ### The home of an aligned access -/

/-- The widths of a scalar access. -/
def scalarWidth (n : Nat) : Prop := n = 1 ∨ n = 2 ∨ n = 4 ∨ n = 8

theorem scalarWidth_pow {w : BitVec 2} : scalarWidth (2 ^ w.toNat) := by
  unfold scalarWidth
  revert w
  decide

theorem scalarWidth_dbl (dbl : Bool) : scalarWidth (if dbl then 8 else 4) := by
  unfold scalarWidth
  cases dbl <;> decide

theorem scalarWidth.dvd {n : Nat} (hn : scalarWidth n) : n ∣ 8 := by
  rcases hn with rfl | rfl | rfl | rfl <;> decide

theorem scalarWidth.mod_mod {n : Nat} (hn : scalarWidth n) (a m : Nat) : a % (8 * m) % n = a % n :=
  Nat.mod_mod_of_dvd a (hn.dvd.trans (Nat.dvd_mul_right 8 m))

theorem bits_zero_mod {w k m n : Nat} (hn : scalarWidth n) (hw : w % n = 0) (hk : 2 ^ k = 8 * m) : bits w 0 k % n = 0 := by
  rw [bits, hk, hn.mod_mod, Nat.pow_zero, Nat.div_one, hw]

theorem setBits_mod {w lo k v m n : Nat} (hn : scalarWidth n) (hlo : 2 ^ lo = 8 * m) : setBits w lo k v % n = w % n := by
  have hle : bits w lo k * 2 ^ lo ≤ w := calc
    w / 2 ^ lo % 2 ^ k * 2 ^ lo ≤ w / 2 ^ lo * 2 ^ lo := Nat.mul_le_mul_right _ (Nat.mod_le _ _)
    _ ≤ w := Nat.div_mul_le_self _ _
  rw [setBits, hlo] at *
  generalize bits w lo k = a at *
  generalize v % 2 ^ k = b
  have ha : a * (8 * m) = 8 * (a * m) := by ring
  have hb : b * (8 * m) = 8 * (b * m) := by ring
  rw [ha] at hle ⊢
  rw [hb]
  rcases hn with rfl | rfl | rfl | rfl <;> omega

theorem leafSize_dvd (e : Word) : ∃ m, leafSize e = 8 * m := by
  unfold leafSize
  split
  · exact ⟨2 ^ 13, rfl⟩
  · exact ⟨2 ^ 18, rfl⟩
  · exact ⟨2 ^ 26, rfl⟩
  · exact ⟨2 ^ 32, rfl⟩

theorem scratchPa_mod {ck off n : Nat} (hn : scalarWidth n) (h : off % n = 0) : scratchPa ck off % n = 0 := by
  unfold scratchPa
  rcases hn with rfl | rfl | rfl | rfl <;> omega

theorem nearPa_mod {corek n : Nat} {va : Word} (hn : scalarWidth n) (h : va.toNat % n = 0) : nearPa corek va % n = 0 := by
  have ho : bits va.toNat 0 31 % n = 0 := bits_zero_mod (m := 2 ^ 28) hn h (by norm_num)
  unfold nearPa
  split
  · exact scratchPa_mod hn ho
  · have := scratchPa_mod (ck := corek / 16) (off := 0) hn (Nat.zero_mod n)
    unfold localPa
    rcases hn with rfl | rfl | rfl | rfl <;> omega

/-- A page keeps the alignment of an address; a tolerant page half of an FP32 word's (R36, R259). -/
theorem leafPa_mod {dev n : Nat} {e va : Word} (hn : scalarWidth n) (h : va.toNat % n = 0)
    (ht : e.getLsbD 8 = true → n = 4) : leafPa dev e va.toNat % (if e.getLsbD 8 then n / 2 else n) = 0 := by
  have hbit : (bits e.toNat 8 1 = 1) ↔ e.getLsbD 8 = true := by
    rw [BitVec.getLsbD, Nat.testBit_eq_decide_div_mod_eq, bits]
    simp
  obtain ⟨m, hm⟩ := leafSize_dvd e
  have ho : va.toNat % leafSize e % n = 0 := by
    rw [hm, hn.mod_mod, h]
  have hw : scalarWidth (if e.getLsbD 8 then n / 2 else n) := by
    split
    next h8 => rw [ht h8]; exact .inr (.inl rfl)
    · exact hn
  have hbase : ((if bits e.toNat 8 1 = 1 then bits e.toNat 23 41 * 2 ^ 15 + va.toNat % leafSize e / 4 * 2
      else bits e.toNat 23 41 * 2 ^ 15 + va.toNat % leafSize e)) % (if e.getLsbD 8 then n / 2 else n) = 0 := by
    by_cases h8 : e.getLsbD 8 = true
    · rw [if_pos (hbit.mpr h8), if_pos h8, ht h8]
      omega
    · rw [if_neg (fun hb => h8 (hbit.mp hb)), if_neg h8]
      rcases hn with rfl | rfl | rfl | rfl <;> omega
  unfold leafPa
  dsimp only
  generalize (if bits e.toNat 8 1 = 1 then bits e.toNat 23 41 * 2 ^ 15 + va.toNat % leafSize e / 4 * 2
      else bits e.toNat 23 41 * 2 ^ 15 + va.toNat % leafSize e) = pa at hbase ⊢
  split
  · rw [setBits_mod (m := 2 ^ 46) hw (by norm_num)]; exact hbase
  split
  · rw [setBits_mod (m := 2 ^ 46) hw (by norm_num)]; exact hbase
  · exact hbase

/-- A translated access is aligned at its home. -/
theorem State.xlate_aligned {s s1 : State} {corek n : Nat} {micro user : Bool} {asid : BitVec 9} {k : XKind} {va : Word}
    {t : Xlat} (h : s.xlate corek micro user asid k va = (.ok t, s1)) (hn : scalarWidth n) (hv : va.toNat % n = 0)
    (ht : t.tol = true → n = 4) : t.pa % t.width n = 0 := by
  unfold State.xlate at h
  split at h
  · cases h
  split at h
  · injection h with h
    injection h with h
    subst h
    exact nearPa_mod hn hv
  simp only at h
  split at h
  · cases h
  split at h
  · cases h
  · injection h with h
    injection h with h
    subst h
    exact leafPa_mod hn hv ht

/-- The offset in a scratchpad or a local memory. -/
theorem region_off {pa : Nat} :
    (∀ c off, region pa = .scratch c off → off = bits pa 0 32) ∧ (∀ c off, region pa = .loc c off → off = bits pa 0 32) := by
  unfold region
  dsimp only
  constructor <;> intro c off h <;> (repeat' split at h) <;> cases h <;> rfl

/-- An aligned access lies within its home or beyond it. -/
theorem Region.room_of_aligned {pa n : Nat} (hn : scalarWidth n) (h : pa % n = 0) :
    (region pa).room n = if (region pa).inRange then n else 0 := by
  have ho : bits pa 0 32 % n = 0 := bits_zero_mod (m := 2 ^ 29) hn h (by norm_num)
  have hpos : 0 < n ∧ n ≤ 8 := by rcases hn with rfl | rfl | rfl | rfl <;> decide
  have hroom : ∀ k off, off % n = 0 → min n (8 * k - off) = if off < 8 * k then n else 0 := by
    intro k off hoff
    split
    · rcases hn with rfl | rfl | rfl | rfl <;> omega
    · omega
  cases hr : region pa with
  | scratch c off => rw [← region_off.1 c off hr] at ho; simpa [Region.room, Region.inRange] using hroom 0x80000 off ho
  | loc c off => rw [← region_off.2 c off hr] at ho; simpa [Region.room, Region.inRange] using hroom 0x2000 off ho
  | _ => rfl

/-- What a load takes from its home (R36, R149, R259). -/
theorem homeValue_eq {s : State} {t : Xlat} {n : Nat} (hn : scalarWidth n) (ht : t.tol = true → n = 4)
    (h : t.pa % t.width n = 0) : homeValue s t n = Claims.loaded s t n := by
  unfold Xlat.width at h
  unfold homeValue Claims.loaded State.loadHome bfWiden
  split at h
  next htol =>
    rw [ht htol] at h
    rw [if_pos htol, if_pos htol, Region.room_of_aligned (.inr (.inl rfl)) h]
    split
    · norm_num
    · rw [State.readN, Nat.zero_mul]
  next htol =>
    rw [if_neg htol, if_neg htol, Region.room_of_aligned hn h]
    split
    · rfl
    · rfl

theorem loaded_lt (s : State) {t : Xlat} {n : Nat} (ht : t.tol = true → n = 4) : Claims.loaded s t n < 256 ^ n := by
  unfold Claims.loaded
  split
  · split
    next htol =>
      have := s.readN_lt t.pa 2
      rw [ht htol]
      omega
    · exact s.readN_lt t.pa n
  · exact Nat.pos_of_ne_zero (pow_ne_zero _ (by decide))

/-- A value as a register receives it (R165). -/
theorem extend_eq {v n : Nat} (sx : Bool) (hn : scalarWidth n) (hv : v < 256 ^ n) :
    extend v n sx = Claims.extended v n sx := by
  have h8 : (256 : Nat) ^ n = 2 ^ (8 * n) := by rw [Nat.pow_mul]
  rw [h8] at hv
  unfold extend Claims.extended
  dsimp only
  rw [Nat.mod_eq_of_lt hv, bits]
  have hb : v / 2 ^ (8 * n - 1) % 2 ^ 1 = 1 ↔ 2 ^ (8 * n - 1) ≤ v := by
    rcases hn with rfl | rfl | rfl | rfl <;> omega
  by_cases hs : sx = true ∧ 2 ^ (8 * n - 1) ≤ v
  · rw [if_pos hs, if_pos ⟨hs.1, hb.mpr hs.2⟩]
    apply BitVec.eq_of_toNat_eq
    rw [BitVec.toNat_ofNat, BitVec.toNat_ofInt]
    rcases hn with rfl | rfl | rfl | rfl <;> omega
  · rw [if_neg hs, if_neg (fun h => hs ⟨h.1, hb.mp h.2⟩), BitVec.ofInt_natCast]
end Sys2Proof.Machine
end

section
/-!
SUPPORT. Loads by the way that they take: to their home in the module at once, to a peer, or on their way as relaxed
accesses (R159, R160, R165, R177).
-/

namespace Sys2Proof.Machine

theorem readyM_ok_go {s : State} {slot pa : Nat} (q : Reading)
    (h : peerOf slot pa = none → s.home (dieOf slot) pa = .ok) : (readyM pa).go (ctx slot s q) = (.ok (), ctx slot s q) := by
  cases hp : peerOf slot pa with
  | none => simp [readyM, hp, h hp]
  | some d => simp [readyM, hp]

/-- What a load keeps before it goes to a peer (R279). -/
def State.keptFor (s : State) (slot pa : Nat) : State := if peerOf slot pa = none then s else s.kept slot

section
variable {s : State} {slot : Nat}

@[simp] theorem State.keptFor_cur (pa : Nat) : (s.keptFor slot pa).cur = s.cur := by
  unfold State.keptFor; split <;> rfl
@[simp] theorem State.keptFor_mayGo (pa : Nat) (pas : List Nat) :
    (s.keptFor slot pa).mayGo slot pas = s.mayGo slot pas := by
  unfold State.keptFor
  split
  · rfl
  · exact State.kept_mayGo pas

end

/-- The rest of a load that has been checked and has its turn. -/
def loadAt (me : Nat) (d : BitVec 5) (n : Nat) (sx : Bool) (acq : Option Nat) (t : Xlat) : M Unit :=
  match peerOf me t.pa with
  | some _ => do
    let q ← requestM .load t n 0 0 none (.reg d.toNat n sx)
    modS (fun s => s.post (.peerAccess q))
    underWayM .reply 1
  | none => do
    errorM t.pa
    let s ← getS
    modS (fun s => s.serve t.pa true)
    match acq with
    | some c => modS (fun s => s.acquiredAt me c t.pa)
    | none => pure ()
    wr d (extend (homeValue s t n) n sx)

section
variable {s s1 : State} {slot n : Nat} {va : Word} {t : Xlat} {d : BitVec 5} (sx : Bool) (acq : Option Nat) (q : Reading)

/-- A load that is checked goes on with its turn. -/
theorem loadM_go (hc : s.cur = slot) (ha : s.accessed slot .load n (decide (n = 4)) va t s1)
    (hw : s1.canWrite slot d.toNat = true) (hh : peerOf slot t.pa = none → s1.home (dieOf slot) t.pa = .ok) :
    (loadM d n sx va acq).go (ctx slot s q) =
      M.andThen ((oobM t false).go (ctx slot (s1.keptFor slot t.pa) q)) fun _ => loadAt slot d n sx acq t := by
  have hc1 : s1.cur = slot := (State.accessed_cur ha).trans hc
  unfold loadM loadAt State.keptFor
  simp only [M.go_bind, here_go, M.andThen_ok, ctx_slot, accessM_go q ha, prepDst_go q hw, readyM_ok_go q hh]
  cases peerOf slot t.pa with
  | none =>
    rw [if_neg (by decide), if_pos rfl, M.go_bind] <;> rfl
  | some p =>
    rw [if_pos Option.isSome_some, if_neg (Option.some_ne_none p), M.go_bind, keepM_go slot s1 q hc1, M.andThen_ok,
      M.go_bind]

/-- A load from its home in the module. -/
theorem loadAt_here_go (hp : peerOf slot t.pa = none) (he : s.readError t.pa = none) :
    (loadAt slot d n sx acq t).go (ctx slot s q) =
      (.ok (), ctx slot ((match acq with
        | some c => (s.serve t.pa true).acquiredAt slot c t.pa
        | none => s.serve t.pa true).writeReg slot d.toNat (extend (homeValue s t n) n sx)) q) := by
  unfold loadAt
  simp only [hp]
  cases acq <;> simp [errorM_go q he]

/-- A load that goes to a peer. -/
theorem loadAt_peer_go {p : Nat} (hc : s.cur = slot) (hp : peerOf slot t.pa = some p) :
    (loadAt slot d n sx acq t).go (ctx slot s q) =
      (.ok (), ctx slot ((s.post (.peerAccess (s.access slot .load t n 0 0 none (.reg d.toNat n sx)))).onSlot slot
        (fun y => { y with wait := .reply, replies := 1 })) q) := by
  unfold loadAt
  simp only [hp]
  simp [underWayM_go (s := s.post _) q hc]

end

/-! ### The clauses of O13 -/

section
variable {i : Instr} {s s1 : State} {x : FmtA} {n : Nat} {sx : Bool} {acq : Option Nat} {a b : Word} {t : Xlat} {q : Reading}

/-- The loads that read their home at once, or wait for a peer: `ld` and `ld.acq`. -/
def PlainLoad (i : Instr) (x : FmtA) (n : Nat) (sx : Bool) (acq : Option Nat) : Prop :=
  (∃ w, i = .ld ⟨x, false, sx, w⟩ ∧ n = 2 ^ w.toNat ∧ (sx = true → w.toNat < 3) ∧ acq = none) ∨
    (∃ dbl sc, i = .ldAcq ⟨x, dbl, sc⟩ ∧ n = (if dbl then 8 else 4) ∧ sx = false ∧ acq = some sc.toNat)

theorem PlainLoad.exec_eq (h : PlainLoad i x n sx acq) (s : State) :
    exec i s = runInstr i s (loadBody x fun va => loadM x.d n sx va acq) := by
  rcases h with ⟨w, rfl, rfl, _, rfl⟩ | ⟨dbl, sc, rfl, rfl, rfl, rfl⟩
  · exact exec_ld s x sx w
  · exact exec_ldAcq s x dbl sc

theorem PlainLoad.width (h : PlainLoad i x n sx acq) : scalarWidth n := by
  rcases h with ⟨w, rfl, rfl, _, rfl⟩ | ⟨dbl, sc, rfl, rfl, rfl, rfl⟩
  · exact scalarWidth_pow
  · exact scalarWidth_dbl dbl

variable (ha : s.accessed s.cur .load n (decide (n = 4)) (a + b) t s1) (hw : s1.canWrite s.cur x.d.toNat = true)
  (hh : peerOf s.cur t.pa = none → s1.home (dieOf s.cur) t.pa = .ok)
include ha hw hh

/-- A load that may go has its turn and notes its address. -/
theorem loadM_goes (sx : Bool) (acq : Option Nat) (q : Reading) (hg : s1.mayGo s.cur [t.pa] = true) :
    (loadM x.d n sx (a + b) acq).go (ctx s.cur s q) =
      (loadAt s.cur x.d n sx acq t).go (ctx s.cur ((s1.keptFor s.cur t.pa).noted s.cur t false) q) := by
  rw [loadM_go sx acq q rfl ha hw hh, oobM_go t false q (by rw [State.keptFor_cur, State.accessed_cur ha])
    (by rw [State.keptFor_mayGo, hg]), M.andThen_ok]

variable (hl : PlainLoad i x n sx acq) (hi : Issues i s) (hr : s.reads2 x.a x.b a b q)
include hl hi hr

theorem exec_load_turn (hg : s1.mayGo s.cur [t.pa] = false) :
    exec i s = .next (((s1.keptFor s.cur t.pa).askTurn s.cur 1).awaiting s.cur q .turn) := by
  rw [hl.exec_eq]
  refine runInstr_waits hi ?_
  rw [loadBody_go _ hr, loadM_go sx acq q rfl ha hw hh, oobM_turn_go q t false (by rw [State.keptFor_mayGo, hg]),
    M.andThen_error, M.andThen_error]

theorem exec_load_here (hg : s1.mayGo s.cur [t.pa] = true) (hp : peerOf s.cur t.pa = none)
    (he : s1.readError t.pa = none) :
    let s2 := s1.noted s.cur t false
    exec i s = .next (((match acq with
        | some c => (s2.serve t.pa true).acquiredAt s.cur c t.pa
        | none => s2.serve t.pa true).writeReg s.cur x.d.toNat
          (Claims.extended (Claims.loaded s2 t n) n sx)).retired s.cur i.enc.len q) := by
  have hk : s1.keptFor s.cur t.pa = s1 := if_pos hp
  have ht : t.tol = true → n = 4 := fun h => of_decide_eq_true (ha.2.2.2.1 h)
  have hal := State.xlate_aligned ha.1 hl.width ha.2.1 ht
  rw [hl.exec_eq]
  refine runInstr_retired hi ?_
  rw [loadBody_go _ hr, loadM_goes ha hw hh sx acq q hg, hk, loadAt_here_go sx acq q hp (by rw [State.noted_readError, he]),
    homeValue_eq hl.width ht hal, extend_eq sx hl.width (loaded_lt _ ht), M.andThen_ok, M.go_pure]

theorem exec_load_peer {p : Nat} (hg : s1.mayGo s.cur [t.pa] = true) (hp : peerOf s.cur t.pa = some p) :
    let s2 := (s1.kept s.cur).noted s.cur t false
    exec i s = .next (((s2.post (.peerAccess (s2.access s.cur .load t n 0 0 none (.reg x.d.toNat n sx)))).onSlot s.cur
      (fun y => { y with wait := .reply, replies := 1 })).retired s.cur i.enc.len q) := by
  have hk : s1.keptFor s.cur t.pa = s1.kept s.cur := if_neg (by rw [hp]; simp)
  rw [hl.exec_eq]
  refine runInstr_retired hi ?_
  rw [loadBody_go _ hr, loadM_goes ha hw hh sx acq q hg, hk,
    loadAt_peer_go sx acq q (by rw [State.noted_cur, State.kept_cur, State.accessed_cur ha]) hp, M.andThen_ok, M.go_pure]

end

/-- A relaxed load that has been checked leaves the core. -/
def State.loadFlown (s : State) (slot n : Nat) (d : BitVec 5) (sx : Bool) (t : Xlat) : State :=
  let r := s.access slot .load t n 0 0 (some s.nextOp) (.reg d.toNat n sx)
  (s.flying slot r (if d = 0 then [] else [d.toNat])).post
    (match peerOf slot t.pa with
    | some _ => .peerAccess r
    | none => .relaxedAccessComplete (coreOf slot) s.nextOp r.pa r.dst none)

theorem loadRelaxedM_go {s s1 : State} {slot n : Nat} {va : Word} {t : Xlat} {d : BitVec 5} (sx : Bool) (q : Reading)
    (hd : d.toNat < 26) (hc : s.cur = slot) (ha : s.accessed slot .load n (decide (n = 4)) va t s1)
    (hw : s1.canWrite slot d.toNat = true) (hh : s1.homeOk slot t.pa)
    (hf : (s1.core (coreOf slot)).flights.length < 32) :
    (loadRelaxedM d n sx va).go (ctx slot s q) =
      (.ok (), ctx slot ((s1.noted slot t false).loadFlown slot n d sx t) q) := by
  have hc1 : s1.cur = slot := (State.accessed_cur ha).trans hc
  have hc2 : ({ s1.noted slot t false with nextOp := (s1.noted slot t false).nextOp + 1 } : State).cur = slot :=
    (State.noted_cur s1 slot t false).trans hc1
  unfold loadRelaxedM State.loadFlown
  rw [M.go_ite, if_neg (Nat.not_le.mpr hd)]
  simp only [M.go_bind, here_go, M.andThen_ok, ctx_slot, accessM_go q ha, prepDst_go q hw, readyM_go q hh,
    flightRoomM_go q hf, oobM_go t false q hc1 hh.2, freshM_go, requestM_go, flyM_go q hc2]
  cases peerOf slot t.pa <;> rfl

/-! ### What an access that goes changes -/

theorem State.accessed_nextOp {s s1 : State} {slot n : Nat} {k : XKind} {tolOk : Bool} {va : Word} {t : Xlat}
    (h : s.accessed slot k n tolOk va t s1) : s1.nextOp = s.nextOp := by
  obtain ⟨cl, ks, rfl⟩ := State.accessed_frame h; rfl
theorem State.accessed_mem {s s1 : State} {slot n : Nat} {k : XKind} {tolOk : Bool} {va : Word} {t : Xlat}
    (h : s.accessed slot k n tolOk va t s1) : s1.mem = s.mem := by
  obtain ⟨cl, ks, rfl⟩ := State.accessed_frame h; rfl

/-- An access that goes changes slots only. -/
theorem State.noted_frame (s : State) (slot : Nat) (t : Xlat) (wr : Bool) :
    ∃ sl, s.noted slot t wr = { s with slots := sl } := by
  have hu : ∃ sl, s.turnUsed slot [t.pa] = { s with slots := sl } := by
    rcases s.turnUsed_frame slot [t.pa] with h | h <;> exact ⟨_, h⟩
  obtain ⟨sl, hu⟩ := hu
  unfold State.noted
  dsimp only
  rw [hu]
  split <;> exact ⟨_, rfl⟩

/-- Of a slot an access that goes changes the turn and oob. -/
theorem State.noted_slot (s : State) (slot j : Nat) (t : Xlat) (wr : Bool) :
    ∃ b o, (s.noted slot t wr).slot j = { s.slot j with turn := b, oob := o } := by
  obtain ⟨b, hb⟩ := s.turnUsed_slot slot j [t.pa]
  unfold State.noted
  dsimp only
  split
  · exact ⟨b, (s.slot j).oob, hb⟩
  · by_cases hj : j = slot
    · subst hj
      rw [State.slot_onSlot_self, hb, Slot.noteOob]
      split <;> exact ⟨b, _, rfl⟩
    · rw [State.slot_onSlot_ne _ _ hj]
      exact ⟨b, (s.slot j).oob, hb⟩

section
variable (s : State) (slot j : Nat) (t : Xlat) (wr : Bool)

@[simp] theorem State.noted_core : (s.noted slot t wr).core j = s.core j := by
  obtain ⟨sl, h⟩ := s.noted_frame slot t wr
  rw [h]; rfl
@[simp] theorem State.noted_nextOp : (s.noted slot t wr).nextOp = s.nextOp := by
  obtain ⟨sl, h⟩ := s.noted_frame slot t wr
  rw [h]
@[simp] theorem State.noted_resv : (s.noted slot t wr).resv = s.resv := by
  obtain ⟨sl, h⟩ := s.noted_frame slot t wr
  rw [h]
@[simp] theorem State.noted_pc : ((s.noted slot t wr).slot j).pc = (s.slot j).pc := by
  obtain ⟨b, o, h⟩ := s.noted_slot slot j t wr
  rw [h]
@[simp] theorem State.noted_pend : ((s.noted slot t wr).slot j).pend = (s.slot j).pend := by
  obtain ⟨b, o, h⟩ := s.noted_slot slot j t wr
  rw [h]
@[simp] theorem State.noted_peerOut : ((s.noted slot t wr).slot j).peerOut = (s.slot j).peerOut := by
  obtain ⟨b, o, h⟩ := s.noted_slot slot j t wr
  rw [h]
@[simp] theorem State.noted_wait : ((s.noted slot t wr).slot j).wait = (s.slot j).wait := by
  obtain ⟨b, o, h⟩ := s.noted_slot slot j t wr
  rw [h]

end

section
variable (s : State) (slot n : Nat) (d : BitVec 5) (sx : Bool) (t : Xlat)

@[simp] theorem State.loadFlown_mem : (s.loadFlown slot n d sx t).mem = s.mem := rfl
@[simp] theorem State.loadFlown_slot : (s.loadFlown slot n d sx t).slot slot =
    { s.slot slot with
      pend := (s.slot slot).pend ++ (if d = 0 then [] else [d.toNat]).map (fun c => ⟨c, false, s.nextOp⟩) } :=
  s.flying_slot slot (s.access slot .load t n 0 0 (some s.nextOp) (.reg d.toNat n sx)) _
theorem State.loadFlown_flights_length : ((s.loadFlown slot n d sx t).core (coreOf slot)).flights.length =
    (s.core (coreOf slot)).flights.length + 1 :=
  s.flying_flights_length slot (s.access slot .load t n 0 0 (some s.nextOp) (.reg d.toNat n sx))
    (if d = 0 then [] else [d.toNat])

end

/-- Settles O13: a load that passes its checks has its turn, and then takes the way that its home calls for. -/
theorem loadResults : Obligations.LoadResults := by
  unfold Obligations.LoadResults
  refine ⟨?_, ?_⟩
  · intro i s s1 x n sx acq a b t q hl hi hr ha hw hh s0 s2
    refine ⟨exec_load_turn ha hw hh hl hi hr, fun hg hp he => ?_, fun p hg hp => ?_⟩
    · have hs2 : s2 = s1.noted s.cur t false := congrArg (fun u => State.noted u s.cur t false) (if_pos hp)
      rw [hs2]
      exact exec_load_here ha hw hh hl hi hr hg hp he
    · have hs2 : s2 = (s1.kept s.cur).noted s.cur t false :=
        congrArg (fun u => State.noted u s.cur t false) (if_neg (by rw [hp]; exact Option.some_ne_none p))
      rw [hs2]
      exact ⟨_, rfl, rfl, rfl, rfl, rfl, rfl, exec_load_peer ha hw hh hl hi hr hg hp⟩
  · intro s s1 x sx w a b t q i hi hr hd ha hw hh hf hwait
    have h := loadRelaxedM_go sx q hd rfl ha hw hh hf
    have hn := State.accessed_nextOp ha
    have hm := State.accessed_mem ha
    have hs : s1.slot s.cur = s.slot s.cur := State.accessed_slot ha
    refine ⟨((s1.noted s.cur t false).loadFlown s.cur (2 ^ w.toNat) x.d sx t).retired s.cur i.enc.len q,
      (exec_ld_relaxed s x sx w).trans (runInstr_retired hi (by rw [loadBody_go _ hr, h, M.andThen_ok, M.go_pure])),
      ?_, ?_, ?_, ?_, ?_⟩
    · rw [State.retired_pc, State.loadFlown_slot, State.noted_pc, hs]
    · rw [State.retired_pend, State.loadFlown_slot, State.noted_pend, State.noted_nextOp, hs, hn]
      by_cases hd0 : x.d = 0
      · rw [if_pos hd0, if_pos hd0]; rfl
      · rw [if_neg hd0, if_neg hd0]; rfl
    · rw [State.retired_flights, State.loadFlown_flights_length, State.noted_core]
    · exact State.retired_wait_none _ _ _ _ (by rw [State.loadFlown_slot, State.noted_wait, hs, hwait])
    · rw [State.retired_mem, State.loadFlown_mem, State.noted_mem, hm]

end Sys2Proof.Machine
end

section
/-!
SUPPORT. Stores by the way that they take: to their home in the module at once, behind a reservation, or to a peer
(R159, R163 to R165, R168).
-/

namespace Sys2Proof.Machine

/-- The rest of a store that has been checked, whose release is performed and which has its turn. -/
def storeAt (me n : Nat) (v : Word) (sc : Option Nat) (t : Xlat) : M Unit :=
  match peerOf me t.pa with
  | some d => do
    let id ← freshM
    let q ← requestM .store t n (storeBits t n v) (if sc.isSome then 1 else 0) none .none
    let q := { q with num := id }
    onSlotM (fun x => { x with peerOut := x.peerOut ++ [⟨d, id⟩] })
    modS (fun s => s.post (.peerAccess q))
    if sc.isSome then underWayM .reply 1
  | none => do
    match sc with
    | some c => modS (fun s => s.releasedAt me c t.pa (s.carriedBy me))
    | none => pure ()
    if (← getS).reserved t.pa then do
      let q ← requestM .store t n (storeBits t n v) 0 none .none
      modS (fun s => s.reserve (devOf me) q)
      underWayM .reservation 1
    else do
      mergeErrorM t.pa (t.width n)
      modS (fun s => (s.serve t.pa true).storeHome (clusterOf me) t.pa (t.width n) (storeBits t n v))

/-- A store's release leaves at its location what precedes it (R164). -/
def State.releasing (s : State) (slot : Nat) (sc : Option Nat) (pa : Nat) : State :=
  match sc with
  | some c => s.releasedAt slot c pa (s.carriedBy slot)
  | none => s

/-- A release leaves everything but the list of releases alone. -/
theorem State.releasing_frame (s : State) (slot : Nat) (sc : Option Nat) (pa : Nat) :
    ∃ l, s.releasing slot sc pa = { s with releases := l } := by
  cases sc with
  | none => exact ⟨_, rfl⟩
  | some c =>
    unfold State.releasing State.releasedAt
    dsimp only
    split <;> exact ⟨_, rfl⟩

section
variable (s : State) (slot : Nat) (sc : Option Nat) (pa : Nat)

@[simp] theorem State.releasing_cur : (s.releasing slot sc pa).cur = s.cur := by
  obtain ⟨l, h⟩ := s.releasing_frame slot sc pa
  rw [h]
@[simp] theorem State.releasing_reserved (a n : Nat) : (s.releasing slot sc pa).reserved a n = s.reserved a n := by
  obtain ⟨l, h⟩ := s.releasing_frame slot sc pa
  rw [h]; rfl
@[simp] theorem State.releasing_writeError (a n : Nat) : (s.releasing slot sc pa).writeError a n = s.writeError a n := by
  obtain ⟨l, h⟩ := s.releasing_frame slot sc pa
  rw [h]; rfl

@[simp] theorem State.noted_reserved (t : Xlat) (wr : Bool) (a n : Nat) :
    (s.noted slot t wr).reserved a n = s.reserved a n := by
  obtain ⟨sl, h⟩ := s.noted_frame slot t wr
  rw [h]; rfl
@[simp] theorem State.noted_writeError (t : Xlat) (wr : Bool) (a n : Nat) :
    (s.noted slot t wr).writeError a n = s.writeError a n := by
  obtain ⟨sl, h⟩ := s.noted_frame slot t wr
  rw [h]; rfl

end

section
variable {s s1 : State} {slot n : Nat} {va v : Word} {t : Xlat} {sc : Option Nat} (q : Reading)

/-- A store that is checked, and whose release is performed, goes on. -/
theorem storeM_go (hc : s.cur = slot) (ha : s.accessed slot .store n (decide (n = 4)) va t s1)
    (hrel : ∀ c, sc = some c → s1.released slot c (some ((peerOf slot t.pa).getD (devOf slot))) true true = true)
    (hh : s1.homeOk slot t.pa) :
    (storeM n v sc va).go (ctx slot s q) = (storeAt slot n v sc t).go (ctx slot (s1.noted slot t true) q) := by
  have hc1 : s1.cur = slot := (State.accessed_cur ha).trans hc
  unfold storeM storeAt
  simp only [M.go_bind, here_go, M.andThen_ok, ctx_slot, accessM_go q ha]
  cases sc with
  | none => simp only [M.go_bind, readyM_go q hh, M.andThen_ok, oobM_go t true q hc1 hh.2] <;> rfl
  | some c =>
    simp only [M.go_bind, homeDev, releaseM_go false q (hrel c rfl), readyM_go q hh, M.andThen_ok,
      oobM_go t true q hc1 hh.2] <;>
      rfl

/-- A release that writes in the module, in the state that it leaves at its location. -/
theorem releasingM_go : (match sc with
    | some c => modS (fun s => s.releasedAt slot c t.pa (s.carriedBy slot))
    | none => pure () : M Unit).go (ctx slot s q) = (.ok (), ctx slot (s.releasing slot sc t.pa) q) := by
  cases sc <;> rfl

theorem storeAt_none (hp : peerOf slot t.pa = none) : storeAt slot n v sc t = (do
    match sc with
    | some c => modS (fun s => s.releasedAt slot c t.pa (s.carriedBy slot))
    | none => pure ()
    if (← getS).reserved t.pa then do
      let q ← requestM .store t n (storeBits t n v) 0 none .none
      modS (fun s => s.reserve (devOf slot) q)
      underWayM .reservation 1
    else do
      mergeErrorM t.pa (t.width n)
      modS (fun s => (s.serve t.pa true).storeHome (clusterOf slot) t.pa (t.width n) (storeBits t n v))) := by
  rw [storeAt, hp]

theorem mergeErrorM_go {pa : Nat} (h : s.writeError pa n = none) :
    (mergeErrorM pa n).go (ctx slot s q) = (.ok (), ctx slot s q) := by
  simp [mergeErrorM, h]

/-- A store to its home in the module. -/
theorem storeAt_here_go (hp : peerOf slot t.pa = none) (hr : s.reserved t.pa = false)
    (he : s.writeError t.pa (t.width n) = none) :
    (storeAt slot n v sc t).go (ctx slot s q) =
      (.ok (), ctx slot (((s.releasing slot sc t.pa).serve t.pa true).storeHome (clusterOf slot) t.pa (t.width n)
        (storeBits t n v)) q) := by
  have hr1 : (s.releasing slot sc t.pa).reserved t.pa = false := by rw [State.releasing_reserved, hr]
  have he1 : (s.releasing slot sc t.pa).writeError t.pa (t.width n) = none := by rw [State.releasing_writeError, he]
  rw [storeAt_none hp]
  cases sc <;> simp [State.releasing] at hr1 he1 ⊢ <;> simp [hr1, mergeErrorM_go q he1]

theorem State.reserve_cur (s : State) (dev : Nat) (r : PeerReq) : (s.reserve dev r).cur = s.cur := by
  unfold State.reserve; split <;> rfl

/-- A store behind a reservation. -/
theorem storeAt_reserved_go (hc : s.cur = slot) (hp : peerOf slot t.pa = none) (hr : s.reserved t.pa = true) :
    let s3 := s.releasing slot sc t.pa
    (storeAt slot n v sc t).go (ctx slot s q) =
      (.ok (), ctx slot ((s3.reserve (devOf slot) (s3.access slot .store t n (storeBits t n v) 0 none .none)).onSlot slot
        (fun y => { y with wait := .reservation, replies := 1 })) q) := by
  have hr1 : (s.releasing slot sc t.pa).reserved t.pa = true := by rw [State.releasing_reserved, hr]
  have hc1 (r : PeerReq) : ((s.releasing slot sc t.pa).reserve (devOf slot) r).cur = slot := by
    rw [State.reserve_cur, State.releasing_cur, hc]
  dsimp only
  rw [storeAt_none hp]
  cases sc <;> simp [State.releasing] at hr1 hc1 ⊢ <;> simp [hr1, underWayM_go q (hc1 _)]

/-- A store to a peer, of which a release waits for the answer. -/
def State.storeSent (s : State) (slot n d : Nat) (v : Word) (sc : Option Nat) (t : Xlat) : State :=
  let s1 : State := { s with nextOp := s.nextOp + 1 }
  let u := (s1.onSlot slot (fun y => { y with peerOut := y.peerOut ++ [⟨d, s.nextOp⟩] })).post (.peerAccess
    { s1.access slot .store t n (storeBits t n v) (if sc.isSome then 1 else 0) none .none with num := s.nextOp })
  if sc.isSome then u.onSlot slot (fun y => { y with wait := .reply, replies := 1 }) else u

theorem storeAt_peer_go {d : Nat} (hc : s.cur = slot) (hp : peerOf slot t.pa = some d) :
    (storeAt slot n v sc t).go (ctx slot s q) = (.ok (), ctx slot (s.storeSent slot n d v sc t) q) := by
  subst hc
  rw [storeAt, hp]
  cases sc <;> rfl

end

/-- The stores that write their home at once: `st` and `st.rel`. -/
def PlainStore (i : Instr) (x : FmtA) (n : Nat) (sc : Option Nat) : Prop :=
  (∃ w, i = .st ⟨x, false, false, w⟩ ∧ n = 2 ^ w.toNat ∧ sc = none) ∨
    (∃ dbl c, i = .stRel ⟨x, dbl, c⟩ ∧ n = (if dbl then 8 else 4) ∧ sc = some c.toNat)

theorem PlainStore.exec_eq {i : Instr} {x : FmtA} {n : Nat} {sc : Option Nat} (h : PlainStore i x n sc) (s : State) :
    exec i s = runInstr i s (storeBody x fun v => storeM n v sc) := by
  rcases h with ⟨w, rfl, rfl, rfl⟩ | ⟨dbl, c, rfl, rfl, rfl⟩
  · exact exec_st s x false w
  · exact exec_stRel s x dbl c

/-- A plain store comes to what the rest of its body comes to. -/
theorem exec_store {i : Instr} {s s1 u : State} {x : FmtA} {n : Nat} {sc : Option Nat} {a b v : Word} {t : Xlat}
    {q : Reading} (hst : PlainStore i x n sc) (hi : Issues i s) (hr : s.reads3 x.a x.b x.d.toNat a b v q)
    (ha : s.accessed s.cur .store n (decide (n = 4)) (a + b) t s1)
    (hrel : ∀ c, sc = some c → s1.released s.cur c (some ((peerOf s.cur t.pa).getD (devOf s.cur))) true true = true)
    (hh : s1.homeOk s.cur t.pa)
    (h : (storeAt s.cur n v sc t).go (ctx s.cur (s1.noted s.cur t true) q) = (.ok (), ctx s.cur u q)) :
    exec i s = .next (u.retired s.cur i.enc.len q) := by
  rw [hst.exec_eq]
  refine runInstr_retired hi ?_
  rw [storeBody_go _ hr, storeM_go q rfl ha hrel hh, h, M.andThen_ok, M.go_pure]

/-- Settles O14: a store that passes its checks, its release performed, takes the way that its home calls for. -/
theorem storesComplete : Obligations.StoresComplete := by
  unfold Obligations.StoresComplete
  intro i s s1 x n sc a b v t q hst hi hr ha hrel hh s2 w s3
  have hc2 : s2.cur = s.cur := (State.noted_cur s1 s.cur t true).trans (State.accessed_cur ha)
  have hgo {u : State} (h : (storeAt s.cur n v sc t).go (ctx s.cur s2 q) = (.ok (), ctx s.cur u q)) :
      exec i s = .next (u.retired s.cur i.enc.len q) := exec_store hst hi hr ha hrel hh h
  refine ⟨fun hp hres he => ?_, fun hp hres => ?_, fun d hp => ?_⟩
  · exact hgo (storeAt_here_go q hp ((State.noted_reserved ..).trans hres) ((State.noted_writeError ..).trans he))
  · exact ⟨_, rfl, rfl, rfl, rfl, rfl, hgo (storeAt_reserved_go q hc2 hp ((State.noted_reserved ..).trans hres))⟩
  · exact ⟨_, rfl, rfl, rfl, rfl, rfl, rfl, hgo (storeAt_peer_go q hc2 hp)⟩

end Sys2Proof.Machine
end

section
/-!
SUPPORT. Relaxed stores and atomics, and atomics that are performed elsewhere (R160, R168).
-/

namespace Sys2Proof.Machine

/-! ### Relaxed stores -/

/-- The request of a relaxed store. -/
def State.storeRequest (s : State) (slot n : Nat) (v : Word) (t : Xlat) : PeerReq :=
  { s.access slot .store t n (storeBits t n v) 0 (some s.nextOp) .none with num := s.nextOp }

/-- A relaxed store that has been checked leaves the core. -/
def State.storeFlown (s : State) (slot n : Nat) (v : Word) (t : Xlat) : State :=
  let r := s.storeRequest slot n v t
  let s2 := s.flying slot r []
  match peerOf slot t.pa with
  | some d => (s2.onSlot slot (fun x => { x with peerOut := x.peerOut ++ [⟨d, s.nextOp⟩] })).post (.peerAccess r)
  | none =>
    if s.reserved t.pa then s2.reserve (devOf slot) r
    else s2.post (.relaxedAccessComplete (coreOf slot) s.nextOp t.pa .none none)

/-- A relaxed store from its number on. -/
def storeFly (me n : Nat) (v : Word) (t : Xlat) : M Unit := do
  let id ← freshM
  let q ← requestM .store t n (storeBits t n v) 0 (some id) .none
  let q := { q with num := id }
  flyM id [q] []
  match peerOf me t.pa with
  | some d =>
    onSlotM (fun x => { x with peerOut := x.peerOut ++ [⟨d, id⟩] })
    modS (fun s => s.post (.peerAccess q))
  | none =>
    if (← getS).reserved t.pa then modS (fun s => s.reserve (devOf me) q)
    else modS (fun s => s.post (.relaxedAccessComplete (coreOf me) id q.pa .none none))

section
variable {s s1 : State} {slot n : Nat} {va v : Word} {t : Xlat} (q : Reading)

theorem storeFly_go (hc : s.cur = slot) :
    (storeFly slot n v t).go (ctx slot s q) = (.ok (), ctx slot (s.storeFlown slot n v t) q) := by
  subst hc
  unfold storeFly State.storeFlown
  cases peerOf s.cur t.pa with
  | some d => rfl
  | none =>
    simp only [M.go_bind, freshM_go, requestM_go, M.andThen_ok, flyM_go (s := { s with nextOp := s.nextOp + 1 }) q rfl,
      getS_go, ctx_st, M.go_ite]
    cases hr : s.reserved t.pa with
    | true => exact if_pos hr
    | false => exact if_neg (by exact fun h => Bool.false_ne_true (hr.symm.trans h))

theorem storeRelaxedM_go (hc : s.cur = slot)
    (ha : s.accessed slot .store n (decide (n = 4)) va t s1) (hh : s1.homeOk slot t.pa)
    (hf : (s1.core (coreOf slot)).flights.length < 32) :
    (storeRelaxedM n v va).go (ctx slot s q) = (.ok (), ctx slot ((s1.noted slot t true).storeFlown slot n v t) q) := by
  have hc1 : s1.cur = slot := (State.accessed_cur ha).trans hc
  rw [← storeFly_go q ((State.noted_cur s1 slot t true).trans hc1)]
  unfold storeRelaxedM storeFly
  simp only [M.go_bind, here_go, M.andThen_ok, ctx_slot, accessM_go q ha, readyM_go q hh,
    flightRoomM_go q hf, oobM_go t true q hc1 hh.2] <;> rfl

end

/-! ### What a reservation's queue takes -/

section
variable (s : State) (dev : Nat) (r : PeerReq)

/-- A request that joins a queue changes no slot and no core. -/
theorem State.reserve_frame : ∃ l a, s.reserve dev r = { s with resv := l, agenda := a } := by
  unfold State.reserve
  split <;> exact ⟨_, _, rfl⟩
@[simp] theorem State.reserve_slot (j : Nat) : (s.reserve dev r).slot j = s.slot j := by
  obtain ⟨l, a, h⟩ := s.reserve_frame dev r
  rw [h]; rfl
@[simp] theorem State.reserve_core (j : Nat) : (s.reserve dev r).core j = s.core j := by
  obtain ⟨l, a, h⟩ := s.reserve_frame dev r
  rw [h]; rfl

end

/-- An aligned access of at most a word lies in one word of memory. -/
theorem resvWord_aligned {pa n : Nat} (hn : scalarWidth n) (h : pa % n = 0) : resvWord (pa + n - 1) = resvWord pa := by
  unfold resvWord
  rcases hn with rfl | rfl | rfl | rfl <;> omega

/-- A request that joins the queue of its word stands at the queue's end. -/
theorem State.reserve_last (s : State) (dev : Nat) {r : PeerReq} (hn : scalarWidth r.n) (h : r.pa % r.n = 0) :
    ∃ e ∈ (s.reserve dev r).resv, e.word = r.pa / 8 ∧ e.q.getLast? = some r := by
  unfold State.reserve
  split
  next w hw =>
    unfold State.reservedWord at hw
    have hp := List.find?_some hw
    have hm := List.mem_of_find?_eq_some hw
    simp only [decide_eq_true_eq] at hp
    rw [resvWord_aligned hn h] at hp
    obtain ⟨e, he, hew⟩ := List.mem_map.mp hm
    have hword : e.word = r.pa / 8 := by rw [hew]; exact le_antisymm hp.2 hp.1
    refine ⟨{ e with q := e.q ++ [r] }, List.mem_map.mpr ⟨e, he, if_pos hew⟩, hword, List.getLast?_concat⟩
  next hw => exact ⟨⟨resvWord r.pa, [r]⟩, List.mem_append_right _ (List.mem_singleton.mpr rfl), rfl, rfl⟩

section
variable (s : State) (slot n : Nat) (v : Word) (t : Xlat)

@[simp] theorem State.storeFlown_mem : (s.storeFlown slot n v t).mem = s.mem := by
  unfold State.storeFlown
  dsimp only
  split
  · rfl
  · split
    · rw [State.reserve_mem, State.flying_mem]
    · rfl

/-- A relaxed store changes its slot's stores to peers. -/
theorem State.storeFlown_slot : (s.storeFlown slot n v t).slot slot =
    { s.slot slot with
      peerOut := (s.slot slot).peerOut ++ (match peerOf slot t.pa with | some d => [⟨d, s.nextOp⟩] | none => []) } := by
  have h := s.flying_slot slot (s.storeRequest slot n v t) []
  rw [List.map_nil, List.append_nil] at h
  unfold State.storeFlown
  cases peerOf slot t.pa with
  | some d =>
    dsimp only
    rw [State.slot_post, State.slot_onSlot_self, h]
  | none =>
    dsimp only
    rw [List.append_nil]
    split
    · rw [State.reserve_slot, h]
    · rw [State.slot_post, h]

theorem State.storeFlown_flights : ((s.storeFlown slot n v t).core (coreOf slot)).flights =
    ((s.flying slot (s.storeRequest slot n v t) []).core (coreOf slot)).flights := by
  unfold State.storeFlown
  dsimp only
  split
  · rfl
  · split
    · rw [State.reserve_core]
    · rfl

theorem State.storeFlown_peer {d : Nat} (hp : peerOf slot t.pa = some d) :
    Event.peerAccess (s.storeRequest slot n v t) ∈ (s.storeFlown slot n v t).agenda := by
  unfold State.storeFlown
  rw [hp]
  exact List.mem_append_right _ (List.mem_singleton.mpr rfl)

theorem State.storeFlown_here (hp : peerOf slot t.pa = none) (hr : s.reserved t.pa = false) :
    Event.relaxedAccessComplete (coreOf slot) s.nextOp t.pa .none none ∈ (s.storeFlown slot n v t).agenda := by
  unfold State.storeFlown
  rw [hp]
  dsimp only
  rw [if_neg (by rw [hr]; exact Bool.false_ne_true)]
  exact List.mem_append_right _ (List.mem_singleton.mpr rfl)

end

/-! ### Atomics performed elsewhere -/

/-- An atomic's request set out for its home. -/
def State.sentAway (s : State) (slot : Nat) (r : PeerReq) : State :=
  match peerOf slot r.pa with
  | some _ => s.post (.peerAccess r)
  | none =>
    match region r.pa with
    | .dram dev so off => s.post (.lanternAtomic dev so (bits off 9 3) r)
    | _ => s.reserve (devOf slot) r

section
variable (s : State) (slot : Nat) (r : PeerReq) (q : Reading)

theorem atomicAwayM_go : (atomicAwayM r).go (ctx slot s q) = (.ok (), ctx slot (s.sentAway slot r) q) := by
  unfold atomicAwayM State.sentAway
  rw [M.go_bind, here_go, M.andThen_ok, ctx_slot]
  cases peerOf slot r.pa with
  | some d => rfl
  | none => cases region r.pa <;> rfl

/-- A request that sets out changes no slot and no core. -/
theorem State.sentAway_frame : ∃ l a, s.sentAway slot r = { s with resv := l, agenda := a } := by
  unfold State.sentAway
  split
  · exact ⟨_, _, rfl⟩
  split
  · exact ⟨_, _, rfl⟩
  · exact s.reserve_frame _ _

@[simp] theorem State.sentAway_slot (j : Nat) : (s.sentAway slot r).slot j = s.slot j := by
  obtain ⟨l, a, h⟩ := s.sentAway_frame slot r
  rw [h]; rfl
@[simp] theorem State.sentAway_core (j : Nat) : (s.sentAway slot r).core j = s.core j := by
  obtain ⟨l, a, h⟩ := s.sentAway_frame slot r
  rw [h]; rfl
@[simp] theorem State.sentAway_mem : (s.sentAway slot r).mem = s.mem := by
  obtain ⟨l, a, h⟩ := s.sentAway_frame slot r
  rw [h]
@[simp] theorem State.sentAway_cur : (s.sentAway slot r).cur = s.cur := by
  obtain ⟨l, a, h⟩ := s.sentAway_frame slot r
  rw [h]

/-- Where an atomic's request stands once it has set out: with its peer, its Lantern, or its word's queue (R168). -/
structure SetOut (r : PeerReq) (slot : Nat) (u : State) : Prop where
  peer (d : Nat) : peerOf slot r.pa = some d → Event.peerAccess r ∈ u.agenda
  lantern (dev so off : Nat) : peerOf slot r.pa = none → region r.pa = .dram dev so off →
    Event.lanternAtomic dev so (bits off 9 3) r ∈ u.agenda
  queue : peerOf slot r.pa = none → isDram r.pa = false → ∃ e ∈ u.resv, e.word = r.pa / 8 ∧ e.q.getLast? = some r

theorem region_ne_dram {pa : Nat} (h : isDram pa = false) (dev so off : Nat) : region pa ≠ .dram dev so off := by
  intro hr
  simp [isDram, hr] at h

theorem State.sentAway_setOut (hn : scalarWidth r.n) (h : r.pa % r.n = 0) : SetOut r slot (s.sentAway slot r) := by
  unfold State.sentAway
  refine ⟨fun d hp => ?_, fun dev so off hp hr => ?_, fun hp hd => ?_⟩
  · rw [hp]
    exact List.mem_append_right _ (List.mem_singleton.mpr rfl)
  · rw [hp, hr]
    exact List.mem_append_right _ (List.mem_singleton.mpr rfl)
  · rw [hp]
    dsimp only
    split
    next hr => exact absurd hr (region_ne_dram hd _ _ _)
    next => exact s.reserve_last (devOf slot) hn h

/-- The queues that a request stands in are those of any later state with the same agenda and reservations. -/
theorem SetOut.of_eq {r : PeerReq} {slot : Nat} {u u' : State} (h : SetOut r slot u) (ha : u'.agenda = u.agenda)
    (hr : u'.resv = u.resv) : SetOut r slot u' := by
  constructor
  · rw [ha]; exact h.peer
  · rw [ha]; exact h.lantern
  · rw [hr]; exact h.queue

end

/-- The request of an atomic. -/
def State.atomicRequest (s : State) (slot : Nat) (x : FmtN) (op a b : Nat) (t : Xlat) (flight : Option Nat) : PeerReq :=
  s.access slot (.atomic op) t (dblWidth x.dbl) a b flight (.reg x.d.toNat (dblWidth x.dbl) false)

section
variable {s : State} {slot : Nat} {t : Xlat} (x : FmtN) (op a b : Nat) (q : Reading)

/-- A relaxed atomic leaves the core. -/
theorem atomicFlies_go (hc : s.cur = slot) (hg : s.mayGo slot [t.pa] = true)
    (hf : (s.core (coreOf slot)).flights.length < 32) :
    let s2 := s.noted slot t true
    let r := s2.atomicRequest slot x op a b t (some s2.nextOp)
    (atomicFlies x op t a b).go (ctx slot s q) =
      (.ok .next, ctx slot ((s2.flying slot r [x.d.toNat]).sentAway slot r) q) := by
  have hc3 : ({ s.noted slot t true with nextOp := (s.noted slot t true).nextOp + 1 } : State).cur = slot :=
    (State.noted_cur s slot t true).trans hc
  unfold atomicFlies
  simp only [M.go_bind, flightRoomM_go q hf, M.andThen_ok, oobM_go t true q hc hg, freshM_go, requestM_go, flyM_go q hc3,
    atomicAwayM_go, M.go_pure]
  rfl

/-- A plain atomic that is performed elsewhere, once its slot is kept. -/
def atomicSend (x : FmtN) (op : Nat) (t : Xlat) (a b : Nat) : M Flow := do
  oobM t true
  let q ← requestM (.atomic op) t (dblWidth x.dbl) a b none (.reg x.d.toNat (dblWidth x.dbl) false)
  let queued := (← getS).reserved t.pa
  atomicAwayM q
  underWayM (if queued then .reservation else .reply) 1
  return .next

theorem atomicSend_go (hc : s.cur = slot) (hg : s.mayGo slot [t.pa] = true) :
    let s2 := s.noted slot t true
    let r := s2.atomicRequest slot x op a b t none
    (atomicSend x op t a b).go (ctx slot s q) =
      (.ok .next, ctx slot ((s2.sentAway slot r).onSlot slot
        (fun y => { y with wait := if s.reserved t.pa then .reservation else .reply, replies := 1 })) q) := by
  have hc2 (r : PeerReq) : ((s.noted slot t true).sentAway slot r).cur = slot := by
    rw [State.sentAway_cur, State.noted_cur, hc]
  unfold atomicSend
  simp only [M.go_bind, oobM_go t true q hc hg, M.andThen_ok, requestM_go, getS_go, ctx_st, atomicAwayM_go,
    underWayM_go q (hc2 _), M.go_pure, State.noted_reserved]
  rfl

/-- A plain atomic that is performed elsewhere keeps its slot before it goes to a peer (R279). -/
theorem atomicSent_go (hc : s.cur = slot) : (atomicSent slot x op t a b).go (ctx slot s q) =
    (atomicSend x op t a b).go (ctx slot (s.keptFor slot t.pa) q) := by
  unfold atomicSent State.keptFor
  cases peerOf slot t.pa with
  | none => rfl
  | some d =>
    dsimp only
    rw [if_pos Option.isSome_some, if_neg (Option.some_ne_none d), M.go_bind, keepM_go slot s q hc, M.andThen_ok]
    rfl

end

/-! ### The ways of an atomic -/

section
variable {s s1 : State} {x : FmtN} (op : Nat) {va : Word} {t : Xlat} (v v2 : Word) (q : Reading)
  (ha : s.accessed s.cur .atomic (dblWidth x.dbl) false va t s1) (hh : s1.homeOk s.cur t.pa)
include ha hh

theorem atomicAt_flies_go (hrel : x.rel = true) : (atomicAt s.cur x op va v v2).go (ctx s.cur s q) =
    (atomicFlies x op t (v.toNat % 2 ^ (8 * dblWidth x.dbl)) (v2.toNat % 2 ^ (8 * dblWidth x.dbl))).go (ctx s.cur s1 q) := by
  simp only [atomicAt, M.go_bind, accessM_go q ha, M.andThen_ok, readyM_go q hh, hrel, if_true]

theorem atomicAt_away_go (hrel : x.rel = false) (hnear : atomicNear s1 s.cur t.pa = false) :
    (atomicAt s.cur x op va v v2).go (ctx s.cur s q) =
      (atomicSent s.cur x op t (v.toNat % 2 ^ (8 * dblWidth x.dbl)) (v2.toNat % 2 ^ (8 * dblWidth x.dbl))).go
        (ctx s.cur s1 q) := by
  simp only [atomicAt, M.go_bind, accessM_go q ha, M.andThen_ok, readyM_go q hh, hrel, Bool.false_eq_true, if_false,
    getS_go, ctx_st, hnear]

end

/-- While answers are outstanding a retired instruction's slot waits as it did: its reads are kept (R116). -/
theorem State.retired_wait_of_replies (s : State) (slot len : Nat) (q : Reading) (h : (s.slot slot).replies ≠ 0) :
    ((s.retired slot len q).slot slot).wait = (s.slot slot).wait := by
  have hk : ((s.keepReads slot q.taken q.poll).slot slot).replies = (s.slot slot).replies ∧
      ((s.keepReads slot q.taken q.poll).slot slot).wait = (s.slot slot).wait := by
    unfold State.keepReads State.reserveTaken
    dsimp only
    cases q.poll <;> dsimp only <;> split <;> simp
  unfold State.retired finish
  dsimp only
  rw [if_pos (.inl (by rw [hk.1]; exact h)), State.slot_onSlot_self]
  exact hk.2

/-- A relaxed store leaves the core. -/
theorem exec_relaxedStore {s s1 : State} {x : FmtA} {sx : Bool} {w : BitVec 2} {a b v : Word} {t : Xlat} {q : Reading}
    (hi : Issues (.st ⟨x, true, sx, w⟩) s) (hr : s.reads3 x.a x.b x.d.toNat a b v q)
    (ha : s.accessed s.cur .store (2 ^ w.toNat) (decide (2 ^ w.toNat = 4)) (a + b) t s1) (hh : s1.homeOk s.cur t.pa)
    (hf : (s1.core (coreOf s.cur)).flights.length < 32) :
    exec (.st ⟨x, true, sx, w⟩) s = .next (((s1.noted s.cur t true).storeFlown s.cur (2 ^ w.toNat) v t).retired s.cur
      (Instr.st ⟨x, true, sx, w⟩).enc.len q) :=
  (exec_st_relaxed s x sx w).trans (runInstr_retired hi
    (by rw [storeBody_go _ hr, storeRelaxedM_go q rfl ha hh hf, M.andThen_ok, M.go_pure]))

section
variable {i : Instr} {s s1 : State} {x : FmtN} {f : Nat → Nat → Nat → Nat → Nat} {a b v : Word} {t : Xlat} {q : Reading}

/-- The operands that an atomic's request carries. -/
def State.amoOperands (s : State) (i : Instr) (x : FmtN) (v : Word) : Nat × Nat :=
  (v.toNat % 2 ^ (8 * dblWidth x.dbl), (s.amoSecond i x.d.toNat).toNat % 2 ^ (8 * dblWidth x.dbl))

variable (h : Claims.atomicNew i = some (x, f)) (hi : Issues i s) (hp : ∀ c, (s.slot s.cur).isPending c = false)
  (hr : s.reads3 x.a x.b x.d.toNat a b v q) (ha : s.accessed s.cur .atomic (dblWidth x.dbl) false (a + b) t s1)
  (hh : s1.homeOk s.cur t.pa)

include ha in
/-- An atomic's access is not to a tolerant page: its request names all its bytes. -/
theorem atomicRequest_n (s2 : State) (op c d : Nat) (flight : Option Nat) :
    (s2.atomicRequest s.cur x op c d t flight).n = dblWidth x.dbl :=
  if_neg fun ht => Bool.false_ne_true (ha.2.2.2.1 ht)

include ha in
/-- An atomic's request is aligned, so it stands where its word is served. -/
theorem atomicRequest_setOut (s2 s3 : State) (op c d : Nat) (flight : Option Nat) :
    SetOut (s2.atomicRequest s.cur x op c d t flight) s.cur
      (s3.sentAway s.cur (s2.atomicRequest s.cur x op c d t flight)) := by
  have hn := atomicRequest_n ha s2 op c d flight
  refine State.sentAway_setOut _ _ _ (by rw [hn]; exact scalarWidth_dbl x.dbl) ?_
  exact State.xlate_aligned ha.1 (scalarWidth_dbl x.dbl) ha.2.1 (fun ht => absurd (ha.2.2.2.1 ht) Bool.false_ne_true)

include h hi hp hr ha hh

theorem exec_relaxedAtomic (hrel : x.rel = true) (hf : (s1.core (coreOf s.cur)).flights.length < 32) :
    let s2 := s1.noted s.cur t true
    let r := s2.atomicRequest s.cur x (amoOp i) (s.amoOperands i x v).1 (s.amoOperands i x v).2 t (some s2.nextOp)
    exec i s = .next (((s2.flying s.cur r [x.d.toNat]).sentAway s.cur r).retired s.cur i.enc.len q) := by
  rw [exec_atomic h]
  refine runInstr_retired hi ?_
  rw [atomicM_go hi h hp hr, atomicAt_flies_go _ _ _ q ha hh hrel, atomicFlies_go _ _ _ _ q (State.accessed_cur ha) hh.2 hf]
  rfl

theorem exec_plainAtomic_away (hrel : x.rel = false) (hnear : atomicNear s1 s.cur t.pa = false) :
    let s2 := (s1.keptFor s.cur t.pa).noted s.cur t true
    let r := s2.atomicRequest s.cur x (amoOp i) (s.amoOperands i x v).1 (s.amoOperands i x v).2 t none
    exec i s = .next (((s2.sentAway s.cur r).onSlot s.cur
      (fun y => { y with wait := if s1.reserved t.pa then .reservation else .reply, replies := 1 })).retired s.cur
        i.enc.len q) := by
  have hc1 := State.accessed_cur ha
  have hres : (s1.keptFor s.cur t.pa).reserved t.pa = s1.reserved t.pa := by
    unfold State.keptFor
    split <;> rfl
  rw [exec_atomic h]
  refine runInstr_retired hi ?_
  rw [atomicM_go hi h hp hr, atomicAt_away_go _ _ _ q ha hh hrel hnear, atomicSent_go _ _ _ _ q hc1,
    atomicSend_go _ _ _ _ q (by rw [State.keptFor_cur, hc1]) (by rw [State.keptFor_mayGo, hh.2]), hres]
  rfl

end

@[simp] theorem State.keptFor_mem (s : State) (slot pa : Nat) : (s.keptFor slot pa).mem = s.mem := by
  unfold State.keptFor; split <;> rfl
@[simp] theorem State.keptFor_pc (s : State) (slot pa : Nat) : ((s.keptFor slot pa).slot slot).pc = (s.slot slot).pc := by
  unfold State.keptFor State.kept
  split
  · rfl
  · rw [State.slot_onSlot_self]

/-- Settles O18: a relaxed access leaves the core, and an atomic that cannot be performed here goes to its home. -/
theorem relaxedAndAwayAccesses : Obligations.RelaxedAndAwayAccesses := by
  unfold Obligations.RelaxedAndAwayAccesses
  refine ⟨?_, ?_⟩
  · intro s s1 x sx w a b v t q i n hi hr ha hh hf
    have hm := State.accessed_mem ha
    have hs : s1.slot s.cur = s.slot s.cur := State.accessed_slot ha
    have hop : (s1.noted s.cur t true).nextOp = s.nextOp := (State.noted_nextOp ..).trans (State.accessed_nextOp ha)
    obtain ⟨f, hid, hreq, hhome, hfl⟩ := (s1.noted s.cur t true).flying_flights s.cur
      ((s1.noted s.cur t true).storeRequest s.cur n v t) []
    rw [← State.storeFlown_flights, State.noted_core] at hfl
    refine ⟨_, (s1.noted s.cur t true).storeRequest s.cur n v t, exec_relaxedStore hi hr ha hh hf, ?_, ?_, ?_, ?_, rfl,
      rfl, rfl, rfl, rfl, congrArg some hop, hop, ⟨f, ?_, hid.trans hop, hreq, hhome⟩, ?_, fun d hp => ?_,
      fun hp hres => ?_⟩
    · rw [State.retired_pc, State.storeFlown_slot, State.noted_pc, hs]
    · rw [State.retired_mem, State.storeFlown_mem, State.noted_mem, hm]
    · rw [State.retired_pend, State.storeFlown_slot, State.noted_pend, hs]
    · rw [State.retired_flights, hfl, List.length_append, List.length_singleton]
    · rw [State.retired_flights, hfl]
      exact List.mem_append_right _ (List.mem_singleton.mpr rfl)
    · rw [State.retired_peerOut, State.storeFlown_slot, State.noted_peerOut, hs, hop] <;> rfl
    · rw [State.retired_agenda]
      exact State.storeFlown_peer _ _ _ _ _ hp
    · rw [State.retired_agenda, ← hop]
      exact State.storeFlown_here _ _ _ _ _ hp ((State.noted_reserved ..).trans hres)
  · intro i s s1 x f a b v t q h hi hp hr n ha hh sent
    have hm := State.accessed_mem ha
    have hs : s1.slot s.cur = s.slot s.cur := State.accessed_slot ha
    have hop : (s1.noted s.cur t true).nextOp = s.nextOp := (State.noted_nextOp ..).trans (State.accessed_nextOp ha)
    refine ⟨fun hrel hf => ?_, fun hrel hnear => ?_⟩
    · obtain ⟨hpeer, hlan, hqueue⟩ := (atomicRequest_setOut ha _ _ _ _ _ _).of_eq
        (State.retired_agenda _ s.cur i.enc.len q) (State.retired_resv _ s.cur i.enc.len q)
      refine ⟨_, _, exec_relaxedAtomic h hi hp hr ha hh hrel hf,
        ⟨rfl, rfl, atomicRequest_n ha _ _ _ _ _, rfl, rfl, ?_, ?_, hpeer, hlan, hqueue⟩, congrArg some hop, ?_, ?_⟩
      · rw [State.retired_mem, State.sentAway_mem, State.flying_mem, State.noted_mem, hm]
      · rw [State.retired_pc, State.sentAway_slot, State.flying_slot, State.noted_pc, hs]
      · rw [State.retired_pend, State.sentAway_slot, State.flying_slot, State.noted_pend, hs, hop]
        rfl
      · rw [State.retired_flights, State.sentAway_core, State.flying_flights_length, State.noted_core]
    · obtain ⟨hpeer, hlan, hqueue⟩ := (atomicRequest_setOut ha _ _ _ _ _ _).of_eq
        (State.retired_agenda (State.onSlot _ s.cur _) s.cur i.enc.len q)
        (State.retired_resv (State.onSlot _ s.cur _) s.cur i.enc.len q)
      refine ⟨_, _, exec_plainAtomic_away h hi hp hr ha hh hrel hnear,
        ⟨rfl, rfl, atomicRequest_n ha _ _ _ _ _, rfl, rfl, ?_, ?_, hpeer, hlan, hqueue⟩, rfl, ?_⟩
      · rw [State.retired_mem, State.onSlot_mem, State.sentAway_mem, State.noted_mem, State.keptFor_mem, hm]
      · rw [State.retired_pc, State.slot_onSlot_self, State.sentAway_slot, State.noted_pc, State.keptFor_pc, hs]
      · rw [State.retired_wait_of_replies _ _ _ _ (by rw [State.slot_onSlot_self]; exact Nat.one_ne_zero),
          State.slot_onSlot_self]

end Sys2Proof.Machine
end

section
/-!
SUPPORT. Fences and monitors (R169 to R171).
-/

namespace Sys2Proof.Machine

/-! ### An instruction that reads nothing -/

@[simp] theorem State.keepReads_nothing (s : State) (slot : Nat) : s.keepReads slot 0 none = s := rfl
theorem State.retired_nothing (s : State) (slot len : Nat) :
    s.retired slot len {} = s.onSlot slot (fun x => { x with pc := x.pc + BitVec.ofNat 64 len }) := by
  simp [State.retired, finish]
theorem State.awaiting_nothing (s : State) (slot : Nat) (w : Wait) : s.awaiting slot {} w = s.setWait slot w := rfl

/-- A field that is not used adds no literal. -/
theorem Src.len_of_unused {a : Src} (h : roleCauses .no a.code = []) : a.len = 0 := by
  cases a with
  | reg n => rfl
  | lit32 v => cases h
  | lit64 v => cases h

/-! ### Fences -/

/-- The fences, with the kinds of accesses that they wait for. -/
def IsFence (i : Instr) (x : FmtZ) (l w : Bool) : Prop :=
  i = .fenceAll x ∧ l = true ∧ w = true ∨ i = .fenceSt x ∧ l = false ∧ w = true ∨ i = .fenceLd x ∧ l = true ∧ w = false

section
variable {i : Instr} {s : State} {x : FmtZ} {l w : Bool}

theorem IsFence.exec_eq (h : IsFence i x l w) (s : State) : exec i s = runInstr i s (fenceM x.scope.toNat l w) := by
  rcases h with ⟨rfl, rfl, rfl⟩ | ⟨rfl, rfl, rfl⟩ | ⟨rfl, rfl, rfl⟩ <;> rfl

/-- A fence is one word. -/
theorem IsFence.len (h : IsFence i x l w) (hi : Issues i s) : i.enc.len = 4 := by
  have he : ∃ fn, i.enc = .a 27 fn x.toFmtA .no .no .no (scopeBad x.scope) := by
    rcases h with ⟨rfl, _⟩ | ⟨rfl, _⟩ | ⟨rfl, _⟩ <;> exact ⟨_, rfl⟩
  obtain ⟨fn, he⟩ := he
  have hc := hi.causes_eq_nil
  rw [he] at hc ⊢
  simp only [Enc.causes, List.append_eq_nil_iff] at hc
  obtain ⟨⟨⟨⟨_, ha⟩, hb⟩, _⟩, _⟩ := hc
  simp only [Enc.len, Src.len_of_unused ha, Src.len_of_unused hb]

variable {sc : Nat} (q : Reading)

/-- Relaxed accesses that a fence waits for. -/
theorem releaseM_flights_go (h : s.drained s.cur sc none l w = false) :
    (releaseM sc none l w).go (ctx s.cur s q) = (.error (.wait .flights), ctx s.cur s q) := by
  simp [releaseM, h]

/-- Acknowledgements that a fence waits for. -/
theorem releaseM_acks_go (hd : s.drained s.cur sc none l w = true) (hp : peerScope sc = true)
    (ha : s.awaitsAcks s.cur sc none = true) :
    (releaseM sc none l w).go (ctx s.cur s q) = (.error (.wait .acks), ctx s.cur s q) := by
  simp [releaseM, hd, hp, ha]

end

theorem exec_fence {i : Instr} {s : State} {x : FmtZ} {l w : Bool} (h : IsFence i x l w) (hi : Issues i s) :
    (s.released s.cur x.scope.toNat none l w = true →
      exec i s = .next (s.onSlot s.cur (fun y => { y with pc := y.pc + 4 }))) ∧
    (s.drained s.cur x.scope.toNat none l w = false → exec i s = .next (s.setWait s.cur .flights)) ∧
    (s.drained s.cur x.scope.toNat none l w = true → peerScope x.scope.toNat = true →
      s.awaitsAcks s.cur x.scope.toNat none = true → exec i s = .next (s.setWait s.cur .acks)) := by
  rw [h.exec_eq]
  refine ⟨fun hr => ?_, fun hd => ?_, fun hd hp ha => ?_⟩
  · rw [runInstr_retired hi (q := {}) (by rw [fenceM, M.go_bind, releaseM_go false {} hr]; rfl), State.retired_nothing,
      h.len hi]
    rfl
  · rw [runInstr_waits hi (q := {}) (by rw [fenceM, M.go_bind, releaseM_flights_go {} hd]; rfl), State.awaiting_nothing]
  · rw [runInstr_waits hi (q := {}) (by rw [fenceM, M.go_bind, releaseM_acks_go {} hd hp ha]; rfl), State.awaiting_nothing]

/-! ### Monitors -/

section
variable {s : State} {x : FmtA} {v : Word} {q : Reading}

theorem exec_monArm {s1 : State} {va : Word} {t : Xlat} {vg : Bool} {m : Nat} (hi : Issues (.monArm x) s)
    (hr : s.reads1 x.a va q)
    (hx : s.xlate (coreOf s.cur) true (s.slot s.cur).user (s.slot s.cur).asid .load va = (.ok t, s1))
    (harm : s1.armable s.cur (t.pa / 64 * 64) = some vg) (hw : s1.canWrite s.cur x.d.toNat = true)
    (hm : (s.slot s.cur).monOf (t.pa / 64 * 64) = some m ∨
      (s.slot s.cur).monOf (t.pa / 64 * 64) = none ∧ (s.slot s.cur).freeMon = some m) :
    exec (.monArm x) s = .next
      (((s1.onSlot s.cur (fun y => { y with mons := Tab.put m ⟨t.pa / 64, vg, false⟩ y.mons })).writeReg s.cur
        x.d.toNat (BitVec.ofNat 64 m)).retired s.cur (Instr.monArm x).enc.len q) := by
  obtain ⟨cl, ks, hf⟩ := s.xlate_frame (coreOf s.cur) true (s.slot s.cur).user (s.slot s.cur).asid .load va
  rw [hx] at hf
  dsimp only at hf
  have hs : s1.slot s.cur = s.slot s.cur := by rw [hf]; rfl
  have hc : s1.cur = s.cur := by rw [hf]
  refine runInstr_retired hi ?_
  simp only [M.go_bind, here_go, M.andThen_ok, rd_go hr, xlateM_go q hx, getS_go, ctx_st, ctx_slot]
  rw [harm]
  simp only [M.go_bind, prepDst_go q hw, M.andThen_ok, slotM_go, ctx_st, ctx_slot, hs]
  rcases hm with hm | ⟨hm, hfree⟩
  · rw [hm]
    simp only [M.go_bind, onSlotM_ctx, hc, M.andThen_ok, wr_go, M.go_pure, Nat.mul_div_cancel _ (by decide : 0 < 64)]
  · rw [hm, hfree]
    simp only [M.go_bind, onSlotM_ctx, hc, M.andThen_ok, wr_go, M.go_pure, Nat.mul_div_cancel _ (by decide : 0 < 64)]

theorem exec_monDis (hi : Issues (.monDis x) s) (hr : s.reads1 x.a v q) :
    exec (.monDis x) s = .next
      ((s.onSlot s.cur (fun y => { y with mons := Tab.del (v.toNat % 4) y.mons })).retired s.cur
        (Instr.monDis x).enc.len q) :=
  runInstr_retired hi (by simp only [M.go_bind, rd_go hr, M.andThen_ok, onSlotM_ctx, M.go_pure])

theorem exec_monClr (hi : Issues (.monClr x) s) (hr : s.reads1 x.a v q) :
    exec (.monClr x) s = .next ((s.onSlot s.cur (fun y => { y with
      mons := Tab.mapVals (fun i m => if v.getLsbD i then { m with fired := false } else m) y.mons })).retired s.cur
        (Instr.monClr x).enc.len q) :=
  runInstr_retired hi (by simp only [M.go_bind, rd_go hr, M.andThen_ok, onSlotM_ctx, M.go_pure])


/-- The body of `mon.wait` once its timeout is read. -/
theorem exec_monWait_eq (s : State) (x : FmtA) : exec (.monWait x) s = runInstr (.monWait x) s (do
    let v ← rd x.a
    prepDst x.d.toNat
    let y ← slotM
    let k ← coreM
    if y.mons = [] ∧ v.toNat % 2 ^ 32 = 0 ∧ decide (y.heard = .expired) = false then trapM 0x25
    else if y.fired ≠ 0 ∨ decide (y.heard = .expired) then do
      onSlotM (fun z => { z with wait := .none, met := .none })
      wr x.d (BitVec.ofNat 64 (y.fired + (if decide (y.heard = .expired) then 16 else 0)))
      return .next
    else waitM (.monitor (if v.toNat % 2 ^ 32 = 0 then none else some (k.cycle + v.toNat % 2 ^ 32)))) := rfl

/-- No monitor, no fired bit. -/
theorem Slot.fired_of_mons_nil {y : Slot} (h : y.mons = []) : y.fired = 0 := by
  simp [Slot.fired, h]

section
variable (hi : Issues (.monWait x) s) (hr : s.reads1 x.a v q) (hw : s.canWrite s.cur x.d.toNat = true)
include hi hr hw

theorem exec_monWait_ends (h : (s.slot s.cur).fired ≠ 0 ∨ (s.slot s.cur).heard = .expired) :
    exec (.monWait x) s = .next
      (((s.onSlot s.cur (fun y => { y with wait := .none, met := .none })).writeReg s.cur x.d.toNat
        (BitVec.ofNat 64 ((s.slot s.cur).fired + if (s.slot s.cur).heard = .expired then 16 else 0))).retired s.cur
          (Instr.monWait x).enc.len q) := by
  have h1 : ¬((s.slot s.cur).mons = [] ∧ v.toNat % 2 ^ 32 = 0 ∧ decide ((s.slot s.cur).heard = .expired) = false) := by
    rintro ⟨hm, _, he⟩
    exact h.elim (fun hf => hf (Slot.fired_of_mons_nil hm)) (of_decide_eq_false he)
  have h2 : (s.slot s.cur).fired ≠ 0 ∨ decide ((s.slot s.cur).heard = .expired) = true := h.imp_right (decide_eq_true ·)
  rw [exec_monWait_eq]
  refine runInstr_retired hi ?_
  simp only [M.go_bind, rd_go hr, prepDst_go q hw, M.andThen_ok, slotM_go, coreM_go, ctx_st, ctx_slot, M.go_ite]
  rw [if_neg h1, if_pos h2]
  simp only [M.go_bind, onSlotM_ctx, M.andThen_ok, wr_go, M.go_pure, decide_eq_true_eq]

theorem exec_monWait_waits (hf : (s.slot s.cur).fired = 0) (he : (s.slot s.cur).heard ≠ .expired)
    (h : (s.slot s.cur).mons ≠ [] ∨ v.toNat % 2 ^ 32 ≠ 0) :
    exec (.monWait x) s = .next (s.awaiting s.cur q (.monitor
      (if v.toNat % 2 ^ 32 = 0 then none else some ((s.core (coreOf s.cur)).cycle + v.toNat % 2 ^ 32)))) := by
  rw [exec_monWait_eq]
  refine runInstr_waits hi ?_
  simp only [M.go_bind, rd_go hr, prepDst_go q hw, M.andThen_ok, slotM_go, coreM_go, ctx_st, ctx_slot, M.go_ite]
  rw [if_neg (fun hn => h.elim (fun hm => hm hn.1) (fun ht => ht hn.2.1)),
    if_neg (fun hn => hn.elim (fun hn => hn hf) (fun hd => he (of_decide_eq_true hd))), waitM_go]

theorem exec_monWait_traps (hm : (s.slot s.cur).mons = []) (hn : v.toNat % 2 ^ 32 = 0)
    (he : (s.slot s.cur).heard ≠ .expired) :
    exec (.monWait x) s = .next (s.takeTrap s.cur 0x25 0 (s.slot s.cur).pc false) := by
  rw [exec_monWait_eq]
  refine runInstr_raises (q := q) hi ?_
  simp only [M.go_bind, rd_go hr, prepDst_go q hw, M.andThen_ok, slotM_go, coreM_go, ctx_st, ctx_slot, M.go_ite]
  rw [if_pos ⟨hm, hn, decide_eq_false he⟩, trapM_go]

end
end

/-- Settles O19: each of the bodies, at the branch that its condition names. -/
theorem fencesAndMonitors : Obligations.FencesAndMonitors := by
  unfold Obligations.FencesAndMonitors
  refine ⟨fun i s x l w h hi => exec_fence h hi, ?_, ?_, ?_, ?_⟩
  · intro s s1 x va t q vg m hi hr hx harm hw hm
    exact exec_monArm hi hr hx harm hw hm
  · intro s x v q hi hr
    exact exec_monDis hi hr
  · intro s x v q hi hr
    exact ⟨_, exec_monClr hi hr, fun j => Tab.find?_mapVals _ j _⟩
  · intro s x v q hi hr hw y n
    exact ⟨exec_monWait_ends hi hr hw, exec_monWait_waits hi hr hw, exec_monWait_traps hi hr hw⟩

end Sys2Proof.Machine
end

section
/-!
SUPPORT. A wick with a recorded store fault on a core in error: the fault is logged when the wick leaves its slot (R107,
R229), beside the core's error.
-/

namespace Sys2Proof.Machine

/-- A wick whose store to device 1 was refused, the fault not yet delivered. -/
def latchedWick : Slot := { occ := true, wick := 1, latch := some ⟨0, 1, false, []⟩ }

/-- That wick on a fenced core; the failure list of its die has room for four records. -/
def latchedOnFencedCore : State :=
  { State.reset with
    slots := [(State.resetSlot, latchedWick)]
    cores := [(coreOf State.resetSlot, { fenced := true })]
    dies := [(dieOf State.resetSlot, { failBase := 64, failSize := 4 })] }

/-- An error of a core that is fenced already: its next wick fails. -/
theorem exec_coreError_fenced {s : State} {k : Nat} (h : (s.core (coreOf k)).fenced = true) :
    exec .coreError (s.given (.coreError k)) = .next ((s.given (.coreError k)).failNext k) := if_pos h

/-- The step logs two entries: the core's error, and the wick's recorded fault. -/
theorem log_length_failNext_latched :
    (((latchedOnFencedCore.given (.coreError State.resetSlot)).failNext State.resetSlot).die
      (dieOf State.resetSlot)).log.length = 2 := by decide +kernel

/-- Refutes O49: a wick that fails with its core logs its recorded fault too, so its die's log grows by two. -/
theorem not_failureEvents : ¬ Obligations.FailureEvents := by
  unfold Obligations.FailureEvents
  rintro ⟨_, _, _, hnext, _, _⟩
  have hslot (i : Nat) : latchedOnFencedCore.slot i = if i = State.resetSlot then latchedWick else {} := by
    simp only [latchedOnFencedCore, State.slot, Tab.get, Tab.find?]
    split <;> rfl
  have hwait (i : Nat) (c : Nat) : (latchedOnFencedCore.slot i).wait ≠ .failing c := by
    rw [hslot]
    split <;> simp [latchedWick]
  obtain ⟨hslots, _⟩ := hnext latchedOnFencedCore State.resetSlot State.resetSlot (by decide) (by decide +kernel)
  obtain ⟨t, w, hexec, _, _, _, _, hlog⟩ := hslots (fun i _ => hwait i) rfl (by decide)
    (fun i hi _ => by rw [hslot, if_neg (Nat.ne_of_lt hi)])
  have ht : t = (latchedOnFencedCore.given (.coreError State.resetSlot)).failNext State.resetSlot := by
    rw [exec_coreError_fenced (by decide)] at hexec
    exact (Host.Outcome.next.inj hexec).symm
  rw [ht, log_length_failNext_latched] at hlog
  exact absurd hlog (by decide +kernel)

end Sys2Proof.Machine
end

section
/-!
SUPPORT. What the end of a wick's access leaves alone: the members of every module, the requests on their way to peers,
and the other slots but for a wait that ends (R221, R231, R232, R279).
-/

namespace Sys2Proof.Machine

/-! ### Slots whose wait may end -/

/-- A slot as it was, or back in the rotation. -/
def Slot.Woken (x y : Slot) : Prop := y = x ∨ y = { x with wait := .none }

theorem Slot.Woken.refl (x : Slot) : x.Woken x := .inl rfl
theorem Slot.Woken.trans {x y z : Slot} (h : x.Woken y) (h' : y.Woken z) : x.Woken z := by
  rcases h with rfl | rfl <;> rcases h' with rfl | rfl
  · exact .inl rfl
  · exact .inr rfl
  · exact .inr rfl
  · exact .inr rfl

/-! ### The frame -/

/-- A change that concerns one slot's wick: the members of every module stay, no request sets out for a peer, and the
other slots stay but for waits that end. -/
structure State.Confined (src : Nat) (s t : State) : Prop where
  members (d : Nat) : (t.mod d).members = (s.mod d).members
  sends (r : PeerReq) : Event.peerAccess r ∈ t.agenda → Event.peerAccess r ∈ s.agenda
  others (j : Nat) : j ≠ src → (s.slot j).Woken (t.slot j)

namespace State.Confined
variable {src : Nat} {s t u : State}

theorem refl (src : Nat) (s : State) : s.Confined src s := ⟨fun _ => rfl, fun _ h => h, fun _ _ => .refl _⟩
theorem trans (h : s.Confined src t) (h' : t.Confined src u) : s.Confined src u :=
  ⟨fun d => (h'.members d).trans (h.members d), fun r hr => h.sends r (h'.sends r hr),
    fun j hj => (h.others j hj).trans (h'.others j hj)⟩
/-- A change of fields other than modules, agenda and slots. -/
theorem of_eq (hm : t.mods = s.mods) (ha : t.agenda = s.agenda) (hs : t.slots = s.slots) : s.Confined src t :=
  ⟨fun d => by rw [State.mod, State.mod, hm], fun r h => by rwa [ha] at h,
    fun j _ => by rw [State.slot, State.slot, hs]; exact .refl _⟩
theorem foldl {α : Type} {f : State → α → State} (hf : ∀ (s : State) a, s.Confined src (f s a)) (l : List α) (s : State) :
    s.Confined src (l.foldl f s) := by
  induction l generalizing s with
  | nil => exact refl src s
  | cons a l ih => exact (hf s a).trans (ih _)
theorem ite (p : Prop) [Decidable p] (ht : s.Confined src t) (hu : s.Confined src u) :
    s.Confined src (if p then t else u) := by split <;> assumption

end State.Confined

section
variable (src : Nat) (s : State)

theorem State.confined_onSlot (f : Slot → Slot) : s.Confined src (s.onSlot src f) :=
  ⟨fun _ => rfl, fun _ h => h, fun j hj => by rw [State.slot_onSlot_ne _ _ hj]; exact .refl _⟩
theorem State.confined_setSlot (x : Slot) : s.Confined src (s.setSlot src x) := s.confined_onSlot src fun _ => x
theorem State.confined_onMod (d : Nat) {f : Module → Module} (hf : ∀ m, (f m).members = m.members) :
    s.Confined src (s.onMod d f) := by
  refine ⟨fun e => ?_, fun _ h => h, fun _ _ => .refl _⟩
  by_cases he : e = d
  · subst he; rw [State.mod_onMod_self, hf]
  · rw [State.mod_onMod_ne _ _ he]
/-- An event that is not a request of a peer. -/
theorem State.confined_post {e : Event} (he : ∀ r, e ≠ .peerAccess r) : s.Confined src (s.post e) := by
  refine ⟨fun _ => rfl, fun r h => ?_, fun _ _ => .refl _⟩
  rcases List.mem_append.mp h with h | h
  · exact h
  · exact absurd (List.mem_singleton.mp h).symm (he r)
theorem State.confined_postAll {es : List Event} (he : ∀ e ∈ es, ∀ r, e ≠ .peerAccess r) :
    s.Confined src (s.postAll es) := by
  refine ⟨fun _ => rfl, fun r h => ?_, fun _ _ => .refl _⟩
  rcases List.mem_append.mp h with h | h
  · exact h
  · exact absurd rfl (he _ h r)
theorem State.confined_onDie (d : Nat) (f : Die → Die) : s.Confined src (s.onDie d f) := .of_eq rfl rfl rfl
theorem State.confined_timers (ts : List (Nat × Event)) : s.Confined src { s with timers := ts } := .of_eq rfl rfl rfl
theorem State.confined_resv (rs : List Resv) : s.Confined src { s with resv := rs } := .of_eq rfl rfl rfl
theorem State.confined_setCluster (k : Nat) (c : Cluster) : s.Confined src (s.setCluster k c) := .of_eq rfl rfl rfl
theorem State.confined_log (die cause : Nat) (ws : List Word) : s.Confined src (s.log die cause ws) := .of_eq rfl rfl rfl
theorem State.confined_postIrq (k cause : Nat) (v : Word) : s.Confined src (s.postIrq k cause v) := .of_eq rfl rfl rfl

/-- Waits of some slots end. -/
theorem State.confined_mapVals {f : Nat → Slot → Slot} (hf : ∀ (k : Nat) (x : Slot), x.Woken (f k x)) :
    s.Confined src { s with slots := Tab.mapVals f s.slots } := by
  refine ⟨fun _ => rfl, fun _ h => h, fun j _ => ?_⟩
  have hd : f j {} = {} := by rcases hf j {} with h | h <;> exact h
  have hg : ({ s with slots := Tab.mapVals f s.slots } : State).slot j = f j (s.slot j) := Tab.get_mapVals _ f j s.slots hd
  rw [hg]
  exact hf j _
theorem Slot.woken_ite (p : Prop) [Decidable p] (x : Slot) : x.Woken (if p then { x with wait := .none } else x) := by
  split
  · exact .inr rfl
  · exact .inl rfl
theorem State.confined_wakeDev (dev : Nat) (w : Wait) : s.Confined src (s.wakeDev dev w) :=
  s.confined_mapVals src fun _ x => x.woken_ite _
theorem State.confined_wakeCluster (ck : Nat) (w : Wait) : s.Confined src (s.wakeCluster ck w) :=
  s.confined_mapVals src fun _ x => x.woken_ite _

/-- A wait of any slot ends. -/
theorem State.confined_wakeSlot (k : Nat) {f : Slot → Slot} (hf : ∀ x : Slot, x.Woken (f x)) :
    s.Confined src (s.onSlot k f) := by
  refine ⟨fun _ => rfl, fun _ h => h, fun j _ => ?_⟩
  by_cases hj : j = k
  · subst hj; rw [State.slot_onSlot_self]; exact hf _
  · rw [State.slot_onSlot_ne _ _ hj]; exact .refl _
theorem State.confined_settleQueue (k : Nat) : s.Confined src (s.settleQueue k) := by
  unfold State.settleQueue
  dsimp only
  exact (State.Confined.of_eq rfl rfl rfl : s.Confined src (s.setCore k _)).trans
    (.foldl (fun u j => u.confined_wakeSlot src j fun x => x.woken_ite _) _ _)
theorem State.confined_endReservation (k : Nat) (f : List QWord → List QWord) :
    s.Confined src (s.endReservation k f) := by
  unfold State.endReservation
  dsimp only
  split
  · exact (State.Confined.of_eq rfl rfl rfl : s.Confined src (s.setCore _ _)).trans (State.confined_settleQueue _ _ _)
  · exact .refl src s

/-! ### The parts of a wick's end -/

theorem State.confined_dropTurns (k : Nat) : s.Confined src (s.dropTurns k) := by
  unfold State.dropTurns
  split
  · exact .of_eq rfl rfl rfl
  · exact .refl src s
theorem State.confined_undoSlots (k : Nat) : s.Confined src (s.undoSlots k) := by
  unfold State.undoSlots
  dsimp only
  split
  · refine State.Confined.trans (t := s.setMod (devOf k) _) ?_ (.foldl (fun u d => u.confined_onDie src d _) _ _)
    exact s.confined_onMod src (devOf k) (f := fun m => { m with
        slotTable := m.oldTable, slotCount := m.oldCount
        oldTable := m.slotTable, oldCount := m.slotCount, slotBy := none }) fun _ => rfl
  · exact .refl src s
theorem State.confined_undoTaper (k : Nat) : s.Confined src (s.undoTaper k) := by
  unfold State.undoTaper
  split
  · exact s.confined_onMod src _ fun _ => rfl
  · exact .refl src s
theorem State.confined_undoCx (k : Nat) : s.Confined src (s.undoCx k) := by
  unfold State.undoCx
  split
  · exact .of_eq rfl rfl rfl
  · exact .refl src s
theorem State.confined_giveUp : s.Confined src (s.giveUp src) := by
  unfold State.giveUp
  exact ((((s.confined_dropTurns src src).trans (State.confined_undoSlots ..)).trans (State.confined_undoTaper ..)).trans
    (State.confined_undoCx ..)).trans ((State.confined_endReservation ..).trans (State.confined_onSlot ..))
theorem State.confined_settleRefusal (dev dst n : Nat) : s.Confined src (s.settleRefusal dev dst n) := by
  unfold State.settleRefusal
  dsimp only
  have hm := s.confined_onMod src dev
    (f := fun m => { m with refusals := Tab.put dst (Tab.get 0 (s.mod dev).refusals dst - n) m.refusals }) fun _ => rfl
  split
  · exact .refl src s
  · split
    · exact hm.trans (State.confined_post src _ (by simp))
    · exact hm
theorem State.confined_settleAll (dev : Nat) (owed : List Nat) : s.Confined src (s.settleAll dev owed) :=
  .foldl (fun u d => u.confined_settleRefusal src dev d 1) _ _
theorem State.confined_countRefusal (dev dst : Nat) : s.Confined src (s.countRefusal dev dst) :=
  s.confined_onMod src dev fun _ => rfl
theorem State.confined_logLatch (k : Nat) : s.Confined src (s.logLatch k) := by
  unfold State.logLatch
  dsimp only
  split
  · exact .refl src s
  · exact ((s.confined_log src ..).trans (State.confined_postIrq ..)).trans (State.confined_settleAll ..)
theorem State.confined_releaseWords (k wick : Nat) : s.Confined src (s.releaseWords k wick) := by
  unfold State.releaseWords
  dsimp only
  refine (s.confined_resv src _).trans (State.confined_postAll src _ fun e he r h => ?_)
  subst h
  simp at he
theorem State.confined_cancelWork (k cause : Nat) : s.Confined src (s.cancelWork k cause) := by
  unfold State.cancelWork
  dsimp only
  refine ((s.confined_setCluster src _ _).trans
    (State.confined_releaseWords ..)).trans (State.confined_postAll src _ fun e he r h => ?_)
  subst h
  simp at he
theorem State.confined_dropReady (k : Nat) : s.Confined src (s.dropReady k) := by
  unfold State.dropReady
  split
  · exact .refl src s
  · exact .of_eq rfl rfl rfl
theorem State.confined_leave : s.Confined src (s.leave src) := by
  unfold State.leave
  dsimp only
  have h0 := (s.confined_giveUp src).trans (State.confined_timers src _ (s.timers.filter fun t => !isCompletion src t.2))
  exact ((((h0.trans (State.confined_dropReady ..)).trans (State.confined_onSlot ..)).trans
    (State.confined_wakeDev ..)).trans (State.confined_wakeCluster ..)).trans
    ((State.confined_post src _ (by simp)).trans (State.confined_post src _ (by simp)))
theorem State.confined_breakGroup (dev asid grp cause : Nat) : s.Confined src (s.breakGroup dev asid grp cause) := by
  unfold State.breakGroup
  refine .ite _ (.refl src s) (s.confined_postAll src fun e he r h => ?_)
  subst h
  simp at he
theorem State.confined_failOut (cause : Nat) (pc : Word) : s.Confined src (s.failOut src cause pc) := by
  unfold State.failOut State.failLeave
  dsimp only
  exact ((((s.confined_logLatch src src).trans (State.confined_cancelWork ..)).trans (State.confined_leave ..)).trans
    (State.confined_post src _ (by simp))).trans (State.confined_breakGroup ..)
theorem State.confined_failWick (cause : Nat) (pc : Word) : s.Confined src (s.failWick src cause pc) := by
  unfold State.failWick
  dsimp only
  refine .ite _ ?_ (s.confined_failOut src cause pc)
  exact ((s.confined_giveUp src).trans (State.confined_onSlot ..)).trans (State.confined_onDie ..)

/-- An exception concerns its own slot's wick. -/
theorem State.confined_takeTrap (cause : Cause) (tval resume : Word) :
    s.Confined src (s.takeTrap src cause tval resume false) := by
  unfold State.takeTrap
  have h0 := s.confined_giveUp src
  simp only [Bool.false_eq_true, if_false]
  refine .ite _ (h0.trans (State.confined_setSlot ..)) (.ite _ (h0.trans (State.confined_failWick ..)) (.ite _
    (h0.trans (State.confined_failWick ..)) (.ite _ (h0.trans (State.confined_failWick ..))
      (h0.trans (State.confined_setSlot ..)))))

/-! ### An access given up (R279) -/

theorem State.confined_dropOutstanding (p : PeerReq → Bool) : s.Confined src (s.dropOutstanding p) :=
  ⟨fun _ => rfl, fun _ h => (List.mem_filter.mp h).1, fun _ _ => .refl _⟩
/-- What giving up an access does after its requests have been taken out. -/
theorem State.confined_dropAccess_rest (k wick : Nat) :
    (s.dropOutstanding (ofAccess k wick)).Confined src (s.dropAccess k wick) := by
  unfold State.dropAccess
  dsimp only
  refine State.Confined.trans ?_
    (.foldl (fun u r => (u.confined_countRefusal src ..).trans (State.confined_settleRefusal ..)) _ _)
  exact ⟨fun _ => rfl, fun _ h => (List.mem_filter.mp h).1, fun _ _ => .refl _⟩
theorem State.confined_dropAccess (k wick : Nat) : s.Confined src (s.dropAccess k wick) :=
  (s.confined_dropOutstanding src _).trans (s.confined_dropAccess_rest src k wick)

/-- The slot whose access is given up waits for no answer, and what the access has written is put back. -/
def State.accessUndone (s : State) (k : Nat) : State :=
  s.onSlot k (fun x => { x.undone with replies := 0, wait := .none })
/-- The exception of an access given up, when its requests have been taken out. -/
def State.trapAbandoned (s : State) (q : PeerReq) : State :=
  ((s.accessUndone q.src).takeTrap q.src 0x92 0 q.pc false).wakeDev (devOf q.src) .tlb
theorem State.abandonAccess_eq (q : PeerReq) : s.abandonAccess q =
    if s.holds q = true ∧ (s.slot q.src).replying = true then (s.dropAccess q.src q.wick).trapAbandoned q else s := rfl
theorem State.confined_trapAbandoned (q : PeerReq) : s.Confined q.src (s.trapAbandoned q) :=
  ((s.confined_onSlot q.src _).trans (State.confined_takeTrap ..)).trans (State.confined_wakeDev ..)
theorem State.confined_abandonAccess (q : PeerReq) : s.Confined q.src (s.abandonAccess q) := by
  rw [State.abandonAccess_eq]
  exact .ite _ ((s.confined_dropAccess q.src ..).trans (State.confined_trapAbandoned ..)) (.refl q.src s)

end
end Sys2Proof.Machine
end

section
/-!
SUPPORT. What a peer's access meets at its destination (R168, R275, R277, R278): the grant, the refusal, the home.
-/

namespace Sys2Proof.Machine

/-! ### Bits of a word -/

theorem bits_one_eq_one_iff (w : Word) (j : Nat) : bits w.toNat j 1 = 1 ↔ w.getLsbD j = true := by
  rw [BitVec.getLsbD, Nat.testBit_eq_decide_div_mod_eq, decide_eq_true_eq]; rfl
theorem bits_one_eq_zero_iff (w : Word) (j : Nat) : bits w.toNat j 1 = 0 ↔ w.getLsbD j = false := by
  rw [← Bool.not_eq_true, ← bits_one_eq_one_iff]
  have : bits w.toNat j 1 < 2 := Nat.mod_lt _ (by decide)
  omega

/-- The upper half written. -/
theorem putBits_upper_div (w : Word) (v : Nat) : (putBits w 32 32 v).toNat / 2 ^ 32 = v % 2 ^ 32 := by
  have hw := w.isLt
  simp only [putBits, setBits, bits, BitVec.toNat_ofNat]
  omega
/-- Bit 13 written, the upper half stays. -/
theorem putBits_bit13_div (w : Word) (v : Nat) : (putBits w 13 1 v).toNat / 2 ^ 32 = w.toNat / 2 ^ 32 := by
  have hw := w.isLt
  simp only [putBits, setBits, bits, BitVec.toNat_ofNat]
  omega
/-- Bit 13 written, the other bits stay. -/
theorem getLsbD_putBits_bit13 (w : Word) (v j : Nat) :
    (putBits w 13 1 v).getLsbD j = if j = 13 then v.testBit 0 else w.getLsbD j := by
  have hw := w.isLt
  have hval : (putBits w 13 1 v).toNat = 2 ^ 14 * (w.toNat / 2 ^ 14) + (2 ^ 13 * (v % 2) + w.toNat % 2 ^ 13) := by
    simp only [putBits, setBits, bits, BitVec.toNat_ofNat]
    omega
  have hlow : 2 ^ 13 * (v % 2) + w.toNat % 2 ^ 13 < 2 ^ 14 := by omega
  rw [BitVec.getLsbD, BitVec.getLsbD, hval, Nat.testBit_two_pow_mul_add _ hlow,
    Nat.testBit_two_pow_mul_add _ (Nat.mod_lt _ (by decide))]
  rcases Nat.lt_trichotomy j 13 with h | h | h
  · rw [if_pos (by omega), if_pos h, if_neg (by omega), Nat.testBit_mod_two_pow]
    simp [h]
  · subst h; simp [Nat.testBit_zero]
  · rw [if_neg (by omega), if_neg (by omega), Nat.testBit_div_two_pow]
    congr 1; omega

/-! ### The grant -/

/-- A window of a grant entry holds an access and grants its kind. -/
def Grant.windowHolds (g : Grant) (pa n bit j : Nat) : Bool :=
  let b := bits (Tab.get 0 g.w (1 + 2 * j)).toNat 0 49
  let l := bits (Tab.get 0 g.w (2 + 2 * j)).toNat 0 49
  decide (b ≤ l) && decide (b ≤ pa % 2 ^ 49) && decide (pa % 2 ^ 49 + n ≤ l + 1) &&
    decide (bits (Tab.get 0 g.w (1 + 2 * j)).toNat bit 1 = 1)
theorem Grant.admits_eq (g : Grant) (pa n : Nat) (k : AccKind) :
    g.admits pa n k = (decide (bits (Tab.get 0 g.w 0).toNat 0 1 = 1) && decide (bits (Tab.get 0 g.w 0).toNat 13 1 = 0) &&
      (List.range 3).any (g.windowHolds pa n (Claims.kindBit k))) := by
  cases k <;> rfl
theorem Grant.windowHolds_iff (g : Grant) {pa n : Nat} (hn : 0 < n) (bit j : Nat) :
    g.windowHolds pa n bit j = true ↔ (Tab.get 0 g.w (1 + 2 * j)).toNat % 2 ^ 49 ≤ pa % 2 ^ 49 ∧
      pa % 2 ^ 49 + n ≤ (Tab.get 0 g.w (2 + 2 * j)).toNat % 2 ^ 49 + 1 ∧
        (Tab.get 0 g.w (1 + 2 * j)).getLsbD bit = true := by
  have hlow (w : Word) : bits w.toNat 0 49 = w.toNat % 2 ^ 49 := by simp [bits]
  simp only [Grant.windowHolds, Bool.and_eq_true, decide_eq_true_eq, bits_one_eq_one_iff, hlow, and_assoc]
  exact ⟨fun h => h.2, fun h => ⟨by omega, h⟩⟩

/-- A grant entry admits what Table 13.2 says. -/
theorem Grant.admits_iff (g : Grant) {pa n : Nat} (hn : 0 < n) (k : AccKind) :
    g.admits pa n k = true ↔ Claims.grants g pa n (Claims.kindBit k) := by
  rw [Grant.admits_eq]
  simp only [Claims.grants, Bool.and_eq_true, decide_eq_true_eq, List.any_eq_true, List.mem_range, bits_one_eq_one_iff,
    bits_one_eq_zero_iff, Grant.windowHolds_iff _ hn, and_assoc]

/-- A request of another device is admitted as its grant says. -/
theorem State.peerAdmits_iff (s : State) {q : PeerReq} (hn : 0 < q.n) (hd : peerDev q ≠ devOf q.src) :
    s.peerAdmits q = true ↔ Claims.grants (s.grant (peerDev q) (devOf q.src)) q.pa q.n (Claims.kindBit q.kind) := by
  rw [← Grant.admits_iff _ hn]
  simp [State.peerAdmits, hd]

theorem State.grant_onGrant (s : State) (dev src : Nat) (f : Grant → Grant) :
    (s.onGrant dev src f).grant dev src = f (s.grant dev src) := by
  unfold State.grant State.onGrant
  rw [State.mod_onMod_self]
  exact Tab.get_put_self ..

/-- The first word of an entry that has counted a refusal. -/
theorem Grant.reject_word (g : Grant) :
    Tab.get 0 g.reject.w 0 = putBits (Tab.get 0 g.w 0) 32 32 (bits (Tab.get 0 g.w 0).toNat 32 32 + 1) :=
  Tab.get_put_self ..
/-- The first word of an entry whose fence has been set or cleared. -/
theorem Grant.setFence_word (g : Grant) (b : Bool) :
    Tab.get 0 (g.setFence b).w 0 = putBits (Tab.get 0 g.w 0) 13 1 (if b then 1 else 0) :=
  Tab.get_put_self ..
theorem Grant.getLsbD_setFence (g : Grant) (b : Bool) (i j : Nat) :
    (Tab.get 0 (g.setFence b).w i).getLsbD j = if i = 0 ∧ j = 13 then b else (Tab.get 0 g.w i).getLsbD j := by
  by_cases hi : i = 0
  · subst hi
    rw [Grant.setFence_word, getLsbD_putBits_bit13]
    cases b <;> simp
  · rw [if_neg (by omega)]
    exact congrArg (fun w : Word => w.getLsbD j) (Tab.get_put_ne _ _ _ hi)

theorem State.grant_log (s : State) (die cause : Nat) (ws : List Word) (dev src : Nat) :
    (s.log die cause ws).grant dev src = s.grant dev src := by
  have hm : (s.log die cause ws).mods = s.mods := rfl
  rw [State.grant, State.grant, State.mod, State.mod, hm]

/-- A refusal counts in the entry's first word and sets its fence (R277, R278). -/
theorem State.refuse_grant (s : State) (dev src pa : Nat) :
    (s.refuse dev src pa).grant dev src =
      if (Tab.get 0 (s.grant dev src).w 0).getLsbD 13 = true then (s.grant dev src).reject
      else (s.grant dev src).reject.setFence true := by
  unfold State.refuse
  simp only [decide_eq_true_eq, bits_one_eq_one_iff]
  split
  · exact s.grant_onGrant ..
  · rw [State.grant_log, State.grant_onGrant, State.grant_onGrant]
/-- It leaves memory and the slots alone. -/
theorem State.refuse_slots (s : State) (dev src pa : Nat) : (s.refuse dev src pa).slots = s.slots := by
  unfold State.refuse
  dsimp only
  split <;> rfl
/-- With the fence set, it is not logged again. -/
theorem State.refuse_dies (s : State) {dev src : Nat} (pa : Nat)
    (h : (Tab.get 0 (s.grant dev src).w 0).getLsbD 13 = true) : (s.refuse dev src pa).dies = s.dies := by
  unfold State.refuse
  simp only [decide_eq_true_eq, bits_one_eq_one_iff]
  rw [if_pos h]
  rfl
theorem bits_upper (w : Word) : bits w.toNat 32 32 = w.toNat / 2 ^ 32 := by
  have hw := w.isLt
  simp only [bits]
  omega
theorem Grant.reject_upper (g : Grant) :
    (Tab.get 0 g.reject.w 0).toNat / 2 ^ 32 = ((Tab.get 0 g.w 0).toNat / 2 ^ 32 + 1) % 2 ^ 32 := by
  rw [Grant.reject_word, putBits_upper_div, bits_upper]
theorem Grant.reject_bit13 (g : Grant) :
    (Tab.get 0 g.reject.w 0).getLsbD 13 = (Tab.get 0 g.w 0).getLsbD 13 := by
  rw [Grant.reject_word, ← Bool.coe_iff_coe, ← bits_one_eq_one_iff, ← bits_one_eq_one_iff]
  generalize bits (Tab.get 0 g.w 0).toNat 32 32 + 1 = v
  have hw := (Tab.get 0 g.w 0).isLt
  simp only [putBits, setBits, bits, BitVec.toNat_ofNat]
  omega
theorem State.refuse_bit13 (s : State) (dev src pa : Nat) :
    (Tab.get 0 ((s.refuse dev src pa).grant dev src).w 0).getLsbD 13 = true := by
  rw [State.refuse_grant]
  split
  next h => rw [Grant.reject_bit13, h]
  next => rw [Grant.getLsbD_setFence]; rfl
theorem State.refuse_upper (s : State) (dev src pa : Nat) :
    (Tab.get 0 ((s.refuse dev src pa).grant dev src).w 0).toNat / 2 ^ 32 =
      ((Tab.get 0 (s.grant dev src).w 0).toNat / 2 ^ 32 + 1) % 2 ^ 32 := by
  rw [State.refuse_grant]
  split
  · exact Grant.reject_upper _
  · rw [Grant.setFence_word, putBits_bit13_div, Grant.reject_upper]

/-! ### The home -/

/-- What a store leaves in memory depends on memory and the slot regions alone. -/
theorem State.storeHome_mem_congr {s u : State} (hm : s.mem = u.mem) (hc : s.clusters = u.clusters) (ck pa n v : Nat) :
    (s.storeHome ck pa n v).mem = (u.storeHome ck pa n v).mem := by
  have hcl (c : Nat) : s.cluster c = u.cluster c := by rw [State.cluster, State.cluster, hc]
  unfold State.storeHome State.storeTail
  dsimp only
  split
  · exact hm
  · split
    · rw [hcl]
      split
      · simpa using hm
      · simp [hm]
    · simp [hm]
    · simp [hm]
theorem State.repairRow_frame (s : State) (pa : Nat) : ∃ y d, s.repairRow pa = { s with syms := y, dies := d } := by
  unfold State.repairRow
  dsimp only
  split
  · split
    · exact ⟨_, _, rfl⟩
    · exact ⟨_, _, rfl⟩
  · exact ⟨_, _, rfl⟩
theorem State.repairRows_clusters (s : State) (pa n : Nat) : (s.repairRows pa n).clusters = s.clusters := by
  unfold State.repairRows
  split
  · rfl
  next h =>
    clear h
    generalize List.range ((pa % 256 + n + 255) / 256) = l
    induction l generalizing s with
    | nil => rfl
    | cons i l ih =>
      obtain ⟨y, d, h⟩ := s.repairRow_frame (pa / 256 * 256 + 256 * i)
      rw [List.foldl_cons, h]
      exact ih _
theorem State.serveSpan_frame (s : State) (pa n : Nat) :
    ∃ m y d, s.serveSpan pa n = { s with mods := m, syms := y, dies := d } := by
  unfold State.serveSpan
  obtain ⟨m, y, d, h⟩ := s.serve_frame pa true
  dsimp only
  rw [h]
  split
  · exact ⟨_, _, _, rfl⟩
  · obtain ⟨m', y', d', h'⟩ := ({ s with mods := m, syms := y, dies := d } : State).serve_frame (pa + n - 1) true
    exact ⟨m', y', d', h'⟩
theorem State.serveSpan_holds (s : State) (pa n : Nat) (q : PeerReq) : (s.serveSpan pa n).holds q = s.holds q := by
  obtain ⟨m, y, d, h⟩ := s.serveSpan_frame pa n
  rw [h]
  rfl

/-- A load of a wick that waits for its answer is answered with its home's value. -/
theorem State.perform_load {s : State} {q : PeerReq} (ck : Nat) (hk : q.kind = .load) (hfl : q.flight = none)
    (hh : s.holds q = true) (hf : s.readFault q.pa q.n = none) :
    s.perform ck q = (s.serveSpan q.pa q.n).post
      (.accessComplete q.src q.dst (landValue q.dst q.n (s.loadHome q.pa q.n))) := by
  unfold State.perform State.answer
  rw [hk, hf, hfl]
  simp [State.serveSpan_holds, hh]
/-- A store without an error is written at its home. -/
theorem State.perform_store_mem {s : State} {q : PeerReq} (ck : Nat) (hk : q.kind = .store)
    (he : s.writeError q.pa q.n = none) : (s.perform ck q).mem = (s.storeHome ck q.pa q.n q.v).mem := by
  obtain ⟨m, y, d, h⟩ := s.serveSpan_frame q.pa q.n
  have hp : s.perform ck q = (s.serveSpan q.pa q.n).storeHome ck q.pa q.n q.v := by
    simp only [State.perform, State.storeReq, hk, he]
  rw [hp, h]
  exact State.storeHome_mem_congr (s := { s with mods := m, syms := y, dies := d }) (u := s) rfl rfl ..

/-- A request queued for its word stands last in the word's queue. -/
theorem State.reserve_queued (s : State) (dev : Nat) (q : PeerReq) :
    ∃ r ∈ (s.reserve dev q).resv, r.word = (s.reservedWord q.pa q.n).getD (q.pa / 8) ∧ r.q.getLast? = some q := by
  unfold State.reserve
  split
  next w hw =>
    obtain ⟨e, he, hew⟩ := List.mem_map.mp (List.mem_of_find?_eq_some hw)
    refine ⟨{ e with q := e.q ++ [q] }, List.mem_map.mpr ⟨e, he, if_pos hew⟩, ?_, List.getLast?_concat⟩
    rw [hw]
    exact hew
  next hw =>
    refine ⟨⟨resvWord q.pa, [q]⟩, List.mem_append_right _ (List.mem_singleton.mpr rfl), ?_, rfl⟩
    rw [hw]
    rfl

/-- The first of the requests that an engine's bytes make at the memory controllers. -/
theorem lanternReqs_head {q : PeerReq} (hn : 0 < q.n) :
    ∃ r, Event.lanternRequest (peerDev q) (bits q.pa 44 5) (bits q.pa 9 3) r ∈ lanternReqs q ∧
      r.pa = q.pa ∧ r.store = true := by
  have hne : natLe q.v q.n ≠ [] := by
    cases hq : q.n with
    | zero => omega
    | succ n => simp [natLe]
  have hcut : (q.pa, (natLe q.v q.n).take (512 - q.pa % 512)) ∈ cutGranules q.pa 3 (natLe q.v q.n) := by
    rw [cutGranules]
    simp [hne]
  exact ⟨_, List.mem_map.mpr ⟨_, hcut, rfl⟩, rfl, rfl⟩

/-! ### The request -/

section
variable {s : State} {q : PeerReq}

theorem State.peerArrives_refused (h : ¬ s.peerAdmits q = true) :
    s.peerArrives q = (s.refuse (peerDev q) (devOf q.src) q.pa).post (.peerRefusal q) :=
  if_pos (Bool.eq_false_of_not_eq_true h)
theorem State.peerArrives_admitted (h : s.peerAdmits q = true) : s.peerArrives q = s.peerLands q :=
  if_neg (by simp [h])
theorem State.peerLands_ok (h : s.home (2 ^ 30) q.pa = .ok) : s.peerLands q = s.peerPerform q := by
  simp only [State.peerLands, h]
theorem State.peerLands_held (h : s.home (2 ^ 30) q.pa = .held) :
    s.peerLands q = s.onDie (dieKey (peerDev q) (bits q.pa 44 5)) (fun x => { x with router := x.router ++ [q] }) := by
  simp only [State.peerLands, h]

theorem homeCluster_peer {d : Nat} (hd : d ≠ devOf q.src) : homeCluster d q = 2 ^ 30 := if_neg (Ne.symm hd)

/-- A load that is admitted is answered at once. -/
theorem State.peerPerform_load (hk : q.kind = .load) (hfl : q.flight = none) (hh : s.holds q = true)
    (hf : s.readFault q.pa q.n = none) :
    Event.accessComplete q.src q.dst (landValue q.dst q.n (s.loadHome q.pa q.n)) ∈ (s.peerPerform q).agenda ∧
      (s.peerPerform q).mem = s.mem := by
  have hp : s.peerPerform q = s.perform (homeCluster (peerDev q) q) q := by simp only [State.peerPerform, hk]
  rw [hp, State.perform_load _ hk hfl hh hf]
  refine ⟨List.mem_append_right _ (List.mem_singleton.mpr rfl), ?_⟩
  obtain ⟨m, y, d, h⟩ := s.serveSpan_frame q.pa q.n
  rw [h]
  rfl
theorem isEngineReq_iff (hk : q.kind = .store) : isEngineReq q = true ↔ q.v2 = 2 ∨ q.v2 = 3 := by
  simp [isEngineReq, hk]

/-- A store that is admitted is written at once and acknowledged. -/
theorem State.peerPerform_store (hk : q.kind = .store) (hd : peerDev q ≠ devOf q.src)
    (h : q.v2 ≠ 2 ∧ q.v2 ≠ 3 ∧ s.reserved q.pa q.n = false ∨ (q.v2 = 2 ∨ q.v2 = 3) ∧ isDram q.pa = false)
    (he : s.writeError q.pa q.n = none) :
    Event.peerAck q ∈ (s.peerPerform q).agenda ∧
      (s.peerPerform q).mem = (s.storeHome (2 ^ 30) q.pa q.n q.v).mem := by
  rcases h with ⟨h2, h3, hr⟩ | ⟨h23, hdr⟩
  · have hne : isEngineReq q = false := Bool.eq_false_of_not_eq_true (by rw [isEngineReq_iff hk]; omega)
    have hp : s.peerPerform q = (s.perform (2 ^ 30) q).post (.peerAck q) := by
      rw [← homeCluster_peer hd]
      simp [State.peerPerform, hk, hne, hr]
    rw [hp]
    exact ⟨List.mem_append_right _ (List.mem_singleton.mpr rfl), State.perform_store_mem _ hk he⟩
  · have hen : isEngineReq q = true := (isEngineReq_iff hk).mpr h23
    have hp : s.peerPerform q = ((s.repairRows q.pa q.n).storeHome (2 ^ 30) q.pa q.n q.v).post (.peerAck q) := by
      rw [← homeCluster_peer hd]
      simp [State.peerPerform, hk, hen, he, hdr]
    rw [hp]
    exact ⟨List.mem_append_right _ (List.mem_singleton.mpr rfl),
      State.storeHome_mem_congr (s.repairRows_mem ..) (s.repairRows_clusters ..) ..⟩
/-- Bytes of an engine's operation for a Lantern go to its controllers. -/
theorem State.peerPerform_engineDram (hk : q.kind = .store) (hn : 0 < q.n) (h23 : q.v2 = 2 ∨ q.v2 = 3)
    (hdr : isDram q.pa = true) (he : s.writeError q.pa q.n = none) :
    Event.peerAck q ∈ (s.peerPerform q).agenda ∧ (s.peerPerform q).mem = s.mem ∧
      ∃ r, Event.lanternRequest (peerDev q) (bits q.pa 44 5) (bits q.pa 9 3) r ∈ (s.peerPerform q).agenda ∧
        r.pa = q.pa ∧ r.store = true := by
  have hen : isEngineReq q = true := (isEngineReq_iff hk).mpr h23
  have hp : s.peerPerform q = (s.postAll (lanternReqs q)).post (.peerAck q) := by
    simp [State.peerPerform, hk, hen, he, hdr]
  obtain ⟨r, hr, hpa, hst⟩ := lanternReqs_head hn
  rw [hp]
  exact ⟨List.mem_append_right _ (List.mem_singleton.mpr rfl), rfl, r,
    List.mem_append_left _ (List.mem_append_right _ hr), hpa, hst⟩
theorem State.peerPerform_atomicDram {op dev so off : Nat} (hk : q.kind = .atomic op) (hr : region q.pa = .dram dev so off) :
    s.peerPerform q = s.post (.lanternAtomic dev so (bits off 9 3) q) := by
  simp only [State.peerPerform, hk, hr]
theorem State.peerPerform_atomicQueued {op : Nat} (hk : q.kind = .atomic op) (hdr : isDram q.pa = false) :
    s.peerPerform q = s.reserve (peerDev q) q := by
  simp only [State.peerPerform, hk]
  split
  next h => exact absurd h (region_ne_dram hdr _ _ _)
  next => rfl
theorem State.peerPerform_atomic_mem {op : Nat} (hk : q.kind = .atomic op) : (s.peerPerform q).mem = s.mem := by
  simp only [State.peerPerform, hk]
  split
  · rfl
  · exact State.reserve_mem ..

/-- A request that the grant table refuses (R277, R278). -/
theorem exec_peerAccess_refused (hn : 0 < q.n) (hd : peerDev q ≠ devOf q.src)
    (h : ¬ Claims.grants (s.grant (peerDev q) (devOf q.src)) q.pa q.n (Claims.kindBit q.kind)) :
    exec .peerAccess (s.given (.peerAccess q)) =
      .next (((s.given (.peerAccess q)).refuse (peerDev q) (devOf q.src) q.pa).post (.peerRefusal q)) :=
  congrArg _ (State.peerArrives_refused (s := s.given (.peerAccess q)) fun ha =>
    h ((State.peerAdmits_iff (s.given (.peerAccess q)) hn hd).mp ha))
/-- A request that it admits (R277). -/
theorem exec_peerAccess_admitted (hn : 0 < q.n) (hd : peerDev q ≠ devOf q.src)
    (h : Claims.grants (s.grant (peerDev q) (devOf q.src)) q.pa q.n (Claims.kindBit q.kind)) :
    exec .peerAccess (s.given (.peerAccess q)) = .next ((s.given (.peerAccess q)).peerLands q) :=
  congrArg _ (State.peerArrives_admitted ((State.peerAdmits_iff (s.given (.peerAccess q)) hn hd).mpr h))

end
end Sys2Proof.Machine
end

section
/-!
SUPPORT. What comes back to a peer access's source: acknowledgements, refusals and fence markers (R173, R227, R229, R278,
R285).
-/

namespace Sys2Proof.Machine

/-! ### Waits that end -/

section
variable (s : State) (dev j : Nat) (w : Wait)

theorem State.slot_wakeDev : (s.wakeDev dev w).slot j =
    if devOf j = dev ∧ (s.slot j).wait = w then { s.slot j with wait := .none } else s.slot j :=
  Tab.get_mapVals _ _ j s.slots (by split <;> rfl)
@[simp] theorem State.wakeDev_peerOut : ((s.wakeDev dev w).slot j).peerOut = (s.slot j).peerOut := by
  rw [State.slot_wakeDev]; split <;> rfl
@[simp] theorem State.wakeDev_latch : ((s.wakeDev dev w).slot j).latch = (s.slot j).latch := by
  rw [State.slot_wakeDev]; split <;> rfl
@[simp] theorem State.wakeDev_holds (q : PeerReq) : (s.wakeDev dev w).holds q = s.holds q := by
  unfold State.holds
  rw [State.slot_wakeDev]; split <;> rfl
theorem State.wakeDev_wait_none (h : (s.slot j).wait = .none) : ((s.wakeDev dev w).slot j).wait = .none := by
  rw [State.slot_wakeDev]
  split
  · rfl
  · exact h
theorem State.wakeDev_wait_self (h : (s.slot j).wait = w) : ((s.wakeDev (devOf j) w).slot j).wait = .none := by
  rw [State.slot_wakeDev, if_pos ⟨rfl, h⟩]

end

/-! ### A store that is no longer outstanding -/

/-- The slots' part of `storeSettled`: the number is struck out, and the waits for it end. -/
def State.storeStruck (s : State) (q : PeerReq) : State :=
  (((s.onSlot q.src (fun x => { x with peerOut := x.peerOut.erase ⟨peerDev q, q.num⟩ })).wakeDev (devOf q.src) .acks).wakeDev
    (devOf q.src) .performing).wakeDev (devOf q.src) .tlb

section
variable (s : State) (q : PeerReq)

theorem State.storeSettled_eq : s.storeSettled q =
    if q.flight.isSome = true then (s.storeStruck q).answer { q with dst := .none } 0
    else if q.v2 = 1 then (s.storeStruck q).answer { q with dst := .none } 0 else s.storeStruck q := rfl

/-- An answer is a message. -/
theorem State.answer_frame (v : Nat) : ∃ es, s.answer q v = s.postAll es := by
  unfold State.answer
  split
  · exact ⟨[_], rfl⟩
  · split
    · exact ⟨[_], rfl⟩
    · exact ⟨[], by simp [State.postAll]⟩
/-- A plain access of a wick in its slot is answered there. -/
theorem State.answer_holds {v : Nat} (hf : q.flight = none) (hh : s.holds q = true) :
    s.answer q v = s.post (.accessComplete q.src q.dst (landValue q.dst q.n v)) := by
  simp [State.answer, hf, hh]
theorem State.storeSettled_frame : ∃ es, s.storeSettled q = (s.storeStruck q).postAll es := by
  rw [State.storeSettled_eq]
  split
  · exact State.answer_frame ..
  · split
    · exact State.answer_frame ..
    · exact ⟨[], by simp [State.postAll]⟩

@[simp] theorem State.storeStruck_peerOut :
    ((s.storeStruck q).slot q.src).peerOut = (s.slot q.src).peerOut.erase ⟨peerDev q, q.num⟩ := by
  simp only [State.storeStruck, State.wakeDev_peerOut, State.slot_onSlot_self]
@[simp] theorem State.storeStruck_latch : ((s.storeStruck q).slot q.src).latch = (s.slot q.src).latch := by
  simp only [State.storeStruck, State.wakeDev_latch, State.slot_onSlot_self]
@[simp] theorem State.storeStruck_holds : (s.storeStruck q).holds q = s.holds q := by
  rw [State.storeStruck, State.wakeDev_holds, State.wakeDev_holds, State.wakeDev_holds, State.holds, State.holds,
    State.slot_onSlot_self]
theorem State.storeStruck_wait (h : (s.slot q.src).wait = .acks) : ((s.storeStruck q).slot q.src).wait = .none := by
  unfold State.storeStruck
  refine State.wakeDev_wait_none _ _ _ _ (State.wakeDev_wait_none _ _ _ _ (State.wakeDev_wait_self _ _ _ ?_))
  rw [State.slot_onSlot_self]
  exact h

theorem State.storeSettled_slot (j : Nat) : (s.storeSettled q).slot j = (s.storeStruck q).slot j := by
  obtain ⟨es, h⟩ := s.storeSettled_frame q
  rw [h]
  rfl
@[simp] theorem State.storeSettled_mod (d : Nat) : (s.storeSettled q).mod d = s.mod d := by
  obtain ⟨es, h⟩ := s.storeSettled_frame q
  rw [h]
  rfl
@[simp] theorem State.storeSettled_core (k : Nat) : (s.storeSettled q).core k = s.core k := by
  obtain ⟨es, h⟩ := s.storeSettled_frame q
  rw [h]
  rfl
theorem State.mem_storeSettled_agenda {e : Event} (h : e ∈ s.agenda) : e ∈ (s.storeSettled q).agenda := by
  obtain ⟨es, heq⟩ := s.storeSettled_frame q
  rw [heq]
  exact List.mem_append_left _ h
/-- A release store to a peer has its answer (R163). -/
theorem State.storeSettled_release (hv : q.v2 = 1) (hf : q.flight = none) (hh : s.holds q = true) :
    ∃ v, Event.accessComplete q.src .none v ∈ (s.storeSettled q).agenda := by
  rw [State.storeSettled_eq, if_neg (by simp [hf]), if_pos hv,
    State.answer_holds (s.storeStruck q) { q with dst := .none } hf ((s.storeStruck_holds q).trans hh)]
  exact ⟨_, List.mem_append_right _ (List.mem_singleton.mpr rfl)⟩

end

/-! ### An operation's bytes -/

theorem Cluster.op_id {c : Cluster} {id : Nat} {o : EngOp} (h : c.op id = some o) : o.id = id := by
  have hp := List.find?_some h
  exact of_decide_eq_true hp
/-- The operation after a change that keeps its number. -/
theorem Cluster.op_onOp (c : Cluster) (id : Nat) {f : EngOp → EngOp} (hf : ∀ o, (f o).id = o.id) :
    (c.onOp id f).op id = (c.op id).map f := by
  unfold Cluster.op Cluster.onOp Cluster.mapOps
  dsimp only
  induction c.ops with
  | nil => rfl
  | cons o l ih =>
    by_cases ho : o.id = id
    · simp [ho, hf]
    · simpa [ho] using ih
theorem State.cluster_onCluster (s : State) (k : Nat) (f : Cluster → Cluster) :
    (s.onCluster k f).cluster k = f (s.cluster k) :=
  Tab.get_put_self ..
theorem State.op_onOp (s : State) (k id : Nat) {f : EngOp → EngOp} (hf : ∀ o, (f o).id = o.id) :
    ((s.onOp k id f).cluster k).op id = ((s.cluster k).op id).map f := by
  rw [State.onOp, State.cluster_onCluster, Cluster.op_onOp _ _ hf]

/-- The bytes that an operation waits for and those that it has moved. -/
def EngOp.counts (o : EngOp) : Nat × Nat := (o.acks, o.bytes)
/-- The end of an operation leaves its counts. -/
theorem State.op_opEnd (s : State) (k id : Nat) :
    (((s.opEnd k id).cluster k).op id).map EngOp.counts = ((s.cluster k).op id).map EngOp.counts := by
  unfold State.opEnd
  split
  · rfl
  · split
    · exact (congrArg (Option.map EngOp.counts) (s.op_onOp k id (f := fun o => { o with ended := true }) fun _ => rfl)).trans
        (by rw [Option.map_map]; rfl)
    · rfl

/-- An engine's acknowledged bytes are counted, and no longer waited for (R285). -/
theorem State.acknowledged_op {s : State} {q : PeerReq} {o : EngOp} (hk : q.kind = .store) (h23 : q.v2 = 2 ∨ q.v2 = 3)
    (ho : (s.cluster (clusterOf q.src)).op (q.flight.getD 0) = some o) (he : o.eq = 2) (hv : o.vigil = none) :
    (((s.acknowledged q).cluster (clusterOf q.src)).op o.id).map EngOp.counts =
      some (o.acks - opBytes q, o.bytes + opBytes q) := by
  have hen : isEngineReq q = true := (isEngineReq_iff hk).mpr h23
  have hid : o.id = q.flight.getD 0 := Cluster.op_id ho
  have hr : s.reqOp q = some o := ho
  have hack : s.acknowledged q =
      (s.onOp (clusterOf q.src) (q.flight.getD 0) (fun o => { o with bytes := o.bytes + opBytes q })).bytesSettled q := by
    simp [State.acknowledged, hen, hr, he, State.performed, hv, hid]
  have hend := State.op_opEnd ((s.onOp (clusterOf q.src) (q.flight.getD 0)
    (fun o => { o with bytes := o.bytes + opBytes q })).onReqOp q
      (fun o => { o with acks := o.acks - opBytes q })) (clusterOf q.src) (q.flight.getD 0)
  rw [hack, hid]
  refine hend.trans ?_
  rw [State.onReqOp, State.op_onOp _ _ _ (by intro; rfl), State.op_onOp _ _ _ (by intro; rfl), ho]
  rfl

/-- A thread's acknowledgement (R173). -/
theorem State.acknowledged_store {s : State} {q : PeerReq} (h2 : q.v2 ≠ 2) (h3 : q.v2 ≠ 3) :
    s.acknowledged q = s.storeSettled q := by
  have hne : isEngineReq q = false := by simp [isEngineReq, h2, h3]
  simp [State.acknowledged, hne]

/-! ### Refusals -/

section
variable (s : State) (dev dst n : Nat)

/-- The refusals of a source module by a destination, not yet settled. -/
def State.owing (s : State) (dev dst : Nat) : Nat := Tab.get 0 (s.mod dev).refusals dst

@[simp] theorem State.owing_countRefusal : (s.countRefusal dev dst).owing dev dst = s.owing dev dst + 1 := by
  unfold State.owing State.countRefusal
  rw [State.mod_onMod_self]
  exact Tab.get_put_self ..
/-- A refusal that is settled as it arrives, and the fence marker that follows the last (R278). -/
theorem State.settleRefusal_one (h : s.owing dev dst ≠ 0) :
    (s.settleRefusal dev dst 1).owing dev dst = s.owing dev dst - 1 ∧
      (s.owing dev dst = 1 → Event.fenceMarker dst dev ∈ (s.settleRefusal dev dst 1).agenda) := by
  have hput : (s.onMod dev (fun m => { m with refusals := Tab.put dst (s.owing dev dst - 1) m.refusals })).owing dev dst =
      s.owing dev dst - 1 := by
    unfold State.owing
    rw [State.mod_onMod_self]
    exact Tab.get_put_self ..
  have hs : s.settleRefusal dev dst 1 =
      if s.owing dev dst ≤ 1 then
        (s.onMod dev (fun m => { m with refusals := Tab.put dst (s.owing dev dst - 1) m.refusals })).post
          (.fenceMarker dst dev)
      else s.onMod dev (fun m => { m with refusals := Tab.put dst (s.owing dev dst - 1) m.refusals }) :=
    if_neg (by rintro (h1 | h0); exacts [absurd h1 (by decide), h h0])
  rw [hs]
  split
  · exact ⟨hput, fun _ => List.mem_append_right _ (List.mem_singleton.mpr rfl)⟩
  next hle => exact ⟨hput, fun h1 => absurd (Nat.le_of_eq h1) hle⟩
/-- Settling a refusal leaves slots and cores alone. -/
theorem State.settleRefusal_frame : ∃ m a, s.settleRefusal dev dst n = { s with mods := m, agenda := a } := by
  unfold State.settleRefusal
  dsimp only
  split
  · exact ⟨_, _, rfl⟩
  · split
    · exact ⟨_, _, rfl⟩
    · exact ⟨_, _, rfl⟩
theorem State.postIrq_pending (k cause : Nat) (v : Word) :
    (Tab.find? cause ((s.postIrq k cause v).core k).irq).isSome = true := by
  unfold State.postIrq
  rw [State.core_onCore_self]
  split
  next h => exact h
  next => rw [Tab.find?_put_self]; rfl

end

section
variable {s : State} {q : PeerReq}

/-- A refusal of a thread's access is counted and recorded; what follows leaves the count, the latch and the cores. -/
theorem State.refused_thread (h : isEngineReq q = false) :
    s.refused q =
      if q.kind = .store then ((s.countRefusal (devOf q.src) (peerDev q)).recordRefusal q).storeSettled q
      else ((s.countRefusal (devOf q.src) (peerDev q)).recordRefusal q).answer q 0 := by
  simp [State.refused, h]
/-- What follows the record of a refusal. -/
theorem State.refused_after (h : isEngineReq q = false) :
    let u := (s.countRefusal (devOf q.src) (peerDev q)).recordRefusal q
    (s.refused q).mods = u.mods ∧ (s.refused q).cores = u.cores ∧ ((s.refused q).slot q.src).latch = (u.slot q.src).latch ∧
      ∀ e ∈ u.agenda, e ∈ (s.refused q).agenda := by
  intro u
  rw [State.refused_thread h]
  split
  · obtain ⟨es, hes⟩ := u.storeSettled_frame q
    refine ⟨?_, ?_, ?_, fun e he => u.mem_storeSettled_agenda q he⟩
    · rw [hes]; rfl
    · rw [hes]; rfl
    · rw [State.storeSettled_slot, State.storeStruck_latch]
  · obtain ⟨es, hes⟩ := u.answer_frame q 0
    rw [hes]
    exact ⟨rfl, rfl, rfl, fun e he => List.mem_append_left _ he⟩

/-- The wick in its slot: the refusal is recorded in the latch (R227). -/
theorem State.recordRefusal_holds (hh : s.holds q = true) :
    s.recordRefusal q = s.onSlot q.src (fun x => x.latchFault q.pc (peerDev q)) := if_pos hh
theorem Slot.latch_latchFault (x : Slot) (pc : Word) (d : Nat) : (x.latchFault pc d).latch = (match x.latch with
    | none => some ⟨pc, d, false, [d]⟩
    | some l => some ⟨l.pc, l.dev, true, l.owed ++ [d]⟩) := by
  unfold Slot.latchFault
  cases x.latch <;> rfl

/-- The log and the service core have the refusal of a wick that has left (R229). -/
def State.refusalPosted (s : State) (q : PeerReq) : State :=
  (s.log (dieOf q.src) 0xC5 [Deferred.value ⟨q.pc, peerDev q, false, []⟩, BitVec.ofNat 64 q.asid]).postIrq
    (dieOf q.src * 1024 + 15) 0xC5 (Deferred.value ⟨q.pc, peerDev q, false, []⟩)
theorem State.recordRefusal_gone (hh : s.holds q = false) :
    s.recordRefusal q = (s.refusalPosted q).settleRefusal (devOf q.src) (peerDev q) 1 := if_neg (by simp [hh])

/-- A recorded refusal of a wick in its slot. -/
theorem State.refused_holds (he : isEngineReq q = false) (hh : s.holds q = true) :
    (s.refused q).owing (devOf q.src) (peerDev q) = s.owing (devOf q.src) (peerDev q) + 1 ∧
      ((s.refused q).slot q.src).latch = (match (s.slot q.src).latch with
        | none => some ⟨q.pc, peerDev q, false, [peerDev q]⟩
        | some l => some ⟨l.pc, l.dev, true, l.owed ++ [peerDev q]⟩) := by
  obtain ⟨hm, _, hl, _⟩ := State.refused_after (s := s) he
  rw [State.recordRefusal_holds (s := s.countRefusal _ _) hh] at hm hl
  constructor
  · rw [State.owing, State.mod, hm]
    exact s.owing_countRefusal ..
  · rw [hl, State.slot_onSlot_self, Slot.latch_latchFault]
    rfl
/-- A load or an atomic that is refused is answered with 0 (R278). -/
theorem State.refused_answer (hk : q.kind ≠ .store) (hf : q.flight = none) (hh : s.holds q = true) :
    Event.accessComplete q.src q.dst 0 ∈ (s.refused q).agenda := by
  have he : isEngineReq q = false := by simp [isEngineReq, hk]
  have hu : ((s.countRefusal (devOf q.src) (peerDev q)).recordRefusal q).holds q = true := by
    rw [State.recordRefusal_holds (s := s.countRefusal _ _) hh, State.holds, State.slot_onSlot_self]
    unfold Slot.latchFault
    cases hl : ((s.countRefusal (devOf q.src) (peerDev q)).slot q.src).latch <;> exact hh
  have hland : landValue q.dst q.n 0 = 0 := by cases q.dst <;> simp [landValue, bfWiden]
  rw [State.refused_thread he, if_neg hk, State.answer_holds _ _ hf hu, hland]
  exact List.mem_append_right _ (List.mem_singleton.mpr rfl)
/-- The refusal of a wick that has left is logged, posted and settled (R229). -/
theorem State.refused_gone (he : isEngineReq q = false) (hh : s.holds q = false) :
    (s.refused q).owing (devOf q.src) (peerDev q) = s.owing (devOf q.src) (peerDev q) ∧
      (s.owing (devOf q.src) (peerDev q) = 0 → Event.fenceMarker (peerDev q) (devOf q.src) ∈ (s.refused q).agenda) ∧
      ((s.refused q).slot q.src).latch = (s.slot q.src).latch ∧
      (Tab.find? 0xC5 ((s.refused q).core (dieOf q.src * 1024 + 15)).irq).isSome = true := by
  obtain ⟨hm, hc, hl, ha⟩ := State.refused_after (s := s) he
  have hown : ((s.countRefusal (devOf q.src) (peerDev q)).refusalPosted q).owing (devOf q.src) (peerDev q) =
      s.owing (devOf q.src) (peerDev q) + 1 := s.owing_countRefusal ..
  obtain ⟨hset, hmark⟩ := ((s.countRefusal (devOf q.src) (peerDev q)).refusalPosted q).settleRefusal_one (devOf q.src)
    (peerDev q) (by omega)
  obtain ⟨m, a, hfr⟩ := ((s.countRefusal (devOf q.src) (peerDev q)).refusalPosted q).settleRefusal_frame (devOf q.src)
    (peerDev q) 1
  rw [State.recordRefusal_gone (s := s.countRefusal _ _) hh] at hm hc hl ha
  refine ⟨?_, fun h0 => ha _ (hmark (by omega)), ?_, ?_⟩
  · rw [State.owing, State.mod, hm]
    exact hset.trans (by omega)
  · rw [hl, hfr]
    rfl
  · rw [State.core, hc, hfr]
    exact State.postIrq_pending ..
/-- A refused store is no longer outstanding. -/
theorem State.refused_peerOut (he : isEngineReq q = false) (hk : q.kind = .store) :
    ((s.refused q).slot q.src).peerOut = (s.slot q.src).peerOut.erase ⟨peerDev q, q.num⟩ := by
  have hrec (u : State) : ((u.recordRefusal q).slot q.src).peerOut = (u.slot q.src).peerOut := by
    cases hu : u.holds q with
    | true =>
      rw [State.recordRefusal_holds hu, State.slot_onSlot_self]
      unfold Slot.latchFault
      split <;> rfl
    | false =>
      obtain ⟨m, a, hfr⟩ := (u.refusalPosted q).settleRefusal_frame (devOf q.src) (peerDev q) 1
      rw [State.recordRefusal_gone hu, hfr]
      rfl
  rw [State.refused_thread he, if_pos hk, State.storeSettled_slot, State.storeStruck_peerOut, hrec]
  rfl

end
end Sys2Proof.Machine
end

section
/-!
SUPPORT. A peer leaves (R279): what becomes of the accesses outstanding there.
-/

namespace Sys2Proof.Machine

/-! ### The upcall of an access that is given up -/

/-- What decides the way of an exception is as it was: the mode, the upcall vector and the user's pc word. -/
structure Slot.SameVectors (x y : Slot) : Prop where
  kind : y.kind = x.kind
  uvec : y.uvec = x.uvec
  uepc : y.uepc = x.uepc

theorem Slot.SameVectors.refl (x : Slot) : x.SameVectors x := ⟨rfl, rfl, rfl⟩
theorem Slot.SameVectors.trans {x y z : Slot} (h : x.SameVectors y) (h' : y.SameVectors z) : x.SameVectors z :=
  ⟨h'.kind.trans h.kind, h'.uvec.trans h.uvec, h'.uepc.trans h.uepc⟩
theorem Slot.Woken.sameVectors {x y : Slot} (h : x.Woken y) : x.SameVectors y := by
  rcases h with rfl | rfl
  · exact .refl _
  · exact ⟨rfl, rfl, rfl⟩
theorem Slot.SameVectors.upcallOk {x y : Slot} (h : x.SameVectors y) : y.upcallOk = x.upcallOk := by
  rw [Slot.upcallOk, Slot.upcallOk, Slot.user, Slot.user, h.kind, h.uvec, h.uepc]
theorem Slot.sameVectors_foldl {α : Type} {f : Slot → α → Slot} (hf : ∀ (y : Slot) a, y.SameVectors (f y a)) (l : List α)
    (x : Slot) : x.SameVectors (l.foldl f x) := by
  induction l generalizing x with
  | nil => exact .refl x
  | cons a l ih => exact (hf x a).trans (ih _)
/-- One vector register and its dead mark put back. -/
def Slot.putBack (u : Undo) (y : Slot) (p : Nat × VWord) : Slot :=
  { y with
    v := Tab.set 0 y.v p.1 p.2
    dead := (y.dead &&& ~~~(BitVec.ofNat 64 (2 ^ (16 + p.1)))) ||| (u.dead &&& BitVec.ofNat 64 (2 ^ (16 + p.1))) }
theorem Slot.undone_eq {x : Slot} {u : Undo} (h : x.undo = some u) :
    x.undone = { u.regs.foldl (Slot.putBack u) x with pred := u.pred, oob := u.oob, undo := none } := by
  unfold Slot.undone
  rw [h]
  rfl
theorem Slot.sameVectors_undone (x : Slot) : x.SameVectors x.undone := by
  cases h : x.undo with
  | none =>
    rw [show x.undone = x by rw [Slot.undone, h]]
    exact .refl x
  | some u =>
    rw [Slot.undone_eq h]
    exact (Slot.sameVectors_foldl (f := Slot.putBack u) (fun _ _ => ⟨rfl, rfl, rfl⟩) u.regs x).trans ⟨rfl, rfl, rfl⟩

/-- Giving up what an instruction holds leaves its slot's vectors. -/
theorem State.sameVectors_giveUp (s : State) (k : Nat) : (s.slot k).SameVectors ((s.giveUp k).slot k) := by
  unfold State.giveUp
  rw [State.slot_onSlot_self]
  have h := ((((s.confined_dropTurns (k + 1) k).trans (State.confined_undoSlots _ _ k)).trans
    (State.confined_undoTaper _ _ k)).trans
    (State.confined_undoCx (k + 1) _ k)).trans (State.confined_endReservation (k + 1) _ k fun l =>
      l.map (fun e => if e.slot = some k then { e with slot := none } else e))
  exact (h.others k (Nat.ne_of_lt k.lt_succ_self)).sameVectors.trans ⟨rfl, rfl, rfl⟩

/-- An exception that a user's thread handles itself (R221, R222). -/
theorem State.takeTrap_up (s : State) (k : Nat) {cause : Cause} (tval resume : Word) (hf : fateOf cause = .up)
    (hu : (s.slot k).upcallOk = true) :
    ∃ x, (s.slot k).SameVectors x ∧ s.takeTrap k cause tval resume false =
      (s.giveUp k).setSlot k { x.enterUser cause tval resume false with parkU := none } := by
  have hv := s.sameVectors_giveUp k
  refine ⟨(s.giveUp k).slot k, hv, ?_⟩
  simp [State.takeTrap, hf, hv.upcallOk, hu]

/-- Giving up an access leaves the slots. -/
theorem State.dropAccess_slots (s : State) (k wick : Nat) : (s.dropAccess k wick).slots = s.slots := by
  have hfold (l : List PeerReq) (u : State) : (l.foldl (fun (s : State) q =>
      (s.countRefusal (devOf k) (peerDev q)).settleRefusal (devOf k) (peerDev q) 1) u).slots = u.slots := by
    induction l generalizing u with
    | nil => rfl
    | cons r l ih =>
      obtain ⟨m, a, h⟩ := (u.countRefusal (devOf k) (peerDev r)).settleRefusal_frame (devOf k) (peerDev r) 1
      rw [List.foldl_cons, ih, h]
      rfl
  exact hfold _ _

/-- A slot at its upcall handler with the cause 0x92. -/
structure Slot.Upcalled (x : Slot) (uvec pc : Word) : Prop where
  handler : x.pc = uvec
  cause : x.ucause = 0x92
  resume : x.uepc = (pc &&& 0x01FFFFFFFFFFFFFC) ||| 1
  wait : x.wait = .none

theorem Slot.Upcalled.woken {x y : Slot} {uvec pc : Word} (h : x.Upcalled uvec pc) (hw : x.Woken y) :
    y.Upcalled uvec pc := by
  rcases hw with rfl | rfl
  · exact h
  · exact ⟨h.handler, h.cause, h.resume, rfl⟩

/-- A plain access given up raises 0x92 at its own pc (R279). -/
theorem State.abandonAccess_upcall {s : State} {q : PeerReq} (hh : s.holds q = true)
    (hr : (s.slot q.src).replying = true) (hu : (s.slot q.src).upcallOk = true) :
    ((s.abandonAccess q).slot q.src).Upcalled (s.slot q.src).uvec q.pc := by
  have hslot : (s.dropAccess q.src q.wick).slot q.src = s.slot q.src := by
    rw [State.slot, State.slot, State.dropAccess_slots]
  have hv : (s.slot q.src).SameVectors (((s.dropAccess q.src q.wick).accessUndone q.src).slot q.src) := by
    rw [State.accessUndone, State.slot_onSlot_self, hslot]
    exact (Slot.sameVectors_undone _).trans ⟨rfl, rfl, rfl⟩
  obtain ⟨x, hx, htrap⟩ := State.takeTrap_up _ q.src 0 q.pc (cause := 0x92) (by decide) (hv.upcallOk.trans hu)
  have hup : ({ x.enterUser 0x92 0 q.pc false with parkU := none } : Slot).Upcalled (s.slot q.src).uvec q.pc :=
    ⟨(hv.trans hx).uvec, rfl, rfl, rfl⟩
  rw [State.abandonAccess_eq, if_pos ⟨hh, hr⟩, State.trapAbandoned, htrap]
  rw [State.slot_wakeDev, State.slot_setSlot_self]
  exact hup.woken (Slot.woken_ite ..)

/-! ### The accesses of a peer that has left -/

/-- No request is on its way to a peer. -/
def State.NoAccess (s : State) : Prop := ∀ r, Event.peerAccess r ∉ s.agenda

theorem State.NoAccess.confined {src : Nat} {s t : State} (h : s.NoAccess) (hc : s.Confined src t) : t.NoAccess :=
  fun r hr => h r (hc.sends r hr)

/-- What giving up accesses leaves: the members. -/
theorem State.members_abandon (l : List PeerReq) (s : State) (d : Nat) :
    ((l.foldl (fun (s : State) q => s.abandonAccess q) s).mod d).members = (s.mod d).members := by
  induction l generalizing s with
  | nil => rfl
  | cons r l ih => exact (ih _).trans ((s.confined_abandonAccess r).members d)
/-- The other accesses given up leave an upcall of the slot as it is, and send nothing. -/
theorem State.upcalled_abandon {k : Nat} {uvec pc : Word} (l : List PeerReq) (s : State) (hn : s.NoAccess)
    (hu : (s.slot k).Upcalled uvec pc) :
    (l.foldl (fun (s : State) q => s.abandonAccess q) s).NoAccess ∧
      ((l.foldl (fun (s : State) q => s.abandonAccess q) s).slot k).Upcalled uvec pc := by
  induction l generalizing s with
  | nil => exact ⟨hn, hu⟩
  | cons r l ih =>
    have hc := s.confined_abandonAccess r
    refine ih (s.abandonAccess r) (hn.confined hc) ?_
    by_cases hr : r.src = k
    · have hsame : s.abandonAccess r = s := if_neg (by rw [hr]; simp [Slot.replying, hu.wait])
      rw [hsame]
      exact hu
    · exact hu.woken (hc.others k (Ne.symm hr))

/-- Where every request on its way is of one plain access, giving it up takes them all. -/
theorem State.noAccess_dropAccess {s : State} {k wick : Nat}
    (h : ∀ r, Event.peerAccess r ∈ s.agenda → ofAccess k wick r = true) : (s.dropAccess k wick).NoAccess := by
  have hdrop : (s.dropOutstanding (ofAccess k wick)).NoAccess := fun r hr => by
    obtain ⟨hmem, hkeep⟩ := List.mem_filter.mp hr
    simp [carries, carriedReq, h r hmem] at hkeep
  exact hdrop.confined (s.confined_dropAccess_rest 0 k wick)

/-- A module that a peer has left. -/
def Module.without (m : Module) (peer : Nat) : Module := { m with members := m.members.filter (fun d => decide (d ≠ peer)) }
/-- The state in which a peer's accesses are given up: it is no member, and its requests are taken out. -/
def State.parted (s : State) (dev peer : Nat) : State :=
  (s.onMod dev (fun m => m.without peer)).dropOutstanding (toPeer dev peer)

theorem State.leavePod_eq (s : State) (dev peer : Nat) : s.leavePod dev peer =
    (((s.outstanding (toPeer dev peer)).filter plainReply).foldl (fun (s : State) q => s.abandonAccess q)
      (s.parted dev peer)).postAll
      (((s.outstanding (toPeer dev peer)).filter (fun q => !plainReply q)).map (fun q => .peerRefusal q)) := rfl
/-- The peer is no member any more (R279). -/
theorem State.leavePod_isMember (s : State) {dev peer : Nat} (h : dev ≠ peer) :
    (s.leavePod dev peer).isMember dev peer = false := by
  have hm : ((s.leavePod dev peer).mod dev).members = (s.mod dev).members.filter (fun d => decide (d ≠ peer)) := by
    rw [State.leavePod_eq]
    refine (State.members_abandon _ _ dev).trans ?_
    exact congrArg Module.members (s.mod_onMod_self dev fun m => m.without peer)
  rw [State.isMember, hm]
  simp [Ne.symm h]
/-- A store that is outstanding at the peer counts as refused. -/
theorem State.leavePod_store {s : State} {dev peer : Nat} {q : PeerReq} (hq : toPeer dev peer q = true)
    (hk : q.kind = .store)
    (ha : Event.peerAccess q ∈ s.agenda) : Event.peerRefusal q ∈ (s.leavePod dev peer).agenda := by
  have hout : q ∈ s.outstanding (toPeer dev peer) := by
    refine List.mem_filter.mpr ⟨List.mem_append_left _ (List.mem_append_left _ ?_), hq⟩
    exact List.mem_filterMap.mpr ⟨_, List.mem_append_left _ ha, rfl⟩
  rw [State.leavePod_eq]
  exact List.mem_append_right _ (List.mem_map.mpr ⟨q, List.mem_filter.mpr ⟨hout, by simp [plainReply, hk]⟩, rfl⟩)

/-- A plain load outstanding at the peer raises 0x92 at its own pc, and every request of it is withdrawn (R279). -/
theorem State.leavePod_load {s : State} {dev peer : Nat} {q : PeerReq} {rest : List Event} (hq : toPeer dev peer q = true)
    (hk : q.kind = .load) (hf : q.flight = none) (ha : s.agenda = .peerAccess q :: rest)
    (hrest : ∀ e ∈ rest, ∃ r : PeerReq, e = .peerAccess r ∧ r.kind = .load ∧ r.flight = none ∧
      r.src = q.src ∧ r.wick = q.wick)
    (hh : s.holds q = true) (hw : (s.slot q.src).wait = .reply) (hu : (s.slot q.src).upcallOk = true) :
    ((s.leavePod dev peer).slot q.src).Upcalled (s.slot q.src).uvec q.pc ∧ (s.leavePod dev peer).NoAccess := by
  have hplain : plainReply q = true := by simp [plainReply, hk, hf]
  obtain ⟨others, hout⟩ : ∃ others, (s.outstanding (toPeer dev peer)).filter plainReply = q :: others := by
    unfold State.outstanding
    rw [ha]
    simp [carriedReq, hq, hplain]
  have hreq : ∀ r, Event.peerAccess r ∈ (s.parted dev peer).agenda → ofAccess q.src q.wick r = true := by
    intro r hr
    have hr' : Event.peerAccess r ∈ s.agenda := (List.mem_filter.mp hr).1
    rw [ha] at hr'
    rcases List.mem_cons.mp hr' with heq | hmem
    · cases heq
      simp [ofAccess, hplain]
    · obtain ⟨r', heq, hk', hf', hsrc, hwick⟩ := hrest _ hmem
      cases heq
      simp [ofAccess, plainReply, hk', hf', hsrc, hwick]
  have hocc : (s.slot q.src).occ = true := by
    simp only [State.holds, Bool.and_eq_true] at hh
    exact hh.1
  have hrep : (s.slot q.src).replying = true := by simp [Slot.replying, hocc, hw]
  have hup : (((s.parted dev peer).abandonAccess q).slot q.src).Upcalled (s.slot q.src).uvec q.pc :=
    State.abandonAccess_upcall (s := s.parted dev peer) hh hrep hu
  have hno : ((s.parted dev peer).abandonAccess q).NoAccess := by
    rw [State.abandonAccess_eq, if_pos ⟨hh, hrep⟩]
    exact (State.noAccess_dropAccess hreq).confined (State.confined_trapAbandoned ..)
  obtain ⟨hno', hup'⟩ := State.upcalled_abandon others _ hno hup
  rw [State.leavePod_eq, hout]
  refine ⟨hup', fun r hr => ?_⟩
  rcases List.mem_append.mp hr with h | h
  · exact hno' r h
  · simp at h

end Sys2Proof.Machine
end

section
/-!
SUPPORT. Membership (R273), and the settling of the peer events.
-/

namespace Sys2Proof.Machine

/-- A module with one member more (R273). -/
def Module.withMember (m : Module) (peer : Nat) : Module := { m with members := m.members ++ [peer] }
theorem State.isMember_withMember (s : State) (dev peer p : Nat) :
    (s.onMod dev (fun m => m.withMember peer)).isMember dev p = (s.isMember dev p || decide (p = peer)) := by
  unfold State.isMember
  rw [State.mod_onMod_self]
  simp [Module.withMember, Bool.or_assoc]
/-- A link that has been trained. -/
def State.trained (s : State) (dev peer : Nat) : State :=
  if s.isMember dev peer then s else s.onMod dev (fun m => m.withMember peer)
theorem exec_linkTrained (s : State) (dev peer : Nat) :
    exec .linkTrained (s.given (.linkTrained dev peer)) = .next ((s.given (.linkTrained dev peer)).trained dev peer) := rfl
theorem State.trained_isMember (s : State) (dev peer p : Nat) :
    (s.trained dev peer).isMember dev p = (s.isMember dev p || decide (p = peer)) := by
  unfold State.trained
  split
  next h =>
    by_cases hp : p = peer
    · subst hp; simp [h]
    · simp [hp]
  next => exact s.isMember_withMember dev peer p
theorem State.trained_mem_slots (s : State) (dev peer : Nat) :
    (s.trained dev peer).mem = s.mem ∧ (s.trained dev peer).slots = s.slots := by
  unfold State.trained
  split <;> exact ⟨rfl, rfl⟩

/-! ### The statement's requests -/

theorem toPeer_eq {dev peer : Nat} {q : PeerReq} (hs : devOf q.src = dev) (hb : bits q.pa 55 1 = 0)
    (hp : bits q.pa 49 6 = peer) :
    toPeer dev peer q = true := by
  simp [toPeer, hs, hb, peerDev, hp]
theorem isEngineReq_eq_false {q : PeerReq} (h : q.kind ≠ .store ∨ (q.v2 ≠ 2 ∧ q.v2 ≠ 3)) : isEngineReq q = false := by
  rcases h with h | ⟨h2, h3⟩
  · simp [isEngineReq, h]
  · simp [isEngineReq, h2, h3]

/-- An admitted request whose home is ready: what the statement says of it. -/
theorem peerArrival_ready {s : State} {q : PeerReq} (hn : 0 < q.n) (hd : peerDev q ≠ devOf q.src)
    (hok : s.home (2 ^ 30) q.pa = .ok) :
    let t := (s.given (.peerAccess q)).peerLands q
    (q.kind = .load → q.flight = none → s.holds q = true → s.readFault q.pa q.n = none →
      Event.accessComplete q.src q.dst (landValue q.dst q.n (s.loadHome q.pa q.n)) ∈ t.agenda ∧ t.mem = s.mem) ∧
    (q.kind = .store →
      (q.v2 ≠ 2 ∧ q.v2 ≠ 3 ∧ s.reserved q.pa q.n = false ∨ (q.v2 = 2 ∨ q.v2 = 3) ∧ isDram q.pa = false) →
      s.writeError q.pa q.n = none → Event.peerAck q ∈ t.agenda ∧
      ∀ a, t.byte a = (s.storeHome (2 ^ 30) q.pa q.n q.v).byte a) ∧
    (q.kind = .store → (q.v2 = 2 ∨ q.v2 = 3) → isDram q.pa = true → s.writeError q.pa q.n = none →
      Event.peerAck q ∈ t.agenda ∧ t.mem = s.mem ∧
      ∃ r, Event.lanternRequest (peerDev q) (bits q.pa 44 5) (bits q.pa 9 3) r ∈ t.agenda ∧ r.pa = q.pa ∧ r.store = true) ∧
    (∀ op, q.kind = .atomic op →
      (∀ dev so off, region q.pa = .dram dev so off → Event.lanternAtomic dev so (bits off 9 3) q ∈ t.agenda) ∧
      (isDram q.pa = false →
        ∃ r ∈ t.resv, r.word = (s.reservedWord q.pa q.n).getD (q.pa / 8) ∧ r.q.getLast? = some q) ∧ t.mem = s.mem) := by
  dsimp only
  rw [State.peerLands_ok (s := s.given (.peerAccess q)) hok]
  refine ⟨fun hk hf hh hr => ?_, fun hk h he => ?_, fun hk h23 hdr he => ?_, fun op hk => ⟨fun dev so off hr => ?_,
    fun hdr => ?_, ?_⟩⟩
  · have hval : s.loadHome q.pa q.n = (s.given (.peerAccess q)).loadHome q.pa q.n :=
      State.readN_of_mem (s := s) (t := s.given (.peerAccess q)) rfl ..
    rw [hval]
    exact State.peerPerform_load (s := s.given (.peerAccess q)) hk hf hh hr
  · obtain ⟨ha, hm⟩ := State.peerPerform_store (s := s.given (.peerAccess q)) hk hd h he
    have hm' := hm.trans (State.storeHome_mem_congr (s := s.given (.peerAccess q)) (u := s) rfl rfl ..)
    exact ⟨ha, fun a => by rw [State.byte, hm', State.byte]⟩
  · exact State.peerPerform_engineDram (s := s.given (.peerAccess q)) hk hn h23 hdr he
  · rw [State.peerPerform_atomicDram hk hr]
    exact List.mem_append_right _ (List.mem_singleton.mpr rfl)
  · rw [State.peerPerform_atomicQueued hk hdr]
    exact State.reserve_queued (s.given (.peerAccess q)) (peerDev q) q
  · exact State.peerPerform_atomic_mem (s := s.given (.peerAccess q)) hk

/-- Settles O46, clause by clause from the rules of the destination, the source and the membership. -/
theorem peerEvents : Obligations.PeerEvents := by
  unfold Obligations.PeerEvents
  refine ⟨?_, ?_, ?_, ?_, ?_, ?_⟩
  · intro s q hn d g bit hd
    by_cases hg : Claims.grants g q.pa q.n bit
    · refine ⟨_, exec_peerAccess_admitted hn hd hg, fun h => absurd hg h, fun _ hok => peerArrival_ready hn hd hok,
        fun _ hheld => ?_⟩
      rw [State.peerLands_held (s := s.given (.peerAccess q)) hheld]
      exact ⟨rfl, congrArg Die.router (Tab.get_put_self ..)⟩
    · refine ⟨_, exec_peerAccess_refused hn hd hg, fun _ => ?_, fun h => absurd h hg, fun h => absurd h hg⟩
      exact ⟨List.mem_append_right _ (List.mem_singleton.mpr rfl), State.refuse_mem .., State.refuse_slots ..,
        (s.given (.peerAccess q)).refuse_bit13 .., (s.given (.peerAccess q)).refuse_upper ..,
        (s.given (.peerAccess q)).refuse_dies _⟩
  · intro s q hk
    refine ⟨(s.given (.peerAck q)).acknowledged q, rfl, State.acknowledged_mem .., fun h2 h3 => ?_, fun o h23 ho he hv =>
      State.acknowledged_op (s := s.given (.peerAck q)) hk h23 ho he hv⟩
    rw [State.acknowledged_store h2 h3, State.storeSettled_slot]
    exact ⟨(s.given (.peerAck q)).storeStruck_peerOut q, (s.given (.peerAck q)).storeStruck_wait q,
      fun hv hf hh => (s.given (.peerAck q)).storeSettled_release q hv hf hh⟩
  · intro s q hq d m
    have he := isEngineReq_eq_false hq
    refine ⟨(s.given (.peerRefusal q)).refused q, rfl, State.refused_mem .., fun hh => ?_, fun hh => ?_, fun hk => ?_⟩
    · obtain ⟨hown, hlatch⟩ := State.refused_holds (s := s.given (.peerRefusal q)) he hh
      exact ⟨hown, hlatch, fun hk hf => State.refused_answer (s := s.given (.peerRefusal q)) hk hf hh⟩
    · exact State.refused_gone (s := s.given (.peerRefusal q)) he hh
    · exact State.refused_peerOut (s := s.given (.peerRefusal q)) he hk
  · intro s dev src
    refine ⟨(s.given (.fenceMarker dev src)).onGrant dev src (fun g => g.setFence false), rfl, rfl, fun i j => ?_⟩
    rw [State.grant_onGrant, Grant.getLsbD_setFence]
    rfl
  · intro s dev peer hne
    refine ⟨(s.given (.peerLeft dev peer)).leavePod dev peer, rfl, State.leavePod_mem .., State.leavePod_isMember _ hne,
      fun q hs hb hp => ⟨fun rest hk hf ha hrest _ hh hw hu => ?_, fun hk ha => ?_⟩⟩
    · obtain ⟨hup, hno⟩ := State.leavePod_load (s := s.given (.peerLeft dev peer))
        (toPeer_eq hs hb hp) hk hf ha hrest hh hw hu
      exact ⟨hup.handler, hup.cause, hup.resume, hno⟩
    · exact State.leavePod_store (s := s.given (.peerLeft dev peer)) (toPeer_eq hs hb hp) hk ha
  · intro s dev peer
    obtain ⟨hm, hs⟩ := (s.given (.linkTrained dev peer)).trained_mem_slots dev peer
    refine ⟨_, exec_linkTrained s dev peer, ?_, fun p hp => ?_, hm, hs⟩
    · rw [State.trained_isMember]; simp
    · rw [State.trained_isMember]; simp [hp]; rfl

end Sys2Proof.Machine
end
